-- ==== Sys2Proof/Word.lean ====
section
/-! DEFINITION. The word types of the KP9-512 and their plainest arithmetic (spec 00_scope, R4 and R5). -/

namespace Sys2Proof

/-- A byte, the unit every address counts (R5). -/
abbrev Byte := BitVec 8

/-- A 64-bit scalar register or memory word (R5). -/
abbrev Word := BitVec 64

/-- The number of a scalar register, s0 to s63 (R129). -/
abbrev SReg := BitVec 6

/-- The number of a handle register, h0 to h31 (R129). -/
abbrev HReg := BitVec 5

/-- A 256-bit handle (R34). -/
abbrev Handle := BitVec 256

/-- The low w bits of x, sign-extended to 64 bits (R144). -/
abbrev sext64 {w : Nat} (x : BitVec w) : Word := x.signExtend 64

/-- The low w bits of x, zero-extended to 64 bits (R144). -/
abbrev zext64 {w : Nat} (x : BitVec w) : Word := x.setWidth 64

end Sys2Proof
end

