-- ==== Sys2Proof/Machine/Flags.lean ====
section
/-! DEFINITION. The conditions and integer results that the control forms compute (09 R148, R149, R153; 10 R186, R188).
The machine has no flag register: a comparison writes 0 or 1 (R148), a branch tests its operands (R153). -/

namespace Sys2Proof.Machine
open Sys2Proof

/-- 1 for true, 0 for false (R148). -/
def boolWord (b : Bool) : Word := if b then 1 else 0

/-- The conditions of the six branches (R153). -/
def condEq (a b : Word) : Bool := a == b
def condNe (a b : Word) : Bool := a != b
def condLt (a b : Word) : Bool := a.slt b
def condGe (a b : Word) : Bool := !a.slt b
def condLtu (a b : Word) : Bool := a.ult b
def condGeu (a b : Word) : Bool := !a.ult b

/-- A shift or rotate amount: bits [5:0] (R148). -/
def shiftAmount (b : Word) : Nat := b.toNat % 64

/-- Leading zero bits, 64 for 0 (R148). -/
def leadingZeros (a : Word) : Nat := ((List.range 64).takeWhile (fun i => !a.getLsbD (63 - i))).length

/-- One bits (R148). -/
def oneBits (a : Word) : Nat := ((List.range 64).filter (fun i => a.getLsbD i)).length

/-- The high half of an exact product of two integers (R149). -/
def highHalf (x y : Int) : Word := BitVec.ofInt 64 (x * y / 2 ^ 64)

/-- The signed quotient of R149, truncated toward zero. -/
def quotSigned (a b : Word) : Word :=
  if b = 0 then BitVec.allOnes 64
  else if a = BitVec.intMin 64 ∧ b = BitVec.allOnes 64 then BitVec.intMin 64
  else BitVec.ofInt 64 (Int.tdiv a.toInt b.toInt)

/-- The signed remainder of R149, with the sign of the dividend. -/
def remSigned (a b : Word) : Word :=
  if b = 0 then a
  else if a = BitVec.intMin 64 ∧ b = BitVec.allOnes 64 then 0
  else BitVec.ofInt 64 (a.toInt - Int.tdiv a.toInt b.toInt * b.toInt)

/-- The unsigned quotient and remainder of R149. -/
def quotUnsigned (a b : Word) : Word := if b = 0 then BitVec.allOnes 64 else BitVec.ofNat 64 (a.toNat / b.toNat)
def remUnsigned (a b : Word) : Word := if b = 0 then a else BitVec.ofNat 64 (a.toNat % b.toNat)

/-- Signed and unsigned minimum and maximum of N-bit values (R148, R188). -/
def minSigned {w : Nat} (a b : BitVec w) : BitVec w := if b.slt a then b else a
def maxSigned {w : Nat} (a b : BitVec w) : BitVec w := if a.slt b then b else a
def minUnsigned {w : Nat} (a b : BitVec w) : BitVec w := if b.ult a then b else a
def maxUnsigned {w : Nat} (a b : BitVec w) : BitVec w := if a.ult b then b else a

/-- A semaphore after semadd and semsub: saturated at both ends (R186). -/
def semPlus (v : BitVec 32) (x : Nat) : BitVec 32 := BitVec.ofNat 32 (min (v.toNat + x) (2 ^ 32 - 1))
def semMinus (v : BitVec 32) (x : Nat) : BitVec 32 := BitVec.ofNat 32 (v.toNat - x)

/-- incw: 0 at or above the bound, else one more (R188). -/
def wrapIncrement {w : Nat} (old bound : BitVec w) : BitVec w := if bound.ule old then 0 else old + 1

/-- The new value of faddb and its refusal flag (R189). -/
def boundedAdd {w : Nat} (old x bound : BitVec w) : BitVec w × Bool :=
  if old.toNat + x.toNat ≤ bound.toNat then (BitVec.ofNat w (old.toNat + x.toNat), false) else (old, true)

end Sys2Proof.Machine
end

