-- ==== Sys2Proof/Machine/Formats.lean ====
section
/-! DEFINITION. The format tags of Table 4.1 (spec 04, R57) and what the tables of the spec say of each code. A format
is its 6-bit code; every function here is total on the 64 codes and answers 0 or false for a reserved one. -/

namespace Sys2Proof.Machine

/-- A format tag: the 6-bit code of Table 4.1. -/
abbrev Fmt := BitVec 6

/-- The kind column of Table 4.1, told apart as far as the rules do. -/
inductive FKind where
  | none
  | sint
  | uint
  | float
  | fp8
  | mx
  | hs
  | kb
  | accFloat
  | accInt
  | idx
  | reserved
  deriving DecidableEq, Repr

namespace Fm
/-- NONE. -/
abbrev none : Fmt := 0x00
abbrev s8 : Fmt := 0x01
abbrev s32 : Fmt := 0x03
abbrev s64 : Fmt := 0x04
abbrev z8 : Fmt := 0x05
abbrev z16 : Fmt := 0x06
abbrev z32 : Fmt := 0x07
abbrev z64 : Fmt := 0x08
abbrev fp32 : Fmt := 0x09
abbrev bf16 : Fmt := 0x0A
abbrev fp16 : Fmt := 0x0B
abbrev e4m3 : Fmt := 0x0C
abbrev e5m2 : Fmt := 0x0D
abbrev mxfp8e4 : Fmt := 0x10
abbrev mxfp8e5 : Fmt := 0x11
abbrev mxfp6e2 : Fmt := 0x12
abbrev mxfp6e3 : Fmt := 0x13
abbrev mxfp4 : Fmt := 0x14
abbrev mxint8 : Fmt := 0x15
abbrev hs4 : Fmt := 0x18
abbrev hs8 : Fmt := 0x19
abbrev kb3 : Fmt := 0x1C
abbrev kb5 : Fmt := 0x1D
abbrev kb8 : Fmt := 0x1E
abbrev a40 : Fmt := 0x20
abbrev i40 : Fmt := 0x21
abbrev idx16 : Fmt := 0x22
end Fm

/-- The kind of a code (Table 4.1). -/
def fmtKind (f : Fmt) : FKind :=
  match f.toNat with
  | 0x00 => .none
  | 0x01 | 0x02 | 0x03 | 0x04 => .sint
  | 0x05 | 0x06 | 0x07 | 0x08 => .uint
  | 0x09 | 0x0A | 0x0B => .float
  | 0x0C | 0x0D => .fp8
  | 0x10 | 0x11 | 0x12 | 0x13 | 0x14 | 0x15 => .mx
  | 0x18 | 0x19 => .hs
  | 0x1C | 0x1D | 0x1E => .kb
  | 0x20 => .accFloat
  | 0x21 => .accInt
  | 0x22 => .idx
  | _ => .reserved

/-- The width of one element in a register's data plane (Table 4.1), and 64 for A40 and I40; 0 for NONE. -/
def fmtWidth (f : Fmt) : Nat :=
  match f.toNat with
  | 0x01 | 0x05 | 0x0C | 0x0D | 0x10 | 0x11 | 0x15 | 0x19 | 0x1E => 8
  | 0x02 | 0x06 | 0x0A | 0x0B | 0x22 => 16
  | 0x03 | 0x07 | 0x09 => 32
  | 0x04 | 0x08 | 0x20 | 0x21 => 64
  | 0x12 | 0x13 => 6
  | 0x14 | 0x18 => 4
  | 0x1C => 3
  | 0x1D => 5
  | _ => 0

/-- The bits of an element that can be set: A40 and I40 leave [63:40] of their containers zero (R65). -/
def fmtBits (f : Fmt) : Nat := if f == Fm.a40 || f == Fm.i40 then 40 else fmtWidth f

/-- The elements one vector register holds (Table 4.1). -/
def fmtElems (f : Fmt) : Nat :=
  match f.toNat with
  | 0x01 | 0x05 | 0x0C | 0x0D | 0x10 | 0x11 | 0x12 | 0x13 | 0x15 | 0x19 | 0x1E => 2048
  | 0x02 | 0x06 | 0x0A | 0x0B | 0x22 => 1024
  | 0x03 | 0x07 | 0x09 => 512
  | 0x04 | 0x08 | 0x20 | 0x21 => 256
  | 0x14 | 0x18 | 0x1C => 4096
  | 0x1D => 3072
  | _ => 0

/-- A code that Table 4.1 does not list. -/
def fmtReserved (f : Fmt) : Bool := fmtKind f == .reserved

/-- The integer formats S8 to S64 and Z8 to Z64, written I (R201). -/
def fmtIsInt (f : Fmt) : Bool := fmtKind f == .sint || fmtKind f == .uint

/-- The float formats FP32, BF16 and FP16, written F (R201). -/
def fmtIsFloat (f : Fmt) : Bool := fmtKind f == .float

/-- The block formats: KB and MX (R68). -/
def fmtIsBlock (f : Fmt) : Bool := fmtKind f == .kb || fmtKind f == .mx

/-- Elements of one block: 16 for KB (R64), 32 for MX (R62), 1 for every other format. -/
def fmtBlock (f : Fmt) : Nat :=
  match fmtKind f with
  | .kb => 16
  | .mx => 32
  | _ => 1

/-- The formats whose elements a scalar access reaches: whole bytes, no block, no NONE (R159). -/
def fmtIsScalar (f : Fmt) : Bool := !fmtIsBlock f && fmtWidth f ≥ 8

end Sys2Proof.Machine
end

