-- ==== Sys2Proof/Machine/Numbers.lean ====
section
/-! DEFINITION. The values of the number formats, rounding, conversion, and arithmetic that rounds once (04 R57 to R73,
R81). A finite value is an exact dyadic number; a quotient is rounded from its exact fraction. -/

namespace Sys2Proof.Machine
open Sys2Proof

/-! ### Values -/

/-- The value of an element: NaN, an infinity, or (-1)^neg × m × 2^e; a zero keeps its sign. -/
inductive Val where
  | nan
  | inf (neg : Bool)
  | num (neg : Bool) (m : Nat) (e : Int)
  deriving DecidableEq, Repr

/-- A positive zero. -/
def Val.zero : Val := .num false 0 0

/-- An integer as a value. -/
def Val.ofInt (i : Int) : Val := .num (i < 0) i.natAbs 0

/-- A two's-complement code of w bits as an integer. -/
def signedOf (w x : Nat) : Int := if 2 ^ (w - 1) ≤ x % 2 ^ w then (x % 2 ^ w : Int) - 2 ^ w else (x % 2 ^ w : Int)

/-- The w-bit two's-complement code of an integer. -/
def codeOf (w : Nat) (i : Int) : Nat := (i % (2 ^ w : Int)).toNat

/-! ### Float layouts (Table 4.2) -/

/-- A float layout: exponent and fraction bits, bias, the largest finite magnitude code, the codes of infinity and of the
canonical NaN. -/
structure FloatFmt where
  ebits : Nat
  fbits : Nat
  bias : Nat
  maxCode : Nat
  inf : Option Nat
  nan : Option Nat
  deriving DecidableEq, Repr

/-- A layout with infinities in the IEEE manner. -/
def ieee (ebits fbits bias : Nat) : FloatFmt :=
  let top := (2 ^ ebits - 1) * 2 ^ fbits
  { ebits := ebits, fbits := fbits, bias := bias, maxCode := top - 1, inf := some top, nan := some (top + 2 ^ (fbits - 1)) }

def fp32 : FloatFmt := ieee 8 23 127
def bf16 : FloatFmt := ieee 8 7 127
def fp16 : FloatFmt := ieee 5 10 15
def e5m2 : FloatFmt := ieee 5 2 15
def a40 : FloatFmt := ieee 8 31 127
/-- E4M3 has no infinity, and NaN is the one code of all ones. -/
def e4m3 : FloatFmt := { ebits := 4, fbits := 3, bias := 7, maxCode := 0x7E, inf := none, nan := some 0x7F }
def e2m3 : FloatFmt := { ebits := 2, fbits := 3, bias := 1, maxCode := 0x1F, inf := none, nan := none }
def e3m2 : FloatFmt := { ebits := 3, fbits := 2, bias := 3, maxCode := 0x1F, inf := none, nan := none }
def e2m1 : FloatFmt := { ebits := 2, fbits := 1, bias := 1, maxCode := 0x7, inf := none, nan := none }

/-- The layout of a scalar float format; of an MX format, that of its elements. -/
def floatOf (f : Fmt) : Option FloatFmt :=
  match f.toNat with
  | 0x09 => some fp32
  | 0x0A => some bf16
  | 0x0B => some fp16
  | 0x0C | 0x10 => some e4m3
  | 0x0D | 0x11 => some e5m2
  | 0x12 => some e2m3
  | 0x13 => some e3m2
  | 0x14 => some e2m1
  | 0x20 => some a40
  | _ => none

/-- Bits of a layout. -/
def FloatFmt.width (F : FloatFmt) : Nat := 1 + F.ebits + F.fbits

/-- Exponent of the spacing of subnormals. -/
def FloatFmt.qmin (F : FloatFmt) : Int := 1 - (F.bias : Int) - F.fbits

/-- The value of a code (R60). -/
def FloatFmt.value (F : FloatFmt) (bits : Nat) : Val :=
  let k := F.ebits + F.fbits
  let neg := bits / 2 ^ k % 2 == 1
  let code := bits % 2 ^ k
  let frac := code % 2 ^ F.fbits
  let ex := code / 2 ^ F.fbits
  if F.inf == some code then .inf neg
  else if F.maxCode < code then .nan
  else if ex = 0 then .num neg frac F.qmin
  else .num neg (2 ^ F.fbits + frac) (F.qmin + (ex : Int) - 1)

/-- The bits of a sign and a magnitude code. -/
def FloatFmt.bits (F : FloatFmt) (neg : Bool) (code : Nat) : Nat := (if neg then 2 ^ (F.ebits + F.fbits) else 0) + code

/-- The canonical NaN (R61); a layout without NaN never meets one. -/
def FloatFmt.nanBits (F : FloatFmt) : Nat := F.nan.getD 0

/-! ### Rounding (R69, R144) -/

/-- The rounding modes of R69: 0 rne, 1 rtz, 2 rup, 3 rdn, 4 rna. -/
abbrev Rm := Nat

/-- The magnitude num / den of a value with a sign, rounded to an integer. -/
def roundMag (rm : Rm) (neg : Bool) (num den : Nat) : Nat :=
  let q := num / den
  let r := num % den
  let up := match rm with
    | 0 => den < 2 * r || (den == 2 * r && q % 2 == 1)
    | 1 => false
    | 2 => r != 0 && !neg
    | 3 => r != 0 && neg
    | _ => den ≤ 2 * r
  if up then q + 1 else q

/-- The magnitude num / den × 2^e rounded to an integer. -/
def roundScaled (rm : Rm) (neg : Bool) (num den : Nat) (e : Int) : Nat :=
  if 0 ≤ e then roundMag rm neg (num * 2 ^ e.toNat) den else roundMag rm neg num (den * 2 ^ (-e).toNat)

/-- The floor of log2 (num / den), for num and den above 0. -/
def log2Frac (num den : Nat) : Int :=
  let k : Int := (Nat.log2 num : Int) - (Nat.log2 den : Int)
  let ge := if 0 ≤ k then den * 2 ^ k.toNat ≤ num else den ≤ num * 2 ^ (-k).toNat
  if ge then k else k - 1

/-- round of R144: the magnitude num / den × 2^e on the grid of a layout, subnormal spacing included, with no upper bound:
a multiple n of 2^q. -/
def FloatFmt.roundTo (F : FloatFmt) (rm : Rm) (neg : Bool) (num den : Nat) (e : Int) : Nat × Int :=
  if num = 0 then (0, F.qmin)
  else
    let q := max (log2Frac num den + e - F.fbits) F.qmin
    (roundScaled rm neg num den (e - q), q)

/-- The magnitude code of n × 2^q, with n at most 2^(fbits + 1): it passes maxCode where the value leaves the finite range. -/
def FloatFmt.codeFor (F : FloatFmt) (n : Nat) (q : Int) : Nat :=
  if n < 2 ^ F.fbits then n else ((q - F.qmin).toNat + 1) * 2 ^ F.fbits + (n - 2 ^ F.fbits)

/-- Round to a layout, and saturate to the largest finite value (R70). -/
def FloatFmt.roundSat (F : FloatFmt) (rm : Rm) (neg : Bool) (num den : Nat) (e : Int) : Nat :=
  let p := F.roundTo rm neg num den e
  F.bits neg (min (F.codeFor p.1 p.2) F.maxCode)

/-- Round to a layout, and overflow as IEEE 754 says for the mode (R202). -/
def FloatFmt.roundIeee (F : FloatFmt) (rm : Rm) (neg : Bool) (num den : Nat) (e : Int) : Nat :=
  let p := F.roundTo rm neg num den e
  let c := F.codeFor p.1 p.2
  if c ≤ F.maxCode then F.bits neg c
  else
    let toInf := match rm with
      | 1 => false
      | 2 => !neg
      | 3 => neg
      | _ => true
    F.bits neg (if toInf then F.inf.getD F.maxCode else F.maxCode)

/-- A value in a layout with infinities, rounded once (R202). -/
def FloatFmt.ofVal (F : FloatFmt) (rm : Rm) (v : Val) : Nat :=
  match v with
  | .nan => F.nanBits
  | .inf neg => F.bits neg (F.inf.getD F.maxCode)
  | .num neg m e => F.roundIeee rm neg m 1 e

/-! ### Exact arithmetic -/

/-- A finite magnitude as a multiple of 2^e0, for e0 at most e. -/
def scaleTo (m : Nat) (e e0 : Int) : Nat := m * 2 ^ (e - e0).toNat

/-- The exact sum of two values; an exact zero of opposite signs is +0, or −0 under rdn (R73). -/
def Val.add (rm : Rm) (a b : Val) : Val :=
  match a, b with
  | .nan, _ => .nan
  | _, .nan => .nan
  | .inf s, .inf t => if s == t then .inf s else .nan
  | .inf s, .num .. => .inf s
  | .num .., .inf t => .inf t
  | .num s m e, .num t n f =>
    let e0 := min e f
    let x : Int := (if s then -1 else 1) * (scaleTo m e e0 : Int) + (if t then -1 else 1) * (scaleTo n f e0 : Int)
    if x = 0 then .num (if m = 0 ∧ n = 0 ∧ s = t then s else rm == 3) 0 0
    else .num (x < 0) x.natAbs e0

def Val.neg : Val → Val
  | .nan => .nan
  | .inf s => .inf !s
  | .num s m e => .num (!s) m e

def Val.abs : Val → Val
  | .nan => .nan
  | .inf _ => .inf false
  | .num _ m e => .num false m e

/-- The exact product (R61). -/
def Val.mul (a b : Val) : Val :=
  match a, b with
  | .nan, _ => .nan
  | _, .nan => .nan
  | .inf s, .inf t => .inf (s != t)
  | .inf s, .num t n _ => if n = 0 then .nan else .inf (s != t)
  | .num s m _, .inf t => if m = 0 then .nan else .inf (s != t)
  | .num s m e, .num t n f => .num (s != t) (m * n) (e + f)

/-- Compare two values that are no NaN: -1, 0 or 1; the zeros are equal. -/
def Val.cmp (a b : Val) : Int :=
  match a, b with
  | .inf s, .inf t => if s == t then 0 else if s then -1 else 1
  | .inf s, _ => if s then -1 else 1
  | _, .inf t => if t then 1 else -1
  | .num s m e, .num t n f =>
    let e0 := min e f
    let x : Int := (if s then -1 else 1) * (scaleTo m e e0 : Int) - (if t then -1 else 1) * (scaleTo n f e0 : Int)
    if x < 0 then -1 else if x = 0 then 0 else 1
  | _, _ => 0

def Val.isNan : Val → Bool
  | .nan => true
  | _ => false

/-- The sign of a value. -/
def Val.sign : Val → Bool
  | .nan => false
  | .inf s => s
  | .num s _ _ => s

/-- The smaller of two values: a NaN operand gives NaN, −0 is below +0 (R202). -/
def Val.min (a b : Val) : Val :=
  if a.isNan || b.isNan then .nan
  else if a.cmp b < 0 then a else if 0 < a.cmp b then b else if a.sign then a else b

def Val.max (a b : Val) : Val :=
  if a.isNan || b.isNan then .nan
  else if a.cmp b < 0 then b else if 0 < a.cmp b then a else if a.sign then b else a

/-- Quotient of two values in a layout, rounded once; 0 ÷ 0 and ∞ ÷ ∞ are invalid (R61, R202). -/
def FloatFmt.div (F : FloatFmt) (rm : Rm) (a b : Val) : Nat :=
  match a, b with
  | .nan, _ => F.nanBits
  | _, .nan => F.nanBits
  | .inf _, .inf _ => F.nanBits
  | .inf s, .num t _ _ => F.ofVal rm (.inf (s != t))
  | .num s _ _, .inf t => F.bits (s != t) 0
  | .num s m e, .num t n f =>
    if n = 0 then (if m = 0 then F.nanBits else F.ofVal rm (.inf (s != t)))
    else F.roundIeee rm (s != t) m n (e - f)

/-- Integer square root, by its bits from the k-th down. -/
def isqrtFrom (x r : Nat) : Nat → Nat
  | 0 => r
  | k + 1 => if (r + 2 ^ k) * (r + 2 ^ k) ≤ x then isqrtFrom x (r + 2 ^ k) k else isqrtFrom x r k

/-- The floor of the square root. -/
def isqrt (x : Nat) : Nat := isqrtFrom x 0 (Nat.log2 x / 2 + 1)

/-- The square root of m / d × 2^e to 80 bits and more, with a last bit that says whether it is inexact: a numerator and an
exponent. -/
def sqrtSticky (m d : Nat) (e : Int) : Nat × Int :=
  let e' := if e % 2 = 0 then e else e - 1
  let m' := if e % 2 = 0 then m else 2 * m
  let x := m' * 2 ^ 400 / d
  let r := isqrt x
  (2 * r + (if r * r = x ∧ x * d = m' * 2 ^ 400 then 0 else 1), e' / 2 - 201)

/-- Square root in a layout (R61, R202). -/
def FloatFmt.sqrt (F : FloatFmt) (rm : Rm) (a : Val) : Nat :=
  match a with
  | .nan => F.nanBits
  | .inf s => if s then F.nanBits else F.ofVal rm a
  | .num s m e =>
    if m = 0 then F.bits s 0
    else if s then F.nanBits
    else let p := sqrtSticky m 1 e; F.roundIeee rm false p.1 1 p.2

/-- Reciprocal square root in a layout (Table 11.3). -/
def FloatFmt.rsqrt (F : FloatFmt) (rm : Rm) (a : Val) : Nat :=
  match a with
  | .nan => F.nanBits
  | .inf s => if s then F.nanBits else F.bits false 0
  | .num s m e =>
    if m = 0 then F.ofVal rm (.inf s)
    else if s then F.nanBits
    else let p := sqrtSticky 1 m (-e); F.roundIeee rm false p.1 1 p.2

/-! ### Elements as values -/

/-- The value of a scalar element of a format (R59 to R65). -/
def scalarValue (f : Fmt) (bits : Nat) : Val :=
  match fmtKind f with
  | .sint => .ofInt (signedOf (fmtWidth f) bits)
  | .uint | .idx => .num false (bits % 2 ^ fmtWidth f) 0
  | .hs => let x := 2 * signedOf (fmtWidth f) bits + 1; .num (x < 0) x.natAbs (-1)
  | .accInt => .ofInt (signedOf 40 bits)
  | .accFloat => a40.value (bits % 2 ^ 40)
  | .float | .fp8 => match floatOf f with
    | some F => F.value bits
    | none => .nan
  | _ => .nan

/-- Magnitude bits of a KB element (R64). -/
def kbBits (f : Fmt) : Nat := fmtWidth f - 1

/-- The value of an element of a block format under its header: E and G, or X (R62, R64). -/
def blockValue (f : Fmt) (hdr bits : Nat) : Val :=
  match fmtKind f with
  | .kb =>
    let e := hdr % 256
    let g := hdr / 256 % 256
    let m := kbBits f
    if e = 0xFF then .nan
    else .num (bits / 2 ^ m % 2 == 1) (bits % 2 ^ m * (256 + g)) ((e : Int) - 135 - (m - 1))
  | .mx =>
    let x : Int := hdr % 256
    if hdr % 256 = 0xFF then .nan
    else if f == Fm.mxint8 then (let i := signedOf 8 bits; .num (i < 0) i.natAbs (-6 + x - 127))
    else match floatOf f with
      | some F => match F.value bits with
        | .num s m e => .num s m (e + x - 127)
        | v => v
      | none => .nan
  | _ => scalarValue f bits

/-! ### Conversion (R70 to R72) -/

/-- The bounds of an integer format. -/
def intBounds (f : Fmt) : Int × Int :=
  let w := fmtWidth f
  if fmtKind f == .sint || fmtKind f == .hs then (-(2 ^ (w - 1) : Int), 2 ^ (w - 1) - 1) else (0, 2 ^ w - 1)

/-- An integer clamped to bounds. -/
def clampInt (lo hi i : Int) : Int := if i < lo then lo else if hi < i then hi else i

/-- A finite value rounded to an integer. -/
def roundToInt (rm : Rm) (neg : Bool) (m : Nat) (e : Int) : Int :=
  let n : Int := roundScaled rm neg m 1 e
  if neg then -n else n

/-- An integer into a format: wrapped or saturated. -/
def intCode (f : Fmt) (wrap : Bool) (i : Int) : Nat :=
  let b := intBounds f
  codeOf (fmtWidth f) (if wrap then i else clampInt b.1 b.2 i)

/-- A value in a float layout as convert has it: NaN, infinity where the layout has one, the largest finite value
otherwise (R70). -/
def FloatFmt.convert (F : FloatFmt) (rm : Rm) (v : Val) : Nat :=
  match v with
  | .nan => F.nanBits
  | .inf neg => F.bits neg (F.inf.getD F.maxCode)
  | .num neg m e => F.roundSat rm neg m 1 e

/-- convert of R70 to a scalar format. -/
def convert (f : Fmt) (rm : Rm) (wrap : Bool) (v : Val) : Nat :=
  match fmtKind f with
  | .sint | .uint | .idx => match v with
    | .nan => 0
    | .inf neg => codeOf (fmtWidth f) (if neg then (intBounds f).1 else (intBounds f).2)
    | .num neg m e => intCode f wrap (roundToInt rm neg m e)
  | .hs => match v with
    | .nan => 0
    | .inf neg => codeOf (fmtWidth f) (if neg then (intBounds f).1 else (intBounds f).2)
    | v => match v.add 0 (.num true 1 (-1)) with
      | .num neg m e => intCode f false (roundToInt rm neg m e)
      | _ => 0
  | .accInt => match v with
    | .num neg m e => codeOf 40 (clampInt (-(2 ^ 39)) (2 ^ 39 - 1) (roundToInt rm neg m e))
    | .inf neg => codeOf 40 (if neg then -(2 ^ 39) else 2 ^ 39 - 1)
    | .nan => 0
  | _ => match floatOf f with
    | some F => F.convert rm v
    | none => 0

/-- The largest finite magnitude among some values: a numerator and an exponent, 0 where there is none. -/
def amax (l : List Val) : Nat × Int :=
  l.foldl (fun p v => match v with
    | .num _ m e => if (Val.num false p.1 p.2).cmp (.num false m e) < 0 then (m, e) else p
    | _ => p) (0, 0)

/-- emax of an MX element format (R71). -/
def mxEmax (f : Fmt) : Int :=
  match f.toNat with
  | 0x10 => 8
  | 0x11 => 15
  | 0x12 => 2
  | 0x13 => 4
  | 0x14 => 2
  | _ => 0

/-- Conversion into an MX block: the header and the codes (R71). -/
def convertMx (f : Fmt) (rm : Rm) (l : List Val) : Nat × List Nat :=
  if l.any Val.isNan then (0xFF, l.map (fun _ => 0))
  else
    let a := amax l
    let x := if a.1 = 0 then 0 else (clampInt 0 254 ((Nat.log2 a.1 : Int) + a.2 - mxEmax f + 127)).toNat
    let one (v : Val) : Nat :=
      let u := match v with | .num s m e => Val.num s m (e - (x : Int) + 127) | v => v
      if f == Fm.mxint8 then
        (match u with
          | .num s m e => codeOf 8 (clampInt (-128) 127 (roundToInt rm s m (e + 6)))
          | .inf s => if s then 0x80 else 0x7F
          | .nan => 0)
      else match floatOf f with | some F => F.convert rm u | none => 0
    (x, l.map one)

/-- Conversion into a KB block: the header E + 256 G and the codes (R72). -/
def convertKb (f : Fmt) (rm : Rm) (l : List Val) : Nat × List Nat :=
  let m := kbBits f
  if l.any Val.isNan then (0xFF, l.map (fun _ => 0))
  else
    let a := amax l
    let top := 2 ^ m - 1
    -- S* = num / top × 2^ex
    let num := a.1 * 2 ^ (m - 1)
    let h : Nat × Nat :=
      if a.1 = 0 then (0, 0)
      else
        let e := (clampInt 0 254 (log2Frac num top + a.2 + 127)).toNat
        -- g = ceil ((S* / 2^(e - 127) - 1) × 256)
        let k := a.2 - ((e : Int) - 127)
        let g : Int := (if 0 ≤ k then ((num * 2 ^ k.toNat * 256 + top - 1) / top : Nat)
          else ((num * 256 + top * 2 ^ (-k).toNat - 1) / (top * 2 ^ (-k).toNat) : Nat)) - 256
        if g = 256 ∧ e < 254 then (e + 1, 0) else (e, (clampInt 0 255 g).toNat)
    let one (v : Val) : Nat :=
      match v with
      | .num s x ex =>
        -- x × 2^(m-1) / S, with S = (256 + G) × 2^(E - 135)
        let q := roundScaled rm s (x * 2 ^ (m - 1)) (256 + h.2) (ex - ((h.1 : Int) - 135))
        (if s then 2 ^ m else 0) + min q top
      | .inf s => (if s then 2 ^ m else 0) + top
      | .nan => 0
    (h.1 + 256 * h.2, l.map one)

/-- Conversion of a whole block (R71, R72). -/
def convertBlock (f : Fmt) (rm : Rm) (l : List Val) : Nat × List Nat :=
  if fmtKind f == .kb then convertKb f rm l else convertMx f rm l

/-! ### Operations on elements of one format -/

/-- A float operation of two elements. -/
def floatOp2 (f : Fmt) (rm : Rm) (op : Val → Val → Val) (a b : Nat) : Nat :=
  match floatOf f with
  | some F => F.ofVal rm (op (F.value a) (F.value b))
  | none => 0

/-- Addition with the zero sign of R73: −0 only when both addends are negative zeros. -/
def Val.addFold (a b : Val) : Val := a.add 0 b

/-- The fold of a REDUCE policy on two elements of one format (R49): 2 sum, 3 maximum, 4 minimum. An integer sum
saturates, a float sum rounds to nearest even. -/
def reduceOp (f : Fmt) (policy : BitVec 4) (a b : Nat) : Nat :=
  let w := fmtWidth f
  let pick (lo hi x y : Int) : Int := if policy == 2 then clampInt lo hi (x + y) else if policy == 3 then max x y else min x y
  match fmtKind f with
  | .sint => codeOf w (pick (intBounds f).1 (intBounds f).2 (signedOf w a) (signedOf w b))
  | .uint | .idx => codeOf w (pick (intBounds f).1 (intBounds f).2 (a % 2 ^ w) (b % 2 ^ w))
  | .accInt => codeOf 40 (pick (-(2 ^ 39)) (2 ^ 39 - 1) (signedOf 40 a) (signedOf 40 b))
  | _ => floatOp2 f 0 (fun x y => if policy == 2 then x.addFold y else if policy == 3 then x.max y else x.min y) a b

/-! ### The counter-based generator (R81) -/

/-- Ten rounds of KRNG. -/
def krngRounds (x0 x1 x2 x3 k0 k1 : BitVec 32) : Nat → BitVec 32
  | 0 => x0 ^^^ x2
  | n + 1 =>
    let x0 := x0 + x1
    let x3 := (x3 ^^^ x0).rotateLeft 16
    let x2 := x2 + x3
    let x1 := (x1 ^^^ x2).rotateLeft 12
    let x0 := x0 + x1 + k0
    let x3 := (x3 ^^^ x0).rotateLeft 8
    let x2 := x2 + x3 + k1
    let x1 := (x1 ^^^ x2).rotateLeft 7
    krngRounds x0 x1 x2 x3 (k0 + 0x9E3779B9) (k1 + 0xBB67AE85) n

def krng (k : Word) (t : BitVec 32) (g0 g1 g2 g3 : Nat) : BitVec 32 :=
  krngRounds (BitVec.ofNat 32 g0) (BitVec.ofNat 32 g1) (BitVec.ofNat 32 g2) (BitVec.ofNat 32 g3)
    (k.extractLsb' 0 32 ^^^ t) (k.extractLsb' 32 32) 10

end Sys2Proof.Machine
end

