-- ==== Sys2Proof/Syntax.lean ====
section
/-! DEFINITION. The instruction set of the KP9-512: one constructor for each row of the opcode table. Control words
(08 R128 to R134, 09, 10, 18), vector words (08 R135 to R137, 11), engine records (08 R138 to R141, 12) and the device
steps that have no word of their own (95). -/

namespace Sys2Proof

/-- The fields of a C-M word (R128): register D/S, handle H, index register IDX, class, scope, size. -/
structure CMem where
  r : SReg
  h : HReg
  idx : SReg
  cls : BitVec 4
  sc : BitVec 3
  sz : BitVec 2
  deriving DecidableEq, Repr

/-- The fields of an atomic, a reduction or faddb (R188): F8 and EXT taken apart. -/
structure Amo where
  d : SReg
  a : SReg
  b : SReg
  h : HReg
  idx : SReg
  cls : BitVec 4
  sc : BitVec 3
  sz : BitVec 2
  acq : Bool
  rel : Bool
  deriving DecidableEq, Repr

/-- The fields of st.g (R192). -/
structure StG where
  s : SReg
  a : SReg
  h : HReg
  idx : SReg
  cls : BitVec 4
  sz : BitVec 2
  deriving DecidableEq, Repr

/-- The fields of a vector word but for OP (Table 8.5): VD, VA, VB, VC, K, CLS, FMT, RM and FLG. -/
structure VWord where
  d : BitVec 9
  a : BitVec 9
  b : BitVec 9
  c : BitVec 9
  k : BitVec 4
  cls : BitVec 4
  fmt : BitVec 6
  rm : BitVec 3
  flg : BitVec 3
  deriving DecidableEq, Repr

/-- The fields of an engine record but for KIND: word 0 (Table 8.7), the loop words, the four operand references
(Table 8.9) and word 7. -/
structure RecWord where
  prof : BitVec 4
  shape : BitVec 4
  wsem : BitVec 8
  ssem : BitVec 8
  wthr : BitVec 16
  shp : Bool
  rel : Bool
  clr : Bool
  wrap : Bool
  scope : BitVec 3
  sig : Bool
  kflags : BitVec 8
  l1 : BitVec 64
  l2 : BitVec 64
  l3 : BitVec 64
  l4 : BitVec 64
  o0 : BitVec 32
  o1 : BitVec 32
  o2 : BitVec 32
  o3 : BitVec 32
  w7 : BitVec 64
  deriving DecidableEq, Repr

/-- The two engines that run records (R141). -/
inductive Engine where
  | matrix
  | copy
  deriving DecidableEq, Repr

/-- The three streams of a task whose accesses translate (R309): control, vector, and an engine's records. -/
inductive Stream where
  | control
  | vector
  | matrix
  | copy
  deriving DecidableEq, Repr

/-- What the error-correcting code finds in the words of one access (R336). -/
inductive Ecc where
  | clean
  | corrected
  | uncorrectable
  deriving DecidableEq, Repr

/-- The storage units of a core that are saved one at a time (R303). -/
inductive StorageUnit where
  | scratch (block : Nat)
  | vregs (group : Nat)
  | tiles (group : Nat)
  | codebook (slot : Nat)
  | vector
  | matrix
  | copy
  deriving DecidableEq, Repr

/-- What the management cores load for a supervisor launch (R267): the header, the bytes they write at physical
addresses, the frames they take with their granules, and the physical address of the level-1 table they built. -/
structure LoadImage where
  header : List Byte
  writes : List (Nat × List Byte)
  frames : List (Nat × Nat)
  l1 : Nat
  deriving DecidableEq, Repr

/-- What ROM finds on a root port (R356): no device, a device without a readable image set, or the images of a set. -/
inductive RootPort where
  | noDevice
  | unreadable
  | set (images : List (List Byte))
  deriving DecidableEq, Repr

/-- What a start finds (R356): whether ROM's self-test passes, the two root ports, whether the dies leave reset, the stacks and channels whose
training fails, and whether a log device is reachable. -/
structure StartInput where
  romOk : Bool
  port0 : RootPort
  port1 : RootPort
  diesOk : Bool
  untrained : List (Nat × Nat)
  logDevice : Bool
  deriving DecidableEq, Repr

/-- The image set that ROM reads: through root port 0, or through port 1 when port 0 finds no device. -/
def StartInput.images (x : StartInput) : Option (List (List Byte)) :=
  match x.port0, x.port1 with
  | .set l, _ | .noDevice, .set l => some l
  | _, _ => none

/-- One access of the host port to partition memory (R351): a read of so many bytes, or a write. -/
inductive HostAccess where
  | read (len : Nat)
  | write (bytes : List Byte)
  deriving DecidableEq, Repr

/-- The register blocks that REGISTER_WRITE reaches (R6): the host registers of a function (Table 22.2), the
containment block of a die (Table 21.5), the classifier block of a stack (Table 20.7), the bring-up block, and the route
table of a partition (R354). -/
inductive RegBlock where
  | host (vf : Nat)
  | containment (die : Nat)
  | classifier (die : Nat)
  | bringUp
  | routes (part : Nat)
  deriving DecidableEq, Repr

/-- One instruction or device step: a row of the opcode table. -/
inductive Instr where
  -- Integer ALU (R148).
  | add (d a b : SReg)
  | sub (d a b : SReg)
  | and (d a b : SReg)
  | or (d a b : SReg)
  | xor (d a b : SReg)
  | andn (d a b : SReg)
  | sll (d a b : SReg)
  | srl (d a b : SReg)
  | sra (d a b : SReg)
  | rotl (d a b : SReg)
  | slt (d a b : SReg)
  | sltu (d a b : SReg)
  | min (d a b : SReg)
  | max (d a b : SReg)
  | minu (d a b : SReg)
  | maxu (d a b : SReg)
  | clz (d a : SReg)
  | popc (d a : SReg)
  -- Multiply and divide (R149).
  | mul (d a b : SReg)
  | mulh (d a b : SReg)
  | mulhu (d a b : SReg)
  | mulhsu (d a b : SReg)
  | div (d a b : SReg)
  | divu (d a b : SReg)
  | rem (d a b : SReg)
  | remu (d a b : SReg)
  -- Immediate ALU (R150).
  | addi (d a : SReg) (imm : BitVec 14)
  | andi (d a : SReg) (imm : BitVec 14)
  | ori (d a : SReg) (imm : BitVec 14)
  | xori (d a : SReg) (imm : BitVec 14)
  | slti (d a : SReg) (imm : BitVec 14)
  | sltiu (d a : SReg) (imm : BitVec 14)
  -- Immediate shifts (R151).
  | slli (d a : SReg) (n : BitVec 6)
  | srli (d a : SReg) (n : BitVec 6)
  | srai (d a : SReg) (n : BitVec 6)
  | rotli (d a : SReg) (n : BitVec 6)
  -- Wide immediates (R152).
  | li (d : SReg) (ext : BitVec 32)
  | liu (d : SReg) (ext : BitVec 32)
  | lih (d a : SReg) (ext : BitVec 32)
  -- Frame access (R158).
  | ldf (d a : SReg) (off : BitVec 11)
  | ldfHandle (d : HReg) (a : SReg) (off : BitVec 11)
  | stf (d a : SReg) (off : BitVec 11)
  | stfHandle (d : HReg) (a : SReg) (off : BitVec 11)
  -- Box loads and stores (R159).
  | ldS (m : CMem)
  | ldZ (m : CMem)
  | st (m : CMem)
  | ldAcqS (m : CMem)
  | ldAcqZ (m : CMem)
  | stRel (m : CMem)
  -- Branches and the hardware loop (R153, R155).
  | beq (a b : SReg) (off : BitVec 14)
  | bne (a b : SReg) (off : BitVec 14)
  | blt (a b : SReg) (off : BitVec 14)
  | bge (a b : SReg) (off : BitVec 14)
  | bltu (a b : SReg) (off : BitVec 14)
  | bgeu (a b : SReg) (off : BitVec 14)
  | loop (a b : SReg) (off : BitVec 14)
  -- Jumps (R154).
  | jal (d : SReg) (off : BitVec 20)
  | jalr (d a : SReg) (imm : BitVec 14)
  -- Shape read (R157).
  | shpld (d a : SReg) (shape : BitVec 8) (entry : BitVec 6)
  -- Counters (R163).
  | rdcyc (d : SReg)
  | rdtick (d : SReg)
  | rdcore (d : SReg)
  -- Tasks (R170 to R173).
  | jstat (d : SReg) (sel : BitVec 6)
  | wid (d : SReg) (sel : BitVec 6)
  | dslice (d : SReg) (sel : BitVec 6)
  -- Box queries (R176, R177).
  | boxext (d : SReg) (a : HReg) (dim : BitVec 2)
  | boxorg (d : SReg) (a : HReg) (dim : BitVec 2)
  | boxrank (d : SReg) (a : HReg)
  | boxfmt (d : SReg) (a : HReg)
  | boxmode (d : SReg) (a : HReg)
  | boxmov (d a : HReg)
  | boxclr (d : HReg)
  | boxroot (d : HReg) (a : SReg)
  -- Semaphores (R186).
  | semset (d a : SReg) (j : BitVec 4) (i : BitVec 8)
  | semadd (d a : SReg) (j : BitVec 4) (i : BitVec 8)
  | semsub (d a : SReg) (j : BitVec 4) (i : BitVec 8)
  | semrd (d : SReg) (i : BitVec 8)
  -- Fence (R187).
  | fence (mask : BitVec 16) (sc : BitVec 3)
  -- Engine forms (R182, R183, R373).
  | claim (a : SReg)
  | release (a : SReg)
  | vqsend (a : SReg)
  | vqrecv (d : SReg)
  -- Sundial forms (R190).
  | stopen (d : SReg) (a : HReg) (b : SReg)
  | stsrc (d a b : SReg)
  | stbind (d a : SReg) (b : HReg)
  | strec (d a : SReg) (b : HReg)
  | stclose (a : SReg)
  -- Group forms (R191).
  | gopen (d a b : SReg)
  | gcommit (a : SReg) (b : HReg)
  | gabort (a : SReg)
  | gstat (d a : SReg)
  -- Shard coordinates (R193).
  | shardcoord (d : SReg) (a : HReg) (b : SReg) (dim : BitVec 2)
  -- Traps and hints (R164, R165).
  | trap (code : BitVec 14)
  | brk (code : BitVec 14)
  | hint (bits : BitVec 26)
  -- Waits (R184).
  | waitAny (d a : SReg) (ext : BitVec 32)
  | waitAll (d a : SReg) (ext : BitVec 32)
  -- Engines (R178 to R181).
  | fork (ext : BitVec 32)
  | xq (d a : SReg) (f8 : BitVec 8) (ext : BitVec 32)
  | ecfg (a : SReg) (eng : BitVec 2) (slot : BitVec 4) (ext : BitVec 32)
  | enest (d a : SReg) (eng : BitVec 2) (lvl : BitVec 1) (ext : BitVec 32)
  -- Spawning and handles (R167 to R175).
  | spawn (d a : SReg) (ext : BitVec 32)
  | spawnDown (d a : SReg) (ext : BitVec 32)
  | dspawn (d a : SReg) (ext : BitVec 32)
  | boxsub (d a : HReg) (dim : BitVec 2) (reg : Bool) (ext : BitVec 32)
  | boxnew (d a : HReg) (mode policy : BitVec 4)
  -- Atomics (R188, R189).
  | amoadd (x : Amo)
  | amoand (x : Amo)
  | amoor (x : Amo)
  | amoxor (x : Amo)
  | amomin (x : Amo)
  | amomax (x : Amo)
  | amominu (x : Amo)
  | amomaxu (x : Amo)
  | amoswap (x : Amo)
  | amocas (x : Amo)
  | amofadd (x : Amo)
  | incw (x : Amo)
  | faddb (x : Amo)
  | redadd (x : Amo)
  | redand (x : Amo)
  | redor (x : Amo)
  | redxor (x : Amo)
  | redmin (x : Amo)
  | redmax (x : Amo)
  | redminu (x : Amo)
  | redmaxu (x : Amo)
  | redfadd (x : Amo)
  -- Group-tagged store (R192).
  | stG (x : StG)
  -- Privileged forms (R278 to R288).
  | mfsr (d : SReg) (sr : BitVec 12)
  | mtsr (d : SReg) (sr : BitVec 12)
  | ctxsave (d a : SReg)
  | ctxload (d a : SReg)
  | preempt (d a : SReg)
  | qadmit (d : SReg) (a : HReg)
  | qrelease (a : SReg)
  | qcancel (a : SReg)
  | partset (d a : SReg) (b : HReg)
  | tlbinv (a b : SReg)
  | isend (a b : SReg)
  | corefence (a b : SReg)
  | phyrd (d a : SReg)
  | phywr (a b : SReg)
  -- Vector words (R195 to R226).
  | vadd (w : VWord)
  | vsub (w : VWord)
  | vmul (w : VWord)
  | vfma (w : VWord)
  | vfms (w : VWord)
  | vfnma (w : VWord)
  | vdiv (w : VWord)
  | vsqrt (w : VWord)
  | vmin (w : VWord)
  | vmax (w : VWord)
  | vabs (w : VWord)
  | vneg (w : VWord)
  | vadds (w : VWord)
  | vsubs (w : VWord)
  | vmulh (w : VWord)
  | vand (w : VWord)
  | vor (w : VWord)
  | vxor (w : VWord)
  | vnot (w : VWord)
  | vsll (w : VWord)
  | vsrl (w : VWord)
  | vsra (w : VWord)
  | vexp (w : VWord)
  | vlog (w : VWord)
  | vrcp (w : VWord)
  | vrsqrt (w : VWord)
  | vtanh (w : VWord)
  | vsigm (w : VWord)
  | vsin (w : VWord)
  | vcos (w : VWord)
  | vcmp (w : VWord)
  | vsel (w : VWord)
  | kand (w : VWord)
  | kor (w : VWord)
  | kxor (w : VWord)
  | kandn (w : VWord)
  | knot (w : VWord)
  | kpop (w : VWord)
  | kfirst (w : VWord)
  | kmov (w : VWord)
  | kmovPfx (w : VWord)
  | vcvt (w : VWord)
  | vcvtb (w : VWord)
  | vrng (w : VWord)
  | vredsum (w : VWord)
  | vredmax (w : VWord)
  | vredmin (w : VWord)
  | vredand (w : VWord)
  | vredor (w : VWord)
  | vbcast (w : VWord)
  | vperm (w : VWord)
  | vslide (w : VWord)
  | vrot (w : VWord)
  | vzip (w : VWord)
  | vunzip (w : VWord)
  | vbcastel (w : VWord)
  | vpart (w : VWord)
  | vgather (w : VWord)
  | vscatter (w : VWord)
  | vcompress (w : VWord)
  | vexpand (w : VWord)
  | vld (w : VWord)
  | vst (w : VWord)
  | vaccrd (w : VWord)
  | vaccwr (w : VWord)
  | acczero (w : VWord)
  | aadd (w : VWord)
  | asub (w : VWord)
  | amul (w : VWord)
  | ashl (w : VWord)
  | amov (w : VWord)
  | ali (w : VWord)
  | vloop (w : VWord)
  | vpush (w : VWord)
  | vpop (w : VWord)
  | vfset (w : VWord)
  | vfwait (w : VWord)
  | vsig (w : VWord)
  | vswait (w : VWord)
  | vfence (w : VWord)
  -- Engine records (R228 to R254).
  | mmul (r : RecWord)
  | copy (r : RecWord)
  | copyl (r : RecWord)
  | trans (r : RecWord)
  | perm (r : RecWord)
  | fill (r : RecWord)
  | gather (r : RecWord)
  | scatter (r : RecWord)
  | edec (r : RecWord)
  | vqx (r : RecWord)
  | cbload (r : RecWord)
  | shpf (r : RecWord)
  | gcp (r : RecWord)
  | rcp (r : RecWord)
  | allred (r : RecWord)
  | allgath (r : RecWord)
  | bcast (r : RecWord)
  | rdscat (r : RecWord)
  | digest (r : RecWord)
  | enc (r : RecWord)
  | hintRecord (kind : BitVec 4) (r : RecWord)
  -- The forms without operands (R171, R182, R221, R226, R274, R288).
  | join
  | endTask
  | yield
  | rdv
  | tret
  | tretEnd
  | halt
  | vendl
  | vend
  | vnop
  -- The device steps, which have no word (95).
  | loadDataReturn (t k : Nat) (ecc : Ecc)
  | haltWake (core : Nat)
  | recordStart (t : Nat) (e : Engine)
  | recordComplete (t : Nat) (e : Engine)
  | encoderFrameStart (enc : Nat)
  | encoderFrameComplete (enc : Nat)
  | encoderFrameSwitch (enc : Nat)
  | dispatch (core : Nat)
  | preemption (core : Nat)
  | storageUnitSave (t : Nat) (unit : StorageUnit)
  | sliceBudgetExhausted (t : Nat)
  | contractRelease (part n : Nat)
  | periodicRelease (launch : Nat)
  | doorbell (vf : Nat) (tail : BitVec 64)
  | launch (part : Nat)
  | childStorageAllocation (t : Nat)
  | copyInComplete (t : Nat)
  | taskReturn (t : Nat)
  | waitTimeout (t : Nat)
  | waitConditionMet (t : Nat)
  | faultDelivery (t : Nat)
  | interruptEntry (core : Nat)
  | belvedereMismatch (t : Nat) (s : Stream)
  | scrubSweep (addr : Nat) (ecc : Ecc)
  | pageWalk (t : Nat) (s : Stream)
  | streamRecordEntry (source : Nat)
  | sundialTick (die : Nat)
  | sourceIdle (source : Nat)
  | windowPublication (t : Nat)
  | orangeryStaging (k : Nat)
  | withdrawal (g t : Nat)
  | prepareSend (g : Nat)
  | prepared (g dest : Nat)
  | groupDecision (g : Nat)
  | publish (g dest : Nat)
  | groupFree (g : Nat)
  | groupTimeout (g : Nat)
  | abortDiscard (g dest : Nat)
  | replicaDigestCompare (g : Nat)
  | flitReceive (port : Nat) (flit : List Byte)
  | portDown (port : Nat)
  | routeRestored (port : Nat)
  | rdly (die ch lane : Nat) (v : Word)
  | wdly (die ch lane : Nat) (v : Word)
  | trctl (die ch : Nat) (v : Word)
  | trainingRunDone (die ch : Nat)
  | lrep (die ch : Nat) (v : Word)
  | chctl (die ch : Nat) (v : Word)
  | channelDrained (die ch : Nat)
  | grancmd (die : Nat) (v : Word)
  | granuleChangeDone (die : Nat)
  | repcmd (die : Nat) (v : Word)
  | rowRepairDone (die : Nat)
  | clsev (die : Nat)
  | pcerase (die : Nat) (v : Word)
  | mbsend (vf : Nat)
  | submit (vf : Nat) (v : Word)
  | registerWrite (blk : RegBlock) (reg : Nat) (v : Word)
  | supervisorLaunch (x : LoadImage)
  | privilegedLaunch (part crec : Nat) (header : List Byte)
  | svcrun (die : Nat) (v : Word)
  | serviceTaskEnd (die : Nat)
  | deviceStart (x : StartInput)
  | bootok (v : Word)
  | minver (v : Word)
  | keyrev (v : Word)
  | attestationRequest (nonce : List Byte)
  | recoveryImage (img : List Byte)
  | hostMemoryAccess (part va : Nat) (x : HostAccess)
  | powerLoss
  | serviceCoreReset (die : Nat)
  | contractAccountExhausted (part n cl : Nat)
  | postedStorePerform (t k : Nat) (ecc : Ecc)
  deriving DecidableEq, Repr

/-- Who acts in a step of the machine (log 1): the control stream, the vector stream or an engine of a task; its sequencer, which decodes
a vector instruction into its queue or issues the k-th that waits there (R196); time, by so
many cycles; a read of DRAM at an address, or of an entry of a die's Orangery buffer, finds what the error-correcting code says (R317,
Table 21.3); or a device step of its own. -/
inductive Pick where
  | control (t : Nat)
  | vector (t : Nat)
  | decode (t : Nat)
  | queued (t k : Nat)
  | engine (t : Nat) (e : Engine)
  | elapse (cycles : Nat)
  | ecc (addr : Nat) (e : Ecc)
  | orangery (die k : Nat) (e : Ecc)
  | event (i : Instr)
  deriving DecidableEq, Repr, Inhabited

end Sys2Proof
end

