-- ==== Sys2Proof/Machine/Fields.lean ====
section
/-! DEFINITION. The field rules of each instruction (08 R129, R132, R136, R140, and the fields each form's own rule
gives): what a decoded instruction must satisfy, or it takes FLT_ILLEGAL. Only rules that the bits of the instruction
alone decide stand here; a rule over a register's value is checked where the instruction runs. -/

namespace Sys2Proof.Machine
open Sys2Proof

/-- A scope code of Table 5.1: 5 to 7 are reserved (R87). -/
def scopeOk (sc : BitVec 3) : Bool := sc.toNat < 5

/-- The rules of an atomic's fields: the reductions write no register, and B is used by amocas, incw and faddb only
(R188). -/
def amoOk (red usesB : Bool) (x : Amo) : Bool :=
  scopeOk x.sc && (!red || x.d == 0) && (usesB || x.b == 0)

/-- What a 9-bit operand field of a vector word holds (R136). -/
inductive VField where
  | zero
  | vreg
  | areg
  | breg
  | kreg
  | imm
  | upTo (lo hi : Nat)
  deriving DecidableEq, Repr

/-- The bits above the register number of a field must be zero; an unused field is zero (R129, R136). -/
def vfieldOk (u : VField) (x : BitVec 9) : Bool :=
  match u with
  | .zero => x == 0
  | .vreg | .imm => true
  | .areg => x.toNat < 32
  | .breg | .kreg => x.toNat < 16
  | .upTo lo hi => lo ≤ x.toNat && x.toNat ≤ hi

/-- The field rules of a vector word (R136): the four operand fields, whether it takes a mask, accesses memory and
rounds, and which FLG bits it defines. A reserved FMT code is refused here (R58). -/
def vrule (w : VWord) (d a b c : VField) (masked mem rounds : Bool) (flg : BitVec 3) : Bool :=
  vfieldOk d w.d && vfieldOk a w.a && vfieldOk b w.b && vfieldOk c w.c && (masked || w.k == 0) && (mem || w.cls == 0)
    && (if rounds then w.rm.toNat < 5 else w.rm == 0) && (w.flg &&& ~~~flg == 0) && !fmtReserved w.fmt

/-- Registers an index list of this format takes (R200). -/
def listRegs (f : Fmt) : Nat := (fmtElems f + 1023) / 1024

/-- The register groups of an instruction stay below v512 (R200). -/
def groupOk (r : BitVec 9) (g : Nat) : Bool := r.toNat + g ≤ 512

/-- Two-operand arithmetic that rounds float formats (R201). -/
def varith2 (w : VWord) : Bool := vrule w .vreg .vreg .vreg .zero true false (fmtIsFloat w.fmt) 0
/-- Three-operand arithmetic (R201). -/
def varith3 (w : VWord) : Bool := vrule w .vreg .vreg .vreg .vreg true false true 0
/-- One operand, rounding (R201, R204). -/
def varith1 (w : VWord) : Bool := vrule w .vreg .vreg .zero .zero true false true 0
/-- Two operands, no rounding (R201). -/
def vplain2 (w : VWord) : Bool := vrule w .vreg .vreg .vreg .zero true false false 0
/-- One operand, no rounding (R201). -/
def vplain1 (w : VWord) : Bool := vrule w .vreg .vreg .zero .zero true false false 0
/-- Shifts: an amount register, or a 9-bit immediate below the width (R203). Under a FMT that is no integer format, whose width bounds no shift, the
immediate is not tested and the fault is FLT_FORMAT: the rules leave the order open, and the choice is the model's (log 17). -/
def vshift (w : VWord) : Bool :=
  if w.flg.getLsbD 0 then vrule w .vreg .vreg .zero .imm true false false 1 && (!fmtIsInt w.fmt || w.c.toNat < fmtWidth w.fmt)
  else vplain2 w
/-- Mask forms with two sources (R207). -/
def vmask2 (w : VWord) : Bool := vrule w .kreg .kreg .kreg .zero false false false 0
/-- Reductions: a segment exponent of at most 12 (R211). -/
def vreduce (w : VWord) (rounds : Bool) (flg : BitVec 3) : Bool := vrule w .vreg .vreg .zero (.upTo 0 12) true false rounds flg
/-- Stream scalar forms of two sources (R220). -/
def vscalar2 (w : VWord) (flg : BitVec 3) : Bool := vrule w .areg .areg .areg .zero false false false flg
/-- Gather and scatter: the index list stays below v512 (R200, R214). -/
def vindexed (w : VWord) : Bool := vrule w .vreg .imm .zero .vreg true true false 0 && groupOk w.c (listRegs w.fmt)

/-- One operand reference: TYPE 3 and a handle index above 31 are illegal, DSEL belongs to handles, bits [15:0] are
reserved (R140). -/
def refOk (o : BitVec 32) : Bool :=
  let ty := (o.extractLsb' 30 2).toNat
  let index := (o.extractLsb' 24 6).toNat
  ty != 3 && (ty != 2 || index < 32) && (ty == 2 || o.extractLsb' 16 8 == 0) && o.extractLsb' 0 16 == 0

/-- A reference that the kind does not use is of TYPE 0 (R140). -/
def refNone (o : BitVec 32) : Bool := o == 0

/-- What an operand reference of a kind names. -/
inductive RefUse where
  | none
  | box
  | tile (lo hi : Nat)
  | boxOrNone
  | boxOrTile (lo hi lo2 hi2 : Nat)
  deriving DecidableEq, Repr

/-- TYPE of a reference: 0 none, 1 tile, 2 handle. -/
def refType (o : BitVec 32) : Nat := (o.extractLsb' 30 2).toNat

/-- INDEX of a reference: a tile id or a handle number. -/
def refIndex (o : BitVec 32) : Nat := (o.extractLsb' 24 6).toNat

/-- Whether a reference names what the kind takes there. -/
def refUseOk (u : RefUse) (o : BitVec 32) : Bool :=
  match u with
  | .none => o == 0
  | .box => refType o == 2
  | .tile lo hi => refType o == 1 && lo ≤ refIndex o && refIndex o ≤ hi
  | .boxOrNone => refType o == 2 || o == 0
  | .boxOrTile lo hi lo2 hi2 =>
    refType o == 2 || (refType o == 1 && ((lo ≤ refIndex o && refIndex o ≤ hi) || (lo2 ≤ refIndex o && refIndex o ≤ hi2)))

/-- Bits lo to lo + n - 1 of word 7. -/
def w7 (r : RecWord) (lo n : Nat) : Nat := (r.w7.toNat >>> lo) % 2 ^ n

/-- The rules every kind but mmul shares (R138, R140, R234): the references, the scope, PROF, SHAPE and CLR zero, WRAP
and REL where the kind allows them, the defined KFLAGS and word 7 bits. -/
def recRule (r : RecWord) (o0 o1 o2 o3 : RefUse) (wrapOk relOk : Bool) (kmask : BitVec 8) (w7mask : BitVec 48) (high : Bool) : Bool :=
  scopeOk r.scope && refOk r.o0 && refOk r.o1 && refOk r.o2 && refOk r.o3
    && refUseOk o0 r.o0 && refUseOk o1 r.o1 && refUseOk o2 r.o2 && refUseOk o3 r.o3
    && r.prof == 0 && r.shape == 0 && !r.clr && (wrapOk || !r.wrap) && (relOk || !r.rel)
    && (r.kflags &&& ~~~kmask == 0) && (r.w7.setWidth 48 &&& ~~~w7mask == 0) && (high || r.shp || w7 r 48 16 == 0)

/-- mmul (R235): operand slots, an accumulator tile, REL with RELA or RELB and neither without REL. -/
def mmulOk (r : RecWord) : Bool :=
  scopeOk r.scope && refOk r.o0 && refOk r.o1 && refOk r.o2 && refOk r.o3
    && refUseOk (.tile 0 31) r.o0 && refUseOk (.tile 0 31) r.o1 && refUseOk (.tile 32 39) r.o2 && r.o3 == 0
    && r.shape.toNat < 3 && (r.kflags &&& 0xF8 == 0) && r.rel == (r.kflags &&& 0x06 != 0)
    && r.w7.setWidth 48 == 0 && (r.shp || w7 r 48 16 == 0)

/-- copy (R236, R237): not between two tiles; WRAP from an accumulator tile only; REL from a tile only. -/
def copyOk (r : RecWord) : Bool :=
  recRule r (.boxOrTile 0 63 0 63) (.boxOrTile 0 63 0 63) .none .none
    (refUseOk (.tile 32 39) r.o0) (refType r.o0 == 1) 0 0 false && (refType r.o0 == 2 || refType r.o1 == 2)

/-- copyl (R236). -/
def copylOk (r : RecWord) : Bool := recRule r .box .box .none .none true false 0 0 false

/-- trans (R236): two different coordinates. -/
def transOk (r : RecWord) : Bool := recRule r .box .box .none .none false false 0 0xF false && w7 r 0 2 != w7 r 2 2

/-- perm (R236): a permutation of 0 to 3. -/
def permOk (r : RecWord) : Bool :=
  recRule r .box .box .none .none false false 0 0xFF false
    && (List.range 4).all (fun d => [w7 r 0 2, w7 r 2 2, w7 r 4 2, w7 r 6 2].contains d)

/-- fill (R236): a box, or a scratchpad buffer with a tag. -/
def fillOk (r : RecWord) : Bool :=
  recRule r .none (.boxOrTile 40 63 40 63) .none .none false false 0 (if refType r.o1 == 1 then 0x3F else 0) false

/-- gather and scatter (R239): block extents of at least 1. -/
def blockListOk (r : RecWord) : Bool :=
  recRule r .box .box .box .none false false 0 0xFFFFFFFF false && w7 r 0 16 != 0 && w7 r 16 16 != 0

/-- edec (R244, R245): RING at most 24 and over a tile operand without steps; IDX16 only with VQ. -/
def edecOk (r : RecWord) : Bool :=
  let noStep (l : BitVec 64) := l.extractLsb' 16 16 == (0 : BitVec 16)
  recRule r .box (.boxOrTile 0 31 40 63) .none .none false false 3 0xFFFF07FFF7F7 false
    && (r.kflags.getLsbD 0 || !r.kflags.getLsbD 1) && w7 r 16 5 ≤ 24
    && (w7 r 16 5 == 0 || (refType r.o1 == 1 && noStep r.l1 && noStep r.l2 && noStep r.l3 && noStep r.l4))

/-- vqx (R246). -/
def vqxOk (r : RecWord) : Bool :=
  recRule r (.boxOrTile 0 63 0 63) (.boxOrTile 0 31 40 63) .none .none false (refType r.o0 == 1) 1 0xFFFF0000F700 false

/-- cbload (R241): TYPE 1 or 2, and ELEMS of at least 1 in a VQ codebook. -/
def cbloadOk (r : RecWord) : Bool :=
  recRule r .box .none .none .none false false 0 0xFFFFF7 false
    && (w7 r 8 2 == 1 || (w7 r 8 2 == 2 && w7 r 16 8 != 0))

/-- shpf (R247). -/
def shpfOk (r : RecWord) : Bool := recRule r .none .box .none .none false false 0 0xFFFFFFFF true

/-- rcp and gcp (R248): SCOPE 4; the group in gcp only. -/
def remoteOk (group : Bool) (r : RecWord) : Bool :=
  recRule r .box .box .none .none false false 0 (if group then 0x3FFFFF else 0xFFFF) false && r.scope == 4

/-- The collectives (R249): OP below 3, and zero where there is no fold. -/
def collectiveOk (fold : Bool) (r : RecWord) : Bool :=
  recRule r .box .box .none .none fold false (if fold then 3 else 0) 0xFFFFFF0F false && (r.kflags &&& 3 != 3)

/-- digest (R251): at least one box. -/
def digestOk (r : RecWord) : Bool :=
  recRule r .boxOrNone .boxOrNone .boxOrNone .box false false 0 0 false && (refType r.o0 == 2 || refType r.o1 == 2 || refType r.o2 == 2)

/-- enc (R252, Table 12.5): TARGET and QP in range for the rate control and the codec. -/
def encOk (r : RecWord) : Bool :=
  let cbr := w7 r 8 1 == 1
  recRule r .box .box .box .none false false 0 0xFFFFFFFF01FF false
    && (if cbr then 64 ≤ w7 r 24 24 else w7 r 24 24 == 0) && (w7 r 2 2 == 3 || w7 r 16 8 ≤ 51)

/-- The field rules of one instruction: what is false takes FLT_ILLEGAL before any other fault but FLT_PRIV (R142). -/
def fieldsOk : Instr → Bool
  | .add _ _ _ => true
  | .sub _ _ _ => true
  | .and _ _ _ => true
  | .or _ _ _ => true
  | .xor _ _ _ => true
  | .andn _ _ _ => true
  | .sll _ _ _ => true
  | .srl _ _ _ => true
  | .sra _ _ _ => true
  | .rotl _ _ _ => true
  | .slt _ _ _ => true
  | .sltu _ _ _ => true
  | .min _ _ _ => true
  | .max _ _ _ => true
  | .minu _ _ _ => true
  | .maxu _ _ _ => true
  | .mul _ _ _ => true
  | .mulh _ _ _ => true
  | .mulhu _ _ _ => true
  | .mulhsu _ _ _ => true
  | .div _ _ _ => true
  | .divu _ _ _ => true
  | .rem _ _ _ => true
  | .remu _ _ _ => true
  | .addi _ _ _ => true
  | .andi _ _ _ => true
  | .ori _ _ _ => true
  | .xori _ _ _ => true
  | .slti _ _ _ => true
  | .sltiu _ _ _ => true
  | .slli _ _ _ => true
  | .srli _ _ _ => true
  | .srai _ _ _ => true
  | .rotli _ _ _ => true
  | .lih _ _ _ => true
  | .ldf _ _ _ => true
  | .ldfHandle _ _ _ => true
  | .stf _ _ _ => true
  | .stfHandle _ _ _ => true
  | .clz _ _ => true
  | .popc _ _ => true
  | .li _ _ => true
  | .liu _ _ => true
  | .ldS m => scopeOk m.sc
  | .ldZ m => scopeOk m.sc
  | .st m => scopeOk m.sc
  | .ldAcqS m => scopeOk m.sc
  | .ldAcqZ m => scopeOk m.sc
  | .stRel m => scopeOk m.sc
  | .loadDataReturn _ _ _ => true
  | .beq _ _ _ => true
  | .bne _ _ _ => true
  | .blt _ _ _ => true
  | .bge _ _ _ => true
  | .bltu _ _ _ => true
  | .bgeu _ _ _ => true
  | .loop _ _ off => 0 < off.toInt
  | .jal _ _ => true
  | .jalr _ _ _ => true
  | .shpld _ _ _ _ => true
  | .rdcyc _ => true
  | .rdtick _ => true
  | .rdcore _ => true
  | .join => true
  | .endTask => true
  | .yield => true
  | .jstat _ sel => sel.toNat < 4
  | .wid _ sel => sel.toNat < 6
  | .dslice _ sel => sel.toNat < 8
  | .boxext _ _ _ => true
  | .boxorg _ _ _ => true
  | .boxrank _ _ => true
  | .boxfmt _ _ => true
  | .boxmode _ _ => true
  | .boxmov _ _ => true
  | .boxroot _ _ => true
  | .boxclr _ => true
  | .semset _ _ _ _ => true
  | .semadd _ _ _ _ => true
  | .semsub _ _ _ _ => true
  | .semrd _ _ => true
  | .fence _ sc => scopeOk sc
  | .claim _ => true
  | .release _ => true
  | .vqsend _ => true
  | .vqrecv _ => true
  | .stclose _ => true
  | .gabort _ => true
  | .rdv => true
  | .stopen _ a _ => a.toNat < 31
  | .stsrc _ _ _ => true
  | .stbind _ _ b => b.toNat < 31
  | .strec _ _ _ => true
  | .gopen _ _ _ => true
  | .gcommit _ _ => true
  | .gstat _ _ => true
  | .shardcoord _ _ _ _ => true
  | .trap _ => true
  | .brk _ => true
  | .hint _ => true
  | .waitAny _ _ ext => ext.toNat % 8 == 0
  | .waitAll _ _ ext => ext.toNat % 8 == 0
  | .fork ext => ext.toNat % 64 == 0
  | .xq _ a f8 ext => ext.toNat % 64 == 0 && f8.toNat < 16 && (f8.extractLsb' 0 3 != 0 || a == 0) && (!f8.getLsbD 0 || a.toNat < 64) && (!f8.getLsbD 1 || a.toNat < 63) && (!f8.getLsbD 2 || a.toNat < 62)
  | .ecfg a eng _ ext => eng.toNat < 2 && (a == 0 || ext == 0)
  | .enest _ a eng _ ext => eng.toNat < 2 && (if a == 0 then ext.toNat < 65536 else ext == 0)
  | .spawn _ _ ext => ext.toNat % 64 == 0
  | .spawnDown _ _ ext => ext.toNat % 64 == 0
  | .dspawn _ _ ext => ext.toNat % 64 == 0
  | .boxsub _ _ _ reg ext => !reg || (ext &&& 0xFFFFC0C0 == 0)
  | .boxnew _ _ _ _ => true
  | .amoadd x => amoOk false false x
  | .amoand x => amoOk false false x
  | .amoor x => amoOk false false x
  | .amoxor x => amoOk false false x
  | .amomin x => amoOk false false x
  | .amomax x => amoOk false false x
  | .amominu x => amoOk false false x
  | .amomaxu x => amoOk false false x
  | .amoswap x => amoOk false false x
  | .amofadd x => amoOk false false x
  | .amocas x => amoOk false true x
  | .incw x => amoOk false true x && x.a == 0
  | .faddb x => amoOk false true x && x.d.toNat % 2 == 0 && x.d != 0
  | .redadd x => amoOk true false x
  | .redand x => amoOk true false x
  | .redor x => amoOk true false x
  | .redxor x => amoOk true false x
  | .redmin x => amoOk true false x
  | .redmax x => amoOk true false x
  | .redminu x => amoOk true false x
  | .redmaxu x => amoOk true false x
  | .redfadd x => amoOk true false x
  | .stG _ => true
  | .mfsr _ _ => true
  | .mtsr _ _ => true
  | .tret => true
  | .tretEnd => true
  | .halt => true
  | .ctxsave _ _ => true
  | .ctxload _ _ => true
  | .preempt _ _ => true
  | .qadmit _ _ => true
  | .tlbinv _ _ => true
  | .isend _ _ => true
  | .corefence _ _ => true
  | .phyrd _ _ => true
  | .phywr _ _ => true
  | .qrelease _ => true
  | .qcancel _ => true
  | .haltWake _ => true
  | .partset _ _ _ => true
  | .vadd w => varith2 w
  | .vsub w => varith2 w
  | .vmul w => varith2 w
  | .vfma w => varith3 w
  | .vfms w => varith3 w
  | .vfnma w => varith3 w
  | .vdiv w => vrule w .vreg .vreg .vreg .zero true false true 0
  | .vsqrt w => varith1 w
  | .vmin w => vplain2 w
  | .vmax w => vplain2 w
  | .vadds w => vplain2 w
  | .vsubs w => vplain2 w
  | .vmulh w => vplain2 w
  | .vand w => vplain2 w
  | .vor w => vplain2 w
  | .vxor w => vplain2 w
  | .vabs w => vplain1 w
  | .vneg w => vplain1 w
  | .vnot w => vplain1 w
  | .vsll w => vshift w
  | .vsrl w => vshift w
  | .vsra w => vshift w
  | .vexp w => varith1 w
  | .vlog w => varith1 w
  | .vrcp w => varith1 w
  | .vrsqrt w => varith1 w
  | .vtanh w => varith1 w
  | .vsigm w => varith1 w
  | .vsin w => varith1 w
  | .vcos w => varith1 w
  | .vcmp w => vrule w .kreg .vreg .vreg .zero true false false 7
  | .vsel w => vplain2 w
  | .kand w => vmask2 w
  | .kor w => vmask2 w
  | .kxor w => vmask2 w
  | .kandn w => vmask2 w
  | .knot w => vrule w .kreg .kreg .zero .zero false false false 0
  | .kpop w => vrule w .areg .kreg .zero .zero false false false 0
  | .kfirst w => vrule w .areg .kreg .zero .zero false false false 0
  | .kmov w => vrule w .kreg .kreg .zero .zero false false false 0
  | .kmovPfx w => vrule w .kreg .areg .zero .zero false false false 1 && w.flg == 1
  | .vcvt w => vrule w .vreg .vreg .zero .imm true false true 1
  | .vcvtb w => vrule w .vreg .vreg .zero .imm false false true 0
  | .vrng w => vrule w .vreg .breg .areg (.upTo 0 30) true false false 0
  | .vredsum w => vreduce w (fmtIsFloat w.fmt) 1
  | .vredmax w => vreduce w false 2
  | .vredmin w => vreduce w false 2
  | .vredand w => vreduce w false 0
  | .vredor w => vreduce w false 0
  | .vbcast w => vrule w .vreg .areg .zero .zero true false false 1
  | .vperm w => vplain2 w && groupOk w.b (listRegs w.fmt)
  | .vslide w => vrule w .vreg .vreg .vreg .areg true false false 0
  | .vrot w => vrule w .vreg .vreg .areg .zero true false false 0
  | .vzip w => vrule w .vreg .vreg .vreg .zero true false false 1
  | .vunzip w => vrule w .vreg .vreg .vreg .zero true false false 1
  | .vbcastel w => vrule w .vreg .vreg .areg (.upTo 0 12) true false false 0
  | .vpart w => vrule w .vreg .vreg .areg (.upTo 1 16) true false false 0 && w.b.toNat + w.c.toNat ≤ 32 && groupOk w.d (w.c.toNat * listRegs w.fmt)
  | .vgather w => vindexed w
  | .vscatter w => vindexed w
  | .vcompress w => vrule w .vreg .vreg .zero .areg true false false 0
  | .vexpand w => vplain1 w
  | .vld w => vrule w .vreg .imm .zero .zero true true false 0
  | .vst w => vrule w .vreg .imm .zero .zero true true false 0
  | .vaccrd w => vrule w .vreg (.upTo 32 39) .areg .zero true false true 3
  | .vaccwr w => vrule w (.upTo 32 39) .vreg .areg .zero true false false 3
  | .acczero w => vrule w (.upTo 32 39) .zero .zero .zero false false false 0
  | .aadd w => if w.flg.getLsbD 0 then vrule w .areg .areg .zero .imm false false false 1 else vscalar2 w 0
  | .asub w => if w.flg.getLsbD 0 then vrule w .areg .areg .zero .imm false false false 1 else vscalar2 w 0
  | .amul w => vscalar2 w 0
  | .ashl w => vscalar2 w 3 && w.flg != 3
  | .amov w => vrule w .areg .areg .zero .zero false false false 0
  | .ali w => vrule w .areg .imm .imm .imm false false false 0
  | .vloop w => vrule w (if w.flg.getLsbD 1 then .areg else .zero) (if w.flg.getLsbD 0 then .zero else .areg) (.upTo 1 511)
      (if w.flg.getLsbD 0 then .imm else .zero) false false false 3
  | .vendl => true
  | .vend => true
  | .vpush w => vrule w .zero .areg .zero .zero false false false 0
  | .vpop w => vrule w .areg .zero .zero .zero false false false 0
  | .vfset w => vrule w .zero .zero .zero (.upTo 0 15) false false false 1
  | .vfwait w => vrule w .zero .areg .zero (.upTo 1 2) false false false 0
  | .vsig w => vrule w .zero .areg .zero (.upTo 0 255) false false false 0
  | .vswait w => vrule w .zero .areg .zero (.upTo 0 255) false false false 0
  | .vfence w => w == { w with d := 0, a := w.a, b := w.b &&& 0x1FC, c := 0, k := 0, cls := 0, fmt := 0, rm := 0, flg := 0 }
  | .vnop => true
  | .recordStart _ _ => true
  | .recordComplete _ _ => true
  | .mmul r => mmulOk r
  | .copy r => copyOk r
  | .copyl r => copylOk r
  | .trans r => transOk r
  | .perm r => permOk r
  | .fill r => fillOk r
  | .gather r => blockListOk r
  | .scatter r => blockListOk r
  | .edec r => edecOk r
  | .vqx r => vqxOk r
  | .cbload r => cbloadOk r
  | .shpf r => shpfOk r
  | .gcp r => remoteOk true r
  | .rcp r => remoteOk false r
  | .allred r => collectiveOk true r
  | .rdscat r => collectiveOk true r
  | .allgath r => collectiveOk false r
  | .bcast r => collectiveOk false r
  | .digest r => digestOk r
  | .enc r => encOk r
  | .hintRecord _ _ => true
  | .encoderFrameStart _ => true
  | .encoderFrameComplete _ => true
  | .encoderFrameSwitch _ => true
  | .dispatch _ => true
  | .preemption _ => true
  | .storageUnitSave _ _ => true
  | .sliceBudgetExhausted _ => true
  | .contractRelease _ _ => true
  | .periodicRelease _ => true
  | .doorbell _ _ => true
  | .launch _ => true
  | .childStorageAllocation _ => true
  | .copyInComplete _ => true
  | .taskReturn _ => true
  | .waitTimeout _ => true
  | .waitConditionMet _ => true
  | .faultDelivery _ => true
  | .interruptEntry _ => true
  | .belvedereMismatch _ _ => true
  | .scrubSweep _ _ => true
  | .pageWalk _ _ => true
  | .streamRecordEntry _ => true
  | .sundialTick _ => true
  | .sourceIdle _ => true
  | .windowPublication _ => true
  | .orangeryStaging _ => true
  | .withdrawal _ _ => true
  | .prepareSend _ => true
  | .prepared _ _ => true
  | .groupDecision _ => true
  | .publish _ _ => true
  | .groupFree _ => true
  | .groupTimeout _ => true
  | .abortDiscard _ _ => true
  | .replicaDigestCompare _ => true
  | .flitReceive _ _ => true
  | .portDown _ => true
  | .routeRestored _ => true
  | .rdly _ _ _ _ => true
  | .wdly _ _ _ _ => true
  | .trctl _ _ _ => true
  | .trainingRunDone _ _ => true
  | .lrep _ _ _ => true
  | .chctl _ _ _ => true
  | .channelDrained _ _ => true
  | .grancmd _ _ => true
  | .granuleChangeDone _ => true
  | .repcmd _ _ => true
  | .rowRepairDone _ => true
  | .clsev _ => true
  | .pcerase _ _ => true
  | .mbsend _ => true
  | .submit _ _ => true
  | .registerWrite _ _ _ => true
  | .supervisorLaunch _ => true
  | .privilegedLaunch _ _ _ => true
  | .svcrun _ _ => true
  | .serviceTaskEnd _ => true
  | .deviceStart _ => true
  | .bootok _ => true
  | .minver _ => true
  | .keyrev _ => true
  | .attestationRequest _ => true
  | .recoveryImage _ => true
  | .hostMemoryAccess _ _ _ => true
  | .powerLoss => true
  | .serviceCoreReset _ => true
  | .contractAccountExhausted _ _ _ => true
  | .postedStorePerform _ _ _ => true

end Sys2Proof.Machine
end

