-- ==== Sys2Proof/WellFormed.lean ====
section
/-! DEFINITION. Well-formed instructions: those whose fields meet every rule that the spec states over the bits of the
instruction alone (08 R129, R132, R136, R140). A word that decodes to an ill-formed one takes FLT_ILLEGAL. -/

namespace Sys2Proof

/-- The fields of an instruction meet the rules of its form. -/
def Instr.wellFormed (i : Instr) : Bool := Machine.fieldsOk i

end Sys2Proof
end

