-- ==== Sys2Proof/Decode.lean ====
section
/-! DEFINITION. The decoder and the encoder (08 R128 to R141): control words, vector words and engine records, as the
tables of the spec lay them out. Decoding is total: a word that is no instruction is refused by name, and the machine
takes FLT_ILLEGAL for every one of these names (R132, R137, R141). -/

namespace Sys2Proof

/-- Why a word is no instruction. -/
inductive DecodeError where
  | reservedMajor        -- MAJ, OP or KIND that the map does not list
  | unassignedSelector   -- FN, WOP or SEM selector that Table 8.3 does not assign
  | unusedField          -- a reserved or unused field that is not zero
  | handleRange          -- a handle operand of 32 or more
  | illFormed            -- a field value that the form's rule refuses
  deriving DecidableEq, Repr

/-- The name of an instruction a word gives, or why it gives none. -/
abbrev Decoded := Except DecodeError Instr

/-- Bits lo to lo + n - 1 of a word. -/
abbrev bits {w : Nat} (x : BitVec w) (lo n : Nat) : BitVec n := x.extractLsb' lo n

/-- The major opcode of a control word (R128). -/
def majorOf (w : BitVec 32) : BitVec 6 := bits w 26 6

/-- A handle operand in a 6-bit field: a value of 32 or more is illegal (R129). -/
def handleField (x : BitVec 6) : Except DecodeError HReg := if x.toNat < 32 then .ok (x.setWidth 5) else .error .handleRange

/-- Fields that the form does not use are zero (R129). -/
def unusedZero (ok : Bool) (i : Instr) : Decoded := if ok then .ok i else .error .unusedField

/-- The n-th form of a list in code order (Table 8.3). -/
def selectForm {α : Type} (l : List α) (n : Nat) : Except DecodeError α :=
  match l[n]? with
  | some f => .ok f
  | none => .error .unassignedSelector

/-- Forms with three scalar registers, in code order. -/
abbrev Form3 := SReg → SReg → SReg → Instr

/-- FN 0x00 to 0x0F of major 0x01 (Table 9.2). -/
def aluForms : List Form3 :=
  [.add, .sub, .and, .or, .xor, .andn, .sll, .srl, .sra, .rotl, .slt, .sltu, .min, .max, .minu, .maxu]

/-- FN of major 0x02 (Table 8.3). -/
def mulForms : List Form3 := [.mul, .mulh, .mulhu, .mulhsu, .div, .divu, .rem, .remu]

/-- Majors 0x03 to 0x08 (R150). -/
def immForms : List (SReg → SReg → BitVec 14 → Instr) := [.addi, .andi, .ori, .xori, .slti, .sltiu]

/-- IMM14[13:12] of major 0x09 (R151). -/
def shiftForms : List Form3 := [.slli, .srli, .srai, .rotli]

/-- Majors 0x10 to 0x15 (R159). -/
def memForms : List (CMem → Instr) := [.ldS, .ldZ, .st, .ldAcqS, .ldAcqZ, .stRel]

/-- Majors 0x18 to 0x1E (R153, R155). -/
def branchForms : List (SReg → SReg → BitVec 14 → Instr) := [.beq, .bne, .blt, .bge, .bltu, .bgeu, .loop]

/-- WOP 0x18 to 0x24 (R188, R189). -/
def amoForms : List (Amo → Instr) :=
  [.amoadd, .amoand, .amoor, .amoxor, .amomin, .amomax, .amominu, .amomaxu, .amoswap, .amocas, .amofadd, .incw, .faddb]

/-- WOP 0x28 to 0x30 (R188). -/
def redForms : List (Amo → Instr) := [.redadd, .redand, .redor, .redxor, .redmin, .redmax, .redminu, .redmaxu, .redfadd]

/-- A C-M word (Table 8.1). -/
def cmemOf (w : BitVec 32) : CMem :=
  { r := bits w 20 6, h := bits w 15 5, idx := bits w 9 6, cls := bits w 5 4, sc := bits w 2 3, sz := bits w 0 2 }

/-- The fields of an atomic: F8 and EXT (R188). F8[0] and EXT[10:0] are reserved. -/
def amoOf (d a : SReg) (f8 : BitVec 8) (ext : BitVec 32) : Amo :=
  { d := d, a := a, b := bits ext 15 6, h := bits ext 27 5, idx := bits ext 21 6, cls := bits ext 11 4,
    sc := bits f8 3 3, sz := bits f8 6 2, acq := f8.getLsbD 2, rel := f8.getLsbD 1 }

/-- Major 0x01. -/
def parseAlu (d a b : SReg) (fn : BitVec 8) : Decoded :=
  if fn.toNat = 0x10 then unusedZero (b == 0) (.clz d a)
  else if fn.toNat = 0x11 then unusedZero (b == 0) (.popc d a)
  else do .ok ((← selectForm aluForms fn.toNat) d a b)

/-- Major 0x23 (R163). -/
def parseCounter (d a b : SReg) (fn : BitVec 8) : Decoded := do
  unusedZero (a == 0 && b == 0) ((← selectForm [Instr.rdcyc, .rdtick, .rdcore] fn.toNat) d)

/-- Major 0x24 (R170 to R173). -/
def parseTask (d a b : SReg) (fn : BitVec 8) : Decoded :=
  match fn.toNat with
  | 0 => unusedZero (d == 0 && a == 0 && b == 0) .join
  | 1 => unusedZero (d == 0 && a == 0 && b == 0) .endTask
  | 2 => unusedZero (d == 0 && a == 0 && b == 0) .yield
  | 3 => unusedZero (a == 0) (.jstat d b)
  | 4 => unusedZero (a == 0) (.wid d b)
  | 5 => unusedZero (a == 0) (.dslice d b)
  | _ => .error .unassignedSelector

/-- Major 0x25 (R176, R177). -/
def parseBox (d a b : SReg) (fn : BitVec 8) : Decoded :=
  match fn.toNat with
  | 0 => do unusedZero (b.toNat < 4) (.boxext d (← handleField a) (b.setWidth 2))
  | 1 => do unusedZero (b.toNat < 4) (.boxorg d (← handleField a) (b.setWidth 2))
  | 2 => do unusedZero (b == 0) (.boxrank d (← handleField a))
  | 3 => do unusedZero (b == 0) (.boxfmt d (← handleField a))
  | 4 => do unusedZero (b == 0) (.boxmode d (← handleField a))
  | 5 => do unusedZero (b == 0) (.boxmov (← handleField d) (← handleField a))
  | 6 => do unusedZero (a == 0 && b == 0) (.boxclr (← handleField d))
  | 7 => do unusedZero (b == 0) (.boxroot (← handleField d) a)
  | _ => .error .unassignedSelector

/-- Major 0x26 (R186). -/
def parseSem (d a : SReg) (imm : BitVec 14) : Decoded :=
  match (bits imm 12 2).toNat with
  | 0 => .ok (.semset d a (bits imm 8 4) (bits imm 0 8))
  | 1 => .ok (.semadd d a (bits imm 8 4) (bits imm 0 8))
  | 2 => .ok (.semsub d a (bits imm 8 4) (bits imm 0 8))
  | _ => unusedZero (a == 0 && bits imm 8 4 == 0) (.semrd d (bits imm 0 8))

/-- Major 0x28 (R182, R183, R373). -/
def parseEngine (d a b : SReg) (fn : BitVec 8) : Decoded :=
  match fn.toNat with
  | 0 => unusedZero (d == 0 && b == 0) (.claim a)
  | 1 => unusedZero (d == 0 && b == 0) (.release a)
  | 2 => unusedZero (d == 0 && a == 0 && b == 0) .rdv
  | 3 => unusedZero (d == 0 && b == 0) (.vqsend a)
  | 4 => unusedZero (a == 0 && b == 0) (.vqrecv d)
  | _ => .error .unassignedSelector

/-- Major 0x29 (R190). -/
def parseSundial (d a b : SReg) (fn : BitVec 8) : Decoded :=
  match fn.toNat with
  | 0 => do .ok (.stopen d (← handleField a) b)
  | 1 => .ok (.stsrc d a b)
  | 2 => do .ok (.stbind d a (← handleField b))
  | 3 => do .ok (.strec d a (← handleField b))
  | 4 => unusedZero (d == 0 && b == 0) (.stclose a)
  | _ => .error .unassignedSelector

/-- Major 0x2A (R191). -/
def parseGroup (d a b : SReg) (fn : BitVec 8) : Decoded :=
  match fn.toNat with
  | 0 => .ok (.gopen d a b)
  | 1 => do unusedZero (d == 0) (.gcommit a (← handleField b))
  | 2 => unusedZero (d == 0 && b == 0) (.gabort a)
  | 3 => unusedZero (b == 0) (.gstat d a)
  | _ => .error .unassignedSelector

/-- Major 0x38 (R278). -/
def parsePriv38 (d a b : SReg) (fn : BitVec 8) : Decoded :=
  match fn.toNat with
  | 0 => .ok (.mfsr d (a ++ b))
  | 1 => .ok (.mtsr d (a ++ b))
  | 2 => if b == 0 then unusedZero (d == 0 && a == 0) .tret
         else if b == 1 then unusedZero (d == 0 && a == 0) .tretEnd else .error .illFormed
  | _ => .error .unassignedSelector

/-- Major 0x39 (R278). -/
def parsePriv39 (d a b : SReg) (fn : BitVec 8) : Decoded :=
  match fn.toNat with
  | 0 => unusedZero (b == 0) (.ctxsave d a)
  | 1 => unusedZero (b == 0) (.ctxload d a)
  | 2 => unusedZero (b == 0) (.preempt d a)
  | 3 => do unusedZero (b == 0) (.qadmit d (← handleField a))
  | 4 => unusedZero (d == 0 && b == 0) (.qrelease a)
  | 5 => unusedZero (d == 0 && b == 0) (.qcancel a)
  | 6 => do .ok (.partset d a (← handleField b))
  | 7 => unusedZero (d == 0) (.tlbinv a b)
  | 8 => unusedZero (d == 0) (.isend a b)
  | 9 => unusedZero (d == 0) (.corefence a b)
  | _ => .error .unassignedSelector

/-- Major 0x3A (R278). -/
def parsePriv3A (d a b : SReg) (fn : BitVec 8) : Decoded :=
  match fn.toNat with
  | 0 => unusedZero (b == 0) (.phyrd d a)
  | 1 => unusedZero (d == 0) (.phywr a b)
  | 2 => unusedZero (d == 0 && a == 0 && b == 0) .halt
  | _ => .error .unassignedSelector

/-- Major 0x3E: a word of format C-W with its extension word (R131, R152). -/
def parseWide (wop d a : SReg) (f8 : BitVec 8) (ext : BitVec 32) : Decoded :=
  match wop.toNat with
  | 0x00 => unusedZero (a == 0 && f8 == 0) (.li d ext)
  | 0x01 => unusedZero (a == 0 && f8 == 0) (.liu d ext)
  | 0x02 => unusedZero (f8 == 0) (.lih d a ext)
  | 0x04 => unusedZero (f8 == 0) (.waitAny d a ext)
  | 0x05 => unusedZero (f8 == 0) (.waitAll d a ext)
  | 0x08 => unusedZero (d == 0 && a == 0 && f8 == 0) (.fork ext)
  | 0x09 => .ok (.xq d a f8 ext)
  | 0x0A => unusedZero (d == 0 && bits f8 4 2 == 0) (.ecfg a (bits f8 6 2) (bits f8 0 4) ext)
  | 0x0B => unusedZero (bits f8 1 5 == 0) (.enest d a (bits f8 6 2) (bits f8 0 1) ext)
  | 0x10 => unusedZero (f8 == 0) (.spawn d a ext)
  | 0x11 => unusedZero (f8 == 0) (.spawnDown d a ext)
  | 0x12 => unusedZero (f8 == 0) (.dspawn d a ext)
  | 0x13 => do unusedZero (bits f8 2 5 == 0) (.boxsub (← handleField d) (← handleField a) (bits f8 0 2) (f8.getLsbD 7) ext)
  | 0x14 => do unusedZero (ext == 0) (.boxnew (← handleField d) (← handleField a) (bits f8 4 4) (bits f8 0 4))
  | 0x38 => unusedZero (bits f8 0 2 == 0 && bits ext 0 21 == 0)
      (.stG { s := d, a := a, h := bits ext 27 5, idx := bits ext 21 6, cls := bits f8 2 4, sz := bits f8 6 2 })
  | n => do
    let f ← if 0x18 ≤ n ∧ n ≤ 0x24 then selectForm amoForms (n - 0x18)
            else if 0x28 ≤ n ∧ n ≤ 0x30 then selectForm redForms (n - 0x28) else .error .unassignedSelector
    unusedZero (f8.getLsbD 0 == false && bits ext 0 11 == 0) (f (amoOf d a f8 ext))

/-- The instruction of a control word w, with the word after it for a form of two words (R128, R131). -/
def parseControl (w ext : BitVec 32) : Decoded :=
  let d := bits w 20 6
  let a := bits w 14 6
  let b := bits w 8 6
  let fn := bits w 0 8
  let imm := bits w 0 14
  match (majorOf w).toNat with
  | 0x01 => parseAlu d a b fn
  | 0x02 => do .ok ((← selectForm mulForms fn.toNat) d a b)
  | 0x03 | 0x04 | 0x05 | 0x06 | 0x07 | 0x08 => do .ok ((← selectForm immForms ((majorOf w).toNat - 3)) d a imm)
  | 0x09 => do unusedZero (bits imm 6 6 == 0) ((← selectForm shiftForms (bits imm 12 2).toNat) d a (bits imm 0 6))
  | 0x0B =>
    match (bits imm 0 3).toNat with
    | 0 => .ok (.ldf d a (bits imm 3 11))
    | 1 => do .ok (.ldfHandle (← handleField d) a (bits imm 3 11))
    | _ => .error .illFormed
  | 0x0C =>
    match (bits imm 0 3).toNat with
    | 0 => .ok (.stf d a (bits imm 3 11))
    | 1 => do .ok (.stfHandle (← handleField d) a (bits imm 3 11))
    | _ => .error .illFormed
  | 0x10 | 0x11 | 0x12 | 0x13 | 0x14 | 0x15 => do .ok ((← selectForm memForms ((majorOf w).toNat - 0x10)) (cmemOf w))
  | 0x18 | 0x19 | 0x1A | 0x1B | 0x1C | 0x1D | 0x1E => do .ok ((← selectForm branchForms ((majorOf w).toNat - 0x18)) d a imm)
  | 0x20 => .ok (.jal d (bits w 0 20))
  | 0x21 => .ok (.jalr d a imm)
  | 0x22 => .ok (.shpld d a (bits imm 6 8) (bits imm 0 6))
  | 0x23 => parseCounter d a b fn
  | 0x24 => parseTask d a b fn
  | 0x25 => parseBox d a b fn
  | 0x26 => parseSem d a imm
  | 0x27 => unusedZero (d == 0 && bits w 3 1 == 0) (.fence (bits w 4 16) (bits w 0 3))
  | 0x28 => parseEngine d a b fn
  | 0x29 => parseSundial d a b fn
  | 0x2A => parseGroup d a b fn
  | 0x2B => do unusedZero (bits fn 2 6 == 0) (.shardcoord d (← handleField a) b (bits fn 0 2))
  | 0x2C => unusedZero (d == 0 && a == 0) (.trap imm)
  | 0x2D => unusedZero (d == 0 && a == 0) (.brk imm)
  | 0x38 => parsePriv38 d a b fn
  | 0x39 => parsePriv39 d a b fn
  | 0x3A => parsePriv3A d a b fn
  | 0x3C => .ok (.hint (bits w 0 26))
  | 0x3E => parseWide d a b fn ext
  | _ => .error .reservedMajor

/-- A decoded instruction whose fields its form refuses is refused too (R132, R136). -/
def checkFields (x : Decoded) : Decoded :=
  match x with
  | .ok i => if i.wellFormed then .ok i else .error .illFormed
  | .error e => .error e

/-- The control decoder. -/
def decodeControl (w ext : BitVec 32) : Decoded := checkFields (parseControl w ext)

/-- Whether a control word takes an extension word (R128). -/
def isWide (w : BitVec 32) : Bool := majorOf w == 0x3E

/-- The lowest privilege level that may issue a control word: decided from the major and, within a privileged major,
from the level of the form (R142, Table 18.5). -/
def privilegeOf (w : BitVec 32) : Nat :=
  let fn := (bits w 0 8).toNat
  match (majorOf w).toNat with
  | 0x38 => 1
  | 0x39 => if fn == 6 || fn == 9 then 2 else 1
  | 0x3A => if fn == 0 || fn == 1 then 2 else 1
  | _ => 0

/-- The control transfers of R134: none of them executes in a delay slot. -/
def isTransfer : Instr → Bool
  | .beq _ _ _ | .bne _ _ _ | .blt _ _ _ | .bge _ _ _ | .bltu _ _ _ | .bgeu _ _ _ | .jal _ _ | .jalr _ _ _ => true
  | .trap _ | .brk _ | .join | .endTask | .yield | .waitAny _ _ _ | .waitAll _ _ _ | .tret | .tretEnd => true
  | _ => false

/-- The fields of a vector word (Table 8.5). -/
def vwordOf (w : BitVec 64) : VWord :=
  { d := bits w 47 9, a := bits w 38 9, b := bits w 29 9, c := bits w 20 9, k := bits w 16 4, cls := bits w 12 4,
    fmt := bits w 6 6, rm := bits w 3 3, flg := bits w 0 3 }

/-- Elementwise arithmetic (R201). -/
def vecArith : List (Nat × (VWord → Instr)) :=
  [(0x01, .vadd), (0x02, .vsub), (0x03, .vmul), (0x04, .vfma), (0x05, .vfms), (0x06, .vfnma), (0x07, .vdiv),
   (0x08, .vsqrt), (0x09, .vmin), (0x0A, .vmax), (0x0B, .vabs), (0x0C, .vneg), (0x0D, .vadds), (0x0E, .vsubs),
   (0x0F, .vmulh), (0x10, .vand), (0x11, .vor), (0x12, .vxor), (0x13, .vnot), (0x14, .vsll), (0x15, .vsrl),
   (0x16, .vsra)]

/-- Transcendentals (R204). -/
def vecFunctions : List (Nat × (VWord → Instr)) :=
  [(0x20, .vexp), (0x21, .vlog), (0x22, .vrcp), (0x23, .vrsqrt), (0x24, .vtanh), (0x25, .vsigm), (0x26, .vsin),
   (0x27, .vcos)]

/-- Compares, selection and masks (R205 to R207). -/
def vecMasks : List (Nat × (VWord → Instr)) :=
  [(0x28, .vcmp), (0x29, .vsel), (0x2A, .kand), (0x2B, .kor), (0x2C, .kxor), (0x2D, .kandn), (0x2E, .knot),
   (0x2F, .kpop), (0x30, .kfirst)]

/-- Conversion and random numbers (R208 to R210). -/
def vecConversions : List (Nat × (VWord → Instr)) :=
  [(0x38, .vcvt), (0x39, .vcvtb), (0x3A, .vrng)]

/-- Reductions (R211). -/
def vecReductions : List (Nat × (VWord → Instr)) :=
  [(0x40, .vredsum), (0x41, .vredmax), (0x42, .vredmin), (0x43, .vredand), (0x44, .vredor)]

/-- Permutes and broadcasts (R212). -/
def vecPermutes : List (Nat × (VWord → Instr)) :=
  [(0x48, .vbcast), (0x49, .vperm), (0x4A, .vslide), (0x4B, .vrot), (0x4C, .vzip), (0x4D, .vunzip), (0x4E, .vbcastel)]

/-- Partition, gather, scatter, compression (R213 to R215). -/
def vecLists : List (Nat × (VWord → Instr)) :=
  [(0x50, .vpart), (0x51, .vgather), (0x52, .vscatter), (0x53, .vcompress), (0x54, .vexpand)]

/-- Loads and stores (R216). -/
def vecMemory : List (Nat × (VWord → Instr)) :=
  [(0x58, .vld), (0x59, .vst)]

/-- Accumulator tiles (R217 to R219). -/
def vecTiles : List (Nat × (VWord → Instr)) :=
  [(0x60, .vaccrd), (0x61, .vaccwr), (0x62, .acczero)]

/-- Stream scalars (R220). -/
def vecScalars : List (Nat × (VWord → Instr)) :=
  [(0x68, .aadd), (0x69, .asub), (0x6A, .amul), (0x6B, .ashl), (0x6C, .amov), (0x6D, .ali)]

/-- Loops, queues, flags, semaphores and the fence (R221 to R225). -/
def vecControl : List (Nat × (VWord → Instr)) :=
  [(0x70, .vloop), (0x72, .vpush), (0x73, .vpop), (0x74, .vfset), (0x75, .vfwait), (0x76, .vsig), (0x77, .vswait),
   (0x78, .vfence)]

/-- The vector opcode map (Table 8.6) but for kmov, which FLG[0] tells apart (Table 11.5), vendl and vend, whose other bits are zero
(R221, R226), and the hint space. -/
def vecForms : List (Nat × (VWord → Instr)) :=
  vecArith ++ vecFunctions ++ vecMasks ++ vecConversions ++ vecReductions ++ vecPermutes
    ++ vecLists ++ vecMemory ++ vecTiles ++ vecScalars ++ vecControl

/-- The form that a code selects in a map. -/
def lookupForm {α : Type} (l : List (Nat × α)) (n : Nat) : Except DecodeError α :=
  match l.find? (fun p => p.1 == n) with
  | some p => .ok p.2
  | none => .error .reservedMajor

/-- The instruction of a vector word (R135 to R137). -/
def parseVector (w : BitVec 64) : Decoded := do
  let op := (bits w 56 8).toNat
  if 0xF0 ≤ op then .ok .vnop
  else if op = 0x31 then .ok (if w.getLsbD 0 then .kmovPfx (vwordOf w) else .kmov (vwordOf w))
  else if op = 0x71 then unusedZero (bits w 0 56 == 0) .vendl
  else if op = 0x79 then unusedZero (bits w 0 56 == 0) .vend
  else .ok ((← lookupForm vecForms op) (vwordOf w))

/-- The vector decoder. -/
def decodeVector (w : BitVec 64) : Decoded := checkFields (parseVector w)

/-- The matrix engine and the copies (R235, R236). -/
def recBox : List (Nat × (RecWord → Instr)) :=
  [(0x01, .mmul), (0x10, .copy), (0x11, .copyl), (0x12, .trans), (0x13, .perm), (0x14, .gather), (0x15, .scatter),
   (0x16, .fill)]

/-- Codebook and remote kinds (R239 to R249). -/
def recCodebook : List (Nat × (RecWord → Instr)) :=
  [(0x18, .edec), (0x19, .vqx), (0x1A, .cbload), (0x1B, .shpf), (0x20, .gcp), (0x21, .rcp), (0x22, .allred),
   (0x23, .allgath)]

/-- The rest of the mesh kinds, digests and frames (R249 to R252). -/
def recMesh : List (Nat × (RecWord → Instr)) :=
  [(0x24, .bcast), (0x25, .rdscat), (0x28, .digest), (0x30, .enc)]

/-- The record kinds (Table 8.10). -/
def recForms : List (Nat × (RecWord → Instr)) := recBox ++ recCodebook ++ recMesh

/-- 64-bit word n of a record. -/
def recWordAt (w : BitVec 512) (n : Nat) : BitVec 64 := bits w (64 * n) 64

/-- The fields of a record (Tables 8.7 to 8.9). -/
def recOf (w : BitVec 512) : RecWord :=
  let w0 := recWordAt w 0
  { prof := bits w0 52 4, shape := bits w0 48 4, wsem := bits w0 40 8, ssem := bits w0 32 8, wthr := bits w0 16 16,
    shp := w0.getLsbD 15, rel := w0.getLsbD 14, clr := w0.getLsbD 13, wrap := w0.getLsbD 12, scope := bits w0 9 3,
    sig := w0.getLsbD 8, kflags := bits w0 0 8, l1 := recWordAt w 1, l2 := recWordAt w 2, l3 := recWordAt w 3,
    l4 := recWordAt w 4, o0 := bits (recWordAt w 5) 32 32, o1 := bits (recWordAt w 5) 0 32,
    o2 := bits (recWordAt w 6) 32 32, o3 := bits (recWordAt w 6) 0 32, w7 := recWordAt w 7 }

/-- The instruction of a record (R138 to R141). -/
def parseRecord (w : BitVec 512) : Decoded := do
  let kind := bits w 56 8
  if 0xF0 ≤ kind.toNat then .ok (.hintRecord (bits kind 0 4) (recOf w))
  else .ok ((← lookupForm recForms kind.toNat) (recOf w))

/-- The record decoder. -/
def decodeRecord (w : BitVec 512) : Decoded := checkFields (parseRecord w)

/-- The engine whose program may hold a record of this kind; none for a hint record, which either runs (Table 8.10). -/
def recEngine : Instr → Option Engine
  | .mmul _ => some .matrix
  | .hintRecord _ _ => none
  | _ => some .copy

/-! ### The encoder -/

/-- The words of an instruction: one control word, a control word and its extension, a vector word, a record, or none
for a device step. -/
inductive Code where
  | word (w : BitVec 32)
  | wide (w ext : BitVec 32)
  | vector (w : BitVec 64)
  | record (w : BitVec 512)
  | event
  deriving DecidableEq, Repr

/-- C-R (Table 8.1). -/
def packR (maj d a b : BitVec 6) (fn : BitVec 8) : Code := .word (maj ++ d ++ a ++ b ++ fn)
/-- C-I, and C-B with A and B in the places of D and A. -/
def packI (maj d a : BitVec 6) (imm : BitVec 14) : Code := .word (maj ++ d ++ a ++ imm)
/-- C-M. -/
def packM (maj : BitVec 6) (m : CMem) : Code := .word (maj ++ m.r ++ m.h ++ m.idx ++ m.cls ++ m.sc ++ m.sz)
/-- C-W. -/
def packW (wop d a : BitVec 6) (f8 : BitVec 8) (ext : BitVec 32) : Code := .wide ((0x3E : BitVec 6) ++ wop ++ d ++ a ++ f8) ext
/-- A handle number in a 6-bit field. -/
abbrev hfield (h : HReg) : BitVec 6 := h.setWidth 6
/-- F8 and EXT of an atomic (R188). -/
def packAmo (wop : BitVec 6) (x : Amo) : Code :=
  packW wop x.d x.a (x.sz ++ x.sc ++ BitVec.ofBool x.acq ++ BitVec.ofBool x.rel ++ (0 : BitVec 1))
    (x.h ++ x.idx ++ x.b ++ x.cls ++ (0 : BitVec 11))
/-- A vector word (Table 8.5). -/
def packV (op : BitVec 8) (w : VWord) : Code := .vector (op ++ w.d ++ w.a ++ w.b ++ w.c ++ w.k ++ w.cls ++ w.fmt ++ w.rm ++ w.flg)
/-- Word 0 of a record (Table 8.7). -/
def packRec0 (kind : BitVec 8) (r : RecWord) : BitVec 64 :=
  kind ++ r.prof ++ r.shape ++ r.wsem ++ r.ssem ++ r.wthr ++ BitVec.ofBool r.shp ++ BitVec.ofBool r.rel ++ BitVec.ofBool r.clr
    ++ BitVec.ofBool r.wrap ++ r.scope ++ BitVec.ofBool r.sig ++ r.kflags
/-- A record: eight words, word 0 in the lowest bits. -/
def packRec (kind : BitVec 8) (r : RecWord) : Code :=
  .record (r.w7 ++ (r.o2 ++ r.o3) ++ (r.o0 ++ r.o1) ++ r.l4 ++ r.l3 ++ r.l2 ++ r.l1 ++ packRec0 kind r)

/-- The words of an instruction, from the encoding tables of the spec. -/
def encode : Instr → Code
  | .add d a b => packR 0x01 d a b 0x00
  | .sub d a b => packR 0x01 d a b 0x01
  | .and d a b => packR 0x01 d a b 0x02
  | .or d a b => packR 0x01 d a b 0x03
  | .xor d a b => packR 0x01 d a b 0x04
  | .andn d a b => packR 0x01 d a b 0x05
  | .sll d a b => packR 0x01 d a b 0x06
  | .srl d a b => packR 0x01 d a b 0x07
  | .sra d a b => packR 0x01 d a b 0x08
  | .rotl d a b => packR 0x01 d a b 0x09
  | .slt d a b => packR 0x01 d a b 0x0A
  | .sltu d a b => packR 0x01 d a b 0x0B
  | .min d a b => packR 0x01 d a b 0x0C
  | .max d a b => packR 0x01 d a b 0x0D
  | .minu d a b => packR 0x01 d a b 0x0E
  | .maxu d a b => packR 0x01 d a b 0x0F
  | .clz d a => packR 0x01 d a 0 0x10
  | .popc d a => packR 0x01 d a 0 0x11
  | .mul d a b => packR 0x02 d a b 0x00
  | .mulh d a b => packR 0x02 d a b 0x01
  | .mulhu d a b => packR 0x02 d a b 0x02
  | .mulhsu d a b => packR 0x02 d a b 0x03
  | .div d a b => packR 0x02 d a b 0x04
  | .divu d a b => packR 0x02 d a b 0x05
  | .rem d a b => packR 0x02 d a b 0x06
  | .remu d a b => packR 0x02 d a b 0x07
  | .addi d a imm => packI 0x03 d a imm
  | .andi d a imm => packI 0x04 d a imm
  | .ori d a imm => packI 0x05 d a imm
  | .xori d a imm => packI 0x06 d a imm
  | .slti d a imm => packI 0x07 d a imm
  | .sltiu d a imm => packI 0x08 d a imm
  | .slli d a n => packI 0x09 d a ((0 : BitVec 2) ++ (0 : BitVec 6) ++ n)
  | .srli d a n => packI 0x09 d a ((1 : BitVec 2) ++ (0 : BitVec 6) ++ n)
  | .srai d a n => packI 0x09 d a ((2 : BitVec 2) ++ (0 : BitVec 6) ++ n)
  | .rotli d a n => packI 0x09 d a ((3 : BitVec 2) ++ (0 : BitVec 6) ++ n)
  | .li d ext => packW 0x00 d 0 0 ext
  | .liu d ext => packW 0x01 d 0 0 ext
  | .lih d a ext => packW 0x02 d a 0 ext
  | .ldf d a off => packI 0x0B d a (off ++ (0 : BitVec 3))
  | .ldfHandle d a off => packI 0x0B (hfield d) a (off ++ (1 : BitVec 3))
  | .stf d a off => packI 0x0C d a (off ++ (0 : BitVec 3))
  | .stfHandle d a off => packI 0x0C (hfield d) a (off ++ (1 : BitVec 3))
  | .ldS m => packM 0x10 m
  | .ldZ m => packM 0x11 m
  | .st m => packM 0x12 m
  | .ldAcqS m => packM 0x13 m
  | .ldAcqZ m => packM 0x14 m
  | .stRel m => packM 0x15 m
  | .beq a b off => packI 0x18 a b off
  | .bne a b off => packI 0x19 a b off
  | .blt a b off => packI 0x1A a b off
  | .bge a b off => packI 0x1B a b off
  | .bltu a b off => packI 0x1C a b off
  | .bgeu a b off => packI 0x1D a b off
  | .loop a b off => packI 0x1E a b off
  | .jal d off => .word ((0x20 : BitVec 6) ++ d ++ off)
  | .jalr d a imm => packI 0x21 d a imm
  | .shpld d a shape entry => packI 0x22 d a (shape ++ entry)
  | .rdcyc d => packR 0x23 d 0 0 0x00
  | .rdtick d => packR 0x23 d 0 0 0x01
  | .rdcore d => packR 0x23 d 0 0 0x02
  | .join => packR 0x24 0 0 0 0x00
  | .endTask => packR 0x24 0 0 0 0x01
  | .yield => packR 0x24 0 0 0 0x02
  | .jstat d sel => packR 0x24 d 0 sel 0x03
  | .wid d sel => packR 0x24 d 0 sel 0x04
  | .dslice d sel => packR 0x24 d 0 sel 0x05
  | .boxext d a dim => packR 0x25 d (hfield a) (dim.setWidth 6) 0x00
  | .boxorg d a dim => packR 0x25 d (hfield a) (dim.setWidth 6) 0x01
  | .boxrank d a => packR 0x25 d (hfield a) 0 0x02
  | .boxfmt d a => packR 0x25 d (hfield a) 0 0x03
  | .boxmode d a => packR 0x25 d (hfield a) 0 0x04
  | .boxmov d a => packR 0x25 (hfield d) (hfield a) 0 0x05
  | .boxclr d => packR 0x25 (hfield d) 0 0 0x06
  | .boxroot d a => packR 0x25 (hfield d) a 0 0x07
  | .semset d a j i => packI 0x26 d a ((0 : BitVec 2) ++ j ++ i)
  | .semadd d a j i => packI 0x26 d a ((1 : BitVec 2) ++ j ++ i)
  | .semsub d a j i => packI 0x26 d a ((2 : BitVec 2) ++ j ++ i)
  | .semrd d i => packI 0x26 d 0 ((3 : BitVec 2) ++ (0 : BitVec 4) ++ i)
  | .fence mask sc => .word ((0x27 : BitVec 6) ++ (0 : BitVec 6) ++ mask ++ (0 : BitVec 1) ++ sc)
  | .claim a => packR 0x28 0 a 0 0x00
  | .release a => packR 0x28 0 a 0 0x01
  | .rdv => packR 0x28 0 0 0 0x02
  | .vqsend a => packR 0x28 0 a 0 0x03
  | .vqrecv d => packR 0x28 d 0 0 0x04
  | .stopen d a b => packR 0x29 d (hfield a) b 0x00
  | .stsrc d a b => packR 0x29 d a b 0x01
  | .stbind d a b => packR 0x29 d a (hfield b) 0x02
  | .strec d a b => packR 0x29 d a (hfield b) 0x03
  | .stclose a => packR 0x29 0 a 0 0x04
  | .gopen d a b => packR 0x2A d a b 0x00
  | .gcommit a b => packR 0x2A 0 a (hfield b) 0x01
  | .gabort a => packR 0x2A 0 a 0 0x02
  | .gstat d a => packR 0x2A d a 0 0x03
  | .shardcoord d a b dim => packR 0x2B d (hfield a) b (dim.setWidth 8)
  | .trap code => packI 0x2C 0 0 code
  | .brk code => packI 0x2D 0 0 code
  | .hint x => .word ((0x3C : BitVec 6) ++ x)
  | .waitAny d a ext => packW 0x04 d a 0 ext
  | .waitAll d a ext => packW 0x05 d a 0 ext
  | .fork ext => packW 0x08 0 0 0 ext
  | .xq d a f8 ext => packW 0x09 d a f8 ext
  | .ecfg a eng slot ext => packW 0x0A 0 a (eng ++ (0 : BitVec 2) ++ slot) ext
  | .enest d a eng lvl ext => packW 0x0B d a (eng ++ (0 : BitVec 5) ++ lvl) ext
  | .spawn d a ext => packW 0x10 d a 0 ext
  | .spawnDown d a ext => packW 0x11 d a 0 ext
  | .dspawn d a ext => packW 0x12 d a 0 ext
  | .boxsub d a dim reg ext => packW 0x13 (hfield d) (hfield a) (BitVec.ofBool reg ++ (0 : BitVec 5) ++ dim) ext
  | .boxnew d a mode policy => packW 0x14 (hfield d) (hfield a) (mode ++ policy) 0
  | .amoadd x => packAmo 0x18 x
  | .amoand x => packAmo 0x19 x
  | .amoor x => packAmo 0x1A x
  | .amoxor x => packAmo 0x1B x
  | .amomin x => packAmo 0x1C x
  | .amomax x => packAmo 0x1D x
  | .amominu x => packAmo 0x1E x
  | .amomaxu x => packAmo 0x1F x
  | .amoswap x => packAmo 0x20 x
  | .amocas x => packAmo 0x21 x
  | .amofadd x => packAmo 0x22 x
  | .incw x => packAmo 0x23 x
  | .faddb x => packAmo 0x24 x
  | .redadd x => packAmo 0x28 x
  | .redand x => packAmo 0x29 x
  | .redor x => packAmo 0x2A x
  | .redxor x => packAmo 0x2B x
  | .redmin x => packAmo 0x2C x
  | .redmax x => packAmo 0x2D x
  | .redminu x => packAmo 0x2E x
  | .redmaxu x => packAmo 0x2F x
  | .redfadd x => packAmo 0x30 x
  | .stG x => packW 0x38 x.s x.a (x.sz ++ x.cls ++ (0 : BitVec 2)) (x.h ++ x.idx ++ (0 : BitVec 21))
  | .mfsr d sr => packR 0x38 d (bits sr 6 6) (bits sr 0 6) 0x00
  | .mtsr d sr => packR 0x38 d (bits sr 6 6) (bits sr 0 6) 0x01
  | .tret => packR 0x38 0 0 0 0x02
  | .tretEnd => packR 0x38 0 0 1 0x02
  | .ctxsave d a => packR 0x39 d a 0 0x00
  | .ctxload d a => packR 0x39 d a 0 0x01
  | .preempt d a => packR 0x39 d a 0 0x02
  | .qadmit d a => packR 0x39 d (hfield a) 0 0x03
  | .qrelease a => packR 0x39 0 a 0 0x04
  | .qcancel a => packR 0x39 0 a 0 0x05
  | .partset d a b => packR 0x39 d a (hfield b) 0x06
  | .tlbinv a b => packR 0x39 0 a b 0x07
  | .isend a b => packR 0x39 0 a b 0x08
  | .corefence a b => packR 0x39 0 a b 0x09
  | .phyrd d a => packR 0x3A d a 0 0x00
  | .phywr a b => packR 0x3A 0 a b 0x01
  | .halt => packR 0x3A 0 0 0 0x02
  | .vadd w => packV 0x01 w
  | .vsub w => packV 0x02 w
  | .vmul w => packV 0x03 w
  | .vfma w => packV 0x04 w
  | .vfms w => packV 0x05 w
  | .vfnma w => packV 0x06 w
  | .vdiv w => packV 0x07 w
  | .vsqrt w => packV 0x08 w
  | .vmin w => packV 0x09 w
  | .vmax w => packV 0x0A w
  | .vabs w => packV 0x0B w
  | .vneg w => packV 0x0C w
  | .vadds w => packV 0x0D w
  | .vsubs w => packV 0x0E w
  | .vmulh w => packV 0x0F w
  | .vand w => packV 0x10 w
  | .vor w => packV 0x11 w
  | .vxor w => packV 0x12 w
  | .vnot w => packV 0x13 w
  | .vsll w => packV 0x14 w
  | .vsrl w => packV 0x15 w
  | .vsra w => packV 0x16 w
  | .vexp w => packV 0x20 w
  | .vlog w => packV 0x21 w
  | .vrcp w => packV 0x22 w
  | .vrsqrt w => packV 0x23 w
  | .vtanh w => packV 0x24 w
  | .vsigm w => packV 0x25 w
  | .vsin w => packV 0x26 w
  | .vcos w => packV 0x27 w
  | .vcmp w => packV 0x28 w
  | .vsel w => packV 0x29 w
  | .kand w => packV 0x2A w
  | .kor w => packV 0x2B w
  | .kxor w => packV 0x2C w
  | .kandn w => packV 0x2D w
  | .knot w => packV 0x2E w
  | .kpop w => packV 0x2F w
  | .kfirst w => packV 0x30 w
  | .vcvt w => packV 0x38 w
  | .vcvtb w => packV 0x39 w
  | .vrng w => packV 0x3A w
  | .vredsum w => packV 0x40 w
  | .vredmax w => packV 0x41 w
  | .vredmin w => packV 0x42 w
  | .vredand w => packV 0x43 w
  | .vredor w => packV 0x44 w
  | .vbcast w => packV 0x48 w
  | .vperm w => packV 0x49 w
  | .vslide w => packV 0x4A w
  | .vrot w => packV 0x4B w
  | .vzip w => packV 0x4C w
  | .vunzip w => packV 0x4D w
  | .vbcastel w => packV 0x4E w
  | .vpart w => packV 0x50 w
  | .vgather w => packV 0x51 w
  | .vscatter w => packV 0x52 w
  | .vcompress w => packV 0x53 w
  | .vexpand w => packV 0x54 w
  | .vld w => packV 0x58 w
  | .vst w => packV 0x59 w
  | .vaccrd w => packV 0x60 w
  | .vaccwr w => packV 0x61 w
  | .acczero w => packV 0x62 w
  | .aadd w => packV 0x68 w
  | .asub w => packV 0x69 w
  | .amul w => packV 0x6A w
  | .ashl w => packV 0x6B w
  | .amov w => packV 0x6C w
  | .ali w => packV 0x6D w
  | .vloop w => packV 0x70 w
  | .vendl => .vector ((0x71 : BitVec 8) ++ (0 : BitVec 56))
  | .vpush w => packV 0x72 w
  | .vpop w => packV 0x73 w
  | .vfset w => packV 0x74 w
  | .vfwait w => packV 0x75 w
  | .vsig w => packV 0x76 w
  | .vswait w => packV 0x77 w
  | .vfence w => packV 0x78 w
  | .vend => .vector ((0x79 : BitVec 8) ++ (0 : BitVec 56))
  | .kmov w => packV 0x31 w
  | .kmovPfx w => packV 0x31 w
  | .vnop => .vector ((0xF0 : BitVec 8) ++ (0 : BitVec 56))
  | .mmul r => packRec 0x01 r
  | .copy r => packRec 0x10 r
  | .copyl r => packRec 0x11 r
  | .trans r => packRec 0x12 r
  | .perm r => packRec 0x13 r
  | .gather r => packRec 0x14 r
  | .scatter r => packRec 0x15 r
  | .fill r => packRec 0x16 r
  | .edec r => packRec 0x18 r
  | .vqx r => packRec 0x19 r
  | .cbload r => packRec 0x1A r
  | .shpf r => packRec 0x1B r
  | .gcp r => packRec 0x20 r
  | .rcp r => packRec 0x21 r
  | .allred r => packRec 0x22 r
  | .allgath r => packRec 0x23 r
  | .bcast r => packRec 0x24 r
  | .rdscat r => packRec 0x25 r
  | .digest r => packRec 0x28 r
  | .enc r => packRec 0x30 r
  | .hintRecord k r => packRec ((0xF : BitVec 4) ++ k) r
  | .loadDataReturn _ _ _ => .event
  | .haltWake _ => .event
  | .recordStart _ _ => .event
  | .recordComplete _ _ => .event
  | .encoderFrameStart _ => .event
  | .encoderFrameComplete _ => .event
  | .encoderFrameSwitch _ => .event
  | .dispatch _ => .event
  | .preemption _ => .event
  | .storageUnitSave _ _ => .event
  | .sliceBudgetExhausted _ => .event
  | .contractRelease _ _ => .event
  | .periodicRelease _ => .event
  | .doorbell _ _ => .event
  | .launch _ => .event
  | .childStorageAllocation _ => .event
  | .copyInComplete _ => .event
  | .taskReturn _ => .event
  | .waitTimeout _ => .event
  | .waitConditionMet _ => .event
  | .faultDelivery _ => .event
  | .interruptEntry _ => .event
  | .belvedereMismatch _ _ => .event
  | .scrubSweep _ _ => .event
  | .pageWalk _ _ => .event
  | .streamRecordEntry _ => .event
  | .sundialTick _ => .event
  | .sourceIdle _ => .event
  | .windowPublication _ => .event
  | .orangeryStaging _ => .event
  | .withdrawal _ _ => .event
  | .prepareSend _ => .event
  | .prepared _ _ => .event
  | .groupDecision _ => .event
  | .publish _ _ => .event
  | .groupFree _ => .event
  | .groupTimeout _ => .event
  | .abortDiscard _ _ => .event
  | .replicaDigestCompare _ => .event
  | .flitReceive _ _ => .event
  | .portDown _ => .event
  | .routeRestored _ => .event
  | .rdly _ _ _ _ => .event
  | .wdly _ _ _ _ => .event
  | .trctl _ _ _ => .event
  | .trainingRunDone _ _ => .event
  | .lrep _ _ _ => .event
  | .chctl _ _ _ => .event
  | .channelDrained _ _ => .event
  | .grancmd _ _ => .event
  | .granuleChangeDone _ => .event
  | .repcmd _ _ => .event
  | .rowRepairDone _ => .event
  | .clsev _ => .event
  | .pcerase _ _ => .event
  | .mbsend _ => .event
  | .submit _ _ => .event
  | .registerWrite _ _ _ => .event
  | .supervisorLaunch _ => .event
  | .privilegedLaunch _ _ _ => .event
  | .svcrun _ _ => .event
  | .serviceTaskEnd _ => .event
  | .deviceStart _ => .event
  | .bootok _ => .event
  | .minver _ => .event
  | .keyrev _ => .event
  | .attestationRequest _ => .event
  | .recoveryImage _ => .event
  | .hostMemoryAccess _ _ _ => .event
  | .powerLoss => .event
  | .serviceCoreReset _ => .event
  | .contractAccountExhausted _ _ _ => .event
  | .postedStorePerform _ _ _ => .event

/-- The instruction that the bits of one opcode-table row give, laid out as the hardware stores them: 32 bits are a
control word, 64 bits a C-W control instruction where the first word's major says so and a vector word otherwise, 512
bits a record (R128, R135, R138). -/
def decodeTableWord (nbits w : Nat) : Option Instr :=
  let r := if nbits ≤ 32 then decodeControl (BitVec.ofNat 32 w) 0
    else if nbits ≤ 64 then
      if isWide (BitVec.ofNat 32 w) then decodeControl (BitVec.ofNat 32 w) (BitVec.ofNat 32 (w >>> 32))
      else decodeVector (BitVec.ofNat 64 w)
    else decodeRecord (BitVec.ofNat 512 w)
  match r with
  | .ok i => some i
  | .error _ => none

/-- The instruction that the words of an encoding give. -/
def decode (c : Code) : Option Instr :=
  match c with
  | .word w => (decodeControl w 0).toOption
  | .wide w ext => (decodeControl w ext).toOption
  | .vector w => (decodeVector w).toOption
  | .record w => (decodeRecord w).toOption
  | .event => none

end Sys2Proof
end

