-- ==== Sys2Proof/Config.lean ====
section
/-! DEFINITION. What one KP9-512 fixes, and the free values: constants without a body that stand for every value the
spec leaves open. Nothing in Lean can evaluate them, so a statement about one holds whatever it is (log 11). -/

namespace Sys2Proof.Config

/-- An undefined value of any width: the n-th free value of the run (log 11). -/
opaque freeValue : Nat → Nat

/-- Who acts in a step once the agenda is empty (log 1): the n-th choice of the run. -/
opaque nextPick : Nat → Pick

/-- The last digit of a transcendental function whose two bounds do not separate at the model's precision: the number
of the function, the operand's bits and the format (log 14). -/
opaque roundUp : Nat → Nat → Nat → Bool

/-- The bitstream an encoder produces (R252): parameters, the context before or nothing, frame bytes. -/
opaque encoderBits : Nat → List Byte → List Byte → List Byte

/-- Whether the header of an encoder context matches W, H and CODEC (R252): those three as one number, context bytes. -/
opaque encoderMatches : Nat → List Byte → Bool

/-- The context that an encoder leaves after a frame (R252): parameters, the context before or nothing, frame bytes; and the frame
number that a context stands at. -/
opaque encoderContext : Nat → List Byte → List Byte → List Byte
opaque encoderSequence : List Byte → Nat

/-- A signature that the device makes over a report (R360): 0 for RSA-3072 or 1 for SLH-DSA, report. -/
opaque signatureOf : Nat → List Byte → List Byte

/-- The device serial number (R360), byte by byte. -/
opaque deviceIdentity : Nat → Byte

/-- How many spare rows a bank has at power-on: stack and bank number (R321). -/
opaque spareRows : Nat → Nat → Nat

/-- Whether the unit at an address lies in a row, which the spec does not derive from addresses (R321, R342): die, pseudo-channel,
bank, row, address. -/
opaque onRow : Nat → Nat → Nat → Nat → Nat → Bool

/-- The CRC of a flit (R353), over its first 240 bytes. -/
opaque flitCrc : List Byte → BitVec 128

/-- One byte of an opaque section of a context slot (Table 19.5): context slot, offset. -/
opaque opaqueByte : Nat → Nat → Byte

/-- The fused hash of a key slot (R357). -/
opaque fusedHash : Nat → List Byte

/-- Physical address of the box list of the task whose continuation record lies at an address (Table 2.1). -/
opaque boxList : Nat → Nat

end Sys2Proof.Config
end

