-- ==== Sys2Proof/Machine/Memory.lean ====
section
/-! DEFINITION. Sparse maps and byte memory as plain data, each in one canonical form: keys strictly rising, and in a
memory no entry equal to what an unlisted address reads as, which is the zero byte (log 7). -/

namespace Sys2Proof.Machine

/-- A sparse map: key and value pairs, keys strictly rising. -/
abbrev SMap (α : Type) := List (Nat × α)

/-- The value under a key. -/
def SMap.find {α : Type} (m : SMap α) (k : Nat) : Option α :=
  match m with
  | [] => none
  | (j, v) :: r => if j = k then some v else SMap.find r k

/-- The value under a key, or a default. -/
def SMap.get {α : Type} (m : SMap α) (k : Nat) (d : α) : α := (SMap.find m k).getD d

/-- Put a value under a key. -/
def SMap.put {α : Type} (m : SMap α) (k : Nat) (v : α) : SMap α :=
  m.filter (fun p => p.1 < k) ++ (k, v) :: m.filter (fun p => k < p.1)

/-- Remove a key. -/
def SMap.del {α : Type} (m : SMap α) (k : Nat) : SMap α := m.filter (fun p => p.1 != k)

/-- The lowest number from start on that is no key, of so many tries. -/
def SMap.fresh {α : Type} (m : SMap α) (start : Nat) : Nat → Nat
  | 0 => start
  | fuel + 1 => if (SMap.find m start).isSome then SMap.fresh m (start + 1) fuel else start

/-- The lowest number that is no key of a map. -/
def SMap.lowestFree {α : Type} (m : SMap α) : Nat := SMap.fresh m 0 (m.length + 1)

/-- Byte memory: address and byte pairs, addresses strictly rising, no zero byte listed. -/
abbrev Memory := List Host.Cell

/-- What an address that is not listed reads as (log 7). -/
def unlistedByte : Byte := 0

/-- The canonical form: addresses strictly rising, no entry equal to the unlisted byte. -/
def Memory.wf : Memory → Bool
  | [] => true
  | [c] => c.2 != unlistedByte
  | c :: d :: r => c.2 != unlistedByte && c.1 < d.1 && Memory.wf (d :: r)

/-- One byte. -/
def Memory.read (m : Memory) (a : Nat) : Byte :=
  match m with
  | [] => unlistedByte
  | c :: r => if c.1 = a then c.2 else Memory.read r a

/-- The cells that hold a run of bytes, the zero bytes left out. -/
def cellsOf (a : Nat) : List Byte → Memory
  | [] => []
  | b :: r => if b = unlistedByte then cellsOf (a + 1) r else (a, b) :: cellsOf (a + 1) r

/-- Write a run of bytes from an address on. -/
def Memory.write (m : Memory) (a : Nat) (bs : List Byte) : Memory :=
  m.filter (fun c => c.1 < a) ++ cellsOf a bs ++ m.filter (fun c => a + bs.length ≤ c.1)

/-- Make every byte of a range zero. -/
def Memory.clear (m : Memory) (a n : Nat) : Memory := m.filter (fun c => c.1 < a || a + n ≤ c.1)

/-- A run of n bytes. -/
def Memory.readList (m : Memory) (a : Nat) : Nat → List Byte
  | 0 => []
  | n + 1 => Memory.read m a :: Memory.readList m (a + 1) n

/-- The number that bytes hold, the first the least significant (R5). -/
def bytesToNat : List Byte → Nat
  | [] => 0
  | b :: r => b.toNat + 256 * bytesToNat r

/-- The n low bytes of a number, the least significant first (R5). -/
def natToBytes : Nat → Nat → List Byte
  | 0, _ => []
  | n + 1, x => BitVec.ofNat 8 x :: natToBytes n (x / 256)

/-- The little-endian number in n bytes from an address on. -/
def Memory.readNat (m : Memory) (a n : Nat) : Nat := bytesToNat (Memory.readList m a n)

/-- Write a number into n bytes, little-endian. -/
def Memory.writeNat (m : Memory) (a n x : Nat) : Memory := Memory.write m a (natToBytes n x)

/-- One byte of a write: the address, the bits it replaces and their values. An element narrower than a byte replaces
part of one (R84). -/
structure ByteWrite where
  a : Nat
  mask : Byte
  v : Byte
  deriving DecidableEq, Repr

/-- Perform one byte of a write. -/
def Memory.apply (m : Memory) (w : ByteWrite) : Memory :=
  Memory.write m w.a [(Memory.read m w.a &&& ~~~w.mask) ||| (w.v &&& w.mask)]

/-- Perform the bytes of a write. -/
def Memory.applyAll (m : Memory) : List ByteWrite → Memory
  | [] => m
  | w :: r => Memory.applyAll (Memory.apply m w) r

/-- Whole bytes as a write. -/
def byteWrites (a : Nat) : List Byte → List ByteWrite
  | [] => []
  | b :: r => { a := a, mask := 0xFF, v := b } :: byteWrites (a + 1) r

end Sys2Proof.Machine
end

