-- ==== Sys2Proof/Machine/State.lean ====
section
/-! DEFINITION. The state of the KP9-512, all of it plain data, and the state after reset. INVENTORY.md lists every
piece with the rule that names it. -/

namespace Sys2Proof.Machine
open Sys2Proof

/-! ### A task's contexts -/

/-- An entry of the loop stack (R155). -/
structure LoopEntry where
  start : Nat
  stop : Nat
  left : Nat
  index : Nat
  reg : SReg
  deriving DecidableEq, Repr

/-- A taken branch that waits for its delay slot (R133, R134): the branch's address, the target, and the link register
with the value it held before the branch (R273). -/
structure Delay where
  branch : Nat
  target : Nat
  link : Option (SReg × Word)
  deriving DecidableEq, Repr

/-- The trap frame of R271: s1 to s63, h0 to h31, the loop stack; and which registers it holds poisoned (R337). -/
structure TrapFrame where
  s : SMap Word
  h : SMap Handle
  loops : List LoopEntry
  bad : List Nat
  hbad : List Nat
  own : List Nat
  deriving DecidableEq, Repr

/-- The control context of a task. -/
structure Ctl where
  /-- s0 to s63; an unlisted register holds 0. -/
  s : SMap Word
  /-- h0 to h31; an unlisted register holds the empty handle. -/
  h : SMap Handle
  /-- Byte offset of the next instruction in the code image (R130). -/
  pc : Nat
  delay : Option Delay
  loops : List LoopEntry
  /-- PSTATE.PL, IE and ACT (R269). -/
  pl : Nat
  ie : Bool
  act : Bool
  /-- The trap registers of R268. -/
  tstate : Word
  taddr : Word
  tresume : Word
  tval : Word
  trec : Word
  tframe : TrapFrame
  /-- Stopped by halt (R288). -/
  halted : Bool
  /-- Scalar registers whose value is poisoned (R337), handle registers that hold an uncorrectable word (R335), and the scalar registers
  among the first whose error is of the core's own storage (R339). -/
  bad : List Nat
  hbad : List Nat
  own : List Nat
  deriving DecidableEq, Repr

/-- A vector register: tag, data plane, scale plane (R57, R67), and the 64-bit words that are poisoned: 0 to 255 of the data plane, 256
to 319 of the scale plane (R335, R337), and whether an error of the core's own storage is among them (R339). -/
structure VReg where
  tag : Fmt
  data : BitVec 16384
  scale : BitVec 4096
  bad : List Nat
  own : Bool
  deriving DecidableEq, Repr

/-- An entry of the vector loop stack (R221). -/
structure VLoop where
  start : Nat
  stop : Nat
  left : Nat
  index : Nat
  reg : Option Nat
  deriving DecidableEq, Repr

/-- A vector instruction that the sequencer has decoded and that has yet to issue (R196): its word and where it stands, whether it has
started on a tile entry, and how many instructions have come after it. -/
structure Queued where
  word : BitVec 64
  pc : Nat
  opened : Bool
  behind : Nat
  deriving DecidableEq, Repr

/-- The vector context of a task (11). -/
structure Vec where
  /-- The sequencer holds a stream. -/
  on : Bool
  /-- Byte offset of the next vector word. -/
  pc : Nat
  /-- Slip depth (R195). -/
  slip : Nat
  v : SMap VReg
  k : SMap (BitVec 4096)
  a : SMap Word
  b : SMap Handle
  flags : BitVec 16
  /-- Vector-to-control queue, oldest first (R222). -/
  vq : List Word
  /-- Control-to-vector queue, oldest first (R222). -/
  cq : List Word
  loops : List VLoop
  /-- The V timeline and the V operations issued (R25, R226). -/
  done : Nat
  issued : Nat
  /-- The instruction at pc has started on a tile entry (R53). -/
  opened : Bool
  /-- Mask registers, stream scalars and stream handles that hold an uncorrectable word (R335). -/
  kbad : List Nat
  abad : List Nat
  bbad : List Nat
  /-- The instructions before the one at pc that have yet to issue, oldest first (R196). -/
  queued : List Queued := []
  deriving DecidableEq, Repr

/-- A loop level beyond the record's four (R181). -/
structure Nest where
  trip : Nat
  s0 : BitVec 16
  s1 : BitVec 16
  s2 : BitVec 16
  deriving DecidableEq, Repr

/-- The states of a tile entry (R53). -/
inductive TileSt where
  | empty
  | filling
  | ready
  | draining
  deriving DecidableEq, Repr

/-- A tile-table entry and its storage (R52, R66, R232, R233). -/
structure Tile where
  st : TileSt
  readers : Nat
  tag : Fmt
  /-- The unit of an I40 tile: quarter units (R66). -/
  quarter : Bool
  e0 : Nat
  e1 : Nat
  e2 : Nat
  e3 : Nat
  data : BitVec 2097152
  scale : BitVec 32768
  claimed : Bool
  /-- Its poisoned words (R336): of an operand slot the 64-bit words of the data plane, from 32,768 on those of the scale plane; of an
  accumulator tile the 64-bit containers, one for each element. -/
  bad : List Nat
  deriving DecidableEq, Repr

/-- A tile entry that a record has moved, as it stood before the record started, and whether the record updates it (R55). -/
structure Moved where
  id : Nat
  tile : Tile
  update : Bool
  deriving DecidableEq, Repr

/-- A record in an engine's queue (R178, R231): its number, its words, the copies taken at issue, whether it came from
XQ or is a record of a FORK program, and how far it has come. -/
structure QRec where
  num : Nat
  /-- Where a FORK program's record stands in the code image: its words are fetched when it comes to start. -/
  off : Option Nat
  w : BitVec 512
  hs : SMap Handle
  cfg : SMap Word
  n5 : Nest
  n6 : Nest
  /-- Whether it is the last record of a FORK program, or an XQ record of its own. -/
  progEnd : Bool
  xq : Bool
  started : Bool
  /-- Trip counts of the six levels, innermost first, fetched at the start. -/
  trips : List Nat
  pass : Nat
  /-- The cursor of edec, and the tile ids that earlier passes of a clearing mmul named. -/
  cursor : Nat
  named : List Nat
  /-- The pass at hand has started: its tile entries are in the states of Table 3.8's third column. -/
  opened : Bool
  moved : List Moved
  deriving DecidableEq, Repr

/-- A matrix or copy engine context of a task. -/
structure Eng where
  done : Nat
  issued : Nat
  queue : List QRec
  cfg : SMap Word
  n5 : Nest
  n6 : Nest
  /-- Collectives started, by kind, axis and TAG (R249). -/
  colls : SMap Nat
  deriving DecidableEq, Repr

/-- A codebook slot (R240, R241). -/
structure Codebook where
  ty : Nat
  gen : Nat
  busy : Nat
  fmt : Fmt
  elems : Nat
  bytes : List Byte
  /-- A word of it is poisoned (R336). -/
  bad : Bool
  deriving DecidableEq, Repr

/-- What a vector load in flight brings (R196, R214, R216): its register and format; the bytes of each element, with the bit of the first
at which it starts; and the bytes of the headers of their blocks. -/
structure VecLoad where
  reg : Nat
  fmt : Fmt
  els : List (Nat × List Nat × Nat)
  hdrs : List (Nat × List Nat)
  /-- Elements that have been read before the others (R84): number and value; the words of their poison, and whether the core's own. -/
  got : List (Nat × Nat) := []
  bad : List Nat := []
  own : Bool := false
  deriving DecidableEq, Repr

/-- Every byte that a vector load reads. -/
def VecLoad.cells (l : VecLoad) : List Nat := l.els.flatMap (fun e => e.2.1) ++ l.hdrs.flatMap (fun h => h.2)

/-- The operations of the atomics (R188, R189). -/
inductive AmoFn where
  | add | and | or | xor | min | max | minu | maxu | swap | cas | fadd | incw | faddb
  deriving DecidableEq, Repr

/-- What an atomic does to its element when it performs (R93): the operation, the format, and its operands. -/
structure Rmw where
  fn : AmoFn
  fmt : Fmt
  a : Word
  b : Word
  deriving DecidableEq, Repr

/-- Where the data of a load in flight goes: a scalar register, or a register of the vector stream; the refusal flag of faddb goes to a second
one. -/
structure LoadDst where
  reg : SReg
  signed : Bool
  vector : Option VecLoad := none
  reg2 : SReg := 0
  deriving DecidableEq, Repr

/-- An access in flight: a box load, or a store in the posted store queue (R146), of a task's stream; a record's
writes carry the record's number. -/
structure Access where
  stream : Stream
  cls : BitVec 4
  scope : BitVec 3
  acq : Bool
  rel : Bool
  load : Option LoadDst
  /-- The physical bytes a load reads. -/
  cells : List Nat
  writes : List ByteWrite
  num : Nat
  /-- An atomic (R93). -/
  rmw : Option Rmw := none
  /-- The writes of a vector store or a pass by the parts that are single-copy atomic, in order (R84): how many bytes each has. -/
  parts : List Nat := []
  /-- A suspension has abandoned it and it is to be issued again (R99, R227): the virtual 64 KiB pages of its DRAM frames, by frame. -/
  again : Option (List (Nat × Nat)) := none
  deriving DecidableEq, Repr

/-- A fault of a record or a vector instruction that waits for the next control boundary (R272). -/
structure PendFault where
  code : Nat
  val : Word
  deriving DecidableEq, Repr

/-- A condition of a WAIT (Table 10.4), its threshold resolved. -/
structure WaitCond where
  src : Nat
  index : Nat
  t : Nat
  deriving DecidableEq, Repr

/-- A WAIT in progress (R184, R185). -/
structure Wait where
  conds : List WaitCond
  all : Bool
  dst : SReg
  timeoutAt : Nat
  /-- The bits that s[D] takes, once a tick has ended in which the conditions were met or the timeout expired (R185). -/
  met : Option Nat
  deriving DecidableEq, Repr

/-- What DSPAWN gives a slice (R170). -/
structure Slice where
  first : Nat
  last : Nat
  n : Nat
  p : Nat
  trips : List Nat
  logical : Nat
  deriving DecidableEq, Repr

/-- A box argument of a child: the handle in the parent's terms, the padding, and the child's own handle (R43, R44). -/
structure Arg where
  /-- The parent's handle, and the offset and extents of the sub-box in it. -/
  parent : Handle
  off : List Nat
  ext : List Nat
  padLo : List Nat
  padHi : List Nat
  /-- The storage is the child's own copy. -/
  fresh : Bool
  child : Handle
  /-- The inward copy as SPAWN read it (R43): elements and block headers of the child's box in linear order, and the address of
  the first poisoned byte among them. -/
  snap : List Nat
  hdrs : List Nat
  bad : Option Nat
  /-- A rollback has to read the copy again (R329). -/
  stale : Bool
  deriving DecidableEq, Repr

/-- The task states of Table 2.2. -/
inductive TaskSt where
  | copyingIn
  | runnable
  | running
  | waiting
  | joined
  | retiring
  | returning
  | returned
  | held
  | deferred
  deriving DecidableEq, Repr

/-- What created a task. -/
inductive TaskKind where
  | root
  | child (group : Nat)
  | firing (binding window : Nat)
  | amendment (binding window : Nat)
  | service (die : Nat)
  deriving DecidableEq, Repr

/-- Kinds of storage units (R303), and the engines that a Waiting task may keep (R185). -/
inductive StoreClass where
  | vregs
  | slots
  | accs
  | codebooks
  | scratch
  | vector
  | matrix
  | copy
  deriving DecidableEq, Repr

/-- The core registers that travel with a context (R268): SVEC, TDELEG and SUPCYC. -/
structure CoreRegs where
  svec : Word
  tdeleg : Word
  supcyc : Word
  deriving DecidableEq, Repr

/-- The continuation record's fields (R13) and what the scheduler keeps beside them. -/
structure Rec where
  launch : Nat
  kind : TaskKind
  parent : Option Nat
  /-- Physical address of the record. -/
  pa : Nat
  cluster : Nat
  entry : Nat
  fslot : Nat
  fsize : Nat
  level : Nat
  cls : Nat
  jcount : Nat
  child : Nat
  deadline : Nat
  budget : Nat
  contract : Nat
  wid : Nat
  boxes : List Handle
  status : Nat
  preempted : Bool
  det : Bool
  /-- A child of a down spawn: its storage is its own (R16). -/
  down : Bool
  resumed : Bool
  /-- END has issued: the task is Retiring, or shows Runnable while it is pre-empted (R28, R29). -/
  ending : Bool
  ctx : Nat
  /-- Budget of the task descriptor, 0 for none (R297, R368). -/
  descBudget : Nat
  /-- Sizes of the declared scratchpad buffers, by tile id (R52). -/
  sbufs : SMap Nat
  reruns : Nat
  /-- Rollbacks of it, those without a fault code among them: packets of a group name the run that sent them (R123). -/
  runs : Nat
  slice : Option Slice
  /-- The core whose scratchpad holds a level-2 task's boxes, and the core that DSPAWN fixed for a slice (R32). -/
  bound : Option Nat
  fixed : Option Nat
  /-- A task-fatal end that waits for live children (R30). -/
  dead : Bool
  /-- The overrun grant of the slice has been used (R298). -/
  granted : Bool
  /-- Cycle at which it was dispatched last (R296). -/
  dispatchedAt : Nat
  /-- The core that still holds the task's storage units, and the sections current in its slot (R303). -/
  home : Option Nat
  saved : BitVec 64
  /-- Sections that its new core has not loaded, since nothing has used them (R304); they are current in its slot. -/
  lazy : BitVec 64 := 0
  /-- It was pre-empted inside a slice (R297); the cycle at which it left its core; the engines of a Waiting task that a claim has
  stopped (R185); its core registers while it holds no core (R268). -/
  midSlice : Bool
  leftAt : Nat
  stops : List Stream
  cregs : Option CoreRegs
  /-- It resumes from JOIN or YIELD at its next dispatch (R13, R23). -/
  resuming : Bool
  /-- The core it holds, while it holds one. -/
  core : Option Nat
  args : List Arg
  /-- Spawn groups that the next JOIN waits for. -/
  groups : List Nat
  js0 : Word
  js1 : Word
  js2 : Word
  js3 : Word
  /-- The group whose digests its gcommit waits for, and whether they have been compared (R127). -/
  comparing : Option (Nat × Bool)
  deriving DecidableEq, Repr

/-- Belvedere's own copy of s0 to s63, h0 to h31 and the loop stack, and its load-value queue (R332): the values from outside the
register file that it has not yet taken. -/
structure Belvedere where
  s : SMap Word
  h : SMap Handle
  loops : List LoopEntry
  loads : List (Nat × Word)
  /-- An operation that is compared only at a trap entry has gone wrong (R332). -/
  struck : Bool := false
  deriving DecidableEq, Repr

/-- A task. -/
structure Task where
  st : TaskSt
  r : Rec
  ctl : Ctl
  vec : Vec
  mat : Eng
  cpy : Eng
  tiles : SMap Tile
  cbs : SMap Codebook
  sems : SMap (BitVec 32)
  frame : Memory
  /-- The 64-bit words of the frame that are poisoned (R336). -/
  frameBad : List Nat := []
  pend : List Access
  /-- Accesses that a page holds back while a trap handler runs: they are issued again after it (R161). -/
  kept : List Access := []
  wait : Option Wait
  pendFault : Option PendFault
  /-- The 64-bit words of the semaphore file that are poisoned (R336). -/
  semBad : List Nat
  bel : Belvedere
  /-- The operations on tile entries that started in a cycle, with that cycle: the entry, and 0 for the matrix engine, 1 for the copy
  engine, 2 for the vector sequencer (R54); and the changes and tests of semaphores, numbered from 64: 0 and 1 for a record's signal, 2 for
  vsig, 3 for the control stream, 4 for a record's test (R186). -/
  tileCycle : Nat
  tileStarts : List (Nat × Nat)
  deriving DecidableEq, Repr

/-! ### Cores, clusters, dies and stacks -/

/-- A region descriptor (Table 3.2) with its lineage entry (R119) and, for a root region, the global sizes (R117). -/
structure Region where
  base : Nat
  size : List Nat
  stride : List Nat
  fmt : Fmt
  layout : BitVec 4
  rank : BitVec 2
  level : BitVec 2
  valid : Bool
  shard : BitVec 24
  root : Option Nat
  /-- Root coordinates of element 0: padding may reach below the root region (R44). -/
  org : List Int
  g : List Nat
  /-- Bytes of storage an allocated region takes, and the task it belongs to. -/
  bytes : Nat
  owner : Nat
  /-- The launch whose table of level 1 or 2 holds it (R37). -/
  launch : Option Nat
  /-- Level-0 storage that a view spawn's SCRATCH box receives stands outside every page, at this address (log 21). -/
  place : Option Nat
  deriving DecidableEq, Repr

/-- A core: compute cores 0 to 1,151, service cores 1,152 + die. -/
structure Core where
  task : Option Nat
  /-- Fenced (R286, R340). -/
  fenced : Bool
  svec : Word
  tdeleg : Word
  ipend : BitVec 256
  supcyc : Word
  /-- The supervisor frame (R271). -/
  sframe : Memory
  /-- A pre-emption request accepted, and whether a fence or PREEMPT raised it (R281, R296). -/
  request : Bool
  /-- The cycle in which it was raised (R307), and the poisoned words of the supervisor frame (R336). -/
  asked : Option Nat := none
  sframeBad : List Nat := []
  /-- The record that raised a request (R307), and the kind of storage unit that a use on the core waits for (R304). -/
  claimant : Option Nat
  claim : Option StoreClass
  /-- The context buffer: the suspended tasks whose control state it holds, oldest first (R301). -/
  buffer : List Nat
  /-- Level-2 region table (R37). -/
  regions : SMap Region
  /-- Ticks of FLT_CHECK, FLT_CE and FLT_UE inside their windows (R339). -/
  chk : List Nat
  ce : List Nat
  ue : List Nat
  deriving DecidableEq, Repr

/-- A cluster. -/
structure Cluster where
  cpart : Nat
  cres : Nat
  cbound : Nat
  q0 : List Nat
  q1 : List Nat
  q2 : List Nat
  /-- Level-1 region table (R37). -/
  regions : SMap Region
  deriving DecidableEq, Repr

/-- A non-leaf table entry that a die's walker keeps (R310): the partition, the shift of its level's index, the address bits from that
shift up, and the entry. -/
structure NonLeaf where
  part : Nat
  shift : Nat
  top : Nat
  entry : Nat
  deriving DecidableEq, Repr

/-- A die. -/
structure Die where
  up : Bool
  /-- Cycle at which it left reset. -/
  start : Nat
  dctx : Word
  derr : Word
  /-- W timeline of the Sundial unit (R113), the records that have entered its rings, and the ticks whose end it has handled (R105). -/
  wtl : Nat
  arrived : Nat
  ticked : Nat
  chkwin : Word
  cewin : Word
  uewin : Word
  scrubint : Nat
  svcHdr : Nat
  svcDone : Bool
  svcBusy : Bool
  svcStatus : Nat
  svcReject : Nat
  /-- Stopped by a double trap at PL 2 (R276). -/
  svcStopped : Bool
  /-- The walker: the walks in progress, by partition and 64 KiB page, the cluster whose miss it took last, and its cache of non-leaf
  entries, newest first (R310). -/
  walks : List (Nat × Nat)
  turn : Nat
  nonleaf : List NonLeaf
  deriving DecidableEq, Repr

/-- A frame in use: its granule and owner (R315). -/
structure Frame where
  gran : Nat
  owner : Nat
  deriving DecidableEq, Repr

/-- A corrected-error entry or an event of the classifier (R320). -/
structure CeEntry where
  pc : Nat
  bank : Nat
  row : Nat
  col : Nat
  lane : Nat
  tick : Nat
  deriving DecidableEq, Repr

/-- A channel's PHY registers (Table 20.8). -/
structure Chan where
  rdly : SMap (BitVec 6)
  wdly : SMap (BitVec 6)
  busy : Bool
  done : Bool
  pass0 : Word
  pass1 : Word
  lrep : BitVec 16
  offline : Bool
  drained : Bool
  /-- The run in progress: DIR, SEED and BURSTS (R324). -/
  run : BitVec 32
  deriving DecidableEq, Repr

/-- A DRAM stack and its controller, by the number of the die it borders. -/
structure Stack where
  frames : SMap Frame
  freeCells : Nat
  granResult : Nat
  /-- The granule command in progress (R318). -/
  granCmd : Option Word
  clswin : Word
  clsth : BitVec 32
  errors : List CeEntry
  /-- Queued events: KIND and location (R320). -/
  events : List Word
  ovf : Bool
  repResult : Nat
  repCmd : Option Word
  sparesUsed : SMap Nat
  chans : SMap Chan
  pcerase : Word
  deriving DecidableEq, Repr

/-! ### Launches, contracts, partitions -/

/-- A launch: its header, what the launch unit keeps of it, and its results so far (R290 to R293). -/
structure Launch where
  hdr : BitVec 1024
  part : Nat
  clusters : List Nat
  /-- Level-0 region table (R37). -/
  regions : SMap Region
  /-- Virtual address of the completion record; a supervisor or service-core launch has none. -/
  crec : Option Nat
  supervisor : Bool
  service : Option Nat
  live : Bool
  /-- Its ends are asked for: the streams close and the launch ends with the last window (R293). -/
  closing : Bool
  start : Nat
  releases : Nat
  skipped : Nat
  fatal : Nat
  fatalWid : Nat
  fatalStatus : Nat
  deriving DecidableEq, Repr

/-- A supervisor launch that the management cores hold (R267). -/
structure SvLaunch where
  launch : Nat
  frames : List Nat
  l1 : Nat
  part : Option Nat
  deriving DecidableEq, Repr

/-- An admitted contract (R282, R299). -/
structure Contract where
  part : Nat
  period : Nat
  budget : Nat
  rdead : Nat
  clusters : List Nat
  q : Nat
  refills : Nat
  accounts : SMap Nat
  /-- Clusters whose account has reached 0 and raised its fault since the last refill. -/
  spent : List Nat
  suspended : Bool
  deriving DecidableEq, Repr

/-- A partition (R283, R346). -/
structure Part where
  units : BitVec 36
  svlaunch : Nat
  qos : BitVec 48
  vf : Nat
  msix : Nat
  /-- Physical address of its level-1 table (R311). -/
  l1 : Nat
  /-- A reset or dissolve of it is under way (R348, R349). -/
  resetting : Bool
  deriving DecidableEq, Repr

/-- One held element of an overlap set (R47): the child and argument that wrote it, the parent's region and coordinate,
its linear index in the region and in the child's box, its policy, and its bits with those of its block's header. -/
structure HeldElem where
  child : Nat
  arg : Nat
  level : Nat
  region : Nat
  coord : List Nat
  rlin : Nat
  lin : Nat
  policy : BitVec 4
  value : Nat
  hdr : Nat
  deriving DecidableEq, Repr

/-- A writable box of a child in its parent's region, pad elements left out: the rectangle lo to hi - 1 (R47). -/
structure GroupBox where
  child : Nat
  arg : Nat
  level : Nat
  region : Nat
  lo : List Nat
  hi : List Nat
  policy : BitVec 4
  deriving DecidableEq, Repr

/-- A spawn group (R47 to R50). -/
structure Group where
  parent : Nat
  order : Nat
  children : List Nat
  /-- Children not yet Returned. -/
  live : Nat
  /-- The children's writable boxes: an element in two of them is in the overlap set. -/
  boxes : List GroupBox
  held : List HeldElem
  /-- Fatal children: index and STATUS. -/
  fatal : List (Nat × Nat)
  /-- The conflict that JSTAT reports: argument, linear index, the two writers. -/
  conflict : Option (Nat × Nat × Nat × Nat)
  /-- Return staging: the parent's level, the launch (level 0) or cluster (level 1) that gives it, its bytes, and its place once it
  is reserved (R48). -/
  stageLevel : Nat
  stageIn : Nat
  staging : Nat
  stageAt : Option Nat
  /-- Cycle and child index of the return processed last (R256). -/
  last : Option (Nat × Nat)
  deriving DecidableEq, Repr

/-! ### The Sundial unit -/

/-- An event-time stream (R101 to R105). -/
structure EStream where
  launch : Nat
  ring : Handle
  drop : Handle
  recSize : Nat
  w : Nat
  /-- H of R105. -/
  h : Nat
  wpos : Nat
  /-- Occupied slots: how many windows hold the record, or none yet applied. -/
  slots : SMap Nat
  /-- The records that arrived and are not applied, oldest first: their place in the die's order of arrival, and their slots. -/
  arrivals : List (Nat × Nat)
  /-- Drop records written to the drop ring. -/
  dropped : Nat
  /-- It is to close at the end of the tick; its sources have closed and W stands at the top (R190, R264). -/
  closing : Bool
  closed : Bool
  /-- The supervisor has been interrupted for it since a window of the die freed last (R116). -/
  interrupted : Bool
  deriving DecidableEq, Repr

/-- The states of a source (R106). -/
inductive SourceSt where
  | active
  | idle
  | closed
  deriving DecidableEq, Repr

/-- A source (R104). -/
structure Source where
  stream : Nat
  explicit : Bool
  kind : Nat
  port : Nat
  bound : Nat
  timeout : Nat
  st : SourceSt
  wm : Nat
  last : Nat
  seq : Nat
  /-- Records of the host or a link that wait for a slot, oldest first. -/
  waiting : List (List Byte)
  deriving DecidableEq, Repr

/-- A binding (Table 6.3). -/
structure Binding where
  stream : Nat
  launch : Nat
  size : Nat
  slide : Nat
  offset : Nat
  lateness : Nat
  entry : Nat
  budget : Nat
  contract : Nat
  cls : Nat
  cluster : Nat
  emptyFires : Bool
  maxrec : Nat
  result : Nat
  slotb : Nat
  tdesc : Nat
  pool : Handle
  /-- Windows of an EMPTY binding that have fired: all below next, and those listed. -/
  next : Nat
  fired : List Nat
  /-- Windows Freed at the top of the watermark, whose end and lateness lie above it (R109). -/
  freed : List Nat
  deriving DecidableEq, Repr

/-- The states of a window (Table 6.4). -/
inductive WinSt where
  | absent
  | opened
  | firing
  | published
  | amending
  | failed
  | freed
  deriving DecidableEq, Repr

/-- A window of a binding. -/
structure Window where
  st : WinSt
  rev : Nat
  /-- Ring slots of its records and of its late list. -/
  recs : List Nat
  late : List Nat
  /-- Ring slots of the late records an amendment took. -/
  taken : List Nat
  task : Option Nat
  /-- The gathered boxes it holds: region id, virtual address and length in the pool (R263). -/
  pool : List (Nat × Nat × Nat)
  deriving DecidableEq, Repr

/-! ### Commit groups -/

/-- The states of a commit group (Table 7.3). -/
inductive GroupSt where
  | free
  | opened
  | preparing
  | deciding
  | publishing
  | aborting
  deriving DecidableEq, Repr

/-- A group on its originator (R120 to R127, R191). -/
structure CGroup where
  st : GroupSt
  launch : Nat
  timeoutAt : Nat
  cause : Nat
  done : Bool
  discarded : Nat
  contributors : List Nat
  committer : Option Nat
  /-- Packets sent to each destination, by device and contributor. -/
  sent : List (Nat × Nat)
  /-- Contributors with a packet that no usable route could take: the group can only abort (R354). -/
  unsent : List Nat
  prepared : List Nat
  refused : Bool
  acked : List Nat
  /-- Replicated: the devices and the digests that have arrived. -/
  replicas : List Nat
  digests : List (Nat × List Byte)
  compared : Bool
  /-- How often the number has been opened: it tells the traffic of one opening from that of another (log 25). -/
  opening : Nat
  deriving DecidableEq, Repr

/-- A value that travels to another device's region: an element by its coordinates in the region, or the header of its block. -/
structure RemoteElem where
  coord : List Nat
  hdr : Bool
  v : Nat
  deriving DecidableEq, Repr

/-- A store packet of a group (R122): the originating device, its group and opening, the contributing task's run with its stream and the access class,
the destination device and partition, the launch when it is one of this device or else the mesh of the launch that sent it, the
handle, what it stores in the region that the handle names there, and whether the data is poisoned. -/
structure Packet where
  dev : Nat
  group : Nat
  opening : Nat
  who : Nat
  stream : Stream
  cls : BitVec 4
  dest : Nat
  part : Nat
  launch : Option Nat
  mesh : Nat
  handle : Handle
  elems : List RemoteElem
  bad : Bool
  deriving DecidableEq, Repr

/-- A line entry of an Orangery buffer (R122), with the granule of its frame when it was staged (R319). -/
structure Staged where
  dev : Nat
  group : Nat
  who : Nat
  gran : Nat
  writes : List ByteWrite
  deriving DecidableEq, Repr

/-- A control message that waits for a usable route (R126). -/
structure Control where
  part : Nat
  dest : Nat
  kind : Nat
  group : Nat
  opening : Nat
  value : Nat
  deriving DecidableEq, Repr

/-- What a destination keeps of a group (R121, R124). -/
structure DestGroup where
  /-- The partition here that its packets reached; 63 before the first. -/
  part : Nat
  received : List Nat
  poisonedBy : List Nat
  prepared : Bool
  /-- The count of a PREPARE that has arrived, and the decision: true for Publish. -/
  expected : Option Nat
  decision : Option Bool
  /-- The opening that it belongs to, and the runs whose packets have been withdrawn (R123). -/
  opening : Nat
  withdrawn : List Nat
  deriving DecidableEq, Repr

/-! ### Encoders, host port, links, bring-up -/

/-- A frame forwarded to an encoder (R253): the record, the partition of its task, the three boxes with their regions, its
E number, and, once it has started, the bytes that the encoder read of the picture and the context. -/
structure EncFrame where
  task : Nat
  part : Nat
  r : RecWord
  h0 : Handle
  h1 : Handle
  h2 : Handle
  g0 : Region
  g1 : Region
  g2 : Region
  number : Nat
  cls : Nat
  deadline : Nat
  running : Bool
  stopped : Bool
  picture : List Byte
  context : List Byte
  /-- The picture read was poisoned (Table 21.3). -/
  bad : Bool
  /-- Its state has been saved in the context box (R254). -/
  spilled : Bool
  deriving DecidableEq, Repr

/-- An encoder (R253). -/
structure Encoder where
  frames : List EncFrame
  done : Nat
  issued : Nat
  deriving DecidableEq, Repr

/-- The host registers of one function (Table 22.2). -/
structure HostFn where
  tail : Nat
  head : Nat
  istat : BitVec 8
  imask : BitVec 8
  mbox : BitVec 512
  recwin : BitVec 2048
  credsrc : Nat
  deriving DecidableEq, Repr

/-- A message that leaves the device: an MSI-X vector, a mailbox message, an interrupt of the management cores, a flit
payload or a report. -/
inductive Message where
  | msix (vf vector : Nat)
  | mailbox (vf : Nat) (bytes : List Byte)
  | management (source code : Nat)
  | packet (dest : Nat) (bytes : List Byte)
  | control (dest part kind group opening value : Nat)
  | digest (dest group : Nat) (bytes : List Byte)
  | peer (dest key params : Nat) (bytes : List Byte)
  | remoteStore (dest : Nat) (bytes : List Byte)
  | storeAck (dest task num : Nat)
  | report (bytes : List Byte)
  | hostData (bytes : List Byte) (poisoned : Bool)
  | log (bytes : List Byte)
  deriving DecidableEq, Repr

/-- A message that waits from a peer (log 25): the data of a collective source (R249), an acknowledgement of a record's
remote stores (R248), or the part of a message that has arrived. -/
structure PeerData where
  dev : Nat
  key : Nat
  params : Nat
  bytes : List Byte
  deriving DecidableEq, Repr

/-- A flit that a port has sent (R353): the port, the outer die that it lies on, the 256 bytes. -/
structure Flit where
  port : Nat
  die : Nat
  bytes : List Byte
  deriving DecidableEq, Repr

/-- A route table entry (R354). -/
structure Route where
  valid : Bool
  node : Nat
  primary : Nat
  alternate : Nat
  deriving DecidableEq, Repr

/-- The bring-up registers and what a start has found (R356 to R360). -/
structure Boot where
  fails : Nat
  lastReason : Nat
  minver : Nat
  keyrev : BitVec 4
  minimal : Bool
  reason : Nat
  measured : List (List Byte)
  /-- The start sequence has run up to the write of BOOTOK: the management firmware serves requests. -/
  started : Bool
  /-- Steps 1 to 5 of a start have run, and the firmware is about to write BOOTOK (R356). -/
  starting : Bool := false
  /-- The 8 MiB SRAM of the management cores (R1); no rule names an access to it (log 41). -/
  sram : Memory
  deriving DecidableEq, Repr

/-- What a unit of the device does to a partition once the memory that it writes can be reached (R321, R323): bytes, an entry of the
containment log with its tick, or the interrupt that follows them. -/
inductive HeldWrite where
  | bytes (part va : Nat) (bs : List Byte)
  | log (part code action core counter rec w3 tick : Nat)
  | istat (part vf : Nat) (bits : BitVec 8)
  | management (part source code : Nat)
  deriving DecidableEq, Repr

/-- The partition of a held write. -/
def HeldWrite.part : HeldWrite → Nat
  | .bytes p _ _ => p
  | .log p _ _ _ _ _ _ _ => p
  | .istat p _ _ => p
  | .management p _ _ => p

/-- What an access asks of its translation: a load reads, a store writes, an atomic does both (Table 20.3). -/
structure Wants where
  read : Bool
  write : Bool
  deriving DecidableEq, Repr

/-- A cached translation (R308, R309): the core or, in a cluster TLB, the cluster that holds it, the page and its leaf entry. -/
structure TlbEntry where
  core : Nat
  part : Nat
  page : Nat
  /-- Size of the page in bytes. -/
  size : Nat
  leaf : Word
  deriving DecidableEq, Repr

/-- A translation miss that waits for a walk (R310): the task and stream, the address, and what the access asks. -/
structure Miss where
  task : Nat
  stream : Stream
  va : Nat
  wants : Wants
  deriving DecidableEq, Repr

/-- The machine. -/
structure State where
  mem : Memory
  /-- Bytes of levels 1 and 2 whose dirty bit is set (R46). -/
  dirty : Memory
  /-- 64-bit words that are poisoned, by address div 8 (R317, R336). -/
  poison : List Nat
  cycle : Nat
  tasks : SMap Task
  cores : SMap Core
  clusters : SMap Cluster
  dies : SMap Die
  dram : SMap Stack
  launches : SMap Launch
  svLaunches : SMap SvLaunch
  contracts : SMap Contract
  parts : SMap Part
  spawns : SMap Group
  streams : SMap EStream
  sources : SMap Source
  bindings : SMap Binding
  windows : SMap (SMap Window)
  groups : SMap CGroup
  packets : List Packet
  /-- Orangery entries, by die (R122). -/
  staged : SMap (List Staged)
  /-- Groups staged here, by originating device x 64 + group. -/
  dests : SMap DestGroup
  /-- A replica that has been halted: its group traffic is refused (R127). -/
  fencedTraffic : Bool
  /-- The openings of other devices' groups, and this one's, that have ended here: those below a number, by device x 64 + group. -/
  ended : SMap Nat
  /-- Withdrawals on their way to the destinations: group and the contributor's run (R123). -/
  withdrawals : List (Nat × Nat)
  /-- Control messages of groups that no usable route could take yet (R126). -/
  waitingControl : List Control
  encoders : SMap Encoder
  hostFns : SMap HostFn
  boot : Boot
  out : List Message
  /-- The flits that have left (R353), this device's node, and the flits of each kind sent to and taken from each node. -/
  wire : List Flit
  node : Nat
  seqOut : SMap Nat
  seqIn : SMap Nat
  /-- Ports that are down (R354). -/
  downPorts : List Nat
  routes : SMap (SMap Route)
  inbox : List PeerData
  /-- The box translation caches of the cores and the cluster TLBs (R308), and the misses that wait, oldest first (R310). -/
  tlb : List TlbEntry
  ctlb : List TlbEntry
  misses : List Miss
  /-- Writes of the device's units that wait for their channels (R321, R323), oldest first. -/
  held : List HeldWrite
  /-- The task whose stream acts (log 1). -/
  cur : Nat
  /-- The agents that act next (log 1). -/
  agenda : List Pick
  turns : Nat
  /-- Tasks created: no two tasks of a run have one number (log 10). -/
  born : Nat
  free : Nat
  deriving DecidableEq, Repr

/-- Why the machine stops. -/
inductive Fault where
  /-- Raised by a trap entry (TRAP, BREAK, a page fault, a delegated fault or an interrupt) of a task whose partition has no
  supervisor launch, which no run reaches (R283); the spec gives the entry no handler there. Safe: the model stops
  where the hardware may go on (log 13). -/
  | noSupervisor
  deriving DecidableEq, Repr

/-- Why the machine has no meaning for an instruction. -/
inductive Refusal where
  /-- Raised by an arm of exec for an instruction that has no meaning yet. Safe: nothing is claimed of it. -/
  | notModelled (mnemonic : String)
  deriving DecidableEq, Repr

/-! ### Reset -/

/-- A core after reset (R268; log 8 for the registers the spec gives no reset value). -/
def Core.reset : Core :=
  { task := none, fenced := false, svec := 0, tdeleg := 0, ipend := 0, supcyc := 0, sframe := [], request := false, claimant := none,
    claim := none, buffer := [],
    regions := [], chk := [], ce := [], ue := [] }

/-- A cluster after reset: CPART 63, CRES 0, CBOUND 0xE000 (R268). -/
def Cluster.reset : Cluster := { cpart := 63, cres := 0, cbound := 0xE000, q0 := [], q1 := [], q2 := [], regions := [] }

/-- A die after reset: held in reset, its containment block at the values of Table 21.5. -/
def Die.reset : Die :=
  { up := false, start := 0, dctx := 0, derr := 0, wtl := 0, arrived := 0, ticked := 0, chkwin := 0x0300000DF8475800, cewin := 0x100007DBA8218000,
    uewin := 0x020007DBA8218000, scrubint := 26, svcHdr := 0, svcDone := false, svcBusy := false, svcStatus := 0,
    svcReject := 0, svcStopped := false, walks := [], turn := 0, nonleaf := [] }

/-- A channel after reset (Table 20.8). -/
def Chan.reset : Chan :=
  { rdly := [], wdly := [], busy := false, done := false, pass0 := 0, pass1 := 0, lrep := 0, offline := true,
    drained := true, run := 0 }

/-- A stack after reset (R315, Tables 20.5 and 20.7): every frame Unused, every cell free. -/
def Stack.reset : Stack :=
  { frames := [], freeCells := 8388608, granResult := 0, granCmd := none, clswin := 0x7DBA8218000, clsth := 0x10040808,
    errors := [], events := [], ovf := false, repResult := 0, repCmd := none, sparesUsed := [], chans := [], pcerase := 0 }

/-- The registers of a host function after reset (Table 22.2; RECWIN by log 8). -/
def HostFn.reset : HostFn :=
  { tail := 0, head := 0, istat := 0, imask := 0xFF, mbox := 0, recwin := 0, credsrc := 0 }

/-- A group after reset (Table 7.3, R191). -/
def CGroup.reset : CGroup :=
  { st := .free, launch := 0, timeoutAt := 0, cause := 0, done := false, discarded := 0, contributors := [], committer := none,
    sent := [], unsent := [], prepared := [], refused := false, acked := [], replicas := [], digests := [], compared := false, opening := 0 }

/-- An encoder after reset. -/
def Encoder.reset : Encoder := { frames := [], done := 0, issued := 0 }

/-- The bring-up registers at the first power-on (log 8); a reset keeps the four durable ones (R358). -/
def Boot.reset : Boot :=
  { fails := 0, lastReason := 0, minver := 0, keyrev := 0, minimal := false, reason := 0, measured := [], started := false, sram := [] }

/-- The machine right after reset: no task, no launch, no partition, every die held in reset, memory with nothing listed.
An unlisted core, cluster, die, stack, group, encoder or host function is in its own reset state. -/
def State.reset : State :=
  { mem := [], dirty := [], poison := [], cycle := 0, tasks := [], cores := [], clusters := [], dies := [], dram := [],
    launches := [], svLaunches := [], contracts := [], parts := [], spawns := [], streams := [], sources := [], bindings := [],
    windows := [], groups := [], packets := [], staged := [], dests := [], fencedTraffic := false, ended := [], withdrawals := [], waitingControl := [], encoders := [],
    hostFns := [], boot := Boot.reset, out := [], wire := [], node := 0, seqOut := [], seqIn := [], downPorts := [], routes := [], inbox := [], tlb := [], ctlb := [], misses := [], held := [],
    cur := 0, agenda := [], turns := 0, born := 0, free := 0 }

end Sys2Proof.Machine
end

