-- ==== Sys2Proof/Machine/Base.lean ====
section
/-! DEFINITION. The accessors of State, through which every read and write of it goes; the fault codes; how an
operation may end; the fields of handles and of launch headers. -/

namespace Sys2Proof.Machine
open Sys2Proof

/-! ### Fault codes (Table 8.11) -/

namespace Flt
abbrev illegal : Nat := 0x01
abbrev priv : Nat := 0x02
abbrev dslot : Nat := 0x03
abbrev format : Nat := 0x04
abbrev bounds : Nat := 0x05
abbrev mode : Nat := 0x06
abbrev profile : Nat := 0x07
abbrev overlap : Nat := 0x08
abbrev conflict : Nat := 0x09
abbrev checksum : Nat := 0x0A
abbrev gen : Nat := 0x0B
abbrev capacity : Nat := 0x0C
abbrev group : Nat := 0x0D
abbrev budget : Nat := 0x0E
abbrev trap : Nat := 0x0F
abbrev brk : Nat := 0x10
abbrev prot : Nat := 0x11
abbrev link : Nat := 0x12
abbrev page : Nat := 0x20
abbrev ce : Nat := 0x21
abbrev ue : Nat := 0x28
abbrev check : Nat := 0x29
abbrev ctxsave : Nat := 0x2A
end Flt

/-- How an operation ends when it does not complete (R8): a fault with its code and TVAL; a wait at issue, which leaves
the machine as it is; a translation miss (R310); or a stop of the model. -/
inductive Exit where
  | flt (code : Nat) (val : Word)
  | stall
  | miss (va : Nat) (k : Wants)
  | stop (f : Fault)
  deriving DecidableEq, Repr

/-- The result of an operation. -/
abbrev Res (α : Type) := Except Exit α

/-- Raise a fault whose TVAL is 0 (R144, R268). -/
def fault {α : Type} (code : Nat) : Res α := .error (.flt code 0)

/-- FLT_UE for consumed poison: it says whether the error is of the core's own storage (R339). -/
def faultUe {α : Type} (own : Bool) : Res α := .error (.flt Flt.ue (if own then 1 else 0))

/-- The same with the physical address of the error (R344). -/
def faultUeAt {α : Type} (own : Bool) (a : Nat) : Res α := .error (.flt Flt.ue (BitVec.ofNat 64 (2 * a + (if own then 1 else 0))))

/-- What FLT_UE carries: whether the core's own storage raised it, and the address of the error, 0 where it has none. -/
def ueOwn (v : Word) : Bool := v.getLsbD 0
def ueAddress (v : Word) : Nat := v.toNat / 2

/-- Raise a fault when a check fails. -/
def check (ok : Bool) (code : Nat) : Res Unit := if ok then .ok () else fault code

/-- Wait at issue until a condition holds. -/
def waitFor (ok : Bool) : Res Unit := if ok then .ok () else .error .stall

/-! ### Accessors -/

/-- A core; one that is not listed is in its reset state. -/
def State.core (s : State) (c : Nat) : Core := SMap.get s.cores c Core.reset
def State.setCore (s : State) (c : Nat) (x : Core) : State := { s with cores := SMap.put s.cores c x }
def State.cluster (s : State) (c : Nat) : Cluster := SMap.get s.clusters c Cluster.reset
def State.setCluster (s : State) (c : Nat) (x : Cluster) : State := { s with clusters := SMap.put s.clusters c x }
def State.die (s : State) (d : Nat) : Die := SMap.get s.dies d Die.reset
def State.setDie (s : State) (d : Nat) (x : Die) : State := { s with dies := SMap.put s.dies d x }
/-- The stack against a die. -/
def State.stack (s : State) (d : Nat) : Stack := SMap.get s.dram d Stack.reset
def State.setStack (s : State) (d : Nat) (x : Stack) : State := { s with dram := SMap.put s.dram d x }
def State.task? (s : State) (t : Nat) : Option Task := SMap.find s.tasks t
def State.setTask (s : State) (t : Nat) (x : Task) : State := { s with tasks := SMap.put s.tasks t x }
/-- The number of the next task: no task has had it (log 10). -/
def State.taskId (s : State) : Nat := s.tasks.foldl (fun n p => max n (p.1 + 1)) s.born
/-- A new task under a number. -/
def State.addTask (s : State) (t : Nat) (x : Task) : State := { s.setTask t x with born := t + 1 }
def State.delTask (s : State) (t : Nat) : State := { s with tasks := SMap.del s.tasks t }
def State.launch? (s : State) (l : Nat) : Option Launch := SMap.find s.launches l
def State.setLaunch (s : State) (l : Nat) (x : Launch) : State := { s with launches := SMap.put s.launches l x }
def State.part? (s : State) (p : Nat) : Option Part := SMap.find s.parts p
def State.hostFn (s : State) (vf : Nat) : HostFn := SMap.get s.hostFns vf HostFn.reset
def State.setHostFn (s : State) (vf : Nat) (x : HostFn) : State := { s with hostFns := SMap.put s.hostFns vf x }
def State.cgroup (s : State) (g : Nat) : CGroup := SMap.get s.groups g CGroup.reset
def State.setCGroup (s : State) (g : Nat) (x : CGroup) : State := { s with groups := SMap.put s.groups g x }
def State.encoder (s : State) (e : Nat) : Encoder := SMap.get s.encoders e Encoder.reset
def State.setEncoder (s : State) (e : Nat) (x : Encoder) : State := { s with encoders := SMap.put s.encoders e x }
/-- A message leaves the device. -/
def State.send (s : State) (m : Message) : State := { s with out := s.out ++ [m] }

/-- Change a task if it exists. -/
def State.modTask (s : State) (t : Nat) (f : Task → Task) : State :=
  match s.task? t with
  | some x => s.setTask t (f x)
  | none => s

/-- Change a core. -/
def State.modCore (s : State) (c : Nat) (f : Core → Core) : State := s.setCore c (f (s.core c))

/-- The tick count: one tick is 16 cycles (R300). -/
def State.tick (s : State) : Nat := s.cycle / 16

/-- The next free value, and the state that has used it (log 11). -/
def State.freshFree (s : State) : Nat × State := (Config.freeValue s.free, { s with free := s.free + 1 })

/-- The running task of the stream that acts; without one nothing acts. -/
def curTask (s : State) : Res Task :=
  match s.task? s.cur with
  | some t => .ok t
  | none => .error .stall

/-! ### Numbering (R2) -/

/-- Cluster of a compute core. -/
def clusterOfCore (c : Nat) : Nat := c / 8
/-- Die of a core: service cores are 1,152 + die. -/
def dieOfCore (c : Nat) : Nat := if c < 1152 then c / 128 else c - 1152
/-- Die of a cluster. -/
def dieOfCluster (c : Nat) : Nat := c / 16
/-- The service core of a die. -/
def serviceCore (d : Nat) : Nat := 1152 + d
/-- Die of the core a task holds, or else of its cluster. -/
def dieOfTask (t : Task) : Nat :=
  match t.r.core with
  | some c => dieOfCore c
  | none => dieOfCluster t.r.cluster

/-! ### Registers of the control stream -/

/-- A scalar register; s0 reads zero (R129). -/
def Ctl.rd (c : Ctl) (r : SReg) : Word := if r = 0 then 0 else SMap.get c.s r.toNat 0
/-- Write a scalar register, which clears its poison; a write to s0 is discarded (R129, R337). -/
def Ctl.wr (c : Ctl) (r : SReg) (v : Word) : Ctl :=
  if r = 0 then c
  else { c with s := SMap.put c.s r.toNat v, bad := c.bad.filter (fun q => q != r.toNat), own := c.own.filter (fun q => q != r.toNat) }
/-- A handle register. -/
def Ctl.hd (c : Ctl) (r : HReg) : Handle := SMap.get c.h r.toNat 0
/-- Write a handle register, which clears its poison. -/
def Ctl.hw (c : Ctl) (r : HReg) (v : Handle) : Ctl := { c with h := SMap.put c.h r.toNat v, hbad := c.hbad.filter (fun q => q != r.toNat) }

/-- Change the control context of a task. -/
def Task.mapCtl (t : Task) (f : Ctl → Ctl) : Task := { t with ctl := f t.ctl }
/-- Write a scalar register of a task. -/
def Task.wr (t : Task) (r : SReg) (v : Word) : Task := { t with ctl := t.ctl.wr r v }
/-- Change the continuation record of a task. -/
def Task.mapRec (t : Task) (f : Rec → Rec) : Task := { t with r := f t.r }

/-- The 64-bit value of a number. -/
abbrev word (n : Nat) : Word := BitVec.ofNat 64 n

/-- A semaphore of a task (R144). -/
def Task.sem (t : Task) (i : Nat) : BitVec 32 := SMap.get t.sems i 0
def Task.setSem (t : Task) (i : Nat) (v : BitVec 32) : Task := { t with sems := SMap.put t.sems i v }

/-! ### Fields of a handle (Table 3.1) -/

def Handle.mode (h : Handle) : BitVec 4 := h.extractLsb' 252 4
def Handle.policy (h : Handle) : BitVec 4 := h.extractLsb' 248 4
def Handle.level (h : Handle) : Nat := (h.extractLsb' 246 2).toNat
def Handle.rank (h : Handle) : Nat := (h.extractLsb' 244 2).toNat
def Handle.fmt (h : Handle) : Fmt := h.extractLsb' 238 6
def Handle.layout (h : Handle) : Nat := (h.extractLsb' 234 4).toNat
def Handle.region (h : Handle) : Nat := (h.extractLsb' 208 20).toNat
def Handle.org (h : Handle) (d : Nat) : Nat := (h.extractLsb' (52 * d + 24) 28).toNat
def Handle.ext (h : Handle) (d : Nat) : Nat := (h.extractLsb' (52 * d) 24).toNat

/-- The four dimensions. -/
abbrev dims : List Nat := [0, 1, 2, 3]

/-- Build a handle from its fields. -/
def mkHandle (mode policy : BitVec 4) (level rank : Nat) (fmt : Fmt) (layout region : Nat) (org ext : Nat → Nat) : Handle :=
  let dim (d : Nat) : BitVec 52 := BitVec.ofNat 28 (org d) ++ BitVec.ofNat 24 (ext d)
  mode ++ policy ++ BitVec.ofNat 2 level ++ BitVec.ofNat 2 rank ++ fmt ++ BitVec.ofNat 4 layout ++ (0 : BitVec 6)
    ++ BitVec.ofNat 20 region ++ dim 3 ++ dim 2 ++ dim 1 ++ dim 0

/-- Replace the origins and extents of a handle. -/
def Handle.withDims (h : Handle) (org ext : Nat → Nat) : Handle :=
  mkHandle (Handle.mode h) (Handle.policy h) (Handle.level h) (Handle.rank h) (Handle.fmt h) (Handle.layout h)
    (Handle.region h) org ext ||| (h &&& ((0x3F : Handle) <<< (228 : Nat)))

/-- Replace MODE and POLICY. -/
def Handle.withRights (h : Handle) (mode policy : BitVec 4) : Handle := mode ++ policy ++ h.extractLsb' 0 248

/-- The modes of Table 3.1. -/
abbrev modeIn : BitVec 4 := 0
abbrev modeOut : BitVec 4 := 1
abbrev modeInout : BitVec 4 := 2
abbrev modeShared : BitVec 4 := 3
abbrev modeView : BitVec 4 := 4
abbrev modeScratch : BitVec 4 := 5

/-- A list element, or a default. -/
def nth {α : Type} (l : List α) (i : Nat) (d : α) : α := (l[i]?).getD d

/-! ### Fields of a launch header (Table 19.2) -/

/-- Bits lo to lo + n - 1 of 64-bit word w of a launch header. -/
def Launch.field (l : Launch) (w lo n : Nat) : Nat := (l.hdr.extractLsb' (64 * w + lo) n).toNat
def Launch.code (l : Launch) : Nat := l.field 0 0 52
def Launch.entry (l : Launch) : Nat := l.field 1 32 32
def Launch.csize (l : Launch) : Nat := l.field 1 0 32
def Launch.fields (l : Launch) : Nat := l.field 2 36 3
/-- w_f and c_f of R20. -/
def Launch.width (l : Launch) (f : Nat) : Nat := l.field 2 (6 * f) 6
def Launch.count (l : Launch) (f : Nat) : Nat := l.field (3 + f / 2) (32 * (f % 2)) 32 + 1
def Launch.ovrc (l : Launch) : Nat := l.field 6 32 32
def Launch.contract (l : Launch) : Nat := l.field 6 16 16
def Launch.ovr (l : Launch) : Nat := l.field 6 12 2
def Launch.profile (l : Launch) : Nat := l.field 6 8 4
def Launch.periodic (l : Launch) : Bool := l.field 6 4 1 == 1
def Launch.priv (l : Launch) : Bool := l.field 6 3 1 == 1
def Launch.det (l : Launch) : Bool := l.field 6 2 1 == 1
def Launch.cls (l : Launch) : Nat := l.field 6 0 2
def Launch.nbox (l : Launch) : Nat := l.field 7 56 8
def Launch.boxtab (l : Launch) : Nat := l.field 7 0 52
def Launch.nshape (l : Launch) : Nat := l.field 8 52 9
def Launch.shapetab (l : Launch) : Nat := l.field 8 0 52
def Launch.axes (l : Launch) : Nat := l.field 9 48 2 + 1
/-- n_j and m_j of R117. -/
def Launch.meshSize (l : Launch) (j : Nat) : Nat := l.field 9 (12 * j) 12 + 1
def Launch.meshCoord (l : Launch) (j : Nat) : Nat := l.field 10 (12 * j) 12
def Launch.startTick (l : Launch) : Nat := l.field 11 0 64
def Launch.rtdesc (l : Launch) : Nat := l.field 12 0 32
/-- Devices of the mesh (R354). -/
def Launch.meshDevices (l : Launch) : Nat := (List.range l.axes).foldl (fun n j => n * l.meshSize j) 1
/-- This device's number in the launch's mesh (R354). -/
def Launch.thisDevice (l : Launch) : Nat :=
  ((List.range l.axes).foldl (fun (p : Nat × Nat) j => (p.1 + l.meshCoord j * p.2, p.2 * l.meshSize j)) (0, 1)).1

/-! ### Which launch's image and regions a context uses -/

/-- The supervisor launch of a partition (R266). -/
def State.supervisorOf (s : State) (part : Nat) : Option Nat :=
  match s.part? part with
  | some p => (SMap.find s.svLaunches p.svlaunch).map (fun x => x.launch)
  | none => none

/-- The partition of a task: that of its launch, 63 on a service core (R269). -/
def State.partOf (s : State) (t : Task) : Nat :=
  match s.launch? t.r.launch with
  | some l => l.part
  | none => 63

/-- A partition under reset (R349). -/
def State.partResetting (s : State) (part : Nat) : Bool := match s.part? part with | some p => p.resetting | none => false

/-- The launch whose code image, root boxes and level-0 regions the control stream uses: the supervisor's while the trap
frame is occupied, else the task's own (R266, R271). -/
def State.activeLaunch (s : State) (t : Task) : Nat :=
  if t.ctl.act then (s.supervisorOf (s.partOf t)).getD t.r.launch else t.r.launch

/-! ### An empty task -/

def Ctl.empty : Ctl :=
  { s := [], h := [], pc := 0, delay := none, loops := [], pl := 0, ie := false, act := false, tstate := 0, taddr := 0,
    tresume := 0, tval := 0, trec := 0, tframe := { s := [], h := [], loops := [], bad := [], hbad := [], own := [] },
    halted := false, bad := [], hbad := [], own := [] }

def Vec.empty : Vec :=
  { on := false, pc := 0, slip := 16, v := [], k := [], a := [], b := [], flags := 0, vq := [], cq := [], loops := [],
    done := 0, issued := 0, kbad := [], abad := [], bbad := [], opened := false }

/-- Trip count 1 and no steps (R181). -/
def Nest.one : Nest := { trip := 1, s0 := 0, s1 := 0, s2 := 0 }

def Eng.empty : Eng := { done := 0, issued := 0, queue := [], cfg := [], n5 := Nest.one, n6 := Nest.one, colls := [] }

/-- An Empty entry holds the tag NONE (R232). -/
def Tile.empty : Tile :=
  { st := .empty, readers := 0, tag := 0, quarter := false, e0 := 0, e1 := 0, e2 := 0, e3 := 0, data := 0, scale := 0,
    claimed := false, bad := [] }

def Codebook.empty : Codebook := { ty := 0, gen := 0, busy := 0, fmt := 0, elems := 0, bytes := [], bad := false }

/-- The record SPAWN, DSPAWN or the launch creates (Table 2.1, Reset column), its variable fields at 0. -/
def Rec.empty : Rec :=
  { launch := 0, kind := .root, parent := none, pa := 0, cluster := 0, entry := 0, fslot := 0, fsize := 0, level := 0, cls := 0,
    jcount := 0, child := 0, deadline := 2 ^ 64 - 1, budget := 0, contract := 0xFFFF, wid := 0, boxes := [], status := 0,
    preempted := false, det := false, down := false, resumed := false, ending := false, ctx := 0, descBudget := 0, sbufs := [], reruns := 0, runs := 0, slice := none,
    bound := none, fixed := none, dead := false, granted := false, dispatchedAt := 0, home := none, saved := 0, midSlice := false, leftAt := 0,
    stops := [], cregs := none, resuming := false, core := none,
    args := [], groups := [], js0 := 0, js1 := 0, js2 := 0, js3 := 0, comparing := none }

def Task.empty : Task :=
  { st := .runnable, r := Rec.empty, ctl := Ctl.empty, vec := Vec.empty, mat := Eng.empty, cpy := Eng.empty, tiles := [],
    cbs := [], sems := [], frame := [], pend := [], wait := none, pendFault := none, semBad := [],
    bel := { s := [], h := [], loops := [], loads := [] }, tileCycle := 0, tileStarts := [] }

/-- A tile entry of a task. -/
def Task.tile (t : Task) (i : Nat) : Tile := SMap.get t.tiles i Tile.empty
def Task.setTile (t : Task) (i : Nat) (x : Tile) : Task := { t with tiles := SMap.put t.tiles i x }
def Task.codebook (t : Task) (i : Nat) : Codebook := SMap.get t.cbs i Codebook.empty
def Task.setCodebook (t : Task) (i : Nat) (x : Codebook) : Task := { t with cbs := SMap.put t.cbs i x }
def Task.eng (t : Task) (e : Engine) : Eng := match e with | .matrix => t.mat | .copy => t.cpy
def Task.setEng (t : Task) (e : Engine) (x : Eng) : Task :=
  match e with | .matrix => { t with mat := x } | .copy => { t with cpy := x }

end Sys2Proof.Machine
end

