-- ==== Sys2Proof/Machine/AtomicOps.lean ====
section
/-! DEFINITION. What the atomics compute (10 R188, R189). -/

namespace Sys2Proof.Machine
open Sys2Proof

/-- A value of an element, extended as its format says: signed for S, zeros for the rest (R188). -/
def extendElem (f : Fmt) (v : Nat) : Word := if fmtKind f == .sint then BitVec.ofInt 64 (signedOf (fmtWidth f) v) else word v

/-! ### New values (R188) -/

def amoSum (f : Fmt) (old a : Nat) : Nat := (old + a) % 2 ^ fmtWidth f
def amoAnd (f : Fmt) (old a : Nat) : Nat := old &&& (a % 2 ^ fmtWidth f)
def amoOr (f : Fmt) (old a : Nat) : Nat := old ||| (a % 2 ^ fmtWidth f)
def amoXor (f : Fmt) (old a : Nat) : Nat := old ^^^ (a % 2 ^ fmtWidth f)
def amoMinS (f : Fmt) (old a : Nat) : Nat := (minSigned (BitVec.ofNat (fmtWidth f) old) (BitVec.ofNat (fmtWidth f) a)).toNat
def amoMaxS (f : Fmt) (old a : Nat) : Nat := (maxSigned (BitVec.ofNat (fmtWidth f) old) (BitVec.ofNat (fmtWidth f) a)).toNat
def amoMinU (f : Fmt) (old a : Nat) : Nat := (minUnsigned (BitVec.ofNat (fmtWidth f) old) (BitVec.ofNat (fmtWidth f) a)).toNat
def amoMaxU (f : Fmt) (old a : Nat) : Nat := (maxUnsigned (BitVec.ofNat (fmtWidth f) old) (BitVec.ofNat (fmtWidth f) a)).toNat
def amoSwapTo (f : Fmt) (_ a : Nat) : Nat := a % 2 ^ fmtWidth f
/-- Float addition of R61 with IEEE 754 zero signs, to nearest even. -/
def amoFsum (f : Fmt) (old a : Nat) : Nat := floatOp2 f 0 (Val.add 0) old (a % 2 ^ 32)
def amoCompare (f : Fmt) (old a b : Nat) : Nat := if old = b % 2 ^ fmtWidth f then a % 2 ^ fmtWidth f else old
def amoWrap (f : Fmt) (old b : Nat) : Nat := (wrapIncrement (BitVec.ofNat (fmtWidth f) old) (BitVec.ofNat (fmtWidth f) b)).toNat

/-- faddb (R189): the new value, and whether the bound refused it. -/
def amoBound (f : Fmt) (old a b : Nat) : Nat × Bool :=
  let p := boundedAdd (BitVec.ofNat (fmtWidth f) old) (BitVec.ofNat (fmtWidth f) a) (BitVec.ofNat (fmtWidth f) b)
  (p.1.toNat, p.2)

/-- The new value of an element. -/
def Rmw.new (m : Rmw) (old : Nat) : Nat :=
  let a := m.a.toNat
  let b := m.b.toNat
  match m.fn with
  | .add => amoSum m.fmt old a
  | .and => amoAnd m.fmt old a
  | .or => amoOr m.fmt old a
  | .xor => amoXor m.fmt old a
  | .min => amoMinS m.fmt old a
  | .max => amoMaxS m.fmt old a
  | .minu => amoMinU m.fmt old a
  | .maxu => amoMaxU m.fmt old a
  | .swap => amoSwapTo m.fmt old a
  | .cas => amoCompare m.fmt old a b
  | .fadd => amoFsum m.fmt old a
  | .incw => amoWrap m.fmt old b
  | .faddb => (amoBound m.fmt old a b).1

/-- The refusal flag of faddb; 0 for the others. -/
def Rmw.refused (m : Rmw) (old : Nat) : Word :=
  match m.fn with
  | .faddb => boolWord (amoBound m.fmt old m.a.toNat m.b.toNat).2
  | _ => 0

end Sys2Proof.Machine
end

