-- ==== Sys2Proof/Machine/Checked.lean ====
section
/-! DEFINITION. The registers that an instruction reads, whose uncorrectable words it consumes (21 R327, R335, R337), and the
operations that Belvedere compares (21 R332). -/

namespace Sys2Proof.Machine
open Sys2Proof

/-! ### Control instructions -/

/-- Scalar registers that a control instruction reads; those that its block in the code image names are read as the block is. -/
def scalarReads : Instr → List SReg
  | .add _ a b | .sub _ a b | .and _ a b | .or _ a b | .xor _ a b | .andn _ a b | .sll _ a b | .srl _ a b | .sra _ a b
  | .rotl _ a b | .slt _ a b | .sltu _ a b | .min _ a b | .max _ a b | .minu _ a b | .maxu _ a b | .mul _ a b | .mulh _ a b
  | .mulhu _ a b | .mulhsu _ a b | .div _ a b | .divu _ a b | .rem _ a b | .remu _ a b => [a, b]
  | .clz _ a | .popc _ a | .addi _ a _ | .andi _ a _ | .ori _ a _ | .xori _ a _ | .slti _ a _ | .sltiu _ a _ | .slli _ a _
  | .srli _ a _ | .srai _ a _ | .rotli _ a _ | .lih _ a _ | .ldf _ a _ | .ldfHandle _ a _ | .stfHandle _ a _ | .jalr _ a _
  | .shpld _ a _ _ | .boxroot _ a | .semset _ a _ _ | .semadd _ a _ _ | .semsub _ a _ _ | .claim a | .release a | .vqsend a
  | .stbind _ a _ | .strec _ a _ | .stclose a | .gcommit a _ | .gabort a | .gstat _ a | .waitAny _ a _ | .waitAll _ a _
  | .ecfg a _ _ _ | .ctxsave _ a | .ctxload _ a | .preempt _ a | .qrelease a | .qcancel a | .partset _ a _ | .phyrd _ a
  | .stopen _ _ a | .shardcoord _ _ a _ => [a]
  | .stf d a _ | .enest d a _ _ _ => [d, a]
  | .beq a b _ | .bne a b _ | .blt a b _ | .bge a b _ | .bltu a b _ | .bgeu a b _ | .stsrc _ a b | .gopen _ a b | .tlbinv a b
  | .isend a b | .corefence a b | .phywr a b => [a, b]
  | .loop a _ _ => [a]
  | .spawn d a _ | .spawnDown d a _ | .dspawn d a _ => [d, a]
  | .xq _ a f8 _ => ((List.range 3).filter (fun i => f8.getLsbD i)).map (fun i => a + BitVec.ofNat 6 i)
  | .ldS m | .ldZ m | .ldAcqS m | .ldAcqZ m => [m.idx]
  | .st m | .stRel m => [m.r, m.idx]
  | .amoadd x | .amoand x | .amoor x | .amoxor x | .amomin x | .amomax x | .amominu x | .amomaxu x | .amoswap x | .amocas x
  | .amofadd x | .incw x | .faddb x | .redadd x | .redand x | .redor x | .redxor x | .redmin x | .redmax x | .redminu x
  | .redmaxu x | .redfadd x => [x.a, x.b, x.idx]
  | .stG x => [x.s, x.a, x.idx]
  | .mtsr d _ => [d]
  | _ => []

/-- Handle registers that it reads: FORK and XQ copy h0 to h7 (R178). -/
def handleReads : Instr → List HReg
  | .stfHandle d _ _ => [d]
  | .ldS m | .ldZ m | .ldAcqS m | .ldAcqZ m | .st m | .stRel m => [m.h]
  | .boxext _ a _ | .boxorg _ a _ | .boxrank _ a | .boxfmt _ a | .boxmode _ a | .boxmov _ a | .boxsub _ a _ _ _ | .boxnew _ a _ _
  | .shardcoord _ a _ _ | .qadmit _ a | .stbind _ _ a | .strec _ _ a | .gcommit _ a | .partset _ _ a => [a]
  | .stopen _ a _ => [a, a + 1]
  | .amoadd x | .amoand x | .amoor x | .amoxor x | .amomin x | .amomax x | .amominu x | .amomaxu x | .amoswap x | .amocas x
  | .amofadd x | .incw x | .faddb x | .redadd x | .redand x | .redor x | .redxor x | .redmin x | .redmax x | .redminu x
  | .redmaxu x | .redfadd x => [x.h]
  | .stG x => [x.h]
  | .fork _ | .xq _ _ _ _ => (List.range 8).map (BitVec.ofNat 5)
  | _ => []

/-- Semaphores that it reads. -/
def semReads : Instr → List Nat
  | .semset _ _ _ i | .semadd _ _ _ i | .semsub _ _ _ i | .semrd _ i => [i.toNat]
  | _ => []

/-- A 64-bit word of the semaphore file holds two semaphores (R336). -/
def Task.semFlawed (x : Task) (i : Nat) : Bool := x.semBad.contains (i / 2)

/-- What a control instruction reads is poisoned, and whether by an error of the core's own storage (R339); none: nothing is. A
register that a load in flight will write counts once it is written. -/
def consumes (x : Task) (i : Instr) (awaited : SReg → Bool) : Option Bool :=
  let s := (scalarReads i).filter (fun r => r != 0 && x.ctl.bad.contains r.toNat && !awaited r)
  let own := (handleReads i).any (fun h => x.ctl.hbad.contains h.toNat) || (semReads i).any x.semFlawed
    || s.any (fun r => x.ctl.own.contains r.toNat)
  if own || !s.isEmpty then some own else none

/-! ### Vector instructions -/

/-- The elementwise vector forms' sources, all read at the active elements of the word's format (R199, R201). -/
def vectorSources : Instr → List (BitVec 9)
  | .vadd w | .vsub w | .vmul w | .vdiv w | .vmin w | .vmax w | .vadds w | .vsubs w | .vmulh w | .vand w | .vor w | .vxor w
  | .vcmp w => [w.a, w.b]
  | .vfma w | .vfms w | .vfnma w => [w.a, w.b, w.c]
  | .vsqrt w | .vabs w | .vneg w | .vnot w | .vexp w | .vlog w | .vrcp w | .vrsqrt w | .vtanh w | .vsigm w | .vsin w | .vcos w
  | .vredsum w | .vredmax w | .vredmin w | .vredand w | .vredor w => [w.a]
  | _ => []

/-- The word of a vector instruction. -/
def vectorWord : Instr → Option VWord
  | .vadd w | .vsub w | .vmul w | .vfma w | .vfms w | .vfnma w | .vdiv w | .vsqrt w | .vmin w | .vmax w | .vabs w | .vneg w
  | .vadds w | .vsubs w | .vmulh w | .vand w | .vor w | .vxor w | .vnot w | .vsll w | .vsrl w | .vsra w | .vexp w | .vlog w
  | .vrcp w | .vrsqrt w | .vtanh w | .vsigm w | .vsin w | .vcos w | .vcmp w | .vsel w | .kand w | .kor w | .kxor w | .kandn w
  | .knot w | .kpop w | .kfirst w | .kmov w | .kmovPfx w | .vcvt w | .vcvtb w | .vrng w | .vredsum w | .vredmax w | .vredmin w
  | .vredand w | .vredor w | .vbcast w | .vperm w | .vslide w | .vrot w | .vzip w | .vunzip w | .vbcastel w | .vpart w
  | .vgather w | .vscatter w | .vcompress w | .vexpand w | .vld w | .vst w | .vaccrd w | .vaccwr w | .acczero w | .aadd w
  | .asub w | .amul w | .ashl w | .amov w | .ali w | .vloop w | .vpush w | .vpop w | .vfset w | .vfwait w | .vsig w | .vswait w
  | .vfence w => some w
  | _ => none

/-- Mask registers that it reads beside the mask of its active elements. -/
def maskReads : Instr → List Nat
  | .kand w | .kor w | .kxor w | .kandn w => [w.a.toNat, w.b.toNat]
  | .knot w | .kmov w | .kpop w | .kfirst w => [w.a.toNat]
  | _ => []

/-- Stream scalars that it reads. -/
def streamReads : Instr → List Nat
  | .kmovPfx w | .vbcast w | .amov w | .vpush w | .vsig w | .vswait w | .vfwait w => [w.a.toNat]
  | .vloop w => if w.flg.getLsbD 0 then [] else [w.a.toNat]
  | .aadd w | .asub w | .amul w | .ashl w => [w.a.toNat, w.b.toNat]
  | .vrng w => [w.b.toNat, w.c.toNat, w.c.toNat + 1]
  | .vld w | .vst w | .vgather w | .vscatter w => [w.a.toNat % 32]
  | .vaccrd w | .vaccwr w | .vrot w | .vbcastel w => [w.b.toNat]
  | .vslide w => [w.c.toNat]
  | _ => []

/-- The registers of a group from r on (R200). -/
def groupRegs (r : BitVec 9) (n : Nat) : List Nat := (List.range n).map (fun j => r.toNat + j)

/-- Vector registers that it reads or writes, by which it depends on others (R196). -/
def vectorRegs (i : Instr) : List Nat :=
  match i with
  | .vperm w => w.d.toNat :: w.a.toNat :: groupRegs w.b (listRegs w.fmt)
  | .vpart w => w.a.toNat :: groupRegs w.d (w.c.toNat * listRegs w.fmt)
  | .vgather w | .vscatter w => w.d.toNat :: groupRegs w.c (listRegs w.fmt)
  | .vsel w | .vslide w | .vzip w | .vunzip w | .vsll w | .vsrl w | .vsra w => [w.d.toNat, w.a.toNat, w.b.toNat]
  | .vcvt w | .vcvtb w | .vrot w | .vbcastel w | .vcompress w | .vexpand w => [w.d.toNat, w.a.toNat]
  | .vbcast w | .vrng w | .vld w | .vst w | .vaccrd w => [w.d.toNat]
  | .vaccwr w => [w.a.toNat]
  | .vcmp w => [w.a.toNat, w.b.toNat]
  | _ => match vectorSources i, vectorWord i with
    | r :: rs, some w => w.d.toNat :: (r :: rs).map (fun q => q.toNat)
    | _, _ => []

/-- Stream handles that it reads. -/
def boxReads : Instr → List Nat
  | .vrng w => [w.a.toNat]
  | .vld w | .vst w | .vgather w | .vscatter w => [w.a.toNat / 32]
  | _ => []

/-- Semaphores that it reads. -/
def streamSems : Instr → List Nat
  | .vsig w | .vswait w => [w.c.toNat]
  | _ => []

/-- Mask, stream-scalar, stream-handle and semaphore words that a vector instruction reads: one of them is uncorrectable. -/
def consumesStream (x : Task) (i : Instr) : Bool :=
  (((vectorWord i).map (fun w => w.k.toNat)).toList ++ maskReads i).any x.vec.kbad.contains
    || (streamReads i).any x.vec.abad.contains || (boxReads i).any x.vec.bbad.contains || (streamSems i).any x.semFlawed

/-! ### Belvedere (R332) -/

/-- The operations whose operands Belvedere compares before they leave the core. -/
def compared : Instr → Bool
  | .st _ | .stRel _ | .amoadd _ | .amoand _ | .amoor _ | .amoxor _ | .amomin _ | .amomax _ | .amominu _ | .amomaxu _ | .amoswap _
  | .amocas _ | .amofadd _ | .incw _ | .faddb _ | .redadd _ | .redand _ | .redor _ | .redxor _ | .redmin _ | .redmax _ | .redminu _
  | .redmaxu _ | .redfadd _ | .stG _ | .strec _ _ _ => true
  | .fork _ | .xq _ _ _ _ => true
  | .spawn _ _ _ | .spawnDown _ _ _ | .dspawn _ _ _ | .join | .endTask | .yield | .waitAny _ _ _ | .waitAll _ _ _ => true
  | .semset _ _ _ _ | .semadd _ _ _ _ | .semsub _ _ _ _ | .claim _ | .release _ | .vqsend _ => true
  | .mfsr _ _ | .mtsr _ _ | .ctxsave _ _ | .ctxload _ _ | .preempt _ _ | .qadmit _ _ | .qrelease _ | .qcancel _ | .partset _ _ _
  | .tlbinv _ _ | .isend _ _ | .corefence _ _ | .phyrd _ _ | .phywr _ _ | .halt | .tret | .tretEnd | .trap _ | .brk _ => true
  | _ => false

/-- The control core's registers and Belvedere's copy of them agree: the copy with the values of the load-value queue. An error that no
compared operation has met yet stands (R332, R333). -/
def Task.agrees (x : Task) : Bool :=
  let b := x.bel.loads.foldl (fun m v => SMap.put m v.1 v.2) x.bel.s
  !x.bel.struck && b == x.ctl.s && x.bel.h == x.ctl.h && x.bel.loops == x.ctl.loops

/-- Belvedere has run up to the control core: its copy holds what the same words and the same values from outside gave. -/
def Task.follow (x : Task) : Task := { x with bel := { x.bel with s := x.ctl.s, h := x.ctl.h, loops := x.ctl.loops, loads := [] } }

end Sys2Proof.Machine
end

