-- ==== Sys2Proof/Machine/Boxes.lean ====
section
/-! DEFINITION. Handles, regions and the place of an element (03 R34 to R42, 07 R119). -/

namespace Sys2Proof.Machine
open Sys2Proof

/-! ### Checks of a handle -/

/-- The reserved-field test of R35. -/
def handleFieldsOk (h : Handle) : Bool :=
  (Handle.mode h).toNat < 6 && (Handle.policy h).toNat < 5 && Handle.level h < 3 && Handle.layout h < 6
    && h.extractLsb' 228 6 == (0 : BitVec 6)

/-- The first test of every use of a handle: the empty handle, then the reserved fields (R35). -/
def useHandle (h : Handle) : Res Unit := do
  check (h != 0) Flt.bounds
  check (handleFieldsOk h) Flt.mode

/-- A handle that its holder may not write (R41). -/
def readOnly (h : Handle) : Bool := Handle.mode h == modeIn || Handle.mode h == modeView

/-- Elements of a box: the product of its extents. -/
def Handle.count (h : Handle) : Nat := Handle.ext h 0 * Handle.ext h 1 * Handle.ext h 2 * Handle.ext h 3

/-- The coordinates of a linear index, dimension 0 fastest; the last one takes what is left (R159). -/
def splitIndex (h : Handle) (i : Nat) : List Nat :=
  let e (d : Nat) := Handle.ext h d
  [i % e 0, i / e 0 % e 1, i / e 0 / e 1 % e 2, i / e 0 / e 1 / e 2]

/-! ### Regions -/

/-- The core whose scratchpad and level-2 table a task uses. -/
def coreOfTask (t : Task) : Nat := (t.r.core.orElse (fun _ => t.r.bound.orElse (fun _ => t.r.home))).getD (t.r.cluster * 8)

/-- A core has at most 1,024 requests in flight (R1): those of the task on it and of the tasks that wait or retire off it. An access that a
suspension abandoned is none until it is issued again. -/
abbrev maxRequests : Nat := 1024
def State.requests (s : State) (core : Nat) : Nat :=
  s.tasks.foldl (fun n p => if coreOfTask p.2 == core then n + (p.2.pend.filter (fun a => a.again.isNone)).length else n) 0

/-- The region table of a level that belongs to the accessing task: its launch's descriptors in that table (R36, R37, R39); a
service-core launch's root regions are at level 2 (R361). -/
def State.regionTable (s : State) (t : Task) (level : Nat) : SMap Region :=
  let own := match s.launch? (s.activeLaunch t) with
    | some l => if level == 0 || l.service.isSome then l.regions else []
    | none => []
  let mine (m : SMap Region) : SMap Region := m.filter (fun p => p.2.launch == some (s.activeLaunch t))
  match level with
  | 0 => own
  | 1 => mine (s.cluster t.r.cluster).regions
  | _ => if own.isEmpty then mine (s.core (coreOfTask t)).regions else own

/-- A handle of a block format has its planar layout, and origin and extent along dimension 0 in whole blocks (R68). -/
def blockHandleOk (h : Handle) : Bool :=
  match fmtKind (Handle.fmt h) with
  | .kb => Handle.layout h == 4 && Handle.org h 0 % 16 == 0 && Handle.ext h 0 % 16 == 0
  | .mx => Handle.layout h == 5 && Handle.org h 0 % 32 == 0 && Handle.ext h 0 % 32 == 0
  | _ => true

/-- The region a handle names, under the checks of R36 and R68. -/
def State.regionOf (s : State) (t : Task) (h : Handle) : Res Region := do
  match SMap.find (s.regionTable t (Handle.level h)) (Handle.region h) with
  | none => fault Flt.bounds
  | some g =>
    check g.valid Flt.bounds
    check (Handle.fmt h == g.fmt && Handle.layout h == g.layout.toNat && Handle.rank h == g.rank.toNat
      && Handle.level h == g.level.toNat && blockHandleOk h) Flt.format
    check (dims.all (fun d => Handle.org h d + Handle.ext h d ≤ nth g.size d 1)) Flt.bounds
    .ok g

/-- The bit address of element p of a region, counted from BASE (Table 3.9). -/
def locate (g : Region) (p : List Nat) : Nat :=
  let w := fmtWidth g.fmt
  let p0 := nth p 0 0
  let p1 := nth p 1 0
  let outer := nth p 2 0 * nth g.stride 2 0 + nth p 3 0 * nth g.stride 3 0
  let blocked (t : Nat) :=
    8 * (p0 / t * nth g.stride 0 0 + p1 / t * nth g.stride 1 0 + outer) + (p1 % t * t + p0 % t) * w
  match g.layout.toNat with
  | 1 => 8 * (p0 * nth g.stride 0 0 + outer) + p1 * w
  | 2 => blocked 16
  | 3 => blocked 32
  | _ => 8 * (p1 * nth g.stride 1 0 + outer) + p0 * w

/-- Header bytes of one block: E and G for KB, X for MX (R62, R64). -/
def headerBytes (f : Fmt) : Nat :=
  match fmtKind f with
  | .kb => 2
  | .mx => 1
  | _ => 0

/-- Byte offset from BASE of the header of the block that holds element p (R39, planar layouts). -/
def locateHeader (g : Region) (p : List Nat) : Nat :=
  let row := nth p 1 0 * nth g.stride 1 0 + nth p 2 0 * nth g.stride 2 0 + nth p 3 0 * nth g.stride 3 0
  let h0 := ((nth g.size 0 1 * fmtWidth g.fmt + 7) / 8 + 7) / 8 * 8
  row + h0 + nth p 0 0 / fmtBlock g.fmt * headerBytes g.fmt

/-- Coordinates within the region. -/
def regionCoord (h : Handle) (c : List Nat) : List Nat := dims.map (fun d => Handle.org h d + nth c d 0)

/-- box_elem (R38): the region and the coordinate within it of an element. -/
def State.boxElem (s : State) (t : Task) (h : Handle) (c : List Nat) : Res (Region × List Nat) := do
  check (dims.all (fun d => nth c d 0 < Handle.ext h d)) Flt.bounds
  let g ← s.regionOf t h
  .ok (g, regionCoord h c)

/-- The bytes, as offsets from BASE, that hold an element (R39). -/
def elemBytes (g : Region) (p : List Nat) : Nat × Nat :=
  let a := locate g p
  let w := fmtWidth g.fmt
  (a / 8, (a + w + 7) / 8 - a / 8)

/-! ### Narrowing -/

/-- box_sub (R40). -/
def boxSub (h : Handle) (o e : Nat → Nat) : Res Handle := do
  check (dims.all (fun d => o d + e d ≤ Handle.ext h d)) Flt.bounds
  check (dims.all (fun d => Handle.org h d + o d ≤ 2 ^ 28 - 1)) Flt.bounds
  check (dims.all (fun d => d ≤ Handle.rank h || (o d == 0 && e d == 1))) Flt.bounds
  .ok (Handle.withDims h (fun d => Handle.org h d + o d) e)

/-- The modes a child may receive (Table 3.4). -/
def modeAllowed (parent child : BitVec 4) : Bool :=
  if parent == modeIn || parent == modeView then child == modeIn || child == modeView
  else if parent == modeOut then child == modeOut || child == modeScratch
  else if parent == modeShared then child.toNat < 6
  else child.toNat < 6 && child != modeShared

/-! ### Shards -/

/-- shard_global (R119): the global coordinates of an element. One of a halo below the root region is negative. -/
def State.shardGlobal (s : State) (t : Task) (h : Handle) (c : List Nat) : Res (List Int) := do
  check (dims.all (fun d => nth c d 0 < Handle.ext h d)) Flt.bounds
  let g ← s.regionOf t h
  match s.launch? (s.activeLaunch t) with
  | none => fault Flt.bounds
  | some l =>
    let root := match g.root with
      | some r => (SMap.find l.regions r).getD g
      | none => g
    let one (d : Nat) : Res Int := do
      let p : Int := nth g.org d 0 + ((Handle.org h d + nth c d 0 : Nat) : Int)
      let kind := (root.shard.extractLsb' (6 * d + 4) 2).toNat
      let axis := (root.shard.extractLsb' (6 * d + 2) 2).toNat
      check (kind == 0 || axis < l.axes) Flt.bounds
      let n := l.meshSize axis
      let m := l.meshCoord axis
      .ok (if kind == 0 then p else if kind == 1 then (m * ((nth root.g d 1 + n - 1) / n) : Nat) + p else p * n + m)
    dims.mapM one

/-- KRNG (R81) is in Numbers.lean; the global coordinates it takes are below 2^32 (R210). -/
def coordsFit (g : List Int) : Bool := g.all (fun x => 0 ≤ x && x < 2 ^ 32)

end Sys2Proof.Machine
end

