-- ==== Sys2Proof/Machine/Translate.lean ====
section
/-! DEFINITION. Address translation, frames and channels (20 R308 to R319, R323): from an element's place to physical
bytes. Cluster memory and scratchpads stand above the 2^46 physical addresses of DRAM in the model's one memory. -/

namespace Sys2Proof.Machine
open Sys2Proof

/-- Where cluster memory begins in the model's memory: 8 MiB for each cluster. -/
def clusterMem (c : Nat) : Nat := 2 ^ 46 + c * 2 ^ 23
/-- Where a core's scratchpad begins: 2 MiB for each compute and service core. -/
def scratchpad (c : Nat) : Nat := 2 ^ 47 + c * 2 ^ 21

/-! ### Frames -/

/-- An address of DRAM (R314). -/
def isDram (pa : Nat) : Bool := pa < 2 ^ 43 && pa / 2 ^ 36 % 16 == 0
/-- The die against whose stack a physical address lies (R314). -/
def stackDie (pa : Nat) : Nat := let j := pa / 2 ^ 40 % 8; if j < 4 then j else j + 1
/-- The frame index within the stack (R314). -/
def frameIndex (pa : Nat) : Nat := pa / 2 ^ 16 % 2 ^ 20
/-- The frame-table entry of an address; none: Unused (R315). -/
def State.frameAt (s : State) (pa : Nat) : Option Frame := SMap.find (s.stack (stackDie pa)).frames (frameIndex pa)

/-- The unit of access of a granule, in bytes (Table 20.4). -/
def granUnit (gran : Nat) : Nat :=
  match gran with
  | 0 => 32
  | 1 => 64
  | 2 => 256
  | _ => 512

/-- Cells a frame takes (Table 20.4). -/
def granCells (gran : Nat) : Nat :=
  match gran with
  | 2 => 10
  | 3 => 9
  | _ => 8

/-- The pseudo-channels of the unit that holds an address (R316). -/
def pseudoChannels (gran pa : Nat) : List Nat :=
  let f6 := frameIndex pa % 64
  match gran with
  | 0 => [Nat.xor (pa / 32 % 64) f6]
  | 1 => [Nat.xor (pa / 64 % 64) f6]
  | 2 => (List.range 5).map (fun t => (5 * (pa / 256 % 256) + f6 + t) % 64)
  | _ => (List.range 9).map (fun t => (9 * (pa / 512 % 128) + f6 + t) % 64)

/-- The channels of a unit. -/
def State.unitChans (s : State) (gran pa : Nat) : List Chan :=
  (pseudoChannels gran pa).map (fun p => SMap.get (s.stack (stackDie pa)).chans (p / 2) Chan.reset)

/-- A unit lies in a row of its stack (R342). -/
def inRow (gran pa : Nat) (pc bank row : Nat) : Bool :=
  (pseudoChannels gran pa).contains pc && Config.onRow (stackDie pa) pc bank row (pa / granUnit gran * granUnit gran)

/-- The row of a unit is being repaired (R321). -/
def State.repairing (s : State) (gran pa : Nat) : Bool :=
  match (s.stack (stackDie pa)).repCmd with
  | some v => inRow gran pa (v.toNat / 2 ^ 54 % 64) (v.toNat / 2 ^ 48 % 64) (v.toNat / 2 ^ 30 % 2 ^ 18)
  | none => false

/-- A new access to a unit may go to the controller: every channel of it takes ordinary traffic (R323), and its row is not under
repair (R321). -/
def State.channelsOnline (s : State) (gran pa : Nat) : Bool :=
  (s.unitChans gran pa).all (fun c => !c.offline) && !s.repairing gran pa

/-- An access that the controller holds may complete: no channel of its unit has drained (R323). -/
def State.channelsHold (s : State) (gran pa : Nat) : Bool :=
  (s.unitChans gran pa).all (fun c => !(c.offline && c.drained)) && !s.repairing gran pa

/-- Contributions of a unit that the controller treats as erased (R343). -/
def State.erased (s : State) (gran pa : Nat) : Nat :=
  ((pseudoChannels gran pa).filter (fun p => (s.stack (stackDie pa)).pcerase.getLsbD p)).length

/-- A byte whose read is uncorrectable: its word or unit is poisoned, or too much of its unit is erased (R317, R336,
R343). -/
def State.isBad (s : State) (a : Nat) : Bool :=
  s.poison.contains (a / 8)
    || (isDram a && match s.frameAt a with
        | some f => if f.gran < 2 then 0 < s.erased f.gran a else 1 < s.erased f.gran a
        | none => false)

/-! ### Page tables (R311, R312) -/

/-- Bits lo to lo + n - 1 of a number. -/
def natBits (x lo n : Nat) : Nat := x / 2 ^ lo % 2 ^ n

/-- One level of a walk: shift and width of its index, and the size and alignment of the table below. -/
structure WalkLevel where
  shift : Nat
  width : Nat
  nextAlign : Nat
  deriving DecidableEq, Repr

/-- The four levels (Table 20.1). -/
def walkLevels : List WalkLevel := [⟨39, 13, 4096⟩, ⟨30, 9, 4096⟩, ⟨21, 9, 256⟩, ⟨16, 5, 1⟩]

/-- The form of a leaf entry that maps a page of 2^shift bytes (Table 20.2). -/
def leafFormOk (e shift : Nat) : Bool :=
  natBits e 62 2 == 0 && natBits e 46 10 == 0 && natBits e 9 7 == 0 && natBits e 16 30 * 2 ^ 16 % 2 ^ shift == 0 && natBits e 4 3 < 4

/-- What a walk finds: the leaf entry, the shift of its page, and the non-leaf entries that it read from memory. -/
structure Walked where
  leaf : Nat
  shift : Nat
  nonleaf : List NonLeaf
  deriving DecidableEq, Repr

/-- A table entry stands in a frame of the partition: any other read of the walker is FLT_PROT (R315). -/
def State.tableFrameOk (s : State) (part pa : Nat) : Bool :=
  isDram pa && match s.frameAt pa with
    | some f => f.owner == part
    | none => false

/-- The entry of a level for an address that the walker keeps. -/
def keptEntry (kept : List NonLeaf) (part va : Nat) (l : WalkLevel) : Option Nat :=
  (kept.find? (fun n => n.part == part && n.shift == l.shift && n.top == va / 2 ^ l.shift)).map (fun n => n.entry)

/-- The addresses of the table entries that a walk reads from memory. -/
def State.walkPath (s : State) (kept : List NonLeaf) (part va : Nat) (table : Nat) : List WalkLevel → List Nat
  | [] => []
  | l :: rest =>
    let a := table + 8 * natBits va l.shift l.width
    let old := keptEntry kept part va l
    let e := old.getD (Memory.readNat s.mem a 8)
    let below := if natBits e 0 2 == 1 && (old.isSome || s.tableFrameOk part a) then State.walkPath s kept part va (natBits e 8 38 * 256) rest else []
    if old.isSome then below else a :: below

/-- A walk from a table down, a non-leaf entry that the walker keeps taken from there (R309, R310): what it finds, or the code of
the first fault of Table 20.3 in the entries. -/
def State.walkFrom (s : State) (kept : List NonLeaf) (part va : Nat) (table : Nat) : List WalkLevel → Except Nat Walked
  | [] => .error Flt.prot
  | l :: rest =>
    let a := table + 8 * natBits va l.shift l.width
    let old := keptEntry kept part va l
    let e := old.getD (Memory.readNat s.mem a 8)
    if old.isNone && !s.tableFrameOk part a then .error Flt.prot
    else if natBits e 0 1 == 0 then .error Flt.page
    else if natBits e 1 1 == 1 then
      if l.shift == 39 || !leafFormOk e l.shift then .error Flt.prot else .ok { leaf := e, shift := l.shift, nonleaf := [] }
    else if rest.isEmpty || natBits e 2 6 != 0 || natBits e 46 18 != 0 || natBits e 8 38 * 256 % l.nextAlign != 0 then .error Flt.prot
    else
      match State.walkFrom s kept part va (natBits e 8 38 * 256) rest with
      | .error c => .error c
      | .ok w =>
        if old.isSome then .ok w
        else .ok { w with nonleaf := { part := part, shift := l.shift, top := va / 2 ^ l.shift, entry := e } :: w.nonleaf }

/-- The frame of an address belongs to a partition and has a granule (R313, R315, R319). -/
def State.frameOk (s : State) (pa part gran : Nat) : Bool :=
  isDram pa && match s.frameAt pa with
    | some f => f.owner == part && f.gran == gran
    | none => false

/-- Every frame of a page (R313). -/
def State.pageFramesOk (s : State) (pa shift part gran : Nat) : Bool :=
  (List.range (2 ^ (shift - 16))).all (fun i => s.frameOk (pa + i * 2 ^ 16) part gran)

/-- Permissions of a leaf: loads need R, stores W, atomics both (Table 20.3). -/
def leafAllows (e : Nat) (k : Wants) : Bool := (!k.read || natBits e 2 1 == 1) && (!k.write || natBits e 3 1 == 1)

/-- A whole walk for a partition, with the tests of Table 20.3 in their order; an address of 2^52 or more is FLT_BOUNDS (R308). -/
def State.walkBy (s : State) (kept : List NonLeaf) (part va : Nat) (k : Wants) : Except Nat Walked :=
  if 2 ^ 52 ≤ va then .error Flt.bounds
  else match s.part? part with
  | none => .error Flt.prot
  | some p =>
    match s.walkFrom kept part va p.l1 walkLevels with
    | .error c => .error c
    | .ok w =>
      if !(natBits w.leaf 56 6 == part && s.pageFramesOk (natBits w.leaf 16 30 * 2 ^ 16) w.shift part (natBits w.leaf 4 3)) then
        .error Flt.prot
      else if !leafAllows w.leaf k then .error Flt.prot
      else if (s.walkPath kept part va p.l1 walkLevels).any s.isBad then .error Flt.ue
      else .ok w

/-- A walk that keeps nothing: the leaf and the page's shift. -/
def State.walk (s : State) (part va : Nat) (k : Wants) : Except Nat (Nat × Nat) :=
  match s.walkBy [] part va k with
  | .error c => .error c
  | .ok w => .ok (w.leaf, w.shift)

abbrev wantsRead : Wants := ⟨true, false⟩
abbrev wantsWrite : Wants := ⟨false, true⟩
abbrev wantsBoth : Wants := ⟨true, true⟩

/-- Raise a fault at a virtual address: TVAL holds it for FLT_PAGE and FLT_PROT (R268). -/
def faultAt {α : Type} (code va : Nat) : Res α :=
  .error (.flt code (if code == Flt.page || code == Flt.prot then word va else 0))

/-- A cached translation of an address: of the core's box translation cache, or else of the cluster TLB (R308). -/
def State.cachedPage (s : State) (core part va : Nat) : Option TlbEntry :=
  let hit (c : Nat) (e : TlbEntry) : Bool := e.core == c && e.part == part && e.page ≤ va && va < e.page + e.size
  (s.tlb.find? (hit core)).orElse (fun _ => s.ctlb.find? (hit (core / 8)))

/-- The physical address of a virtual one, through the translation caches of a task's core (R308): a miss waits for the walker;
a hit is checked against the frame table and the permissions (R313, R319). What a trap handler meets has to be pinned (R313). -/
def State.translate (s : State) (t : Task) (va : Nat) (k : Wants) : Res Nat :=
  if 2 ^ 52 ≤ va then fault Flt.bounds
  else
    match s.cachedPage (coreOfTask t) (s.partOf t) va with
    | none => .error (.miss va k)
    | some e =>
      let pa := natBits e.leaf.toNat 16 30 * 2 ^ 16 + (va - e.page)
      let gran := natBits e.leaf.toNat 4 3
      if !s.frameOk pa (s.partOf t) gran || !leafAllows e.leaf.toNat k then faultAt Flt.prot va
      else if t.ctl.act && natBits e.leaf.toNat 8 1 == 0 then faultAt Flt.page va
      else if !s.channelsOnline gran pa then .error .stall
      else .ok pa

/-- Physical address of byte off of a region's storage (R39, R308). -/
def State.regionByte (s : State) (t : Task) (g : Region) (off : Nat) (k : Wants) : Res Nat :=
  match g.level.toNat, g.place with
  | 0, some a => .ok (a + off)
  | 0, none => s.translate t (g.base + off) k
  | 1, _ => if g.base + off < 2 ^ 23 then .ok (clusterMem t.r.cluster + g.base + off) else fault Flt.bounds
  | _, _ => if g.base + off < 2 ^ 21 then .ok (scratchpad (coreOfTask t) + g.base + off) else fault Flt.bounds

/-- The physical bytes of a run of a region's storage. Bytes of one 64 KiB page are contiguous, so one translation serves
them. -/
def State.regionBytes (s : State) (t : Task) (g : Region) (off n : Nat) (k : Wants) : Res (List Nat) :=
  if n = 0 then .ok []
  else do
    let a ← s.regionByte t g off k
    if (g.base + off) / 65536 == (g.base + off + n - 1) / 65536 then .ok ((List.range n).map (fun i => a + i))
    else (List.range n).mapM (fun i => s.regionByte t g (off + i) k)

/-- Bytes that lie in one 64 KiB page of a partition's virtual memory, as a unit outside the cores reads them: a walk, no
cache. -/
def State.readPage (s : State) (part va n : Nat) : Except Nat (List Byte) :=
  match s.walk part va wantsRead with
  | .error c => .error c
  | .ok (e, shift) =>
    let pa := natBits e 16 30 * 2 ^ 16 + va % 2 ^ shift
    if (List.range n).any (fun i => s.isBad (pa + i)) then .error Flt.ue else .ok (Memory.readList s.mem pa n)

/-- Some virtual bytes as runs within one 64 KiB page each: their first addresses and lengths. -/
def pageRuns (va n : Nat) : List (Nat × Nat) :=
  if n = 0 then []
  else
    let p := va / 65536
    (List.range ((va + n - 1) / 65536 + 1 - p)).map (fun k =>
      let first := max va ((p + k) * 65536)
      (first, min (va + n) ((p + k + 1) * 65536) - first))

/-- Bytes of a partition's virtual memory as a unit outside the cores reads them: a walk for every 64 KiB page. -/
def State.readVirtual (s : State) (part va n : Nat) : Except Nat (List Byte) := do
  let runs ← (pageRuns va n).mapM (fun r => s.readPage part r.1 r.2)
  .ok runs.flatten

/-- The physical address of a partition's virtual byte for such a unit. -/
def State.physical (s : State) (part va : Nat) (k : Wants) : Except Nat Nat :=
  match s.walk part va k with
  | .error c => .error c
  | .ok (e, shift) => .ok (natBits e 16 30 * 2 ^ 16 + va % 2 ^ shift)

/-! ### What units outside the cores ask of pages (R302, R312, R323) -/

/-- The page of a partition's virtual address is pinned (Table 20.2). -/
def State.pinned (s : State) (part va : Nat) : Bool :=
  match s.walk part va wantsRead with
  | .ok (e, _) => natBits e 8 1 == 1
  | .error _ => false

/-- A physical byte of DRAM whose unit a new access may reach now (R321, R323). -/
def State.online (s : State) (pa : Nat) : Bool :=
  !isDram pa || match s.frameAt pa with
    | some f => s.channelsOnline f.gran pa
    | none => true

/-- A line of memory whose reads stall: a group that is prepared has staged it (R124). -/
def State.lineStalled (s : State) (a : Nat) : Bool :=
  s.staged.any (fun p => p.2.any (fun e =>
    (match SMap.find s.dests (e.dev * 64 + e.group) with | some d => d.prepared | none => false)
      && e.writes.any (fun w => w.a / 64 == a / 64)))

/-- A physical byte may be read now. -/
def State.readable (s : State) (pa : Nat) : Bool := s.online pa && !s.lineStalled pa

/-- The walker of a die may make a walk now: the table entries that it reads may be read. -/
def State.walkable (s : State) (kept : List NonLeaf) (part va : Nat) : Bool :=
  match s.part? part with
  | some p => (s.walkPath kept part va p.l1 walkLevels).all s.readable
  | none => true

/-- A unit outside the cores may read some virtual bytes now: their walks can be made, those that are mapped are on channels that take
ordinary traffic, and no prepared group stalls their lines. -/
def State.reachable (s : State) (part va n : Nat) : Bool :=
  (pageRuns va n).all (fun r => s.walkable [] part r.1 && match s.physical part r.1 wantsRead with
    | .ok pa => (List.range r.2).all (fun i => s.readable (pa + i))
    | .error _ => true)

/-- A unit outside the cores may write some virtual bytes now (R321, R323): as for a read, and a prepared line holds no write back. -/
def State.writable (s : State) (part va n : Nat) : Bool :=
  (pageRuns va n).all (fun r => s.walkable [] part r.1 && match s.physical part r.1 wantsWrite with
    | .ok pa => (List.range r.2).all (fun i => s.online (pa + i))
    | .error _ => true)

/-- The valid entries of a table: those of its listed words. -/
def State.tableEntries (s : State) (table bytes : Nat) : List Nat :=
  let words := (s.mem.filter (fun c => table ≤ c.1 && c.1 < table + bytes)).foldl (fun l c =>
    let w := c.1 / 8 * 8
    if l.contains w then l else w :: l) []
  (words.map (fun a => Memory.readNat s.mem a 8)).filter (fun e => natBits e 0 1 == 1)

/-- The valid leaf entries below a table, each with the shift of its page. -/
def State.leaves (s : State) (table : Nat) : List WalkLevel → List (Nat × Nat)
  | [] => []
  | l :: rest => (s.tableEntries table (8 * 2 ^ l.width)).flatMap (fun e =>
      if natBits e 1 1 == 1 then [(e, l.shift)] else State.leaves s (natBits e 8 38 * 256) rest)

/-- A frame that some partition's page tables map as a pinned page (R302, R331; log 22). -/
def State.pinnedFrame (s : State) (pa : Nat) : Bool :=
  s.parts.any (fun p => (s.leaves p.2.l1 walkLevels).any (fun e =>
    natBits e.1 8 1 == 1 && natBits e.1 16 30 * 2 ^ 16 ≤ pa && pa < natBits e.1 16 30 * 2 ^ 16 + 2 ^ e.2))

/-! ### The code image -/

/-- Some bytes that a core consumes hold no error (R337): FLT_UE carries the address of the first, where it is one of DRAM (R344). -/
def State.soundBytes (s : State) (own : Bool) (cells : List Nat) : Res Unit :=
  match cells.find? s.isBad with
  | some a => faultUeAt own (if isDram a then a else 0)
  | none => .ok ()

/-- Bytes of the active launch's code image, through the translation of the task's core (R130, R166): outside the image
FLT_BOUNDS; a service-core launch's image is in its scratchpad (R361). -/
def State.codeBytes (s : State) (t : Task) (off n : Nat) : Res (List Byte) := do
  match s.launch? (s.activeLaunch t) with
  | none => fault Flt.bounds
  | some l =>
    check (off + n ≤ l.csize) Flt.bounds
    let cells ← match l.service with
      | some d => Except.ok ((List.range n).map (fun i => scratchpad (serviceCore d) + l.code + off + i))
      | none =>
        if (l.code + off) / 65536 == (l.code + off + n - 1) / 65536 then do
          let a ← s.translate t (l.code + off) wantsRead
          Except.ok ((List.range n).map (fun i => a + i))
        else (List.range n).mapM (fun i => s.translate t (l.code + off + i) wantsRead)
    waitFor (!cells.any s.lineStalled)
    s.soundBytes l.service.isSome cells
    .ok (cells.map (fun a => Memory.read s.mem a))

/-- A number in the code image. -/
def State.codeNat (s : State) (t : Task) (off n : Nat) : Res Nat := do .ok (bytesToNat (← s.codeBytes t off n))

/-- A number at a virtual address of a launch's own tables (root box table, shape table), through the core's
translation; in the scratchpad for a service-core launch. -/
def State.tableNat (s : State) (t : Task) (l : Launch) (va n : Nat) : Res Nat := do
  let cells ← match l.service with
    | some d => Except.ok ((List.range n).map (fun i => scratchpad (serviceCore d) + va + i))
    | none => (List.range n).mapM (fun i => s.translate t (va + i) wantsRead)
  waitFor (!cells.any s.lineStalled)
  s.soundBytes l.service.isSome cells
  .ok (bytesToNat (cells.map (fun a => Memory.read s.mem a)))

/-- An entry of a shape record (R157, R290): FLT_BOUNDS outside the records or past the entries. -/
def State.shapeEntry (s : State) (t : Task) (n idx : Nat) : Res Nat := do
  match s.launch? (s.activeLaunch t) with
  | none => fault Flt.bounds
  | some l =>
    check (n < l.nshape) Flt.bounds
    let d ← s.tableNat t l (l.shapetab + 16 * n) 16
    check (idx < natBits d 64 16 + 1) Flt.bounds
    s.tableNat t l (natBits d 0 52 + 4 * idx) 4

end Sys2Proof.Machine
end

