-- ==== Sys2Proof/Machine/Registers.lean ====
section
/-! DEFINITION. The registers of the vector stream: reading them, and the merge rule that writes them (04 R67; 08 R136; 11 R199;
21 R337). -/

namespace Sys2Proof.Machine
open Sys2Proof

/-- A vector register after reset and after the release of R25: tag NONE (R58). -/
def VReg.empty : VReg := { tag := Fm.none, data := 0, scale := 0, bad := [], own := false }

/-- v0 to v511. -/
def Vec.reg (v : Vec) (r : Nat) : VReg := SMap.get v.v r VReg.empty
def Vec.setReg (v : Vec) (r : Nat) (x : VReg) : Vec := { v with v := SMap.put v.v r x }

/-- a0 to a31. -/
def Vec.scalar (v : Vec) (r : Nat) : Word := SMap.get v.a r 0
def Vec.setScalar (v : Vec) (r : Nat) (x : Word) : Vec :=
  { v with a := SMap.put v.a r x, abad := v.abad.filter (fun q => q != r) }

/-- b0 to b15. -/
def Vec.box (v : Vec) (r : Nat) : Handle := SMap.get v.b r 0

/-- k0 to k15: k0 reads as 4,096 one bits, and a write to it is discarded (R136). -/
def Vec.mask (v : Vec) (r : Nat) : BitVec 4096 := if r = 0 then BitVec.allOnes 4096 else SMap.get v.k r 0
def Vec.setMask (v : Vec) (r : Nat) (x : BitVec 4096) : Vec := 
  if r = 0 then v else { v with k := SMap.put v.k r x, kbad := v.kbad.filter (fun q => q != r) }

/-- Element i of a register as w-bit elements (R67). -/
def VReg.elem (r : VReg) (w i : Nat) : Nat := natBits r.data.toNat (w * i) w

/-- The header of block j of a register: E and G, or X (R67). -/
def VReg.header (r : VReg) (j : Nat) : Nat :=
  let hb := 8 * headerBytes r.tag
  natBits r.scale.toNat (hb * j) hb

/-- The 64-bit words of the data plane that an element lies in. -/
def elemWords (w i : Nat) : List Nat := if w * i / 64 = (w * i + w - 1) / 64 then [w * i / 64] else [w * i / 64, (w * i + w - 1) / 64]

/-- The word of the scale plane that the header of element i's block lies in. -/
def VReg.scaleWord (r : VReg) (i : Nat) : Nat := 256 + 8 * headerBytes r.tag * (i / fmtBlock r.tag) / 64

/-- Values of w bits each, the first the lowest. -/
def unpackBits (w n d : Nat) : List Nat := (List.range n).map (fun i => natBits d (w * i) w)
def packBits (w : Nat) : List Nat → Nat
  | [] => 0
  | v :: r => v % 2 ^ w + 2 ^ w * packBits w r

/-- Every word that a write covers whole is free of poison afterwards (R337); the scale plane of a block format stays. -/
def keptBad (old : VReg) (w : Nat) (vals : List (Option Nat)) : List Nat :=
  old.bad.filter (fun q => if 256 ≤ q then fmtIsBlock old.tag else
    !(List.range (64 / w + 2)).all (fun j =>
      let i := 64 * q / w + j
      64 * q + 64 ≤ w * i || (nth vals i (some 0)).isSome))

/-- The merge rule (R199): an element without a new value keeps its bits when the register's tag is the result's tag, and
reads as zero bits otherwise. Bits above the last element are zero, and a scale plane stays only with its block format
(R67). -/
def VReg.merge (old : VReg) (tag : Fmt) (vals : List (Option Nat)) : VReg :=
  let w := fmtWidth tag
  let keep := old.tag == tag
  let one (p : Nat × Option Nat) : Nat := match p.2 with
    | some v => v
    | none => if keep then old.elem w p.1 else 0
  { tag := tag,
    data := BitVec.ofNat 16384 (packBits w (((List.range vals.length).zip vals).map one)),
    scale := if keep && fmtIsBlock tag then old.scale else 0,
    bad := if keep then keptBad old w vals else [],
    own := keep && old.own && !(keptBad old w vals).isEmpty }

/-- Write a register by the merge rule. -/
def Vec.merge (v : Vec) (r : Nat) (tag : Fmt) (vals : List (Option Nat)) : Vec := v.setReg r ((v.reg r).merge tag vals)

/-- Replace n bits of a number from bit lo on. -/
def setBits (d lo n v : Nat) : Nat := d - natBits d lo n * 2 ^ lo + v % 2 ^ n * 2 ^ lo

/-- A word of the scale plane whose headers have all been written is free of poison (R337). -/
def VReg.clearHeaders (r : VReg) (js : List Nat) : VReg :=
  let n := 8 / headerBytes r.tag
  { r with bad := r.bad.filter (fun q => q < 256 || n == 0 || !(List.range n).all (fun k => js.contains ((q - 256) * n + k))) }

/-- Write block headers into the scale plane, the first at block j0. -/
def VReg.putHeaders (r : VReg) (j0 : Nat) (hs : List Nat) : VReg :=
  let hb := 8 * headerBytes r.tag
  { r with scale := BitVec.ofNat 4096 (setBits r.scale.toNat (hb * j0) (hb * hs.length) (packBits hb hs)) }

/-- Values for the elements listed in ascending order, none for the others. -/
def placeFrom (n : Nat) : Nat → List (Nat × Nat) → List (Option Nat)
  | 0, _ => []
  | f + 1, [] => none :: placeFrom n f []
  | f + 1, p :: r => if p.1 = n - (f + 1) then some p.2 :: placeFrom n f r else none :: placeFrom n f (p :: r)

end Sys2Proof.Machine
end

