-- ==== Sys2Proof/Machine/Access.lean ====
section
/-! DEFINITION. Accesses: the bytes and bits of an element, accesses in flight and the orders that bind them, dirty bits
and poison (03 R46, 05 R84 to R99, 09 R145, R146, 21 R336, R337). -/

namespace Sys2Proof.Machine
open Sys2Proof

/-! ### Performing on the storage -/

/-- The words or, in DRAM, the unit that a byte belongs to: first address and length (R317, R336). -/
def State.unitOf (s : State) (a : Nat) : Nat × Nat :=
  match if isDram a then s.frameAt a else none with
  | some f => (a / granUnit f.gran * granUnit f.gran, granUnit f.gran)
  | none => (a / 8 * 8, 8)

/-- A write that covers the whole word or unit clears its poison (R317, R337). -/
def State.clearedPoison (s : State) (ws : List ByteWrite) : List Nat :=
  s.poison.filter (fun w =>
    let u := s.unitOf (8 * w)
    !(List.range u.2).all (fun i => ws.any (fun b => b.a == u.1 + i && b.mask == 0xFF)))

/-- The words of units that erased pseudo-channels make uncorrectable (R343) and that some writes cover in part: they stay poisoned (R317). -/
def State.newPoison (s : State) (ws : List ByteWrite) : List Nat :=
  if s.dram.all (fun k => k.2.pcerase == 0) then []
  else
    let hurt := ws.filter (fun w => isDram w.a && s.isBad w.a
      && !(List.range (s.unitOf w.a).2).all (fun i => ws.any (fun b => b.a == (s.unitOf w.a).1 + i && b.mask == 0xFF)))
    (hurt.flatMap (fun w => (List.range ((s.unitOf w.a).2 / 8)).map (fun i => (s.unitOf w.a).1 / 8 + i))).foldl
      (fun l w => if l.contains w || s.poison.contains w then l else w :: l) []

/-- Mark the words of a byte's word or unit as poisoned (R336). -/
def State.poisonUnit (s : State) (a : Nat) : State :=
  let u := s.unitOf a
  { s with poison := ((List.range (u.2 / 8)).map (fun i => u.1 / 8 + i)).filter (fun w => !s.poison.contains w) ++ s.poison }

/-- Mark the words or units of some bytes as poisoned. -/
def State.poisonCells (s : State) (l : List Nat) : State := l.foldl (fun s a => s.poisonUnit a) s

/-- Set the dirty bit of the bytes of levels 1 and 2 that a write touches (R46). -/
def markDirty (d : Memory) (ws : List ByteWrite) : Memory :=
  ws.foldl (fun d w => if 2 ^ 46 ≤ w.a then Memory.write d w.a [1] else d) d

/-- Perform a write on the storage: the bytes, their dirty bits, the poison they clear or keep. Every party sees it at once
(log 3). -/
def State.store (s : State) (ws : List ByteWrite) : State :=
  if ws.isEmpty then s
  else { s with mem := Memory.applyAll s.mem ws, dirty := markDirty s.dirty ws, poison := s.newPoison ws ++ s.clearedPoison ws }

/-- Write whole bytes. -/
def State.storeBytes (s : State) (a : Nat) (bs : List Byte) : State := s.store (byteWrites a bs)

/-! ### Continuation records as memory shows them (R13) -/

/-- STATE codes (Table 2.2). -/
def stateCode : TaskSt → Nat
  | .copyingIn => 0
  | .runnable => 1
  | .running => 2
  | .waiting => 3
  | .joined => 4
  | .retiring => 5
  | .returning => 6
  | .returned => 7
  | .held => 8
  | .deferred => 9

/-- Word offset of the task's next instruction in its launch's image: the trap's, while a handler runs. -/
def Task.entryNow (x : Task) : Nat :=
  if x.r.home.isNone then x.r.entry else if x.ctl.act then x.ctl.tresume.toNat / 4 else x.ctl.pc / 4

/-- PARENT: the parent's record, or for a root task the launch's completion record; for the task of a window, which has neither parent
nor launch entry of its own, the completion record too (log 33). -/
def State.parentAddress (s : State) (x : Task) : Nat :=
  match x.r.parent with
  | some p => match s.task? p with | some y => y.r.pa | none => 0
  | none => match s.launch? x.r.launch with
    | some l => match l.crec with
      | some va => match s.physical l.part va wantsRead with | .ok a => a / 64 * 64 | .error _ => 0
      | none => 0
    | none => 0

/-- The eight words of a continuation record (Table 2.1), as one number. -/
def State.recordNat (s : State) (x : Task) : Nat :=
  let b (v : Bool) (i : Nat) : Nat := if v then 2 ^ i else 0
  let w0 := x.entryNow % 2 ^ 32 * 2 ^ 32 + x.r.fslot % 512 * 2 ^ 23 + x.r.fsize % 16 * 2 ^ 19 + x.r.level % 4 * 2 ^ 17
    + x.r.cls % 4 * 2 ^ 15 + stateCode x.st * 2 ^ 11
  let w1 := x.r.jcount % 2 ^ 32 * 2 ^ 32 + x.r.child % 2 ^ 32
  let w3 := x.r.budget % 2 ^ 32 * 2 ^ 32 + x.r.contract % 2 ^ 16 * 2 ^ 16
  let w5 := Config.boxList x.r.pa / 64 % 2 ^ 40 * 64 + x.r.boxes.length % 64
  let w6 := s.parentAddress x % 2 ^ 46
  let w7 := x.r.status % 256 * 2 ^ 56 + b x.r.preempted 55 + b x.r.det 54 + b x.r.resumed 53 + x.r.ctx % 2 ^ 16 * 2 ^ 32
  w0 + 2 ^ 64 * (w1 + 2 ^ 64 * (x.r.deadline % 2 ^ 64 + 2 ^ 64 * (w3 + 2 ^ 64 * (x.r.wid % 2 ^ 64 + 2 ^ 64 * (w5 + 2 ^ 64 * (w6 + 2 ^ 64 * w7))))))

/-- A byte as a read of memory gets it: of a live task's record where one lies, else of the storage. -/
def State.byteAt (s : State) (a : Nat) : Byte :=
  match s.tasks.find? (fun p => p.2.r.pa != 0 && p.2.r.pa ≤ a && a < p.2.r.pa + 64) with
  | some p => BitVec.ofNat 8 (s.recordNat p.2 / 256 ^ (a - p.2.r.pa))
  | none => Memory.read s.mem a

/-- The number in some physical bytes. -/
def State.readCells (s : State) (cells : List Nat) : Nat := bytesToNat (cells.map s.byteAt)

/-! ### Elements -/

/-- The write of w bits of v at bit off of the first of some bytes. -/
def bitWrites (cells : List Nat) (off w v : Nat) : List ByteWrite :=
  let m := (2 ^ w - 1) * 2 ^ off
  let x := v % 2 ^ w * 2 ^ off
  (List.range cells.length).map (fun i =>
    { a := nth cells i 0, mask := BitVec.ofNat 8 (m / 256 ^ i), v := BitVec.ofNat 8 (x / 256 ^ i) })

/-- The physical bytes of an element and the bit of the first at which it starts. -/
def State.elemCells (s : State) (t : Task) (g : Region) (p : List Nat) (k : Wants) : Res (List Nat × Nat) := do
  let b := elemBytes g p
  let cells ← s.regionBytes t g b.1 b.2 k
  .ok (cells, locate g p % 8)

/-- The physical bytes of the header of an element's block (R68). -/
def State.headerCells (s : State) (t : Task) (g : Region) (p : List Nat) (k : Wants) : Res (List Nat) :=
  s.regionBytes t g (locateHeader g p) (headerBytes g.fmt) k

/-- The bits of an element as the storage holds them now. -/
def State.readElem (s : State) (t : Task) (g : Region) (p : List Nat) : Res Nat := do
  let (cells, off) ← s.elemCells t g p wantsRead
  waitFor (!cells.any s.lineStalled)
  .ok (s.readCells cells / 2 ^ off % 2 ^ fmtWidth g.fmt)

/-- The first poisoned byte of an element. -/
def State.elemBad (s : State) (t : Task) (g : Region) (p : List Nat) : Res (Option Nat) := do
  let (cells, _) ← s.elemCells t g p wantsRead
  .ok (cells.find? s.isBad)

/-- A byte lies in the scratchpad of a task's core. -/
def ownCell (x : Task) (a : Nat) : Bool := scratchpad (coreOfTask x) ≤ a && a < scratchpad (coreOfTask x + 1)

/-- Some bytes are consumed (R337): poison among them raises FLT_UE, which says whether the core's own storage holds it (R339). -/
def State.soundCells (s : State) (x : Task) (cells : List Nat) : Res Unit :=
  match cells.filter s.isBad with
  | [] => .ok ()
  | c :: r => faultUeAt ((c :: r).any (ownCell x)) (if isDram c then c else 0)

/-- An element is consumed. -/
def State.elemSound (s : State) (t : Task) (g : Region) (p : List Nat) : Res Unit := do
  let (cells, _) ← s.elemCells t g p wantsRead
  s.soundCells t cells

/-- The write of an element. -/
def State.writeElem (s : State) (t : Task) (g : Region) (p : List Nat) (v : Nat) : Res (List ByteWrite) := do
  let (cells, off) ← s.elemCells t g p wantsWrite
  .ok (bitWrites cells off (fmtWidth g.fmt) v)

/-! ### Accesses in flight -/

/-- An access that the rules of R85 and R88 order before a later one of its stream: the same class, an acquire before it,
or a release after it. The writes of records are ordered only where they meet (R95). -/
def orderedBefore (a b : Access) : Bool :=
  a.stream == b.stream &&
    (if a.stream == .copy then a.writes.any (fun w => b.writes.any (fun x => w.a == x.a))
     else a.cls == b.cls || a.acq || b.rel)

/-- The k-th access in flight may perform: no earlier one is ordered before it. -/
def mayPerform (pend : List Access) (k : Nat) : Bool :=
  match pend[k]? with
  | some b => (pend.take k).all (fun a => !orderedBefore a b)
  | none => false

/-- No access of the control stream is in flight: what a release waits for (R95, R96, R98). -/
def settled (t : Task) : Bool := t.pend.all (fun a => a.stream != .control)

/-- An access that acts at once may act: nothing in flight of its stream is ordered before it. -/
def mayActNow (t : Task) (st : Stream) (cls : BitVec 4) (rel : Bool) : Bool :=
  t.pend.all (fun a => a.stream != st || !(a.cls == cls || a.acq || rel))

/-- Accesses of the named classes that a fence waits for (R86). -/
def classesSettled (t : Task) (st : Stream) (mask : BitVec 16) : Bool :=
  t.pend.all (fun a => a.stream != st || !mask.getLsbD a.cls.toNat)

/-- A load in flight into register r. -/
def Access.loadsInto (a : Access) (r : SReg) : Bool :=
  match a.load with
  | some d => d.reg == r || d.reg2 == r
  | none => false

/-- A scalar register that a load in flight will write (R145). -/
def awaited (t : Task) (r : SReg) : Bool :=
  r != 0 && t.pend.any (fun a => a.loadsInto r)

/-- A load in flight that will write a scalar register. -/
def Access.writesRegister (a : Access) : Bool :=
  match a.load with
  | some d => d.reg != 0 || d.reg2 != 0
  | none => false

/-- No load in flight will write a scalar register (R145). -/
def noLoads (t : Task) : Bool := !t.pend.any Access.writesRegister

/-- Box loads in flight of the control stream, atomics not among them, and stores in its posted queue (R146). -/
def loadsInFlight (t : Task) : Nat := (t.pend.filter (fun a => a.stream == .control && a.load.isSome && a.rmw.isNone)).length
def storesPosted (t : Task) : Nat := (t.pend.filter (fun a => a.stream == .control && a.load.isNone)).length

/-- Put an access in flight. -/
def Task.post (t : Task) (a : Access) : Task := { t with pend := t.pend ++ [a] }

/-- A box load enters the access list; a 17th waits (R146). -/
def postLoad (t : Task) (cls : BitVec 4) (sc : BitVec 3) (acq : Bool) (d : LoadDst) (cells : List Nat) : Res Task := do
  waitFor (loadsInFlight t < 16)
  .ok (t.post { stream := .control, cls := cls, scope := sc, acq := acq, rel := false, load := some d, cells := cells, writes := [], num := 0 })

/-- A box store enters the posted store queue; a 33rd waits (R146). -/
def postStore (t : Task) (cls : BitVec 4) (sc : BitVec 3) (rel : Bool) (ws : List ByteWrite) : Res Task := do
  waitFor (storesPosted t < 32)
  .ok (t.post { stream := .control, cls := cls, scope := sc, acq := false, rel := rel, load := none, cells := [], writes := ws, num := 0 })

/-- The vector load of an access in flight. -/
def Access.vectorLoad (a : Access) : Option VecLoad := a.load.bind (fun d => d.vector)

/-- A vector load enters the access list. -/
def Task.postVector (t : Task) (cls : BitVec 4) (l : VecLoad) : Task :=
  t.post { stream := .vector, cls := cls, scope := 0, acq := false, rel := false, load := some { reg := 0, signed := false, vector := some l },
           cells := l.cells, writes := [], num := 0 }

/-- The parts of some writes that are single-copy atomic: the elements of 8 to 64 bits; in other formats the bytes (R84). -/
def atomicParts (f : Fmt) (ws : List (List ByteWrite)) : List (List ByteWrite) :=
  if fmtIsScalar f then ws else ws.flatMap (fun l => l.map (fun w => [w]))

/-- The stores of a vector instruction are posted (log 5); a record's writes carry its number. -/
def Task.postWrites (t : Task) (st : Stream) (cls : BitVec 4) (sc : BitVec 3) (num : Nat) (ws : List (List ByteWrite)) : Task :=
  if ws.isEmpty then t
  else t.post { stream := st, cls := cls, scope := sc, acq := false, rel := false, load := none, cells := [], writes := ws.flatten, num := num,
                parts := ws.map (fun l => l.length) }

/-- The register value of loaded bytes (R159). -/
def loadValue (signed : Bool) (n x : Nat) : Word := if signed then (BitVec.ofNat (8 * n) x).signExtend 64 else word x

/-- Remove the k-th access in flight. -/
def Task.unpost (t : Task) (k : Nat) : Task := { t with pend := t.pend.eraseIdx k }

/-- The context of a vector stream once a load has returned: v[D] takes the elements by the merge rule and the headers of their blocks,
as the storage holds them now, with the poison of their bytes (R199, R214, R216, R337). -/
def State.loadedVector (s : State) (x : Task) (l : VecLoad) : Vec :=
  let n := fmtElems l.fmt
  let w := fmtWidth l.fmt
  let early (i : Nat) : Option Nat := SMap.find l.got i
  let r := (x.vec.reg l.reg).merge l.fmt (placeFrom n n (l.els.map (fun e =>
    (e.1, (early e.1).getD (s.readCells e.2.1 / 2 ^ e.2.2 % 2 ^ w)))))
  let r := l.hdrs.foldl (fun (r : VReg) h => r.putHeaders h.1 [s.readCells h.2]) r
  let r := r.clearHeaders (l.hdrs.map (fun h => h.1))
  let bad := l.bad ++ l.els.flatMap (fun e => if (early e.1).isNone && e.2.1.any s.isBad then elemWords w e.1 else [])
    ++ l.hdrs.flatMap (fun h => if h.2.any s.isBad then [r.scaleWord (h.1 * fmtBlock l.fmt)] else [])
  x.vec.setReg l.reg { r with bad := r.bad ++ bad, own := r.own || l.own || (l.cells.filter s.isBad).any (ownCell x) }

/-- One element of a vector load is read before the others (R84). -/
def State.readEarly (s : State) (x : Task) (l : VecLoad) (e : Nat × List Nat × Nat) : VecLoad :=
  let w := fmtWidth l.fmt
  let poisoned := e.2.1.any s.isBad
  { l with got := SMap.put l.got e.1 (s.readCells e.2.1 / 2 ^ e.2.2 % 2 ^ w), bad := l.bad ++ (if poisoned then elemWords w e.1 else []),
           own := l.own || (e.2.1.filter s.isBad).any (ownCell x) }

/-- A load that is issued again has read nothing. -/
def VecLoad.anew (l : VecLoad) : VecLoad := { l with got := [], bad := [], own := false }

/-- The virtual 64 KiB page of a frame, by the translation caches that a core uses. -/
def State.pageOf (s : State) (core part pa : Nat) : Option Nat :=
  let base (e : TlbEntry) : Nat := natBits e.leaf.toNat 16 30 * 2 ^ 16
  let hit (c : Nat) (e : TlbEntry) : Bool := e.core == c && e.part == part && base e ≤ pa && pa < base e + e.size
  ((s.tlb.find? (hit core)).orElse (fun _ => s.ctlb.find? (hit (core / 8)))).map (fun e => (e.page + (pa - base e)) / 65536)

/-- A suspension abandons an access that has not performed: it is issued again, through the pages that its frames had (R99, R227). -/
def State.abandoned (s : State) (x : Task) (a : Access) : Access :=
  let frames := ((a.cells ++ a.writes.map (fun w => w.a)).filter isDram).foldl
    (fun l c => if l.contains (c / 65536) then l else l ++ [c / 65536]) []
  let core := (x.r.core.orElse (fun _ => x.r.home)).getD 0
  if a.again.isSome then a
  else { a with load := a.load.map (fun d => { d with vector := d.vector.map VecLoad.anew }), again := some (frames.filterMap (fun f => (s.pageOf core (s.partOf x) (f * 65536)).map (fun p => (f, p)))) }

/-- The accesses of some streams of a task are abandoned. -/
def State.abandon (s : State) (t : Nat) (l : List Stream) : State :=
  s.modTask t (fun x => { x with pend := x.pend.map (fun a => if l.contains a.stream then s.abandoned x a else a) })

/-- The place of a byte of an abandoned access now. -/
def State.cellAgain (s : State) (x : Task) (pages : List (Nat × Nat)) (k : Wants) (c : Nat) : Res Nat :=
  match if isDram c then pages.find? (fun p => p.1 == c / 65536) else none with
  | some p => s.translate { x with ctl := { x.ctl with act := false } } (p.2 * 65536 + c % 65536) k
  | none => .ok c

/-- An abandoned access as it is issued again, with its translations, permissions and frames checked anew (R99, R227, R315, R319). -/
def State.reissued (s : State) (x : Task) (a : Access) (pages : List (Nat × Nat)) : Res Access := do
  let cell (k : Wants) (c : Nat) := s.cellAgain x pages k c
  let cells ← a.cells.mapM (cell (if a.rmw.isSome then wantsBoth else wantsRead))
  let writes ← a.writes.mapM (fun w => do .ok { w with a := (← cell wantsWrite w.a) })
  let load ← match a.load with
    | none => Except.ok none
    | some d => match d.vector with
      | none => .ok (some d)
      | some l => do
        let els ← l.els.mapM (fun e => do .ok (e.1, (← e.2.1.mapM (cell wantsRead)), e.2.2))
        let hdrs ← l.hdrs.mapM (fun h => do .ok (h.1, (← h.2.mapM (cell wantsRead))))
        .ok (some { d with vector := some { l with els := els, hdrs := hdrs } })
  .ok { a with cells := cells, writes := writes, load := load, again := none }

/-- A value that has come from memory is written to a scalar register; Belvedere's copy gets it too (R332). -/
def Task.fetched (x : Task) (r : SReg) (v : Word) : Task :=
  if r = 0 then x else { x with ctl := x.ctl.wr r v, bel := { x.bel with loads := x.bel.loads ++ [(r.toNat, v)] } }

/-- What an access writes to the storage when it performs: its bytes, or an atomic's new value (R93). -/
def State.effect (s : State) (a : Access) : State :=
  match a.rmw with
  | some m => s.store (bitWrites a.cells 0 (fmtWidth m.fmt) (m.new (s.readCells a.cells)))
  | none => s.store a.writes

/-- An atomic performs: it consumes its element (R337), writes the new value, and fetches the old one. -/
def State.performAtomic (s : State) (t : Nat) (x : Task) (k : Nat) (a : Access) (d : LoadDst) (m : Rmw) : State :=
  match s.soundCells x a.cells with
  | .error (.flt code val) =>
    if x.pendFault.isSome then s else s.setTask t { x.unpost k with pendFault := some { code := code, val := val } }
  | _ =>
    let old := s.readCells a.cells
    (s.effect a).setTask t (((x.unpost k).fetched d.reg (extendElem m.fmt old)).fetched d.reg2 (m.refused old))

/-- Perform one access in flight: a store on the storage; a load into its register, with the poison of its bytes
(R337); an atomic. A load into s0 discards the value and consumes nothing. -/
def State.performAccess (s : State) (t : Nat) (x : Task) (k : Nat) (a : Access) : State :=
  match a.load with
  | none => (s.effect a).setTask t (x.unpost k)
  | some d => match d.vector, a.rmw with
    | some l, _ => s.setTask t { x.unpost k with vec := s.loadedVector x l }
    | none, some m => s.performAtomic t x k a d m
    | none, none =>
      let v := loadValue d.signed a.cells.length (s.readCells a.cells)
      let bad := a.cells.any s.isBad && d.reg != 0
      let c := x.ctl.wr d.reg v
      let own := (a.cells.filter s.isBad).any (ownCell x)
      let c := if bad then { c with bad := d.reg.toNat :: c.bad, own := if own then d.reg.toNat :: c.own else c.own } else c
      let b := if d.reg = 0 then x.bel else { x.bel with loads := x.bel.loads ++ [(d.reg.toNat, v)] }
      s.setTask t { x.unpost k with ctl := c, bel := b }

/-- The channels of some physical bytes have not drained: an access that the controller holds for them completes (R323). -/
def State.cellsHeld (s : State) (cells : List Nat) : Bool :=
  cells.all (fun a => !isDram a || (match s.frameAt a with | some f => s.channelsHold f.gran a | none => true))

/-- The first access in flight that a save may perform: a store with no load ordered before it, directly or through other
stores; a store that stays keeps every later store of the posted queue (R99, R162). -/
def savable (pend : List Access) : Option Nat :=
  (List.range pend.length).find? (fun k =>
    match pend[k]? with
    | some a => a.load.isNone && mayPerform pend k
        && (a.stream != .control || (pend.take k).all (fun b => !(b.stream == .control && b.load.isNone)))
    | none => false)

/-- A save performs the posted stores that no abandoned load precedes; the others stay in the context (R99). -/
def State.savePosted (s : State) (t : Nat) : Nat → State
  | 0 => s
  | fuel + 1 =>
    match s.task? t with
    | none => s
    | some x =>
      match savable x.pend with
      | none => s
      | some k =>
        match x.pend[k]? with
        | some a => State.savePosted (s.performAccess t x k a) t fuel
        | none => s

end Sys2Proof.Machine
end

