-- ==== Sys2Proof/Machine/Routes.lean ====
section
/-! DEFINITION. Routes between devices and the control messages of commit groups that travel over them (07 R122 to R127; 22 R354). -/

namespace Sys2Proof.Machine
open Sys2Proof

/-- The partition of a launch. -/
def State.launchPart (s : State) (launch : Nat) : Nat := match s.launch? launch with | some l => l.part | none => 63

/-- This device in a launch's mesh. -/
def State.deviceOf (s : State) (launch : Nat) : Nat := match s.launch? launch with | some l => l.thisDevice | none => 0

/-- Destinations that were sent at least one packet (R124). -/
def CGroup.dests (c : CGroup) : List Nat := c.sent.foldl (fun l p => if l.contains p.1 then l else l ++ [p.1]) []

/-! ### Routes (R354) -/

/-- A port carries traffic. -/
def State.portUp (s : State) (k : Nat) : Bool := k < 16 && !s.downPorts.contains k

/-- The route to a device is usable: a valid entry whose primary or alternate port is up. -/
def State.routeUp (s : State) (part dest : Nat) : Bool :=
  match (SMap.find s.routes part).bind (fun m => SMap.find m dest) with
  | some r => r.valid && (s.portUp r.primary || s.portUp r.alternate)
  | none => false

/-- The port that traffic to a device takes: the primary, or the alternate while the primary is down; with the remote node (R354). -/
def State.portTo (s : State) (part dest : Nat) : Option (Nat × Nat) :=
  match (SMap.find s.routes part).bind (fun m => SMap.find m dest) with
  | some r =>
    if !r.valid then none
    else if s.portUp r.primary then some (r.primary, r.node)
    else if s.portUp r.alternate then some (r.alternate, r.node) else none
  | none => none

/-- The outer die of a port (R353). -/
def portDie (k : Nat) : Nat := nth [0, 1, 2, 3, 5, 6, 7, 8] (k / 2) 0

/-- Group traffic can leave for a device: its route is usable and this device's replica is not fenced (R127). -/
def State.groupRoute (s : State) (part dest : Nat) : Bool := !s.fencedTraffic && s.routeUp part dest

/-! ### Flits (R353) -/

/-- What a message to another device is on the wire (log 25): its destination, its kind and its bytes, of a partition. -/
def Message.onWire (part : Nat) : Message → Option (Nat × Nat × List Byte)
  | .packet dest bytes => some (dest, 2, bytes)
  | .control dest part kind group opening value =>
    some (dest, 3, natToBytes 1 kind ++ natToBytes 1 group ++ natToBytes 8 value ++ natToBytes 4 opening ++ natToBytes 1 part)
  | .digest dest group bytes => some (dest, 4, natToBytes 1 part ++ natToBytes 1 group ++ bytes)
  | .peer dest key params bytes => some (dest, 5, natToBytes 1 part ++ natToBytes 32 key ++ natToBytes 64 params ++ bytes)
  | .remoteStore dest bytes => some (dest, 6, bytes)
  | .storeAck dest task num => some (dest, 7, natToBytes 1 part ++ natToBytes 4 task ++ natToBytes 4 num)
  | _ => none

/-- A flit: the header (kind, whether more of the message follows, destination node, source node, payload bytes in use, sequence number; log
25), the payload, the reserved bytes, the CRC. -/
def flitBytes (kind to_ from_ seq : Nat) (more : Bool) (payload : List Byte) : List Byte :=
  let b := natToBytes 1 kind ++ natToBytes 1 (if more then 1 else 0) ++ natToBytes 2 to_ ++ natToBytes 2 from_ ++ natToBytes 2 payload.length ++ natToBytes 8 seq
    ++ payload ++ natToBytes (216 - payload.length) 0 ++ natToBytes 8 0
  b ++ natToBytes 16 (Config.flitCrc b).toNat

/-- The payloads of a message's flits: 216 bytes each, one at least. -/
def payloads (b : List Byte) : List (List Byte) := (List.range (max 1 ((b.length + 215) / 216))).map (fun i => (b.drop (216 * i)).take 216)

/-- Where the sequence number of a kind of flit and a node stands. -/
def flitKey (kind node : Nat) : Nat := node * 256 + kind

/-- A message leaves for another device: over the port that its route gives now, as flits numbered on (R353, R354). -/
def State.sendOn (s : State) (part : Nat) (m : Message) : State :=
  match m.onWire part with
  | none => s.send m
  | some (dest, kind, b) =>
    match s.portTo part dest with
    | none => s.send m
    | some (port, node) =>
      let ps := payloads b
      let n := SMap.get s.seqOut (flitKey kind node) 0
      let flits := ((List.range ps.length).zip ps).map (fun p =>
        ({ port := port, die := portDie port, bytes := flitBytes kind node s.node (n + p.1) (p.1 + 1 < ps.length) p.2 } : Flit))
      { s.send m with wire := s.wire ++ flits, seqOut := SMap.put s.seqOut (flitKey kind node) (n + ps.length) }

/-- The device of a partition's numbering that stands at a node: the lowest that a valid route names (log 25). -/
def State.deviceAt (s : State) (part node : Nat) : Option Nat :=
  ((SMap.get s.routes part []).find? (fun p => p.2.valid && p.2.node == node)).map (fun p => p.1)

/-! ### Control messages -/

/-- Kinds of a message between the control parts of two devices (log 25). -/
abbrev kindPrepare : Nat := 1
abbrev kindPrepared : Nat := 2
abbrev kindRefused : Nat := 3
abbrev kindPublish : Nat := 4
abbrev kindAbort : Nat := 5
abbrev kindAck : Nat := 6
abbrev kindWithdraw : Nat := 7
abbrev kindFull : Nat := 8
abbrev kindReset : Nat := 9
abbrev kindVerdict : Nat := 10
abbrev kindExpired : Nat := 11

/-- A run of a task, as group traffic names it. -/
def packetRun (t run : Nat) : Nat := t * 256 + run % 256

/-- Send a control message to a device: without a usable route it waits for one (R126). -/
def State.sendControl (s : State) (part dest kind group opening value : Nat) : State :=
  if s.groupRoute part dest then s.sendOn part (.control dest part kind group opening value)
  else { s with waitingControl := s.waitingControl ++
    [{ part := part, dest := dest, kind := kind, group := group, opening := opening, value := value }] }

/-- The control messages that waited leave where their route is usable now. -/
def State.flushControl (s : State) : State :=
  let go := s.waitingControl.filter (fun m => s.groupRoute m.part m.dest)
  go.foldl (fun s m => s.sendOn m.part (.control m.dest m.part m.kind m.group m.opening m.value))
    { s with waitingControl := s.waitingControl.filter (fun m => !s.groupRoute m.part m.dest) }

/-- The destinations of a decided group that have not acknowledged and are not waiting to be told are told again (R125, R126). -/
def State.resend (s : State) (g : Nat) : State :=
  let c := SMap.get s.groups g CGroup.reset
  if c.st != .aborting && c.st != .publishing then s
  else
    let me := s.deviceOf c.launch
    let part := s.launchPart c.launch
    let kind := if c.st == .publishing then kindPublish else kindAbort
    (c.dests.filter (fun d => d != me && !c.acked.contains d && s.groupRoute part d)).foldl (fun s d =>
      s.sendOn part (.control d part kind g c.opening 0)) s

/-- A route has become usable: what has to be told again is told again, and what waited leaves (R126). -/
def State.routesChanged (s : State) : State :=
  let decided (m : Control) : Bool := m.kind == kindPublish || m.kind == kindAbort
  let s := s.groups.foldl (fun s p => s.resend p.1) s
  { s with waitingControl := s.waitingControl.filter (fun m => !(decided m && s.groupRoute m.part m.dest)) }.flushControl

end Sys2Proof.Machine
end

