-- ==== Sys2Proof/Machine/Tasks.lean ====
section
/-! DEFINITION. The life of tasks as shared operations: interrupts and the containment log, queues, private storage,
inward and outward copies, returns and the overlap set, the end of a task, the rollback of a node and the end of a launch
(02, 03, 19, 21). -/

namespace Sys2Proof.Machine
open Sys2Proof

/-! ### Sorting -/

/-- Insert in order. -/
def insertBy {α : Type} (before : α → α → Bool) (x : α) : List α → List α
  | [] => [x]
  | y :: r => if before x y then x :: y :: r else y :: insertBy before x r

/-- Sort, keeping the order of equals. -/
def sortBy {α : Type} (before : α → α → Bool) (l : List α) : List α := l.foldr (fun x m => insertBy (fun a b => !before b a) x m) []

/-! ### Interrupts, the containment log -/

/-- Set a vector pending on a core (R275). -/
def State.setPending (s : State) (core v : Nat) : State :=
  s.modCore core (fun c => { c with ipend := c.ipend ||| (1 <<< v) })

/-- The clusters of a set of units (R346). -/
def unitClusters (units : BitVec 36) : List Nat :=
  (List.range 144).filter (fun c => units.getLsbD (c / 4))

/-- The clusters of a partition, ascending. -/
def State.partClusters (s : State) (p : Nat) : List Nat :=
  match s.part? p with
  | some x => unitClusters x.units
  | none => []

/-- The cores of some clusters, ascending. -/
def coresOf (cls : List Nat) : List Nat := cls.flatMap (fun c => (List.range 8).map (fun i => 8 * c + i))

/-- The lowest-indexed unfenced core of a partition. -/
def State.lowestCore (s : State) (p : Nat) : Option Nat := (coresOf (s.partClusters p)).find? (fun c => !(s.core c).fenced)

/-- Interrupt a partition with a vector on its lowest-indexed unfenced core (R344, R348). -/
def State.interruptPart (s : State) (p v : Nat) : State :=
  match s.lowestCore p with
  | some c => s.setPending c v
  | none => s

/-- Interrupt a partition's supervisor for an event whose vector the spec does not name: a free vector (log 11). -/
def State.interruptSupervisor (s : State) (p : Nat) : State :=
  let (v, s) := s.freshFree
  s.interruptPart p (v % 256)

/-- The number by which the launch unit interrupts the management cores: no core has it (log 27). -/
abbrev launchUnit : Nat := 1161

/-- Interrupt the management cores. -/
def State.interruptManagement (s : State) (source code : Nat) : State := s.send (.management source code)

/-- The bits of ISTAT (Table 22.2): the fields of a row run from high to low (R5). -/
abbrev istatBadTail : BitVec 8 := 0x01
abbrev istatNoCred : BitVec 8 := 0x02
abbrev istatDbLost : BitVec 8 := 0x04
abbrev istatPeer : BitVec 8 := 0x08
abbrev istatReset : BitVec 8 := 0x10
abbrev istatRejected : BitVec 8 := 0x20
abbrev istatDone : BitVec 8 := 0x40
abbrev istatReply : BitVec 8 := 0x80

/-- Raise the bits of a function's ISTAT (R350); an unmasked bit raises its partition's vector MSIX + 0 (R351). -/
def State.raiseIstat (s : State) (vf : Nat) (bits : BitVec 8) : State :=
  let f := s.hostFn vf
  let s := s.setHostFn vf { f with istat := f.istat ||| bits }
  if bits &&& ~~~f.imask == 0 then s
  else match s.parts.find? (fun p => p.2.vf == vf) with
    | some p => s.send (.msix vf (p.2.msix % 256))
    | none => s.send (.msix vf 0)

/-- A write of the device waits for earlier ones of its partition (log 44). -/
def State.holding (s : State) (part : Nat) : Bool := s.held.any (fun h => h.part == part)
def State.hold (s : State) (h : HeldWrite) : State := { s with held := s.held ++ [h] }

/-- Write bytes that lie in one 64 KiB piece of a partition's address space; nothing happens where no page is mapped. -/
def State.storeNow (s : State) (part va : Nat) (bs : List Byte) : State :=
  match s.physical part va wantsWrite with
  | .ok pa => s.storeBytes pa bs
  | .error _ => s

/-- The same for a run that may cross into the next piece. -/
def State.storeRun (s : State) (part va : Nat) (bs : List Byte) : State :=
  let n := 65536 - va % 65536
  if bs.length ≤ n then s.storeNow part va bs else (s.storeNow part va (bs.take n)).storeNow part (va + n) (bs.drop n)

/-- Write a piece once the channels it needs are there (R321, R323). -/
def State.storePiece (s : State) (part va : Nat) (bs : List Byte) : State :=
  if s.holding part || !s.writable part va bs.length then s.hold (.bytes part va bs) else s.storeNow part va bs

/-- Write at most 64 KiB at a virtual address of a partition as a unit of the device: nothing happens where no page is mapped. -/
def State.storeVirtual (s : State) (part va : Nat) (bs : List Byte) : State :=
  let n := 65536 - va % 65536
  if bs.length ≤ n then s.storePiece part va bs else (s.storePiece part va (bs.take n)).storePiece part (va + n) (bs.drop n)

/-- The base of a root box of a partition's supervisor launch. -/
def State.supervisorBox (s : State) (part n : Nat) : Option Region :=
  match s.supervisorOf part with
  | some l => match s.launch? l with
    | some x => SMap.find x.regions n
    | none => none
  | none => none

/-- Append an entry to a partition's containment log and set vector 33 (R344): a full ring counts the entry as lost. -/
def State.logNow (s : State) (part code action core counter rec w3 tick : Nat) : State :=
  match s.supervisorBox part 3 with
  | none => s
  | some g =>
    match s.readVirtual part g.base 24 with
    | .error _ => s
    | .ok bs =>
      let n := bytesToNat bs
      let next := natBits n 0 64
      let s :=
        if natBits n 64 64 ≤ next then s.storeRun part (g.base + 16) (natToBytes 8 (natBits n 128 64 + 1))
        else
          let w0 := code + action * 2 ^ 8 + core % 2048 * 2 ^ 16 + counter * 2 ^ 32
          let s := s.storeRun part (g.base + 64 + 64 * next)
            (natToBytes 8 w0 ++ natToBytes 8 tick ++ natToBytes 8 rec ++ natToBytes 8 w3 ++ natToBytes 32 0)
          s.storeRun part g.base (natToBytes 8 (next + 1))
      s.interruptPart part 33

/-- The header of a partition's containment log and its next entry can be reached. -/
def State.logReachable (s : State) (part : Nat) : Bool :=
  match s.supervisorBox part 3 with
  | none => true
  | some g => s.reachable part g.base 24 && (match s.readVirtual part g.base 8 with
      | .ok bs => s.writable part (g.base + 64 + 64 * bytesToNat bs) 64
      | .error _ => true)

/-- The entry is written once its memory can be reached (R321, R323, R344); its tick is that of the event. -/
def State.logEntry (s : State) (part code action core counter rec w3 : Nat) : State :=
  if s.holding part || !s.logReachable part then s.hold (.log part code action core counter rec w3 s.tick)
  else s.logNow part code action core counter rec w3 s.tick

/-- An interrupt for a write of the device comes after it (R265, R293). -/
def State.istatAfter (s : State) (part vf : Nat) (bits : BitVec 8) : State :=
  if s.holding part then s.hold (.istat part vf bits) else s.raiseIstat vf bits
def State.managementAfter (s : State) (part source code : Nat) : State :=
  if s.holding part then s.hold (.management part source code) else s.interruptManagement source code

/-- Do what was held, if it can be done now; none if it still waits. -/
def State.release (s : State) : HeldWrite → Option State
  | .bytes part va bs => if s.writable part va bs.length then some (s.storeNow part va bs) else none
  | .log part code action core counter rec w3 tick =>
    if s.logReachable part then some (s.logNow part code action core counter rec w3 tick) else none
  | .istat _ vf bits => some (s.raiseIstat vf bits)
  | .management _ source code => some (s.interruptManagement source code)

/-- The held writes that can be done now are done, those of one partition in order. -/
def State.flushHeld (s : State) : State :=
  s.held.foldl (fun s h =>
    if s.holding h.part then s.hold h
    else match s.release h with
      | some s' => s'
      | none => s.hold h) { s with held := [] }

/-! ### Queues (R294, R295) -/

/-- The queue of a class. -/
def Cluster.queue (c : Cluster) (cls : Nat) : List Nat := if cls == 0 then c.q0 else if cls == 1 then c.q1 else c.q2
def Cluster.setQueue (c : Cluster) (cls : Nat) (q : List Nat) : Cluster :=
  if cls == 0 then { c with q0 := q } else if cls == 1 then { c with q1 := q } else { c with q2 := q }

/-- The core that a slice fixed to one runs on: that core, or while it is fenced the lowest unfenced core of the cluster, if there
is one (R32, R341). -/
def State.fixedCore (s : State) (cluster c : Nat) : Option Nat :=
  if (s.core c).fenced then (coresOf [cluster]).find? (fun k => !(s.core k).fenced) else some c

/-- The one core that may dispatch a task, when there is one (R18, R32, R341): the core of its scratchpad storage, or else the core
that DSPAWN fixed. -/
def State.boundCore (s : State) (x : Task) : Option Nat :=
  match x.r.bound, x.r.fixed with
  | some c, _ => some c
  | none, some c => (s.fixedCore x.r.cluster c).orElse (fun _ => some c)
  | none, none => none

/-- The class of the slice that a core runs. -/
def State.sliceOn (s : State) (c : Nat) : Option Task := ((s.core c).task).bind s.task?

/-- Cores of a cluster that run contract slices, and how many may (R295). -/
def State.contractCores (s : State) (cluster : Nat) : Nat :=
  ((coresOf [cluster]).filter (fun c => match s.sliceOn c with | some x => x.r.cls == 0 | none => false)).length
def State.contractLimit (s : State) (cluster : Nat) : Nat := (s.cluster cluster).cres

/-- The order of victims (R296): lowest class, latest deadline, latest dispatch, lowest core. -/
def victimBefore (a b : Nat × Task) : Bool :=
  if a.2.r.cls != b.2.r.cls then b.2.r.cls < a.2.r.cls
  else if a.2.r.deadline != b.2.r.deadline then b.2.r.deadline < a.2.r.deadline
  else if a.2.r.dispatchedAt != b.2.r.dispatchedAt then b.2.r.dispatchedAt < a.2.r.dispatchedAt
  else a.1 < b.1

/-- The request that a record raises when it becomes Runnable and no suitable core is free (R296). -/
def State.raiseRequest (s : State) (t : Nat) (x : Task) : State :=
  let bound := s.boundCore x
  let cores := (coresOf [x.r.cluster]).filter (fun c => !(s.core c).fenced && (match bound with | some b => b == c | none => true))
  let room := s.contractCores x.r.cluster < s.contractLimit x.r.cluster
  if x.r.cls == 2 || cores.any (fun c => (s.core c).task.isNone && (x.r.cls != 0 || room)) then s
  else
    let slices := cores.filterMap (fun c => (s.sliceOn c).map (fun y => (c, y)))
    let latest := (slices.filter (fun p => p.2.r.cls == 0)).foldl (fun m p => max m p.2.r.deadline) 0
    let cand := slices.filter (fun p =>
      if x.r.cls == 1 then p.2.r.cls == 2
      else if room then p.2.r.cls != 0
      else p.2.r.cls == 0 && p.2.r.deadline == latest && x.r.deadline < latest)
    match cand.foldl (fun m p => match m with
      | none => some p
      | some (b : Nat × Task) => if victimBefore p b then some p else some b) none with
    | some v => s.modCore v.1 (fun k => { k with request := true, asked := some s.cycle, claimant := some t })
    | none => s

/-- A task of a service-core launch (R361). -/
def Task.service (x : Task) : Bool := match x.r.kind with | .service _ => true | _ => false

/-- Put a task in its cluster's queue, at the tail or at the head of its class; a contract's goes to its deadline's place (R295), but to the
head for a trap (R313). A Runnable one may ask for a core. A service core's one task stands in no queue (R361). -/
def State.enqueue (s : State) (t : Nat) (head : Bool) : State :=
  match s.task? t with
  | none => s
  | some x =>
    if x.service then s else
    let c := s.cluster x.r.cluster
    let q := (c.queue x.r.cls).filter (fun i => i != t)
    let s := s.setCluster x.r.cluster (c.setQueue x.r.cls (if head && (x.r.cls != 0 || x.pendFault.isSome) then t :: q else q ++ [t]))
    if x.st == .runnable then s.raiseRequest t x else s

/-- Take a task out of every queue of its cluster. -/
def State.dequeue (s : State) (t : Nat) : State :=
  match s.task? t with
  | none => s
  | some x =>
    let c := s.cluster x.r.cluster
    s.setCluster x.r.cluster
      { c with q0 := c.q0.filter (fun i => i != t), q1 := c.q1.filter (fun i => i != t), q2 := c.q2.filter (fun i => i != t) }

/-- A task becomes Runnable and enters its queue (R14). -/
def State.makeRunnable (s : State) (t : Nat) (head : Bool) : State :=
  (s.modTask t (fun x => { x with st := .runnable })).enqueue t head

/-- A task in Copying-In, which stands in its queue already (R328), becomes Runnable in its place. -/
def State.copiesDone (s : State) (t : Nat) : State :=
  match s.task? t with
  | none => s
  | some x => (s.setTask t { x with st := .runnable }).raiseRequest t { x with st := .runnable }

/-- A task gives up the core it holds: its core registers go with its context (R268), and what it claimed is claimed no more. -/
def State.releaseCore (s : State) (t : Nat) : State :=
  match s.task? t with
  | none => s
  | some x =>
    match x.r.core with
    | none => s
    | some c =>
      let k := s.core c
      (s.setCore c { k with task := none, claim := none }).setTask t (x.mapRec (fun r => { r with
        core := none, home := some c, leftAt := s.cycle, cregs := some { svec := k.svec, tdeleg := k.tdeleg, supcyc := k.supcyc } }))

/-- A task's TDELEG selects a code (R272), whether it holds a core or not. -/
def State.delegates (s : State) (x : Task) (code : Nat) : Bool :=
  match x.r.core, x.r.cregs with
  | some c, _ => (s.core c).tdeleg.getLsbD code
  | none, some k => k.tdeleg.getLsbD code
  | none, none => false

/-- The launch queue descriptor of a partition as a number (R289), 0 where it cannot be read. -/
def State.queueDescriptor (s : State) (part : Nat) : Nat :=
  match s.supervisorBox part 1 with
  | some g => match s.readVirtual part g.base 256 with
    | .ok bs => bytesToNat bs
    | .error _ => 0
  | none => 0

/-- That descriptor can be read now (R124, R321, R323). -/
def State.queueReachable (s : State) (part : Nat) : Bool :=
  match s.supervisorBox part 1 with
  | some g => s.reachable part g.base 256
  | none => true

/-- DBUDn: the default slice budget of a class (Table 19.1). -/
def State.defaultBudget (s : State) (part cls : Nat) : Nat :=
  natBits (s.queueDescriptor part) (128 + 32 * cls) 32

/-- The budget a new slice of a task loads (R297). -/
def State.sliceBudget (s : State) (x : Task) : Nat :=
  if x.r.descBudget != 0 then x.r.descBudget else s.defaultBudget (s.partOf x) x.r.cls

/-- Where a contract of a partition stands in the machine's table: contract numbers are the partition's own (R282). -/
def contractKey (part n : Nat) : Nat := part * 1024 + n

/-- The contract of a task. -/
def State.contractOf (s : State) (x : Task) : Option Contract :=
  if x.r.contract = 0xFFFF then none else SMap.find s.contracts (contractKey (s.partOf x) x.r.contract)

/-! ### Private storage (R16, R18, R37) -/

/-- Strides and total bytes of fresh storage for a box of some extents (Table 3.9). -/
def compactLayout (f : Fmt) (layout : Nat) (e : Nat → Nat) : List Nat × Nat :=
  let w := fmtWidth f
  let eb := max 1 (w / 8)
  let up (x m : Nat) := (x + m - 1) / m * m
  let row (n : Nat) := up ((n * w + 7) / 8) eb
  match layout with
  | 1 => let s0 := row (e 1); ([s0, 0, s0 * e 0, s0 * e 0 * e 2], s0 * e 0 * e 2 * e 3)
  | 2 | 3 =>
    let t := if layout == 2 then 16 else 32
    let s0 := t * t * w / 8
    let s1 := s0 * ((e 0 + t - 1) / t)
    let s2 := s1 * ((e 1 + t - 1) / t)
    ([s0, s1, s2, s2 * e 2], s2 * e 2 * e 3)
  | 4 | 5 =>
    let s1 := up (up ((e 0 * w + 7) / 8) 8 + (e 0 + fmtBlock f - 1) / fmtBlock f * headerBytes f) 8
    ([0, s1, s1 * e 1, s1 * e 1 * e 2], s1 * e 1 * e 2 * e 3)
  | _ => let s1 := row (e 0); ([0, s1, s1 * e 1, s1 * e 1 * e 2], s1 * e 1 * e 2 * e 3)

/-- The lowest place for so many bytes beside the used intervals, aligned to al bytes, below a bound (log 10). -/
def lowestFit (al : Nat) (used : List (Nat × Nat)) (size cap : Nat) : Option Nat :=
  let fits (a : Nat) := a + size ≤ cap && used.all (fun u => a + size ≤ u.1 || u.1 + u.2 ≤ a)
  ((0 :: used.map (fun u => (u.1 + u.2 + al - 1) / al * al)).filter fits).foldl
    (fun m a => match m with | none => some a | some b => some (min a b)) none

/-- The storage regions hold in a table. -/
def tableUse (m : SMap Region) : List (Nat × Nat) := m.map (fun p => (p.2.base, p.2.bytes))

/-- What a cluster's memory has in use: the regions there and the return staging reserved (R48). -/
def State.clusterUse (s : State) (cl : Nat) : List (Nat × Nat) :=
  tableUse (s.cluster cl).regions
    ++ s.spawns.filterMap (fun p =>
      if p.2.stageLevel == 1 && p.2.stageIn == cl && p.2.live != 0 then p.2.stageAt.map (fun b => (b, p.2.staging)) else none)

/-- Where the level-0 storage of a launch that stands outside every page begins (log 21), and what it has in use: view children's
SCRATCH boxes and return staging (R48). -/
def outsideBase (launch : Nat) : Nat := 2 ^ 50 + launch * 2 ^ 44
def State.outsideUse (s : State) (launch : Nat) : List (Nat × Nat) :=
  (match s.launch? launch with
    | some l => l.regions.filterMap (fun p => p.2.place.map (fun q => (q - outsideBase launch, p.2.bytes)))
    | none => [])
    ++ s.spawns.filterMap (fun p =>
      if p.2.stageLevel == 0 && p.2.stageIn == launch && p.2.live != 0 then p.2.stageAt.map (fun b => (b, p.2.staging)) else none)

/-- Bytes of a task's frame, and with the scratchpad buffers beside it (R52, R158). -/
def Task.frameSize (x : Task) : Nat := 4096 * (x.r.fsize + 1)
def Task.frameBytes (x : Task) : Nat := x.frameSize + x.r.sbufs.foldl (fun n p => n + p.2) 0

/-- What a task holds of a core's scratchpad: its frame and its buffers, the part that a claim has saved left out (R303). -/
def Task.frameUse (x : Task) : List (Nat × Nat) :=
  let base := 4096 * x.r.fslot
  (if x.r.saved.getLsbD 7 then [] else [(base, x.frameSize)])
    ++ (if x.r.saved.getLsbD 4 || x.frameBytes == x.frameSize then [] else [(base + x.frameSize, x.frameBytes - x.frameSize)])

/-- Frames and buffers of tasks that live in a core's scratchpad (R158). -/
def State.frameUse (s : State) (core : Nat) : List (Nat × Nat) :=
  s.tasks.flatMap (fun p =>
    if (p.2.r.core == some core || p.2.r.home == some core) && p.2.st != .returned then p.2.frameUse else [])

/-- The capacity of a level, where storage of its own is placed: 512 GiB of DRAM (log 21), and R18 for the others. -/
def levelCapacity (level : Nat) : Nat := if level == 0 then 2 ^ 39 else if level == 1 then 2 ^ 23 else 2 ^ 21 - 2 ^ 16

/-- What a core's scratchpad has in use, and the free bytes of its level. -/
def State.scratchUse (s : State) (core : Nat) : List (Nat × Nat) := tableUse (s.core core).regions ++ s.frameUse core
def State.scratchFree (s : State) (core : Nat) : Nat :=
  levelCapacity 2 - (s.scratchUse core).foldl (fun n u => n + (min (u.1 + u.2) (levelCapacity 2) - u.1)) 0

/-- The core of a cluster whose scratchpad has the most free space, the lowest on ties, among the unfenced (R18). -/
def State.roomiestCore (s : State) (cluster : Nat) : Option Nat :=
  ((coresOf [cluster]).filter (fun c => !(s.core c).fenced)).foldl
    (fun m c => match m with
      | none => some c
      | some b => if s.scratchFree b < s.scratchFree c then some c else some b) none

/-- Release the private storage of a task: its regions in every table. -/
def State.freeStorage (s : State) (t : Nat) (x : Task) : State :=
  let drop (m : SMap Region) := m.filter (fun p => p.2.owner != t)
  let s := s.setCluster x.r.cluster { s.cluster x.r.cluster with regions := drop (s.cluster x.r.cluster).regions }
  let s := match x.r.bound with
    | some c => s.modCore c (fun k => { k with regions := drop k.regions })
    | none => s
  match s.launch? x.r.launch with
  | some l => s.setLaunch x.r.launch { l with regions := l.regions.filter (fun p => !(p.2.place.isSome && p.2.owner == t)) }
  | none => s

/-! ### Arguments and inward copies (R43, R44) -/

/-- The coordinates of a box in linear order. -/
def boxCoords (e : Nat → Nat) : List (List Nat) :=
  (List.range (e 0 * e 1 * e 2 * e 3)).map (fun i => [i % e 0, i / e 0 % e 1, i / e 0 / e 1 % e 2, i / e 0 / e 1 / e 2])

/-- Extent of a child's box along a dimension, padding included. -/
def Arg.cext (a : Arg) (d : Nat) : Nat := nth a.ext d 1 + nth a.padLo d 0 + nth a.padHi d 0

/-- The parent coordinate of a child's coordinate; none for a pad element (R44). -/
def Arg.map (a : Arg) (c : List Nat) : Option (List Nat) :=
  let p (d : Nat) : Int := ((nth a.off d 0 + nth c d 0 : Nat) : Int) - ((nth a.padLo d 0 : Nat) : Int)
  if dims.all (fun d => 0 ≤ p d && p d < Handle.ext a.parent d) then some (dims.map (fun d => (p d).toNat)) else none

/-- What an inward copy reads of the parent's storage: elements, headers, and whether any was poisoned. -/
def State.snapshot (s : State) (parent : Task) (a : Arg) : Res Arg := do
  let g ← s.regionOf parent a.parent
  if Handle.mode a.child == modeOut || Handle.mode a.child == modeScratch then .ok { a with snap := [], hdrs := [], bad := none }
  else do
    let one (c : List Nat) : Res (Nat × Nat × Option Nat) :=
      match a.map c with
      | none => .ok (0, 0, none)
      | some pc => do
        let p := regionCoord a.parent pc
        let v ← s.readElem parent g p
        let hc ← s.headerCells parent g p wantsRead
        waitFor (!hc.any s.lineStalled)
        .ok (v, s.readCells hc, (← s.elemBad parent g p).orElse (fun _ => hc.find? s.isBad))
    let l ← (boxCoords a.cext).mapM one
    .ok { a with snap := l.map (fun x => x.1), hdrs := l.map (fun x => x.2.1), bad := l.findSome? (fun x => x.2.2) }

/-- The lineage of fresh storage (R119): the root region and the root coordinates of element 0. -/
def childLineage (g : Region) (parentRegion : Nat) (a : Arg) : Option Nat × List Int :=
  let root := match g.root with | some r => some r | none => some parentRegion
  (root, dims.map (fun d => nth g.org d 0 + ((Handle.org a.parent d + nth a.off d 0 : Nat) : Int) - ((nth a.padLo d 0 : Nat) : Int)))

/-- The descriptor of a child's own storage at a level. -/
def childRegion (g : Region) (a : Arg) (level base owner launch : Nat) : Region :=
  let (strides, bytes) := compactLayout g.fmt g.layout.toNat a.cext
  let (root, org) := childLineage g (Handle.region a.parent) a
  { base := base, size := dims.map a.cext, stride := strides, fmt := g.fmt, layout := g.layout, rank := g.rank,
    level := BitVec.ofNat 2 level, valid := true, shard := g.shard, root := root, org := org, g := g.g, bytes := bytes,
    owner := owner, launch := some launch, place := none }

/-- The handle of a child's own storage. An extent that padding carries above the 24 bits of its field is cut to them: the spec names no
fault for it (R35; log 43). -/
def childHandle (a : Arg) (level region : Nat) : Handle :=
  mkHandle (Handle.mode a.child) (Handle.policy a.child) level (Handle.rank a.parent) (Handle.fmt a.parent)
    (Handle.layout a.parent) region (fun _ => 0) a.cext

/-- Write the inward copy into fresh storage at a cell address: zeros where there is no snapshot; every dirty bit clear. -/
def State.fillStorage (s : State) (g : Region) (cell : Nat) (a : Arg) : State :=
  let s := { s with mem := Memory.clear s.mem cell g.bytes, dirty := Memory.clear s.dirty cell g.bytes,
                    poison := s.poison.filter (fun w => !(cell ≤ 8 * w && 8 * w < cell + g.bytes)) }
  let put (m : Memory) (cv : List Nat × Nat × Nat) : Memory :=
    let b := elemBytes g cv.1
    let m := Memory.applyAll m (bitWrites ((List.range b.2).map (fun i => cell + b.1 + i)) (locate g cv.1 % 8) (fmtWidth g.fmt) cv.2.1)
    if headerBytes g.fmt == 0 then m else Memory.writeNat m (cell + locateHeader g cv.1) (headerBytes g.fmt) cv.2.2
  { s with mem := ((boxCoords a.cext).zip (a.snap.zip a.hdrs)).foldl put s.mem }

/-! ### Returns (R46 to R51, R256 to R258) -/

/-- A write of the return's own, into the parent's storage: raw bits and the header of a block. -/
def State.putParent (s : State) (parent : Task) (g : Region) (p : List Nat) (v hdr : Nat) : Res State := do
  let ws ← s.writeElem parent g p v
  let hc ← s.headerCells parent g p wantsWrite
  .ok (s.store (ws ++ bitWrites hc 0 (8 * hc.length) hdr))

/-- Apply one element to the parent under a policy: replaced, or combined with what stands there (R47, R49). -/
def State.applyElem (s : State) (parent : Task) (g : Region) (p : List Nat) (policy : BitVec 4) (v hdr : Nat) : Res State := do
  if policy.toNat < 2 then s.putParent parent g p v hdr
  else do
    let old ← s.readElem parent g p
    s.elemSound parent g p
    s.putParent parent g p (reduceOp g.fmt policy old v) hdr

/-- The linear index of a coordinate in a region, dimension 0 fastest over SIZE (R49). -/
def regionLinear (g : Region) (p : List Nat) : Nat :=
  nth p 0 0 + nth g.size 0 1 * (nth p 1 0 + nth g.size 1 1 * (nth p 2 0 + nth g.size 2 1 * nth p 3 0))

/-- Whether an element lies in the writable boxes of two children of a group (R47). -/
def inOverlap (boxes : List GroupBox) (level region : Nat) (p : List Nat) : Bool :=
  let hits := boxes.filter (fun b => b.level == level && b.region == region
    && dims.all (fun d => nth b.lo d 0 ≤ nth p d 0 && nth p d 0 < nth b.hi d 0))
  hits.any (fun b => hits.any (fun c => b.child != c.child))

/-- A task as its outward copies see it: its engines, waits and translations aside, the storage is reached through the
page tables (the copy engine translates for the return). -/
def State.returnArg (s : State) (child parent : Task) (ci j : Nat) (a : Arg) (grp : Option Group) :
    Res (State × List HeldElem) := do
  let m := Handle.mode a.child
  if !a.fresh || !(m == modeOut || m == modeInout) then .ok (s, [])
  else do
    let gc ← s.regionOf child a.child
    let gp ← s.regionOf parent a.parent
    let boxes := match grp with | some x => x.boxes | none => []
    (boxCoords a.cext).foldlM (fun (acc : State × List HeldElem) c => do
      match a.map c with
      | none => .ok acc
      | some pc =>
        let s := acc.1
        let q := regionCoord a.child c
        let p := regionCoord a.parent pc
        let (cells, off) ← s.elemCells child gc q wantsRead
        let hc ← s.headerCells child gc q wantsRead
        if (cells ++ hc).all (fun x => Memory.read s.dirty x == 0) then .ok acc
        else do
          s.soundCells child (cells ++ hc)
          let v := s.readCells cells / 2 ^ off % 2 ^ fmtWidth gc.fmt
          let policy := Handle.policy a.child
          if inOverlap boxes (Handle.level a.parent) (Handle.region a.parent) p then
            let e : HeldElem :=
              { child := ci, arg := j, level := Handle.level a.parent, region := Handle.region a.parent, coord := p,
                rlin := regionLinear gp p,
                lin := nth c 0 0 + a.cext 0 * (nth c 1 0 + a.cext 1 * (nth c 2 0 + a.cext 2 * nth c 3 0)),
                policy := policy, value := v, hdr := s.readCells hc }
            .ok (s, acc.2 ++ [e])
          else do .ok ((← s.applyElem parent gp p policy v (s.readCells hc)), acc.2))
      (s, [])

/-- Two held entries name one element. -/
def sameElem (a b : HeldElem) : Bool := a.level == b.level && a.region == b.region && a.coord == b.coord

/-- The held elements of policy FAULT that two children wrote (R49). -/
def conflicts (held : List HeldElem) : List HeldElem :=
  held.filter (fun a => a.policy == 1 && held.any (fun b => b.policy == 1 && sameElem a b && a.child != b.child))

/-- The conflicting element that JSTAT reports: by its lower writer's argument entry, then by its place in the region, with
its two lowest writers (R49, R172). -/
def conflictReport (held : List HeldElem) : Option (Nat × Nat × Nat × Nat) :=
  let cs := conflicts held
  let lower := cs.filter (fun a => cs.all (fun b => !sameElem a b || a.child ≤ b.child))
  let best := lower.foldl (fun m a => match m with
    | none => some a
    | some (b : HeldElem) => if a.arg < b.arg || (a.arg == b.arg && a.rlin < b.rlin) then some a else some b) none
  best.map (fun a =>
    let others := (cs.filter (fun b => sameElem a b && a.child < b.child)).map (fun b => b.child)
    (a.arg, a.lin, a.child, others.foldl min (nth others 0 a.child)))

/-- Resolve a group's held elements into the parent's storage once its last child has returned (R49, R258): in ascending
child index, so that the highest writer wins under ORDERED and a REDUCE folds upward. A dead last child, whom no fault can reach, passes over an
element that faults (R30; log 42). -/
def State.resolveGroup (s : State) (parent : Task) (g : Group) (dead : Bool) : Res State := do
  let clash := !(conflicts g.held).isEmpty
  let apply := g.held.filter (fun e => !(clash && e.policy == 1))
  let inOrder := (List.range (apply.foldl (fun n e => max n (e.child + 1)) 0)).flatMap
    (fun i => apply.filter (fun e => e.child == i))
  inOrder.foldlM (fun s e => do
    match SMap.find (s.regionTable parent e.level) e.region with
    | none => .ok s
    | some r => match s.applyElem parent r e.coord e.policy e.value e.hdr with
      | .error (.flt code v) => if dead then .ok s else .error (.flt code v)
      | o => o) s

/-! ### JOIN (R23 to R25, R172) -/

/-- A task with the context that JOIN and YIELD leave it (Table 2.4). -/
def Task.afterJoin (x : Task) : Task :=
  { x with
    ctl := { x.ctl with s := x.ctl.s.filter (fun p => p.1 < 32), h := x.ctl.h.filter (fun p => p.1 < 16), bad := x.ctl.bad.filter (fun r => r < 32),
                         hbad := x.ctl.hbad.filter (fun r => r < 16), own := x.ctl.own.filter (fun r => r < 32) },
    vec := { Vec.empty with done := x.vec.done, issued := x.vec.issued },
    mat := { Eng.empty with done := x.mat.done, issued := x.mat.issued },
    cpy := { Eng.empty with done := x.cpy.done, issued := x.cpy.issued, colls := x.cpy.colls },
    tiles := [], cbs := [], sems := [], semBad := [], r := { x.r with lazy := 0 } }

/-- Every queued record has completed and every timeline has reached its issued count (R23, R28). -/
def Task.drained (x : Task) : Bool :=
  !x.vec.on && x.mat.queue.isEmpty && x.cpy.queue.isEmpty && x.pend.isEmpty && x.vec.done == x.vec.issued
    && x.mat.done == x.mat.issued && x.cpy.done == x.cpy.issued

/-- What JSTAT reports of the groups a JOIN waited for (Table 10.3). -/
def State.joinStatus (s : State) (x : Task) : Task :=
  let gs := x.r.groups.filterMap (fun g => SMap.find s.spawns g)
  let conflict := gs.findSome? (fun g => g.conflict)
  let fatal := gs.flatMap (fun g => g.fatal)
  let first := (gs.find? (fun g => !g.fatal.isEmpty)).bind (fun g =>
    g.fatal.foldl (fun m f => match m with
      | none => some f
      | some (b : Nat × Nat) => if f.1 < b.1 then some f else some b) none)
  let status := match first with | some f => f.2 | none => 0
  x.mapRec (fun r => { r with
    js0 := word ((if conflict.isSome then Flt.conflict else 0) + status * 2 ^ 8 + fatal.length * 2 ^ 16),
    js1 := match conflict with | some (a, lin, _, _) => word (a * 2 ^ 56 + lin) | none => 0,
    js2 := match conflict with | some (_, _, lo, hi) => word (lo + hi * 2 ^ 32) | none => 0,
    js3 := match first with | some f => word f.1 | none => word (2 ^ 64 - 1),
    groups := [] })

/-- A Joined task whose children have all returned becomes Runnable (R23 step 3): its report is taken and its groups are
forgotten. It has resumed once it is dispatched (step 4). -/
def State.wakeJoin (s : State) (t : Nat) : State :=
  match s.task? t with
  | none => s
  | some x =>
    if x.st == .joined && x.r.jcount == 0 then
      let y := s.joinStatus x
      let s := { s with spawns := s.spawns.filter (fun p => !x.r.groups.contains p.1) }
      (s.setTask t { y with r := { y.r with resuming := true } }).makeRunnable t false
    else s

/-! ### The end of a launch (R293) -/

/-- Windows of a launch's streams that are not Freed, or firings not Returned. -/
def State.streamsOpen (s : State) (l : Nat) : Bool :=
  s.streams.any (fun p => p.2.launch == l)
    || s.tasks.any (fun p => p.2.r.launch == l && match p.2.r.kind with | .firing _ _ | .amendment _ _ => true | _ => false)

/-- Close a stream as stclose does (R190, R264): at the end of the tick, once its records are applied, its sources close and its
watermark goes to the top. -/
def State.closeStream (s : State) (n : Nat) : State :=
  match SMap.find s.streams n with
  | none => s
  | some e => { s with streams := SMap.put s.streams n { e with closing := true } }

/-- Root tasks of a launch that live. -/
def State.liveRoots (s : State) (l : Nat) : Nat :=
  (s.tasks.filter (fun p => p.2.r.launch == l && p.2.r.kind == .root && p.2.st != .returned)).length

/-- A launch that has no live root task, or a periodic one whose contract is cancelled, closes its streams; with the last window
Freed it ends: the completion record is written and the issuer interrupted (R292, R293). -/
def State.tryFinishLaunch (s : State) (l : Nat) : State :=
  match s.launch? l with
  | none => s
  | some x =>
    let finished := x.live && !x.supervisor && x.service.isNone && (if x.periodic then x.closing else s.liveRoots l == 0)
    if !finished then s
    else
      let s := (s.streams.filter (fun p => p.2.launch == l && !p.2.closing)).foldl (fun s p => s.closeStream p.1) s
      if s.streamsOpen l then s.setLaunch l { x with closing := true }
      else
        let s := match x.crec with
          | some va => s.storeVirtual x.part va
              (natToBytes 8 (x.fatalStatus + x.fatal * 2 ^ 32) ++ natToBytes 8 s.tick ++ natToBytes 8 x.releases ++ natToBytes 8 x.skipped
                ++ natToBytes 32 0)
          | none => s
        let s := s.setLaunch l { x with live := false, closing := true }
        match s.part? x.part with
        | some p => if x.priv then s.managementAfter x.part launchUnit 0 else s.istatAfter x.part p.vf istatDone
        | none => s

/-! ### The end of a task -/

/-- A parent as the copy engine of a returning child's core reaches its storage: the parent's own launch, the child's
translations. -/
def Task.seenFrom (y x : Task) : Task :=
  { y with ctl := { y.ctl with act := false }, r := { y.r with core := some (coreOfTask x) } }

/-- The re-queue codes (Table 8.11). -/
def rerunCode (code : Nat) : Bool := code == Flt.ue || code == Flt.check || code == Flt.ctxsave

/-- The parent's side of a return (R24, R28, R30): JCOUNT falls, a fatal child is noted, and the last return of the group
resolves it. A fault of that resolution is the returning child's (R313, R326): its return does not complete. -/
def State.childReturned (s : State) (x : Task) (status : Nat) : Res State := do
  match x.r.parent, x.r.kind with
  | some p, .child g =>
    let s := match SMap.find s.spawns g with
      | some grp => { s with spawns := SMap.put s.spawns g { grp with
          live := grp.live - 1, fatal := if status == 0 then grp.fatal else grp.fatal ++ [(x.r.child, status)] } }
      | none => s
    let s := s.modTask p (fun y => y.mapRec (fun r => { r with jcount := r.jcount - 1 }))
    let s ← match SMap.find s.spawns g, s.task? p with
      | some grp, some y =>
        if grp.live == 0 then do
          let s ← if y.r.dead then Except.ok s else s.resolveGroup (y.seenFrom x) grp x.r.dead
          Except.ok { s with spawns := SMap.put s.spawns g { grp with held := [], conflict := conflictReport grp.held } }
        else Except.ok s
      | _, _ => Except.ok s
    .ok (s.wakeJoin p)
  | _, _ => .ok s

/-- A root task's return as its launch counts it. -/
def State.rootReturned (s : State) (x : Task) (status : Nat) : State :=
  match s.launch? x.r.launch with
  | some l =>
    if status == 0 then s
    else s.setLaunch x.r.launch { l with
      fatal := l.fatal + 1,
      fatalStatus := if l.fatal == 0 || x.r.wid < l.fatalWid then status else l.fatalStatus,
      fatalWid := if l.fatal == 0 || x.r.wid < l.fatalWid then x.r.wid else l.fatalWid }
  | none => s

/-- A task reaches Returned (R14): its core, storage, queue place and record are freed, and its parent or launch hears of
it. A firing or amendment waits for its publication (R112), a service task for its report (R361). -/
def State.finishReturn (s : State) (t : Nat) (status : Nat) : Res State := do
  match s.task? t with
  | none => .ok s
  | some x =>
    let s := ((s.dequeue t).releaseCore t).freeStorage t x
    let s := { s with misses := s.misses.filter (fun m => m.task != t) }
    let y := { Task.empty with st := .returned, r := { x.r with status := status, core := none, comparing := none } }
    match x.r.kind with
    | .child _ => do .ok ((← (s.setTask t y).childReturned y status).delTask t)
    | .root => .ok (((s.rootReturned y status).delTask t).tryFinishLaunch x.r.launch)
    | _ => .ok (s.setTask t y)

/-- A finish that cannot complete its copies leaves the machine as it is. -/
def orKeep (s : State) (r : Res State) : State := match r with | .ok s' => s' | .error _ => s

/-- The dead tasks whose last child has returned reach Returned (R30). -/
def State.reapDead (s : State) : Nat → State
  | 0 => s
  | fuel + 1 =>
    match s.tasks.find? (fun p => p.2.r.dead && p.2.r.jcount == 0 && p.2.st == .retiring && p.2.r.core.isNone) with
    | some p => State.reapDead (orKeep s (s.finishReturn p.1 p.2.r.status)) fuel
    | none => s

/-- The posted stores and the atomics of a task that ends perform, in order: they precede what ended it (R8, R146, R333). -/
def State.performStores (s : State) (t : Nat) : State :=
  match s.task? t with
  | none => s
  | some x => ((x.kept ++ x.pend).foldl (fun s a => s.effect a) s).setTask t { x with pend := [], kept := [] }

/-- A task-fatal end (R30, R261): every engine context stops, engine storage and semaphores are released, no outward copy
is applied; with live children the task holds no core and waits for them. The state it shows meanwhile the spec does not name: the model
shows Retiring (log 42). -/
def State.endTask (s : State) (t : Nat) (code : Nat) : State :=
  match s.task? t with
  | none => s
  | some x0 =>
    let s := s.performStores t
    let x := (s.task? t).getD x0
    let y := { x with
      st := .retiring, vec := { Vec.empty with done := x.vec.done }, mat := { Eng.empty with done := x.mat.done },
      cpy := { Eng.empty with done := x.cpy.done }, tiles := [], cbs := [], sems := [], pend := [], kept := [], wait := none, pendFault := none,
      ctl := { x.ctl with halted := false, act := false, delay := none, loops := [] },
      r := { x.r with status := code, dead := true, lazy := 0 } }
    let s := ((s.setTask t y).dequeue t).releaseCore t
    let s := { s with misses := s.misses.filter (fun m => m.task != t) }
    s.reapDead (s.tasks.length + 1)

/-! ### Rollback of a node (R328 to R330) -/

/-- The task and its descendants that have not Returned. -/
def State.nodeOf (s : State) (ts : List Nat) : Nat → List Nat
  | 0 => ts
  | fuel + 1 =>
    let more := (s.tasks.filter (fun p => !ts.contains p.1 && (match p.2.r.parent with | some q => ts.contains q | none => false))).map (fun p => p.1)
    if more.isEmpty then ts else State.nodeOf s (ts ++ more) fuel

/-- Withdraw the group stores of a task from every group not yet decided (R123): WITHDRAWAL lowers the counts and tells the
destinations. A group in Preparing or Deciding keeps its state, and its commit goes on without the task: the spec does not say what the
re-run's stores do there, and the model discards them (log 34). -/
def State.withdrawStores (s : State) (t : Nat) : State :=
  s.groups.foldl (fun s p =>
    let undecided := p.2.st == .opened || p.2.st == .preparing || p.2.st == .deciding
    let dev := match s.launch? p.2.launch with | some l => l.thisDevice | none => 0
    let c := { p.2 with contributors := p.2.contributors.filter (fun c => c != t),
                        committer := if p.2.committer == some t then none else p.2.committer }
    if undecided && p.2.contributors.contains t then
      let run := packetRun t (match s.task? t with | some x => x.r.runs | none => 0)
      { s.setCGroup p.1 c with
        withdrawals := s.withdrawals ++ [(p.1, run)],
        packets := s.packets.filter (fun k => !(k.group == p.1 && k.who == run && k.dev == dev)) }
    else if undecided && p.2.committer == some t then s.setCGroup p.1 c
    else s) s

/-- Remove a descendant in a rollback. -/
def State.discardTask (s : State) (t : Nat) : State :=
  match s.task? t with
  | none => s
  | some x =>
    let s := (((s.dequeue t).releaseCore t).freeStorage t x).withdrawStores t
    { s with misses := s.misses.filter (fun m => m.task != t), spawns := s.spawns.filter (fun p => p.2.parent != t) }

/-- The task as SPAWN, DSPAWN or its launch created it (R328 step 5): a root or service task keeps its launch's boxes. -/
def State.spawnState (s : State) (x : Task) (counted : Bool) : Task :=
  let r := { x.r with
    jcount := 0, status := 0, preempted := false, resumed := false, resuming := false, ending := false, core := none, home := none,
    saved := 0, lazy := 0, midSlice := false, stops := [], cregs := none, dead := false, granted := false, groups := [], js0 := 0, js1 := 0, js2 := 0, js3 := 0, comparing := none, runs := x.r.runs + 1, reruns := if counted then x.r.reruns + 1 else x.r.reruns,
    boxes := if x.r.args.isEmpty then x.r.boxes else x.r.args.map (fun (a : Arg) => if a.fresh then 0 else a.child),
    args := x.r.args.map (fun (a : Arg) => if a.fresh then { a with stale := true } else a),
    bound := if x.r.down then none else x.r.bound }
  { Task.empty with st := .copyingIn, r := { r with budget := s.sliceBudget x } }

/-- Roll a task's node back to its spawn state (R328), for an error at an address or for none (R344); a fourth counted fault ends the task instead, its group stores withdrawn (R123, R330). The inward
copies read the parent's storage again when they are made. -/
def State.rollback (s : State) (t : Nat) (code : Nat) (counted : Bool) (at_ : Nat) : State :=
  match s.task? t with
  | none => s
  | some x =>
    let part := s.partOf x
    let core := (x.r.core.orElse (fun _ => x.r.home)).getD 0
    if counted && 3 ≤ x.r.reruns then
      ((s.withdrawStores t).logEntry part code 2 core x.r.reruns x.r.pa at_).endTask t code
    else
      let node := s.nodeOf [t] s.tasks.length
      let s := node.foldl (fun s i => s.performStores i) s
      let s := node.foldl (fun s i => s.discardTask i) s
      let s := { s with spawns := match x.r.kind with
        | .child g => s.spawns.map (fun (p : Nat × Group) => if p.1 == g then (p.1, { p.2 with held := p.2.held.filter (fun e => e.child != x.r.child) }) else p)
        | _ => s.spawns }
      let s := { s with tasks := s.tasks.filter (fun p => p.1 == t || !node.contains p.1) }
      let s := (s.setTask t (s.spawnState x counted)).enqueue t false
      let s := if code == Flt.ctxsave && counted then s.logEntry part code 8 core x.r.reruns x.r.pa at_ else s
      s.logEntry part (if counted then code else 0) 1 core x.r.reruns x.r.pa at_

/-! ### Error counters (R339, R340) -/

/-- Ticks still inside a window, with a new event. -/
def windowed (now win : Nat) (l : List Nat) : List Nat := (now :: l).filter (fun t => now ≤ t + win)

/-- Some storage of a task's own boxes has been allocated. -/
def Task.holdsStorage (x : Task) : Bool := (x.r.args.zip x.r.boxes).any (fun p => p.1.fresh && p.2 != 0)

/-- A level-2 context that a core's scratchpad binds and that no core runs: one that its end or its return has begun needs no
core any more. -/
def Task.heldBy (x : Task) (c : Nat) : Bool :=
  x.r.level == 2 && x.r.bound == some c && x.r.core.isNone && !x.r.dead && !x.service && (x.st != .copyingIn || x.holdsStorage)
    && x.st != .returning && x.st != .returned

/-- Fence a core (R286, R340): it dispatches nothing, its context is asked off, and the nodes of suspended contexts bound to
its scratchpad are rolled back without a fault code. -/
def State.fenceCore (s : State) (c : Nat) : State :=
  let s := s.modCore c (fun k => { k with fenced := true, request := k.task.isSome, asked := some s.cycle })
  let bound := s.tasks.filter (fun p => p.2.heldBy c)
  bound.foldl (fun s p => s.rollback p.1 0 false 0) s

/-- Count an event of a core (R339): at its threshold the die fences the core, logs it and interrupts the management
cores; a threshold of 0 disables the action. -/
def State.countEvent (s : State) (c : Nat) (code at_ : Nat) : State :=
  let k := s.core c
  let d := s.die (dieOfCore c)
  let reg := if code == Flt.check then d.chkwin else if code == Flt.ce then d.cewin else d.uewin
  let old := if code == Flt.check then k.chk else if code == Flt.ce then k.ce else k.ue
  let l := windowed s.tick (natBits reg.toNat 0 48) old
  let th := natBits reg.toNat 56 8
  let hit := th != 0 && th ≤ l.length
  let l' := if hit then [] else l
  let k := if code == Flt.check then { k with chk := l' } else if code == Flt.ce then { k with ce := l' } else { k with ue := l' }
  let s := s.setCore c k
  if hit then
    let part := (s.cluster (clusterOfCore c)).cpart
    ((s.fenceCore c).logEntry part code 3 c l.length 0 at_).interruptManagement c 3
  else s

end Sys2Proof.Machine
end

