-- ==== Sys2Proof/Machine/Ops.lean ====
section
/-! DEFINITION. The operations every control instruction is built from: the checks at issue (R142, R145), completion with
the delay slot and the hardware loops (R133, R155, R156), taking a trap and returning from one (R271 to R276), and the
delivery of a fault (R326). -/

namespace Sys2Proof.Machine
open Sys2Proof

/-- The outcome of a step. -/
abbrev Out := Host.Outcome State Fault Refusal

/-! ### Completion of an instruction -/

/-- The loops that remain when control goes to a target that neither the back-edge nor sequential flow chose: an entry
whose body the target leaves is discarded with every entry inside it (R156). The innermost entry stands first. -/
def keepLoops (target : Nat) : List LoopEntry → List LoopEntry
  | [] => []
  | e :: r =>
    let k := keepLoops target r
    if k.length < r.length then k else if e.start ≤ target && target ≤ e.stop then e :: k else k

/-- The back-edge at a word (R155), of the innermost entry that stops there: the next address, the loop stack, and the index
register it writes. Sequential flow that leaves a body discards its entry (R156). -/
def backEdge (next pc : Nat) : List LoopEntry → Nat × List LoopEntry × Option (SReg × Word)
  | [] => (next, [], none)
  | e :: r =>
    if e.stop ≠ pc then (if r.any (fun f => f.stop == pc) then backEdge next pc r else (next, keepLoops next (e :: r), none))
    else if 0 < e.left then (e.start, { e with left := e.left - 1, index := e.index + 1 } :: r, some (e.reg, word (e.index + 1)))
    else backEdge next pc r

/-- Complete an instruction of so many bytes: a slot's goes to the branch's target (R133), any other one in sequence or
along a back-edge (R155). -/
def Ctl.retire (c : Ctl) (len : Nat) : Ctl :=
  match c.delay with
  | some d => { c with pc := d.target, delay := none, loops := keepLoops d.target c.loops }
  | none =>
    let b := backEdge (c.pc + len) c.pc c.loops
    let c' := { c with pc := b.1, loops := b.2.1 }
    match b.2.2 with
    | some w => c'.wr w.1 w.2
    | none => c'

/-- Control goes to an address that is no target of a branch: a skipped loop body, a trap return (R156). -/
def Ctl.goTo (c : Ctl) (a : Nat) : Ctl := { c with pc := a, delay := none, loops := keepLoops a c.loops }

/-- A taken branch or a jump: the next word is its delay slot, the target comes after it; a link register is written at
once, and its old value is kept for a trap in the slot (R133, R273). -/
def Ctl.branch (c : Ctl) (target : Nat) (link : Option (SReg × Word)) : Ctl :=
  let c' := { c with pc := c.pc + 4, delay := some { branch := c.pc, target := target, link := link.map (fun l => (l.1, c.rd l.1)) } }
  match link with
  | some l => c'.wr l.1 l.2
  | none => c'

/-- The index register that a completion's back-edge writes. -/
def Ctl.indexWritten (c : Ctl) (len : Nat) : SReg :=
  match c.delay with
  | some _ => 0
  | none => match (backEdge (c.pc + len) c.pc c.loops).2.2 with
    | some w => w.1
    | none => 0

/-- A load in flight does not write a register any more. -/
def Access.overtaken (a : Access) (r : SReg) : Access :=
  { a with load := a.load.map (fun d => { d with reg := if d.reg == r then 0 else d.reg, reg2 := if d.reg2 == r then 0 else d.reg2 }) }

/-- Registers are written in program order (R145): a load in flight into a register that a back-edge writes after it leaves
nothing there. -/
def Task.overtake (x : Task) (r : SReg) : Task :=
  if awaited x r then { x with pend := x.pend.map (fun a => if a.loadsInto r then a.overtaken r else a) } else x

def Task.retire (x : Task) (len : Nat) : Task := { x.overtake (x.ctl.indexWritten len) with ctl := x.ctl.retire len }

/-- The instruction of the acting stream completes with the task's new state. -/
def State.done (s : State) (x : Task) (len : Nat) : Res State := .ok (s.setTask s.cur (x.retire len))

/-! ### Operands -/

/-- A scalar register without poison (R335, R337). -/
def Task.soundReg (x : Task) (r : SReg) : Res Unit :=
  if r == 0 || !x.ctl.bad.contains r.toNat then .ok () else faultUe (x.ctl.own.contains r.toNat)

/-- Read a scalar register at issue: it waits for a load in flight (R145), and a poisoned value is consumed (R337). -/
def Task.src (x : Task) (r : SReg) : Res Word := do
  waitFor (!awaited x r)
  x.soundReg r
  .ok (x.ctl.rd r)

/-- Poison of the registers that an instruction's block names comes before its other faults (R327, R337). -/
def Task.soundRegs (x : Task) (rs : List SReg) (hs : List HReg) : Res Unit :=
  let s := rs.filter (fun r => r != 0 && x.ctl.bad.contains r.toNat && !awaited x r)
  let own := hs.any (fun h => x.ctl.hbad.contains h.toNat) || s.any (fun r => x.ctl.own.contains r.toNat)
  if own || !s.isEmpty then faultUe own else .ok ()

/-- A destination register waits for a load in flight (R145). -/
def Task.dst (x : Task) (r : SReg) : Res Unit := waitFor (!awaited x r)

/-! ### Words of system registers (Tables 18.2, 18.3) -/

def flag (b : Bool) : Nat := if b then 1 else 0

/-- PSTATE of a context (R269). -/
def State.pstate (s : State) (x : Task) : Word :=
  word (x.ctl.pl + flag x.ctl.ie * 2 ^ 2 + flag x.ctl.act * 2 ^ 3 + s.partOf x * 2 ^ 10)

/-- TSTATE (R270). -/
def tstateWord (code : Nat) (ds int : Bool) (ppl : Nat) (pie : Bool) : Word :=
  word (code + flag ds * 2 ^ 8 + flag int * 2 ^ 9 + ppl * 2 ^ 10 + flag pie * 2 ^ 12)

/-! ### Traps -/

/-- Index of a core within its die; the service core comes after the 128 compute cores. -/
def coreInDie (c : Nat) : Nat := if c < 1152 then c % 128 else 128

/-- A double trap (R276): DERR is written, the management cores are interrupted; at PL 2 the service core stops, at PL 1
the task ends. -/
def State.doubleTrap (s : State) (t : Nat) (x : Task) (code : Nat) : State :=
  let c := coreOfTask x
  let d := dieOfCore c
  let s := s.setDie d { s.die d with derr := word (code + coreInDie c * 2 ^ 8 + 2 ^ 63), svcStopped := (s.die d).svcStopped || x.ctl.pl == 2 }
  let s := s.interruptManagement c code
  if x.ctl.pl == 2 then s else s.endTask t code

/-- The handles of root boxes 0 to 7 of a launch, from its pinned root box table (R266, R290). -/
def State.rootBoxes (s : State) (l : Launch) : SMap Handle :=
  (List.range (min 8 l.nbox)).map (fun i =>
    (i, match l.service with
        | some d => BitVec.ofNat 256 (Memory.readNat s.mem (scratchpad (serviceCore d) + l.boxtab + 128 * i + 64) 32)
        | none =>
          match s.readVirtual l.part (l.boxtab + 128 * i + 64) 32 with
          | .ok bs => BitVec.ofNat 256 (bytesToNat bs)
          | .error _ => 0))

/-- What trap entry meets when it reads those handles (R313): the code of the first translation that fails, or FLT_PAGE for a page
that is not pinned. -/
def State.handlerFault (s : State) (l : Launch) : Option Nat :=
  if l.service.isSome then none
  else (List.range (min 8 l.nbox)).findSome? (fun i =>
    let va := l.boxtab + 128 * i + 64
    match s.readVirtual l.part va 32 with
    | .error c => some c
    | .ok _ => if s.pinned l.part va then none else some Flt.page)

/-- The scalar registers and loop stack that a trap records: those before the branch's link was written, when the trap
stands in a delay slot (R273). -/
def Ctl.beforeLink (c : Ctl) : Ctl :=
  match c.delay with
  | some { branch := _, target := _, link := some l } => c.wr l.1 l.2
  | _ => c

/-- The context after a trap entry (R271). -/
def Ctl.enter (c : Ctl) (code : Nat) (int : Bool) (addr resume : Nat) (val trec : Word) (roots : SMap Handle) (svec : Nat) : Ctl :=
  let b := c.beforeLink
  let at_ := match c.delay with | some d => (d.branch, d.branch) | none => (addr, resume)
  let ts := tstateWord code c.delay.isSome int c.pl c.ie
  { c with
    tframe := { s := b.s, h := c.h, loops := c.loops, bad := b.bad, hbad := c.hbad, own := b.own },
    tstate := ts, taddr := word at_.1, tresume := word at_.2, tval := val, trec := trec,
    pl := max c.pl 1, ie := false, act := true,
    s := (if val = 0 then [(4, ts)] else [(4, ts), (5, val)]), h := roots, loops := [], bad := [], hbad := [], own := [], delay := none, halted := false,
    pc := svec }

/-- The table of root boxes can be read now (R124, R321, R323). -/
def State.rootBoxesReachable (s : State) (l : Launch) : Bool := l.service.isSome || s.reachable l.part (l.boxtab + 64) (128 * min 8 l.nbox - 64)

/-- Every load in flight into a scalar register was abandoned by a suspension and is yet to be issued again (R99). -/
def Task.stranded (x : Task) : Bool := x.pend.all (fun a => !a.writesRegister || a.again.isSome)

/-- What a trap handler runs without: the control stream's accesses behind loads that are yet to be issued again, which the handler may
have to map a page for (R161). They come back with the return from the trap. -/
def Task.setAside (x : Task) : Task :=
  if noLoads x then x
  else { x with pend := x.pend.filter (fun a => a.stream != .control), kept := x.pend.filter (fun a => a.stream == .control) }
def Task.takeBack (x : Task) : Task := { x with pend := x.kept ++ x.pend, kept := [] }

/-- A fault counts against its core when the core's own checker or own storage raised it (R333, R339). -/
def State.counted (s : State) (x : Task) (code : Nat) (val : Word) : State :=
  if code == Flt.check || (code == Flt.ue && ueOwn val) then s.countEvent (coreOfTask x) code (ueAddress val) else s

/-- A re-queue fault of a task: the node is rolled back (R328), and the fault may count against the core. -/
def State.requeue (s : State) (t : Nat) (x : Task) (code : Nat) (val : Word) : State :=
  (s.rollback t code true (ueAddress val)).counted x code val

/-- Take a trap (R271): to the supervisor, on a service core to its own launch (log 13), or a double trap while the trap frame
is occupied. It writes every scalar register, so it waits for the loads in flight (R145), and for the box table's channels (R323). An instruction that waits for a page
issues again after the handler (R161). Belvedere compares every trap entry (R332). A double trap too where the supervisor's box table is not there or not pinned (R313). -/
def State.trapEntry (s : State) (t : Nat) (x : Task) (code : Nat) (int : Bool) (addr resume : Nat) (val : Word) : Out :=
  if x.ctl.act then .next (s.doubleTrap t x code)
  else if !x.agrees then .next ((s.requeue t x Flt.check 0))
  else if !(noLoads x || x.stranded) then .next s
  else match (if x.service then some x.r.launch else s.supervisorOf (s.partOf x)).bind s.launch? with
    | none => .fault .noSupervisor
    | some l =>
      match s.handlerFault l with
      | some c => .next (s.doubleTrap t x c)
      | none =>
      if !s.rootBoxesReachable l then .next s else
      let svec := (s.core (coreOfTask x)).svec.toNat % 2 ^ 32
      let s := { s with misses := s.misses.filter (fun m => !(m.task == t && m.stream == Stream.control)) }
      .next (s.setTask t (x.setAside.mapCtl (fun c => c.enter code int addr resume val (word x.r.pa) (s.rootBoxes l) svec)).follow)

/-- Restore what trap entry saved (R274): registers, loop stack, PL, IE; the trap frame is free. -/
def Ctl.leave (c : Ctl) : Ctl :=
  { c with s := c.tframe.s, h := c.tframe.h, loops := c.tframe.loops, bad := c.tframe.bad, hbad := c.tframe.hbad, own := c.tframe.own,
           pl := (c.tstate.extractLsb' 10 2).toNat, ie := c.tstate.getLsbD 12, act := false, delay := none }

/-- Return from a trap to TRESUME (R274). A target outside a loop's body ends the loop (R156). -/
def Ctl.trapReturn (c : Ctl) : Ctl := c.leave.goTo c.tresume.toNat

/-! ### Delivery of a fault (R326) -/

/-- The re-queue codes. -/
abbrev isRequeue (code : Nat) : Bool := rerunCode code

/-- The codes that always go to the supervisor. -/
def toSupervisor (code : Nat) : Bool := code == Flt.page || code == Flt.trap || code == Flt.brk

/-- The codes that TDELEG may select (R272): 0x01 to 0x08, 0x0A to 0x0D, 0x11 and 0x12. -/
def delegMask : Word := 0x63DFE

/-- Deliver a fault of a task at its control stream: a double trap, a rollback, a supervisor trap, or the task's end. FLT_UE carries in
val whether the core's own storage raised it, and where. -/
def State.raise (s : State) (t : Nat) (x : Task) (code : Nat) (val : Word) : Out :=
  if x.ctl.act then .next ((s.doubleTrap t x code).counted x code val)
  else if isRequeue code then .next (s.requeue t x code val)
  else if toSupervisor code || s.delegates x code then
    s.trapEntry t x code false x.ctl.pc x.ctl.pc val
  else .next (s.endTask t code)

/-- A translation miss waits for the walker (R310). -/
def State.noteMiss (s : State) (m : Miss) : State :=
  if s.misses.contains m then s else { s with misses := s.misses ++ [m] }

/-- What becomes of an operation of a task's control stream (R8): a wait at issue leaves the machine as it is. -/
def State.deliver (s : State) (t : Nat) (x : Task) (r : Res State) : Out :=
  match r with
  | .ok s' => .next s'
  | .error (.flt code val) => s.raise t x code val
  | .error .stall => .next s
  | .error (.miss va k) => .next (s.noteMiss { task := t, stream := .control, va := va, wants := k })
  | .error (.stop f) => .fault f

/-! ### Issue of a control instruction (R142) -/

/-- What a form asks at issue: the lowest PL that may run it (R278), whether it is a control transfer (R134), and whether a
service core runs it (R361). -/
structure Form where
  pl : Nat
  transfer : Bool
  service : Bool
  deriving DecidableEq, Repr

/-- An ordinary form, a control transfer, a form that a service core lacks, and a privileged form. -/
abbrev plainForm : Form := ⟨0, false, true⟩
abbrev transferForm : Form := ⟨0, true, true⟩
abbrev taskForm : Form := ⟨0, false, false⟩
abbrev privForm (pl : Nat) : Form := ⟨pl, false, true⟩

/-- The checks of a form in the order of R142: FLT_PRIV, FLT_ILLEGAL, FLT_DSLOT. -/
def Form.checks (f : Form) (x : Task) : Res Unit := do
  check (f.pl ≤ x.ctl.pl) Flt.priv
  check (f.service || !x.service) Flt.illegal
  check (!(f.transfer && x.ctl.delay.isSome)) Flt.dslot

/-- Issue a control instruction of the acting task: its checks, then its effect; what does not complete is delivered. -/
def State.issue (s : State) (f : Form) (body : Task → Res State) : Out :=
  match s.task? s.cur with
  | none => .next s
  | some x => s.deliver s.cur x (do f.checks x; body x)

/-- An instruction that changes nothing but its task's context. -/
def State.issueTask (s : State) (f : Form) (len : Nat) (body : Task → Res Task) : Out :=
  s.issue f (fun x => do s.done (← body x) len)

/-- An instruction that writes one scalar register with a value it computes (R145). -/
def State.issueScalar (s : State) (f : Form) (len : Nat) (d : SReg) (val : Task → Res Word) : Out :=
  s.issueTask f len (fun x => do
    x.dst d
    .ok (x.wr d (← val x)))

/-! ### The code image at an address -/

/-- A word of the active image as the fetch would read it; none where it cannot be read. -/
def State.peek (s : State) (x : Task) (off : Nat) : Option (BitVec 32) :=
  match s.codeNat x off 4 with
  | .ok n => some (BitVec.ofNat 32 n)
  | .error .stall => none
  | .error _ =>
    match s.launch? (s.activeLaunch x) with
    | none => none
    | some l =>
      if l.csize < off + 4 then none
      else match s.readVirtual (s.partOf x) (l.code + off) 4 with
        | .ok bs => some (BitVec.ofNat 32 (bytesToNat bs))
        | .error _ => none

/-- Bytes of the instruction at an address: 8 for a C-W instruction (R130), else 4. -/
def State.lengthAt (s : State) (x : Task) (off : Nat) : Nat :=
  match s.peek x off with
  | some w => if isWide w then 8 else 4
  | none => 4

/-- The address after an instruction of the image in sequence (R155): it waits, or faults, for a word whose page is not there. Beyond the
image it is the next word, whose fetch faults. -/
def State.after (s : State) (x : Task) (off : Nat) : Res Nat :=
  match s.peek x off, s.codeNat x off 4 with
  | none, .error (.flt code v) => if code == Flt.bounds then .ok (off + 4) else .error (.flt code v)
  | none, .error e => .error e
  | _, _ => .ok (off + s.lengthAt x off)

/-- The link register in the turn of a slot: the address after the slot, as its fetch finds it (R154). -/
def State.settleLink (s : State) (t : Nat) (x : Task) : State :=
  match x.ctl.delay with
  | some { branch := _, target := _, link := some l } => s.modTask t (fun y => y.wr l.1 (word (x.ctl.pc + s.lengthAt x x.ctl.pc)))
  | _ => s

end Sys2Proof.Machine
end

