-- ==== Sys2Proof/Machine/Operands.lean ====
section
/-! DEFINITION. The operand forms of the control stream: the element of a scalar access (09 R159), the element of an atomic
(10 R188), frame bytes (09 R158), handles, semaphores, and the blocks in the code image (10 R166). -/

namespace Sys2Proof.Machine
open Sys2Proof

/-! ### The element of a scalar access -/

/-- Width in bits of a size field (R159). -/
def sizeBits (sz : BitVec 2) : Nat := 8 * 2 ^ sz.toNat

/-- box_scalar of R159 up to the access: the region and the coordinates of the element at a linear index. -/
def State.scalarElem (s : State) (x : Task) (h : Handle) (i : Nat) (sz : BitVec 2) (stores : Bool) : Res (Region × List Nat) := do
  useHandle h
  check (!(stores && readOnly h)) Flt.mode
  check (!fmtIsBlock (Handle.fmt h) && fmtWidth (Handle.fmt h) == sizeBits sz) Flt.format
  check (dims.all (fun d => Handle.ext h d != 0)) Flt.bounds
  s.boxElem x h (splitIndex h i)

/-- box_scalar for a handle that another device interprets (R192): the coordinates of the element at a linear index, within the
handle's extents. -/
def handleElem (h : Handle) (i : Nat) (sz : BitVec 2) : Res (List Nat) := do
  useHandle h
  check (!fmtIsBlock (Handle.fmt h) && fmtWidth (Handle.fmt h) == sizeBits sz) Flt.format
  check (dims.all (fun d => Handle.ext h d != 0)) Flt.bounds
  check (dims.all (fun d => nth (splitIndex h i) d 0 < Handle.ext h d)) Flt.bounds
  .ok (splitIndex h i)

/-- The element of a C-M form and the index it reads. -/
def State.cmemElem (s : State) (x : Task) (m : CMem) (stores : Bool) : Res (Region × List Nat) := do
  let i ← x.src m.idx
  s.scalarElem x (x.ctl.hd m.h) i.toNat m.sz stores

/-- The formats an atomic accepts: the 32- and 64-bit integers, or FP32 for the fadd forms (R188). -/
def amoFormat (float : Bool) (f : Fmt) : Bool :=
  if float then f == Fm.fp32 else f == Fm.s32 || f == Fm.z32 || f == Fm.s64 || f == Fm.z64

/-- The element of an atomic (R188): the handle is SHARED, the size 32 or 64 bits. -/
def State.amoElem (s : State) (x : Task) (m : Amo) (float : Bool) : Res (Region × List Nat) := do
  let i ← x.src m.idx
  let h := x.ctl.hd m.h
  useHandle h
  check (Handle.mode h == modeShared) Flt.mode
  check (2 ≤ m.sz.toNat && amoFormat float (Handle.fmt h) && fmtWidth (Handle.fmt h) == sizeBits m.sz) Flt.format
  check (dims.all (fun d => Handle.ext h d != 0)) Flt.bounds
  s.boxElem x h (splitIndex h i.toNat)

/-! ### Frame bytes (R158, R271) -/

/-- The byte address of a frame access; it is aligned and inside the frame. At PL 1 and 2 it is the core's supervisor frame
of 4 KiB (R271). -/
def State.frameAddress (x : Task) (a : SReg) (off : BitVec 11) (size : Nat) : Res Nat := do
  let p ← x.src a
  let fa := (p + 8 * sext64 off).toNat
  check (fa % size == 0) Flt.illegal
  check (fa + size ≤ (if x.ctl.pl == 0 then (x.r.fsize + 1) * 4096 else 4096)) Flt.bounds
  .ok fa

/-- The frame that ldf and stf reach. -/
def State.frameOf (s : State) (x : Task) : Memory := if x.ctl.pl == 0 then x.frame else (s.core (coreOfTask x)).sframe

/-- Some bytes of that frame lie in a poisoned word (R336). -/
def State.frameFlawed (s : State) (x : Task) (fa n : Nat) : Bool :=
  (if x.ctl.pl == 0 then x.frameBad else (s.core (coreOfTask x)).sframeBad).any (fun w => fa < 8 * w + 8 && 8 * w < fa + n)

/-- Poisoned words that a write of some bytes leaves: it clears those that it covers (R337). -/
def keptWords (bad : List Nat) (fa n : Nat) : List Nat := bad.filter (fun w => !(fa ≤ 8 * w && 8 * w + 8 ≤ fa + n))

/-- Write bytes of that frame. -/
def State.writeFrame (s : State) (x : Task) (fa : Nat) (bs : List Byte) : State × Task :=
  if x.ctl.pl == 0 then (s, { x with frame := Memory.write x.frame fa bs, frameBad := keptWords x.frameBad fa bs.length })
  else (s.modCore (coreOfTask x) (fun c => { c with sframe := Memory.write c.sframe fa bs, sframeBad := keptWords c.sframeBad fa bs.length }), x)

/-- A register takes a poisoned word of the core's own storage with its value (R337, R339). -/
def Task.takeFlaw (x : Task) (d : SReg) : Task :=
  if d = 0 then x else { x with ctl := { x.ctl with bad := d.toNat :: x.ctl.bad, own := d.toNat :: x.ctl.own } }
def Task.takeHandleFlaw (x : Task) (d : HReg) : Task := { x with ctl := { x.ctl with hbad := d.toNat :: x.ctl.hbad } }

/-! ### Blocks in the code image (R166) -/

/-- A block of n bytes at an offset of the image, as a number. -/
def State.block (s : State) (x : Task) (off n align : Nat) : Res Nat := do
  check (off % align == 0) Flt.illegal
  s.codeNat x off n

/-- Word i of a block. -/
def blockWord (b i : Nat) : Nat := natBits b (64 * i) 64

/-! ### Context slots (R302) -/

/-- Bytes of a context slot. -/
abbrev slotSize : Nat := 0x380000

/-- The die in whose pool a task's slot lies. -/
def ctxDie (x : Task) : Nat := dieOfCluster x.r.cluster

/-- Physical base of slot n of a die (R302). -/
def State.slotBase (s : State) (die n : Nat) : Nat := (s.die die).dctx.toNat / 2 ^ 16 % 2 ^ 30 * 2 ^ 16 + n * slotSize

/-! ### Semaphores (R186) -/

/-- Where semaphore i of a task stands in its slot once section 2 is saved there (Table 19.5, R253); none: in the task's file. -/
def State.savedSem (s : State) (x : Task) (i : Nat) : Option Nat :=
  if x.r.preempted && x.r.saved.getLsbD 2 then some (s.slotBase (ctxDie x) x.r.ctx + 0x800 + 4 * i) else none

/-- The operand of semset, semadd and semsub. -/
def semOperand (a : Word) (j : BitVec 4) : Nat := (a.toNat + j.toNat) % 2 ^ 32

end Sys2Proof.Machine
end

