-- ==== Sys2Proof/Machine/Atomics.lean ====
section
/-! DEFINITION. Atomics, reductions and the bounded fetch-add (05 R93, R94; 10 R188, R189). Each enters the accesses in flight with every check
made, and performs once those that are ordered before it have: its read and its write in one step. -/

namespace Sys2Proof.Machine
open Sys2Proof

/-- The access of an atomic in flight. The reductions fetch nothing: their D is 0. -/
def amoAccess (m : Amo) (fn : AmoFn) (fmt : Fmt) (a b : Word) (cells : List Nat) : Access :=
  { stream := .control, cls := m.cls, scope := m.sc, acq := m.acq, rel := m.rel,
    load := some { reg := m.d, signed := false, reg2 := if fn == .faddb then m.d + 1 else 0 }, cells := cells, writes := [], num := 0,
    rmw := some { fn := fn, fmt := fmt, a := a, b := b } }

/-- An atomic issues: its registers, then its element with the checks of a read and a write. Fields that a form lacks are zero, and so name
s0. faddb writes s[D] and s[D + 1], D even. -/
def State.amo (s : State) (m : Amo) (fn : AmoFn) : Out :=
  s.issueTask taskForm 8 (fun x => do
    x.dst m.d
    if fn == .faddb then x.dst (m.d + 1)
    let a ← x.src m.a
    let b ← x.src m.b
    let e ← s.amoElem x m (fn == .fadd)
    let cells ← s.regionBytes x e.1 (elemBytes e.1 e.2).1 (elemBytes e.1 e.2).2 wantsBoth
    .ok (x.post (amoAccess m fn e.1.fmt a b cells)))

def execAmoadd (x : Amo) (s : State) : Out := s.amo x .add
def execAmoand (x : Amo) (s : State) : Out := s.amo x .and
def execAmoor (x : Amo) (s : State) : Out := s.amo x .or
def execAmoxor (x : Amo) (s : State) : Out := s.amo x .xor
def execAmomin (x : Amo) (s : State) : Out := s.amo x .min
def execAmomax (x : Amo) (s : State) : Out := s.amo x .max
def execAmominu (x : Amo) (s : State) : Out := s.amo x .minu
def execAmomaxu (x : Amo) (s : State) : Out := s.amo x .maxu
def execAmoswap (x : Amo) (s : State) : Out := s.amo x .swap
def execAmocas (x : Amo) (s : State) : Out := s.amo x .cas
def execAmofadd (x : Amo) (s : State) : Out := s.amo x .fadd
def execIncw (x : Amo) (s : State) : Out := s.amo x .incw
def execFaddb (x : Amo) (s : State) : Out := s.amo x .faddb
def execRedadd (x : Amo) (s : State) : Out := s.amo x .add
def execRedand (x : Amo) (s : State) : Out := s.amo x .and
def execRedor (x : Amo) (s : State) : Out := s.amo x .or
def execRedxor (x : Amo) (s : State) : Out := s.amo x .xor
def execRedmin (x : Amo) (s : State) : Out := s.amo x .min
def execRedmax (x : Amo) (s : State) : Out := s.amo x .max
def execRedminu (x : Amo) (s : State) : Out := s.amo x .minu
def execRedmaxu (x : Amo) (s : State) : Out := s.amo x .maxu
def execRedfadd (x : Amo) (s : State) : Out := s.amo x .fadd

end Sys2Proof.Machine
end

