-- ==== Sys2Proof/Machine/Fetch.lean ====
section
/-! DEFINITION. The fetch of an instruction's bytes from the code image and its decoding (08 R128 to R142), and the tests
that say which agent may act (log 1). -/

namespace Sys2Proof.Machine
open Sys2Proof

/-- A task as its vector stream and engines see it: the task's own launch, whatever handler the control stream runs
(R271). -/
def Task.own (x : Task) : Task := { x with ctl := { x.ctl with act := false } }

/-- The word at the control stream's pc, and the extension word of a C-W instruction (R128, R130). An address that is no
multiple of 4, which only a trap return or SVEC can give, is illegal (R154, R274). -/
def State.fetchControl (s : State) (x : Task) : Res (BitVec 32 × BitVec 32) := do
  check (x.ctl.pc % 4 == 0) Flt.illegal
  let w := BitVec.ofNat 32 (← s.codeNat x x.ctl.pc 4)
  if isWide w then .ok (w, BitVec.ofNat 32 (← s.codeNat x (x.ctl.pc + 4) 4)) else .ok (w, 0)

/-- The instruction of a control word; a word that gives none faults with FLT_PRIV, decided from its major alone, or else
FLT_ILLEGAL (R132, R142). -/
def controlInstr (pl : Nat) (w ext : BitVec 32) : Res Instr :=
  match decodeControl w ext with
  | .ok i => .ok i
  | .error _ => if privilegeOf w ≤ pl then fault Flt.illegal else fault Flt.priv

/-- Fetch and decode at the pc. -/
def State.fetch (s : State) (x : Task) : Res Instr := do
  let p ← s.fetchControl x
  controlInstr x.ctl.pl p.1 p.2

/-- Fetch and decode the vector word at the vector pc (R135, R137). -/
def State.fetchVector (s : State) (x : Task) : Res Instr := do
  let w ← s.codeNat x.own x.vec.pc 8
  match decodeVector (BitVec.ofNat 64 w) with
  | .ok i => .ok i
  | .error _ => fault Flt.illegal

/-- A task whose control stream holds a core and has something to do: it runs, or it retires and a trap is taken for one of
its records (R28, R313). -/
def controlRuns (s : State) (x : Task) : Bool :=
  x.r.core.isSome && (x.st == .running || (x.st == .retiring && (x.ctl.act || x.pendFault.isSome)))
    && !(x.service && (s.die (dieOfTask x)).svcStopped)

/-- A task whose vector sequencer and engines run (R28, R185): while it holds a core or waits, and no fault of theirs has
stopped them (R261). A page fault on its way to the control stream stops only its own request (R313). -/
def enginesRun (x : Task) : Bool :=
  (x.st == .running || x.st == .retiring || x.st == .waiting) && !x.r.dead
    && (match x.pendFault with | some f => f.code == Flt.page | none => true)

/-- One of those streams runs: no claim has stopped it (R185). -/
def streamRuns (x : Task) (st : Stream) : Bool := enginesRun x && !x.r.stops.contains st

/-- What becomes of an operation of a task's vector stream or engine: its fault waits for the control stream's next boundary (R272); TVAL
is the address for FLT_PROT, else 0 (R268, R313); FLT_UE keeps where its error lies (R339, R344). A second fault waits its turn. -/
def State.deliverStream (s : State) (t : Nat) (x : Task) (st : Stream) (r : Res State) : Out :=
  match r with
  | .ok s' => .next s'
  | .error (.flt code val) =>
    if x.pendFault.isSome then .next s
    else .next (s.setTask t { x with pendFault := some { code := code, val := val } })
  | .error .stall => .next s
  | .error (.miss va k) => .next (s.noteMiss { task := t, stream := st, va := va, wants := k })
  | .error (.stop f) => .fault f

/-- Issue a vector instruction of the acting task. -/
def State.issueVector (s : State) (body : Task → Res State) : Out :=
  match s.task? s.cur with
  | none => .next s
  | some x => s.deliverStream s.cur x .vector (body x)

/-- The stream of an engine's records (R309). -/
def streamOf : Engine → Stream
  | .matrix => .matrix
  | .copy => .copy

/-- A device step of its own, which has no word. -/
def isEvent (i : Instr) : Bool :=
  match encode i with
  | .event => true
  | _ => false

/-- The lowest pending vector of a core (R275). -/
def lowestPending (c : Core) : Option Nat := (List.range 256).find? (fun v => c.ipend.getLsbD v)

/-- What an engine does next: take up a record, run a pass of one, or complete its oldest. -/
inductive EngineTurn where
  | idle
  | start
  | pass (i : Instr)
  | complete
  deriving DecidableEq, Repr

/-- Passes of a record: the product of its trip counts (R228). -/
def QRec.passes (q : QRec) : Nat := q.trips.foldl (fun n t => n * t) 1

/-- A record whose passes have all issued. -/
def QRec.spent (q : QRec) : Bool := q.started && q.passes ≤ q.pass

/-- The writes of a record that have not performed (R231). -/
def recordWrites (x : Task) (e : Engine) (q : QRec) : Bool := x.pend.any (fun a => a.stream == streamOf e && a.num == q.num)

/-- The record that an engine works on: the matrix engine's oldest; on the copy engine, which starts a record once the one
before it has issued its last request, the oldest that has not (R232). -/
def activeRecord (e : Engine) (l : List QRec) : Option (Nat × QRec) :=
  match e with
  | .matrix => match l with
    | q :: _ => if q.spent then none else some (0, q)
    | [] => none
  | .copy => ((List.range l.length).zip l).find? (fun p => !p.2.spent)

/-- The oldest record may complete: every pass has run and every write has performed (R231). -/
def mayComplete (x : Task) (e : Engine) : Bool :=
  match (x.eng e).queue with
  | q :: _ => q.spent && !recordWrites x e q
  | [] => false

/-- The next turn of an engine (R231). -/
def engineTurn (x : Task) (e : Engine) : EngineTurn :=
  if mayComplete x e then .complete
  else match activeRecord e (x.eng e).queue with
    | none => .idle
    | some (_, q) =>
      if !q.started then .start
      else match decodeRecord q.w with
        | .ok i => .pass i
        | .error _ => .idle

end Sys2Proof.Machine
end

