-- ==== Sys2Proof/Machine/Ends.lean ====
section
/-! DEFINITION. JOIN, YIELD and END, and the return of a task (02 R23 to R30; 10 R171; 12 R256 to R258; 98). -/

namespace Sys2Proof.Machine
open Sys2Proof

/-- join (R23): it drains the engines at issue, then the task is Joined and its core is free. With JCOUNT zero it becomes
Runnable at once. A service core has it, and YIELD (R361). -/
def execJoin (s : State) : Out :=
  s.issue transferForm (fun x => do
    waitFor x.drained
    let y := { (x.afterJoin.retire 4) with st := .joined }
    .ok (((s.setTask s.cur y).releaseCore s.cur).wakeJoin s.cur))

/-- yield (R27): the same drain and preservation; the task goes to the tail of its queue. -/
def execYield (s : State) : Out :=
  s.issue transferForm (fun x => do
    waitFor x.drained
    let y := (x.afterJoin.retire 4).mapRec (fun r => { r with resuming := true })
    .ok (((s.setTask s.cur y).releaseCore s.cur).makeRunnable s.cur false))

/-- The task holds a poisoned word in a register; and whether an error of the core's own storage is among them (R337, R339). -/
def Task.holdsPoison (x : Task) : Bool :=
  !x.ctl.bad.isEmpty || !x.ctl.hbad.isEmpty || x.vec.v.any (fun p => !p.2.bad.isEmpty) || !x.vec.kbad.isEmpty || !x.vec.abad.isEmpty
    || !x.vec.bbad.isEmpty
def Task.holdsOwn (x : Task) : Bool :=
  !x.ctl.own.isEmpty || !x.ctl.hbad.isEmpty || x.vec.v.any (fun p => !p.2.bad.isEmpty && p.2.own) || !x.vec.kbad.isEmpty
    || !x.vec.abad.isEmpty || !x.vec.bbad.isEmpty

/-- No register that the task holds is poisoned (R337). -/
def Task.soundRegisters (x : Task) : Res Unit := if x.holdsPoison then faultUe x.holdsOwn else .ok ()

/-- end (R28): the task retires; a poisoned register that it holds is consumed (R337). A service core has it (R361). -/
def execEndTask (s : State) : Out :=
  s.issue transferForm (fun x => do
    x.soundRegisters
    .ok (s.setTask s.cur ((x.retire 4).mapRec (fun r => { r with ending := true })
      |> fun y => { y with st := .retiring })))

/-- The outward copies of every argument of a task, into the storage that a parent's view reaches. -/
def State.returnArgs (s : State) (x view : Task) (grp : Option Group) : Res (State × List HeldElem) :=
  ((List.range x.r.args.length).zip x.r.args).foldlM (fun (acc : State × List HeldElem) ja => do
    let q ← acc.1.returnArg x.own view x.r.child ja.1 ja.2 grp
    .ok (q.1, acc.2 ++ q.2)) (s, [])

/-- The outward copies of a child (R46, R47, R256): applied to its parent's storage or held; discarded under a dead parent
(R30). A firing or amendment writes the result slot itself (R111). -/
def State.returnAll (s : State) (x : Task) : Res State :=
  match x.r.parent, x.r.kind with
  | some p, .child g =>
    match s.task? p with
    | none => .ok s
    | some y =>
      if y.r.dead then .ok s
      else do
        let r ← s.returnArgs x (y.seenFrom x) (SMap.find s.spawns g)
        match SMap.find r.1.spawns g with
        | some k => .ok { r.1 with spawns := SMap.put r.1.spawns g { k with held := k.held ++ r.2, last := some (s.cycle, x.r.child) } }
        | none => .ok r.1
  | _, .firing _ _ | _, .amendment _ _ => do .ok (← s.returnArgs x x.own none).1
  | _, _ => .ok s

/-- A task that holds no core goes to the head of its queue to take a trap for a fault of its copies (R313, R326). -/
def State.trapLater (s : State) (t : Nat) (x : Task) (code : Nat) (val : Word) : State :=
  (s.setTask t { x with pendFault := some { code := code, val := val } }).makeRunnable t true

/-- What becomes of a return that does not complete: a page that is absent is walked for; a re-queue fault rolls the node
back; a code that TDELEG selects traps; any other ends the task without its copies (R30). -/
def State.deliverReturn (s : State) (t : Nat) (x : Task) (r : Res State) : Out :=
  match r with
  | .ok s' => .next (s'.reapDead (s'.tasks.length + 1))
  | .error (.flt code val) =>
    if isRequeue code then .next (s.requeue t x code val)
    else if s.delegates x code then .next (s.trapLater t x code val)
    else .next (s.endTask t code)
  | .error .stall => .next s
  | .error (.miss va k) => .next (s.noteMiss { task := t, stream := .copy, va := va, wants := k })
  | .error (.stop f) => .fault f

/-- A frame that a task forwarded has not completed (R28, R254). -/
def State.framesForwarded (s : State) (t : Nat) : Bool := s.encoders.any (fun p => p.2.frames.any (fun f => f.task == t))

/-- A sibling of a higher index has returned in this cycle: the returns of one cycle go in ascending child index (R256), so this
one waits for the next. -/
def State.overtaken (s : State) (x : Task) : Bool :=
  match x.r.kind with
  | .child g => match (SMap.find s.spawns g).bind (fun k => k.last) with
    | some (c, i) => c == s.cycle && x.r.child < i
    | none => false
  | _ => false

/-- TASK_RETURN (R28): a Retiring task whose work has drained frees its core; with no child and no encoder frame left it applies its outward
copies and reaches Returned. -/
def execTaskReturn (t : Nat) (s : State) : Out :=
  match s.task? t with
  | none => .next s
  | some x =>
    if x.r.dead && x.r.jcount == 0 && x.st == .retiring && !x.ctl.act && x.pendFault.isNone then (s.releaseCore t).deliverReturn t x ((s.releaseCore t).finishReturn t x.r.status)
    else if !((x.st == .retiring || x.st == .returning) && x.r.ending && x.drained && !x.ctl.act && x.pendFault.isNone && !x.r.dead) then
      .next s
    else if x.holdsPoison then .next (s.requeue t x Flt.ue (if x.holdsOwn then 1 else 0))
    else
      let s := s.releaseCore t
      if x.r.jcount != 0 || s.framesForwarded t || s.overtaken x then .next s
      else match s.task? t with
        | none => .next s
        | some y =>
          let s := s.setTask t { y with st := .returning }
          s.deliverReturn t y (do (← s.returnAll y).finishReturn t 0)

end Sys2Proof.Machine
end

