-- ==== Sys2Proof/Machine/Waits.lean ====
section
/-! DEFINITION. WAIT and how a waiting task goes on (01 R12; 02 R14; 10 R184, R185). -/

namespace Sys2Proof.Machine
open Sys2Proof

/-- A condition word's fields are in range (Table 10.4). -/
def waitWordOk (w : Nat) : Bool :=
  let src := natBits w 60 4
  let index := natBits w 52 8
  let limit := match src with
    | 0 => 256
    | 4 => 4
    | 6 => 16
    | 8 => 64
    | _ => 1
  src < 9 && index < limit && natBits w 32 13 == 0

/-- The device's own launch condition of source 8: the group was opened here by the task's launch (R120, R185). -/
def State.groupDone (s : State) (x : Task) (g : Nat) : Bool :=
  let c := s.cgroup g
  c.st == .free && c.done && c.launch == x.r.launch

/-- Whether a condition holds. -/
def State.condHolds (s : State) (x : Task) (c : WaitCond) : Bool :=
  match c.src with
  | 0 => c.t ≤ (x.sem c.index).toNat
  | 1 => c.t ≤ x.vec.done
  | 2 => c.t ≤ x.mat.done
  | 3 => c.t ≤ x.cpy.done
  | 4 => c.t ≤ (s.encoder (dieOfTask x * 4 + c.index)).done
  | 5 => c.t ≤ (s.die (dieOfTask x)).wtl
  | 6 => x.vec.flags.getLsbD c.index
  | 7 => !x.vec.vq.isEmpty
  | _ => s.groupDone x c.index

/-- The bits of the conditions that hold (R12). -/
def State.condBits (s : State) (x : Task) (cs : List WaitCond) : Nat :=
  (List.range cs.length).foldl (fun n i =>
    match cs[i]? with
    | some c => if s.condHolds x c then n + 2 ^ i else n
    | none => n) 0

/-- The conditions are met: any one, or all of them. -/
def condsMet (n bits : Nat) (all : Bool) : Bool := if all then bits == 2 ^ n - 1 else bits != 0

/-- One condition of a wait block, its threshold resolved; for sources 6 to 8 it must be zero. -/
def Task.waitCond (x : Task) (w : Nat) : Res WaitCond := do
  check (waitWordOk w) Flt.illegal
  let t ← if natBits w 51 1 == 1 then (do let v ← x.src (BitVec.ofNat 6 (natBits w 45 6)); .ok v.toNat) else .ok (natBits w 0 32)
  check (natBits w 60 4 < 6 || t == 0) Flt.illegal
  .ok { src := natBits w 60 4, index := natBits w 52 8, t := t }

/-- The conditions and the timeout of a wait block (R184, R185). -/
def State.waitBlock (s : State) (x : Task) (a : SReg) (ext : BitVec 32) : Res (List WaitCond × Nat) := do
  let head ← s.block x ext.toNat 8 8
  let n := natBits head 0 4
  check (1 ≤ n && n ≤ 8 && natBits head 4 28 == 0) Flt.illegal
  let body ← s.codeNat x (ext.toNat + 8) (8 * n)
  let named := (List.range n).filter (fun i => natBits (blockWord body i) 51 1 == 1)
  x.soundRegs (named.map (fun i => BitVec.ofNat 6 (natBits (blockWord body i) 45 6))) []
  let cs ← (List.range n).mapM (fun i => x.waitCond (blockWord body i))
  let timeout ← if a == 0 then .ok (natBits head 32 32) else (do
    let v ← x.src a
    check (v.toNat < 2 ^ 32) Flt.illegal
    .ok v.toNat)
  .ok (cs, timeout)

/-- wait.any and wait.all (R184, R185): in place when the conditions are met or the timeout is 0; otherwise the task enters
Waiting and releases its control core; the form completes when it goes on. -/
def State.wait (s : State) (all : Bool) (d a : SReg) (ext : BitVec 32) : Out :=
  s.issue { transferForm with service := false } (fun x => do
    x.dst d
    let (cs, timeout) ← s.waitBlock x a ext
    let bits := s.condBits x cs
    if condsMet cs.length bits all || timeout == 0 then s.done (x.wr d (word bits)) 8
    else
      let w : Wait := { conds := cs, all := all, dst := d, timeoutAt := s.tick + timeout, met := none }
      .ok ((s.setTask s.cur { x with st := .waiting, wait := some w }).releaseCore s.cur))

def execWaitAny (d a : SReg) (ext : BitVec 32) (s : State) : Out := s.wait false d a ext
def execWaitAll (d a : SReg) (ext : BitVec 32) (s : State) : Out := s.wait true d a ext

/-- A WAIT that would complete in place stands at the control stream's pc (R307). -/
def State.waitHolds (s : State) (x : Task) : Bool :=
  let met (all : Bool) (d a : SReg) (ext : BitVec 32) : Bool :=
    !awaited x d && (match s.waitBlock x a ext with
      | .ok (cs, timeout) => condsMet cs.length (s.condBits x cs) all || timeout == 0
      | .error _ => false)
  match s.fetch x with
  | .ok (.waitAny d a ext) => met false d a ext
  | .ok (.waitAll d a ext) => met true d a ext
  | _ => false

/-- The bits that a waiting task gets at the end of a tick: those of the conditions that hold then, once they are met or the
timeout's tick ends (R12, R185). -/
def Wait.atTickEnd (w : Wait) (bits tick : Nat) : Option Nat :=
  match w.met with
  | some b => some b
  | none => if condsMet w.conds.length bits w.all || w.timeoutAt ≤ tick then some bits else none

/-- The end of a tick as the waiting tasks see it (R185). -/
def State.latchWaits (s : State) : State :=
  { s with tasks := s.tasks.map (fun p => match p.2.st, p.2.wait with
      | .waiting, some w => (p.1, { p.2 with wait := some { w with met := w.atTickEnd (s.condBits p.2 w.conds) s.tick } })
      | _, _ => p) }

/-- A waiting task that a tick's end lets go on has not yet gone on. -/
def State.waitsDue (s : State) : Bool :=
  s.tasks.any (fun p => p.2.st == .waiting && (match p.2.wait with | some w => w.met.isSome | none => false))

/-- A waiting task goes on: s[D] gets the bits of the conditions that held at the end of the tick, and the task becomes
Runnable (R12, R185). -/
def State.resumeWait (s : State) (t : Nat) (x : Task) (w : Wait) (bits : Nat) : State :=
  (s.setTask t { (x.wr w.dst (word bits)).retire 8 with wait := none }.follow).makeRunnable t false

/-- WAIT_CONDITION_MET (R185): at the end of the first tick in which the conditions are met. -/
def execWaitConditionMet (t : Nat) (s : State) : Out :=
  match s.task? t with
  | none => .next s
  | some x =>
    match x.st, x.wait with
    | .waiting, some w => match w.met with
      | some bits => if condsMet w.conds.length bits w.all then .next (s.resumeWait t x w bits) else .next s
      | none => .next s
    | _, _ => .next s

/-- WAIT_TIMEOUT (R185): at the end of the tick that the timeout names, the conditions not met. -/
def execWaitTimeout (t : Nat) (s : State) : Out :=
  match s.task? t with
  | none => .next s
  | some x =>
    match x.st, x.wait with
    | .waiting, some w => match w.met with
      | some bits => if condsMet w.conds.length bits w.all then .next s else .next (s.resumeWait t x w bits)
      | none => .next s
    | _, _ => .next s

end Sys2Proof.Machine
end

