-- ==== Sys2Proof/Machine/Contexts.lean ====
section
/-! DEFINITION. Context slots and pre-emption (19 R301 to R305; 18 R280, R281; 21 R331). -/

namespace Sys2Proof.Machine
open Sys2Proof

/-! ### CRC-32C -/

/-- One bit of the reflected CRC-32C. -/
def crcBit (c : BitVec 32) : BitVec 32 := if c.getLsbD 0 then (c >>> (1 : Nat)) ^^^ 0x82F63B78 else c >>> (1 : Nat)

/-- One byte of it. -/
def crcByte (c : BitVec 32) (b : Byte) : BitVec 32 := (List.range 8).foldl (fun c _ => crcBit c) (c ^^^ b.setWidth 32)

/-- CRC-32C of some bytes. -/
def crc32c (bs : List Byte) : BitVec 32 := (bs.foldl crcByte 0xFFFFFFFF) ^^^ 0xFFFFFFFF

/-! ### The slot of a task (Table 19.5) -/

/-- The lowest free slot of a die's pool. A slot that holds sections not yet loaded is not free (R304). -/
def State.freeSlot (s : State) (die : Nat) : Option Nat :=
  (List.range ((s.die die).dctx.toNat / 2 ^ 48)).find? (fun n =>
    !s.tasks.any (fun p => (p.2.r.preempted || p.2.r.lazy != 0) && p.2.r.ctx == n && ctxDie p.2 == die))

/-- Offset and length of a section. -/
def sectionRange (i : Nat) : Nat × Nat :=
  if i = 0 then (0x100, 0x600)
  else if i = 1 then (0x700, 0x100)
  else if i = 2 then (0x800, 0x400)
  else if i = 3 then (0xC00, 0x1400)
  else if i = 4 then (0x2000, 0x2000)
  else if i = 5 then (0x4000, 0x2000)
  else if i = 6 then (0x6000, 0x4000)
  else if i = 7 then (0xA000, 0x10000)
  else if i < 24 then (0x1A000 + (i - 8) * 0x14000, 0x14000)
  else if i < 56 then (0x15A000 + (i - 24) * 0x5000, 0x5000)
  else (0x1FA000 + (i - 56) * 0xA000, 0xA000)

/-- Where the scratchpad buffers stand, packed in id order. -/
abbrev sbufOffset : Nat := 0x24A000

/-- Bytes whose layout the spec does not give (log 22). -/
def opaqueBytes (slot off n : Nat) : List Byte := (List.range n).map (fun j => Config.opaqueByte slot (off + j))

/-- A tile's planes as bytes. -/
def tileBytes (x : Tile) (data scale : Nat) : List Byte := natToBytes data x.data.toNat ++ natToBytes scale x.scale.toNat

/-- An entry of a loop stack in a slot: 32 bytes (log 22). -/
def loopBytes (start stop left index reg : Nat) : List Byte :=
  natToBytes 4 start ++ natToBytes 4 stop ++ natToBytes 8 left ++ natToBytes 8 index ++ natToBytes 1 reg ++ natToBytes 1 1 ++ natToBytes 6 0

/-- Four such entries, the innermost first. -/
def stackBytes (l : List (List Byte)) : List Byte := (List.range 4).flatMap (fun i => nth l i (natToBytes 32 0))

/-- Section 3 (Table 19.5), in a layout of the model's own (log 22): a0 to a31, b0 to b15, the tags, flags and queue lengths, both queues, the
V loop stack, ECFG and ENEST of both engines, the timelines with their issued counts. -/
def streamBytes (x : Task) : List Byte :=
  let v := x.vec
  let queue (q : List Word) : List Byte := (List.range 64).flatMap (fun i => natToBytes 8 (nth q i 0).toNat)
  let cfg (e : Eng) : List Byte := (List.range 16).flatMap (fun i => natToBytes 8 (SMap.get e.cfg i 0).toNat)
  let nest (n : Nest) : List Byte := natToBytes 2 n.trip ++ natToBytes 2 n.s0.toNat ++ natToBytes 2 n.s1.toNat ++ natToBytes 2 n.s2.toNat
  (List.range 32).flatMap (fun i => natToBytes 8 (v.scalar i).toNat)
    ++ (List.range 16).flatMap (fun i => natToBytes 32 (v.box i).toNat)
    ++ (List.range 512).flatMap (fun i => natToBytes 1 (v.reg i).tag.toNat)
    ++ natToBytes 2 v.flags.toNat ++ natToBytes 1 v.vq.length ++ natToBytes 1 v.cq.length ++ natToBytes 4 0 ++ queue v.vq ++ queue v.cq
    ++ stackBytes (v.loops.map (fun l => loopBytes l.start l.stop l.left l.index (l.reg.getD 255)))
    ++ cfg x.mat ++ cfg x.cpy ++ nest x.mat.n5 ++ nest x.mat.n6 ++ nest x.cpy.n5 ++ nest x.cpy.n6
    ++ [v.done, v.issued, x.mat.done, x.mat.issued, x.cpy.done, x.cpy.issued].flatMap (fun n => natToBytes 8 n)
    ++ natToBytes 2344 0

/-- The bytes of a section. -/
def State.sectionBytes (s : State) (x : Task) (i : Nat) : List Byte :=
  let r := sectionRange i
  if i = 0 then (List.range 64).flatMap (fun j => natToBytes 8 (x.ctl.rd (BitVec.ofNat 6 j)).toNat)
    ++ (List.range 32).flatMap (fun j => natToBytes 32 (x.ctl.hd (BitVec.ofNat 5 j)).toNat)
  else if i = 1 then
    [s.pstate x, x.ctl.tstate, x.ctl.taddr, x.ctl.tresume, x.ctl.tval].flatMap (fun w => natToBytes 8 w.toNat)
      ++ stackBytes (x.ctl.loops.map (fun l => loopBytes l.start l.stop l.left l.index l.reg.toNat)) ++ natToBytes 88 0
  else if i = 2 then (List.range 256).flatMap (fun j => natToBytes 4 (x.sem j).toNat)
  else if i = 5 then (List.range 16).flatMap (fun j => natToBytes 512 (if j = 0 then 2 ^ 4096 - 1 else (SMap.get x.vec.k j 0).toNat))
  else if i = 3 then streamBytes x
  else if i = 4 || i = 6 then opaqueBytes x.r.ctx r.1 r.2
  else if i = 7 then Memory.readList x.frame 0 r.2
  else if i < 24 then (List.range 32).flatMap (fun j =>
    match SMap.find x.vec.v (32 * (i - 8) + j) with
    | some v => natToBytes 2048 v.data.toNat ++ natToBytes 512 v.scale.toNat
    | none => natToBytes 2560 0)
  else if i < 56 then tileBytes (x.tile (i - 24)) 16384 4096
  else tileBytes (x.tile (i - 24)) 40960 0

/-- The scratchpad buffers of a task. -/
def Task.sbufBytes (x : Task) : List Byte := x.r.sbufs.flatMap (fun p => natToBytes p.2 (x.tile p.1).data.toNat)

/-- A write of some bytes of a slot meets an uncorrectable error (R331): it covers a part of a unit that cannot be read. -/
def State.writeFails (s : State) (a n : Nat) : Bool :=
  let part (b : Nat) : Bool := let u := s.unitOf b; u.1 < a || a + n < u.1 + u.2
  n != 0 && ((part a && s.isBad a) || (part (a + n - 1) && s.isBad (a + n - 1)))

/-- Some sections of a slot can be written (R331; log 22): every frame of the slot is DRAM in use that a pinned page maps, and no
write meets an uncorrectable error, the header's among them. -/
def State.slotOk (s : State) (base : Nat) (l : List Nat) : Bool :=
  (List.range (slotSize / 65536)).all (fun i =>
      let a := base + 65536 * i
      isDram a && (s.frameAt a).isSome && s.pinnedFrame a)
    && !s.writeFails base 18 && !l.any (fun i => s.writeFails (base + (sectionRange i).1) (sectionRange i).2)

/-- Every channel of a slot's stack takes ordinary traffic and no row of it is under repair: a save or a load of the slot, whose
frames use every channel (R316), waits otherwise (R321, R323). -/
def State.slotOnline (s : State) (base : Nat) : Bool :=
  let k := s.stack (stackDie base)
  (List.range 32).all (fun c => !(SMap.get k.chans c Chan.reset).offline)
    && (k.repCmd.isNone || (List.range (slotSize / 32)).all (fun i => s.online (base + 32 * i)))

/-- Write the word SAVED, the saving core and CHECK of a slot. -/
def State.writeHeader (s : State) (x : Task) (base : Nat) : State :=
  let opq := Memory.readList s.mem (base + 0x2000) 0x2000 ++ Memory.readList s.mem (base + 0x6000) 0x4000
  s.storeBytes base (natToBytes 8 (crc32c opq).toNat ++ natToBytes 8 x.r.saved.toNat ++ natToBytes 2 (coreOfTask x))

/-- Save one section of a suspended task; one that is current in memory is saved already. -/
def State.saveSection (s : State) (t i : Nat) : State :=
  match s.task? t with
  | none => s
  | some x =>
    if x.r.saved.getLsbD i then s else
    let base := s.slotBase (ctxDie x) x.r.ctx
    let x := x.mapRec (fun r => { r with saved := r.saved ||| (1 <<< i) })
    let s := s.storeBytes (base + (sectionRange i).1) (s.sectionBytes x i)
    let s := if i = 4 then s.storeBytes (base + sbufOffset) x.sbufBytes else s
    (s.setTask t x).writeHeader x base

/-- Save some sections. -/
def State.saveSections (s : State) (t : Nat) (l : List Nat) : State := l.foldl (fun s i => s.saveSection t i) s

/-! ### Loading a section back -/

/-- The control registers of section 0; a register keeps its poison (R27, R337). -/
def loadCtrl (x : Task) (n : Nat) : Task :=
  let c := (List.range 64).foldl (fun c j => Ctl.wr c (BitVec.ofNat 6 j) (word (natBits n (64 * j) 64))) x.ctl
  let c := (List.range 32).foldl (fun c j => Ctl.hw c (BitVec.ofNat 5 j) (BitVec.ofNat 256 (natBits n (4096 + 256 * j) 256))) c
  { x with ctl := { c with bad := x.ctl.bad, hbad := x.ctl.hbad, own := x.ctl.own } }

/-- The fields of a loop stack's entry at a byte of a section; none where it holds no entry. -/
def loopAt (n b : Nat) : Option (Nat × Nat × Nat × Nat × Nat) :=
  let f (o w : Nat) : Nat := natBits n (8 * (b + o)) (8 * w)
  if f 25 1 = 0 then none else some (f 0 4, f 4 4, f 8 8, f 16 8, f 24 1)

/-- The entries of a loop stack from a byte on. -/
def stackAt (n b : Nat) : List (Nat × Nat × Nat × Nat × Nat) := (List.range 4).filterMap (fun i => loopAt n (b + 32 * i))

/-- The trap registers and the loop stack of section 1; of PSTATE only IE is writable (R269), and TSTATE's reserved bits read as zero (R6,
R270). -/
def loadTrap (x : Task) (n : Nat) : Task :=
  let w (j : Nat) : Word := word (natBits n (64 * j) 64)
  { x with ctl := { x.ctl with
      ie := (w 0).getLsbD 2, tstate := w 1 &&& 0x1FFF, taddr := w 2, tresume := w 3, tval := w 4,
      loops := (stackAt n 40).map (fun l => ⟨l.1, l.2.1, l.2.2.1, l.2.2.2.1, BitVec.ofNat 6 l.2.2.2.2⟩) } }

/-- The tags of section 3: a register that has none listed gets an entry for a tag of its own. -/
def loadTags (v : SMap VReg) (tag : Nat → Fmt) : SMap VReg :=
  let old := v.map (fun p => (p.1, { p.2 with tag := tag p.1 }))
  ((List.range 512).filter (fun j => tag j != Fm.none && (SMap.find v j).isNone)).foldl (fun m j => SMap.put m j { VReg.empty with tag := tag j }) old

/-- What section 3 holds, in the layout of `streamBytes`. -/
def loadStream (x : Task) (n : Nat) : Task :=
  let f (b w : Nat) : Nat := natBits n (8 * b) (8 * w)
  let queue (b len : Nat) : List Word := (List.range (min len 64)).map (fun i => word (f (b + 8 * i) 8))
  let cfg (b : Nat) : SMap Word := (List.range 16).map (fun i => (i, word (f (b + 8 * i) 8)))
  let nest (b : Nat) : Nest := { trip := f b 2, s0 := BitVec.ofNat 16 (f (b + 2) 2), s1 := BitVec.ofNat 16 (f (b + 4) 2), s2 := BitVec.ofNat 16 (f (b + 6) 2) }
  let loop (l : Nat × Nat × Nat × Nat × Nat) : VLoop := ⟨l.1, l.2.1, l.2.2.1, l.2.2.2.1, if l.2.2.2.2 = 255 then none else some l.2.2.2.2⟩
  { x with
    vec := { x.vec with
      a := (List.range 32).map (fun i => (i, word (f (8 * i) 8))), b := (List.range 16).map (fun i => (i, BitVec.ofNat 256 (f (256 + 32 * i) 32))),
      v := loadTags x.vec.v (fun j => BitVec.ofNat 6 (f (768 + j) 1)), flags := BitVec.ofNat 16 (f 1280 2), vq := queue 1288 (f 1282 1),
      cq := queue 1800 (f 1283 1), loops := (stackAt n 2312).map loop, done := f 2728 8, issued := f 2736 8 },
    mat := { x.mat with cfg := cfg 2440, n5 := nest 2696, n6 := nest 2704, done := f 2744 8, issued := f 2752 8 },
    cpy := { x.cpy with cfg := cfg 2568, n5 := nest 2712, n6 := nest 2720, done := f 2760 8, issued := f 2768 8 } }

/-- The 64-bit words of a section that are poisoned in memory. -/
def State.badWords (s : State) (a n : Nat) : List Nat :=
  if s.poison.isEmpty && s.dram.all (fun k => k.2.pcerase == 0) then [] else (List.range n).filter (fun j => s.isBad (a + 8 * j))

/-- A context that is loaded from poisoned words of its slot holds their poison (R337). -/
def Task.loadPoison (x : Task) (i : Nat) (bad : List Nat) : Task :=
  let tile (k : Nat) (l : List Nat) : Task := x.setTile k { x.tile k with bad := (x.tile k).bad ++ l }
  if bad.isEmpty then x
  else if i = 0 then { x with ctl := { x.ctl with
    bad := x.ctl.bad ++ bad.filter (fun j => 0 < j && j < 64), hbad := x.ctl.hbad ++ (bad.filter (fun j => 64 ≤ j)).map (fun j => (j - 64) / 4) } }
  else if i = 2 then { x with semBad := x.semBad ++ bad }
  else if i = 3 then { x with vec := { x.vec with
    abad := x.vec.abad ++ bad.filter (fun j => j < 32), bbad := x.vec.bbad ++ (bad.filter (fun j => 32 ≤ j && j < 96)).map (fun j => (j - 32) / 4) } }
  else if i = 5 then { x with vec := { x.vec with kbad := x.vec.kbad ++ (bad.filter (fun j => 64 ≤ j)).map (fun j => j / 64) } }
  else if i = 7 then { x with frameBad := x.frameBad ++ bad }
  else if 8 ≤ i && i < 24 then
    { x with vec := { x.vec with v := x.vec.v.map (fun p =>
        if p.1 / 32 = i - 8 then (p.1, { p.2 with bad := p.2.bad ++ (bad.filter (fun j => j / 320 == p.1 % 32)).map (fun j => j % 320) }) else p) } }
  else if 24 ≤ i && i < 56 then tile (i - 24) (bad.map (fun j => if j < 2048 then j else 32768 + (j - 2048)))
  else if 56 ≤ i then tile (i - 24) (bad.flatMap (fun j => (List.range 8192).filter (fun c => 64 * j < 40 * c + 40 && 40 * c < 64 * j + 64)))
  else x

/-- Take one section of a task from memory; what the sections of no given layout hold stays as it was saved (log 22). -/
def State.loadSection (s : State) (x0 : Task) (i : Nat) : Task :=
  let base := s.slotBase (ctxDie x0) x0.r.ctx
  let r := sectionRange i
  let x := x0.loadPoison i (s.badWords (base + r.1) (r.2 / 8))
  let n := Memory.readNat s.mem (base + r.1) r.2
  if i = 0 then loadCtrl x n
  else if i = 1 then loadTrap x n
  else if i = 2 then { x with sems := (List.range 256).map (fun j => (j, BitVec.ofNat 32 (natBits n (32 * j) 32))) }
  else if i = 5 then { x with vec := { x.vec with k := (List.range 16).map (fun j => (j, BitVec.ofNat 4096 (natBits n (4096 * j) 4096))) } }
  else if i = 4 then
    let step (p : Task × Nat) (b : Nat × Nat) : Task × Nat :=
      let bad := s.badWords (base + sbufOffset + p.2) ((b.2 + 7) / 8)
      (p.1.setTile b.1 { p.1.tile b.1 with bad := (p.1.tile b.1).bad ++ bad, data := BitVec.ofNat 2097152 (Memory.readNat s.mem (base + sbufOffset + p.2) b.2) }, p.2 + b.2)
    (x.r.sbufs.foldl step (x, 0)).1
  else if i = 3 then loadStream x n
  else if i = 6 then x
  else if i = 7 then { x with frame := Memory.write [] 0 (natToBytes r.2 n) }
  else if i < 24 then
    { x with vec := { x.vec with v := x.vec.v.map (fun p =>
        if p.1 / 32 = i - 8 then
          let o := p.1 % 32 * 20480
          (p.1, { p.2 with data := BitVec.ofNat 16384 (natBits n o 16384), scale := BitVec.ofNat 4096 (natBits n (o + 16384) 4096) })
        else p) } }
  else
    let y := x.tile (i - 24)
    if SMap.find x.tiles (i - 24) == none then x
    else if i < 56 then x.setTile (i - 24) { y with data := BitVec.ofNat 2097152 (natBits n 0 131072), scale := BitVec.ofNat 32768 (natBits n 131072 32768) }
    else x.setTile (i - 24) { y with data := BitVec.ofNat 2097152 n }

/-- The sections of storage units that a core loads only on their first use (R304): the codebook slots, vector registers and tiles. -/
abbrev lazySections : BitVec 64 := 0xFFFFFFFFFFFFFF40

/-- A resume takes the sections that are current in memory (R303), the storage units on their first use (R304); a slot with nothing left in
it is free again. -/
def State.loadSaved (s : State) (x : Task) : Task :=
  let lazy := x.r.saved &&& lazySections
  let y := ((List.range 64).filter (fun i => x.r.saved.getLsbD i && !lazySections.getLsbD i)).foldl (fun y i => s.loadSection y i) x
  y.mapRec (fun r => { r with saved := 0, lazy := lazy, preempted := false, ctx := if lazy == 0 then 0 else r.ctx, stops := [] })

/-- The first use of some sections' units on a core loads them (R304); none while their slot cannot be read (R321, R323). -/
def State.touch (s : State) (t : Nat) (l : List Nat) : Option State :=
  match s.task? t with
  | none => some s
  | some x =>
    let need := (List.range 64).filter (fun i => l.contains i && x.r.lazy.getLsbD i)
    if need.isEmpty then some s
    else if !s.slotOnline (s.slotBase (ctxDie x) x.r.ctx) then none
    else
      let y := need.foldl (fun y i => s.loadSection y i) x
      let lazy := need.foldl (fun (b : BitVec 64) i => b &&& ~~~((1 : BitVec 64) <<< i)) x.r.lazy
      some (s.setTask t (y.mapRec (fun r => { r with lazy := lazy, ctx := if lazy == 0 then 0 else r.ctx })))

/-! ### Failing saves (R331) -/

/-- A save of a task's context fails: its node is rolled back with FLT_CTXSAVE; while it holds a trap context that is a double
trap (R276). -/
def State.saveFails (s : State) (t : Nat) : State :=
  match s.task? t with
  | none => s
  | some x => if x.ctl.act then s.doubleTrap t x Flt.ctxsave else s.rollback t Flt.ctxsave true (s.slotBase (ctxDie x) x.r.ctx)

/-- Save some sections of a suspended task, or fail. -/
def State.trySave (s : State) (t : Nat) (l : List Nat) : State :=
  match s.task? t with
  | none => s
  | some x => if s.slotOk (s.slotBase (ctxDie x) x.r.ctx) l then s.saveSections t l else s.saveFails t

/-- The context buffer of a core takes a task's control state; the oldest of four is written out first (R301). -/
def State.bufferContext (s : State) (c t : Nat) : State :=
  let live := (s.core c).buffer.filter (fun i => i != t && (match s.task? i with | some y => y.r.preempted && y.r.home == some c | none => false))
  let s := match live with
    | o :: _ => if 4 ≤ live.length then s.trySave o [0, 1, 2] else s
    | [] => s
  s.modCore c (fun k => { k with buffer := (if 4 ≤ live.length then live.drop 1 else live) ++ [t] })

/-- The slot that a saved context of a task takes: its own where units of it stand there still, else the lowest free one (R302). -/
def State.slotOf (s : State) (x : Task) : Option Nat := if x.r.lazy != 0 then some x.r.ctx else s.freeSlot (ctxDie x)

/-- A saved context of a task begins in a slot: nothing of it is current there but the units not loaded since (R302, R304, Table 19.5). -/
def State.takeSlot (s : State) (t n : Nat) : State :=
  match s.task? t with
  | none => s
  | some x =>
    let y := x.mapRec (fun r => { r with preempted := true, ctx := n, saved := r.lazy, lazy := 0 })
    let s := s.setTask t y
    let base := s.slotBase (ctxDie x) n
    if s.slotOk base [] then s.writeHeader y base else s

/-- What a suspension writes can be reached now (R321, R323): the bytes of its posted stores, its slot, and the slot of the context that leaves
the core's context buffer. -/
def State.maySuspend (s : State) (x : Task) : Bool :=
  let online (y : Task) (n : Nat) : Bool := s.slotOnline (s.slotBase (ctxDie y) n)
  let live := (s.core (coreOfTask x)).buffer.filterMap (fun i => (s.task? i).filter (fun y => y.r.preempted && y.r.home == some (coreOfTask x)))
  x.pend.all (fun a => a.load.isSome || s.cellsHeld (a.writes.map (fun w => w.a)))
    && (match s.slotOf x with | some n => online x n | none => true)
    && (live.length < 4 || live.head?.all (fun y => online y y.r.ctx))

/-- A task is suspended (R301): its posted stores perform (R99), loads in flight and requests that wait for a page are abandoned (R99, R227), its
context gets a slot and a place in the core's context buffer, and its core is free; none without a free slot (R302). -/
def State.suspend (s : State) (t : Nat) : Option State :=
  match s.task? t with
  | none => none
  | some x =>
    match s.slotOf x with
    | none => none
    | some n =>
      let s := (s.savePosted t x.pend.length).abandon t [.control, .vector, .matrix, .copy]
      let s := { s with misses := s.misses.filter (fun m => m.task != t) }
      let s := s.takeSlot t n
      let s := s.modTask t (fun y => y.mapRec (fun r => { r with midSlice := true }))
      some ((s.releaseCore t).bufferContext (coreOfTask x) t)

/-! ### Pre-emption (R301) -/

/-- What the control stream of a task does at an instruction boundary (R272, R277, R298, R307). -/
inductive Boundary where
  | faultDelivery
  | budget
  | preemption (core : Nat)
  | interrupt (core : Nat)
  | halted
  | issue
  deriving DecidableEq, Repr

/-- The event that the boundary takes first: a fault of a record or vector instruction, which waits while a handler runs
(R313: such faults raise one trap each); then FLT_BUDGET, then a pre-emption request, which lets a WAIT whose condition
holds complete first, then an interrupt; the last three wait for a delay slot (R134, R275, R307). -/
def State.boundary (s : State) (x : Task) : Boundary :=
  let c := coreOfTask x
  let inSlot := x.ctl.delay.isSome
  let user := x.ctl.pl == 0 && x.st == .running
  if x.pendFault.isSome && !x.ctl.act then .faultDelivery
  else if !inSlot && !x.service && user && x.r.budget == 0 then .budget
  else if !inSlot && !x.service && (s.core c).request && !s.waitHolds x then .preemption c
  else if !inSlot && (user || x.ctl.ie) && (lowestPending (s.core c)).isSome then .interrupt c
  else if x.ctl.halted then .halted
  else .issue

/-- The slice that a pre-emption may stop: at an instruction boundary outside a delay slot, or while it retires (R29). A fault that
waits to be taken comes first (R307), unless a handler makes it wait. -/
def preemptable (x : Task) : Bool :=
  ((x.st == .running && x.ctl.delay.isNone) || x.st == .retiring) && (x.pendFault.isNone || x.ctl.act)

/-- The budget of a slice is gone at an instruction boundary of a user slice, or while it retires (R298, R29). -/
def budgetGone (x : Task) : Bool :=
  x.r.core.isSome && x.r.budget == 0 && x.ctl.pl == 0 && !x.service && preemptable x

/-- A request takes effect on a slice: FLT_BUDGET and a WAIT that completes in place come first (R307). -/
def State.yields (s : State) (x : Task) : Bool := preemptable x && !x.service && !budgetGone x && !(x.st == .running && s.waitHolds x)

/-- The request of a core is served: the task becomes Runnable with a context slot, and its core is free. A task
bound to a fenced core's scratchpad is rolled back (R286); without a free slot it is rolled back with FLT_CTXSAVE (R302). -/
def State.preempt (s : State) (core : Nat) : Out :=
  match (s.core core).task with
  | none => .next s
  | some t =>
    match s.task? t with
    | none => .next s
    | some x =>
      if !((s.core core).request && s.yields x && s.maySuspend x) then .next s
      else
        let s := s.modCore core (fun k => { k with request := false })
        if (s.core core).fenced && x.r.level == 2 then .next (s.rollback t 0 false 0)
        else match s.suspend t with
          | some s' => .next (s'.makeRunnable t true)
          | none => .next (s.saveFails t)

/-- PREEMPTION: a request takes effect. One raised in this cycle leaves the control stream's instruction of the cycle first (R307): that turn
decides (`controlStep`). -/
def execPreemption (core : Nat) (s : State) : Out :=
  if (s.core core).asked == some s.cycle && (match ((s.core core).task).bind s.task? with | some x => x.st == .running | none => false) then .next s
  else s.preempt core

/-- PREEMPT (R281): a request against the context that runs on a core of the partition. -/
def execPreempt (d a : SReg) (s : State) : Out :=
  s.issue (privForm 1) (fun x => do
    let v ← x.src a
    x.dst d
    check (v.toNat < 2 ^ 11) Flt.illegal
    check ((coresOf (s.partClusters (s.partOf x))).contains v.toNat) Flt.bounds
    let busy := (s.core v.toNat).task.isSome
    let s := s.modCore v.toNat (fun k => { k with request := k.request || busy, asked := if busy && !k.request then some s.cycle else k.asked })
    s.done (x.wr d (if busy then 0 else 1)) 4)

/-! ### ctxsave and ctxload (R280) -/

/-- The engines of a task that holds no core stop until it is dispatched (R185). -/
def State.stopStreams (s : State) (t : Nat) (l : List Stream) : State :=
  s.modTask t (fun x => x.mapRec (fun r => { r with stops := r.stops ++ l.filter (fun e => !r.stops.contains e) }))

/-- The task whose continuation record lies at an address, inside the issuer's partition. -/
def State.recordOf (s : State) (x : Task) (v : Word) : Res (Nat × Task) := do
  check (v.toNat % 64 == 0 && v.toNat < 2 ^ 46) Flt.illegal
  match s.tasks.find? (fun p => p.2.r.pa != 0 && p.2.r.pa == v.toNat) with
  | none => fault Flt.bounds
  | some p => do
    check (s.partOf p.2 == s.partOf x) Flt.bounds
    .ok p

/-- ctxsave: forces every section of a pre-empted task into its slot. Where the save fails the task is rolled back; the
spec gives s[D] no value then (log 11). -/
def execCtxsave (d a : SReg) (s : State) : Out :=
  s.issue (privForm 1) (fun x => do
    let v ← x.src a
    x.dst d
    let (t, y) ← s.recordOf x v
    waitFor (!y.r.preempted || s.slotOnline (s.slotBase (ctxDie y) y.r.ctx))
    if !y.r.preempted then s.done (x.wr d 1) 4
    else if s.slotOk (s.slotBase (ctxDie y) y.r.ctx) (List.range 64) then
      ((s.saveSections t (List.range 64)).stopStreams t [.vector, .matrix, .copy]).done (x.wr d 0) 4
    else
      let (f, s) := (s.saveFails t).freshFree
      s.done (x.wr d (word f)) 4)

/-- ctxload: the context area becomes authoritative, after its check word has been compared. -/
def execCtxload (d a : SReg) (s : State) : Out :=
  s.issue (privForm 1) (fun x => do
    let v ← x.src a
    x.dst d
    waitFor (settled x)
    let (t, y) ← s.recordOf x v
    let base := s.slotBase (ctxDie y) y.r.ctx
    let opq := Memory.readList s.mem (base + 0x2000) 0x2000 ++ Memory.readList s.mem (base + 0x6000) 0x4000
    waitFor (!y.r.preempted || s.slotOnline base)
    if !y.r.preempted then s.done (x.wr d 1) 4
    else if Memory.readNat s.mem base 4 == (crc32c opq).toNat then
      ((s.modTask t (fun y => y.mapRec (fun r => { r with saved := BitVec.allOnes 64 }))).stopStreams t [.vector, .matrix, .copy]).done (x.wr d 0) 4
    else (s.saveFails t).done (x.wr d 3) 4)

/-! ### STORAGE_UNIT_SAVE (R303, R304) -/

/-- The sections that hold a storage unit. -/
def unitSections : StorageUnit → List Nat
  | .scratch _ => [7]
  | .vregs g => if g < 16 then [8 + g] else []
  | .tiles g => if g < 40 then [24 + g] else [4]
  | .codebook _ => [6]
  | .vector => [3, 5]
  | .matrix | .copy => [4]

/-- The kind of a unit. -/
def unitClass : StorageUnit → StoreClass
  | .scratch _ => .scratch
  | .vregs _ => .vregs
  | .tiles g => if g < 32 then .slots else if g < 40 then .accs else .scratch
  | .codebook _ => .codebooks
  | .vector => .vector
  | .matrix => .matrix
  | .copy => .copy

/-- The physical units of a kind on a core (R303); an engine is one. -/
def unitCapacity : StoreClass → Nat
  | .vregs => 16
  | .slots => 32
  | .accs | .codebooks => 8
  | .scratch => 512
  | .vector | .matrix | .copy => 1

/-- The units of a kind that a task holds on its core, those that are in memory left out (R303): groups of vector registers, tile
entries, codebook slots, frame blocks; for an engine, whether the task has work on it. -/
def Task.unitsHeld (x : Task) (c : StoreClass) : List Nat :=
  let tiles (lo n : Nat) : List Nat := ((List.range n).map (fun i => lo + i)).filter (fun i =>
    ((x.tile i).claimed || (x.tile i).st != .empty) && !(x.r.saved ||| x.r.lazy).getLsbD (24 + i))
  let engine (on : Bool) (st : Stream) : List Nat := if on && !x.r.stops.contains st then [0] else []
  match c with
  | .vregs => (List.range 16).filter (fun g => x.vec.v.any (fun p => p.1 / 32 == g) && !(x.r.saved ||| x.r.lazy).getLsbD (8 + g))
  | .slots => tiles 0 32
  | .accs => tiles 32 8
  | .codebooks => if (x.r.saved ||| x.r.lazy).getLsbD 6 then [] else (x.cbs.filter (fun p => p.2 != Codebook.empty)).map (fun p => p.1)
  | .scratch => x.frameUse.map (fun u => u.1)
  | .vector => engine x.vec.on .vector
  | .matrix => engine (!x.mat.queue.isEmpty) .matrix
  | .copy => engine (!x.cpy.queue.isEmpty) .copy

/-- The tasks off their core whose units stand on it. -/
def State.unitHolders (s : State) (core : Nat) (c : StoreClass) : List (Nat × Task) :=
  s.tasks.filter (fun p => p.2.r.home == some core && p.2.r.core.isNone && p.2.st != .returned && !(p.2.unitsHeld c).isEmpty)

/-- The first kind of unit for which a task and those off the core need more than the core has (R303). -/
def State.unitShort (s : State) (core : Nat) (x : Task) : Option StoreClass :=
  [StoreClass.vregs, .slots, .accs, .codebooks, .vector, .matrix, .copy].find? (fun c =>
    let own := (x.unitsHeld c).length
    own != 0 && unitCapacity c < (s.unitHolders core c).foldl (fun n p => n + (p.2.unitsHeld c).length) own)

/-- The suspended task whose units have waited longest (R303), the lowest number on ties. -/
def State.unitVictim (s : State) (core : Nat) (c : StoreClass) : Option Nat :=
  ((s.unitHolders core c).foldl (fun (m : Option (Nat × Task)) p => match m with
    | none => some p
    | some b => if p.2.r.leftAt < b.2.r.leftAt then some p else some b) none).map (fun p => p.1)

/-- The engines that use a kind of unit: they stop when a claim takes it from a Waiting task (R185). -/
def unitStreams : StoreClass → List Stream
  | .vregs | .vector => [.vector]
  | .slots | .accs => [.vector, .matrix, .copy]
  | .codebooks | .copy => [.copy]
  | .matrix => [.matrix]
  | .scratch => [.control, .vector, .matrix, .copy]

/-- A save needs a slot: a task off its core that has none takes the lowest free one (R302). -/
def State.slotFor (s : State) (t : Nat) (x : Task) : Option State :=
  if x.r.preempted then some s else (s.slotOf x).map (fun n => s.takeSlot t n)

/-- The place of a frame in a core's scratchpad, in 4 KiB units: the highest that is free, since the top 64 KiB are kept from boxes
(R18; log 10). -/
def frameFit (used : List (Nat × Nat)) (size cap : Nat) : Option Nat :=
  let fits (k : Nat) := 4096 * k + size ≤ cap && used.all (fun u => 4096 * k + size ≤ u.1 || u.1 + u.2 ≤ 4096 * k)
  (List.range 512).reverse.find? fits

/-- No 4 KiB block of a core's scratchpad is free, where one is kept (R303). -/
def State.scratchFull (s : State) (core : Nat) : Bool := (frameFit (s.scratchUse core) 4096 (2 ^ 21)).isNone

/-- Streams that stop on a claim: their accepted stores perform first, the loads are abandoned (R99, R185). -/
def State.stopForClaim (s : State) (t : Nat) (l : List Stream) : State :=
  ((s.savePosted t (match s.task? t with | some x => x.pend.length | none => 0)).abandon t l).stopStreams t l

/-- A save of some of a task's units can be done now: its slot and the bytes of its posted stores can be reached; without a slot it fails at
once. -/
def State.canGive (s : State) (t : Nat) (x : Task) : Bool :=
  match s.slotFor t x with
  | none => true
  | some s' => (match s'.task? t with | some y => s'.slotOnline (s'.slotBase (ctxDie y) y.r.ctx) | none => true)
      && x.pend.all (fun a => a.load.isSome || s.cellsHeld (a.writes.map (fun w => w.a)))

/-- A core is to free a block of its scratchpad (R303), and a task off it has units to give up. -/
def State.blockDue (s : State) : Bool :=
  s.tasks.any (fun p => p.2.r.core.isNone && (match p.2.r.home with
    | some c => s.unitVictim c .scratch == some p.1 && s.scratchFull c && s.canGive p.1 p.2
    | none => false))

/-- STORAGE_UNIT_SAVE: a use on a core, or a dispatch, waits for a unit of a kind, or the core keeps a block free, and the task whose units of
that kind have waited longest gives one up: it is written to that task's slot (R303, R304). -/
def execStorageUnitSave (t : Nat) (unit : StorageUnit) (s : State) : Out :=
  match s.task? t with
  | none => .next s
  | some x =>
    let c := unitClass unit
    let core := x.r.home.getD 1152
    let wanted := (s.core core).claim == some c || (c == .scratch && s.scratchFull core)
    if x.r.core.isSome || !wanted || s.unitVictim core c != some t || !s.canGive t x then .next s
    else match s.slotFor t x with
      | none => .next (s.saveFails t)
      | some s' => .next ((s'.stopForClaim t (unitStreams c)).trySave t (unitSections unit))

/-- A use of a unit that none is free for waits for its claim (R304): the turn leaves the machine as it was but for the claim. -/
def State.claimed (s : State) (t : Nat) (o : Out) : Out :=
  match o with
  | .next s' =>
    match s'.task? t with
    | none => o
    | some x =>
      match x.r.core with
      | none => o
      | some core =>
        match s'.unitShort core x with
        | some c => .next (s.modCore core (fun k => { k with claim := some c }))
        | none => if (s'.core core).claim.isSome then .next (s'.modCore core (fun k => { k with claim := none })) else o
  | _ => o

end Sys2Proof.Machine
end

