-- ==== Sys2Proof/Machine/Spawn.lean ====
section
/-! DEFINITION. SPAWN, SPAWN.DOWN and DSPAWN (02 R16 to R19, R31, R32; 03 R42 to R48; 10 R167 to R169). Every check is made
for every child before any child is created. -/

namespace Sys2Proof.Machine
open Sys2Proof

/-! ### The spawn block (Tables 10.1, 10.2) -/

/-- An argument entry. -/
structure SpawnEntry where
  hreg : HReg
  mode : BitVec 4
  keep : Bool
  sdim : Nat
  step : Nat
  off : List Nat
  ext : List Nat
  padLo : List Nat
  padHi : List Nat
  oreg : SReg
  ereg : SReg
  sreg : SReg
  deriving DecidableEq, Repr

/-- The scalar registers that an entry reads. -/
def SpawnEntry.regs (e : SpawnEntry) : List SReg := [e.oreg, e.ereg, e.sreg]

/-- The fields of an entry of 64 bytes. -/
def spawnEntry (b : Nat) : SpawnEntry :=
  let w (i : Nat) := blockWord b i
  { hreg := BitVec.ofNat 5 (natBits (w 0) 59 5), mode := BitVec.ofNat 4 (natBits (w 0) 55 4), keep := natBits (w 0) 54 1 == 1,
    sdim := natBits (w 0) 52 2, step := natBits (w 0) 24 24,
    off := dims.map (fun d => natBits (w (d + 1)) 40 24), ext := dims.map (fun d => natBits (w (d + 1)) 16 24),
    padLo := dims.map (fun d => natBits (w (d + 1)) 8 8), padHi := dims.map (fun d => natBits (w (d + 1)) 0 8),
    oreg := BitVec.ofNat 6 (natBits (w 5) 58 6), ereg := BitVec.ofNat 6 (natBits (w 5) 52 6), sreg := BitVec.ofNat 6 (natBits (w 5) 46 6) }

/-- Its reserved bits are zero. -/
def spawnEntryOk (b : Nat) : Bool :=
  natBits (blockWord b 0) 48 4 == 0 && natBits (blockWord b 0) 0 24 == 0 && natBits (blockWord b 5) 0 46 == 0
    && blockWord b 6 == 0 && blockWord b 7 == 0

/-- Reserved fields and BCNT of the header. -/
def spawnHeaderOk (b : Nat) : Bool :=
  natBits (blockWord b 1) 5 27 == 0 && natBits (blockWord b 1) 0 4 ≤ 8 && [4, 5, 6, 7].all (fun i => blockWord b i == 0)

/-- Read a spawn block: header and argument entries (R166). -/
def State.spawnBlock (s : State) (x : Task) (off : Nat) : Res (Nat × List SpawnEntry) := do
  let h ← s.block x off 64 64
  check (spawnHeaderOk h) Flt.illegal
  let bs ← (List.range (natBits (blockWord h 1) 0 4)).mapM (fun j => s.codeNat x (off + 64 + 64 * j) 64)
  check (bs.all spawnEntryOk) Flt.illegal
  .ok (h, bs.map spawnEntry)

/-! ### Arguments (R168, R42, R44) -/

/-- The box of child i, and how it comes by it. Padding along a dimension that the handle does not have is FLT_BOUNDS: the spec names no
fault for it (R44, R168; log 43). -/
def Task.childArg (x : Task) (down : Bool) (i : Nat) (a : SpawnEntry) : Res Arg := do
  let h := x.ctl.hd a.hreg
  let o0 ← if a.oreg == 0 then .ok 0 else (do .ok (← x.src a.oreg).toNat)
  let e0 ← if a.ereg == 0 then .ok (nth a.ext a.sdim 1) else (do .ok (← x.src a.ereg).toNat)
  let st ← if a.sreg == 0 then .ok a.step else (do .ok (← x.src a.sreg).toNat)
  let o (d : Nat) := nth a.off d 0 + (if d = a.sdim then o0 + i * st else 0)
  let e (d : Nat) := if d = a.sdim then e0 else nth a.ext d 1
  useHandle h
  let c ← boxSub h o e
  let mode := if a.keep then Handle.mode h else a.mode
  check (a.keep || modeAllowed (Handle.mode h) a.mode) Flt.mode
  let padded := dims.any (fun d => nth a.padLo d 0 != 0 || nth a.padHi d 0 != 0)
  let passed := mode == modeShared || mode == modeView
  check (!padded || (down && !passed)) Flt.mode
  check (dims.all (fun d => d ≤ Handle.rank h || (nth a.padLo d 0 == 0 && nth a.padHi d 0 == 0))) Flt.bounds
  .ok { parent := h, off := dims.map o, ext := dims.map e, padLo := a.padLo, padHi := a.padHi,
        fresh := if down then !passed else mode == modeScratch, child := Handle.withRights c mode (Handle.policy c),
        snap := [], hdrs := [], bad := none, stale := false }

/-! ### Overlaps and capacities (R47 to R49, R18) -/

/-- The writable box of an argument in the parent's region: with its halo, which lies inside the parent handle, and without pad
elements, which do not (R44, R47). -/
def groupBox (child arg : Nat) (a : Arg) : Option GroupBox :=
  if Handle.mode a.child == modeOut || Handle.mode a.child == modeInout then
    some { child := child, arg := arg, level := Handle.level a.parent, region := Handle.region a.parent,
           lo := dims.map (fun d => Handle.org a.parent d + (nth a.off d 0 - nth a.padLo d 0)),
           hi := dims.map (fun d =>
             Handle.org a.parent d + min (Handle.ext a.parent d) (nth a.off d 0 + nth a.ext d 0 + nth a.padHi d 0)),
           policy := Handle.policy a.child }
  else none

/-- Two boxes of one region share an element. -/
def boxesMeet (a b : GroupBox) : Bool :=
  a.level == b.level && a.region == b.region
    && dims.all (fun d => max (nth a.lo d 0) (nth b.lo d 0) < min (nth a.hi d 0) (nth b.hi d 0))

/-- FLT_OVERLAP (R47): two writable boxes of one child, two policies, or two views. -/
def overlapOk (down : Bool) (boxes : List GroupBox) : Bool :=
  boxes.all (fun a => boxes.all (fun b =>
    (a.child == b.child && a.arg == b.arg) || !boxesMeet a b || (down && a.child != b.child && a.policy == b.policy)))

/-- Bytes of return staging (R48): the children's elements in the overlap set, packed, and the headers of their blocks (R46). -/
def stagingBytes (x : List (Nat × List Arg)) (boxes : List GroupBox) : Nat :=
  let f (a : Arg) : Fmt := Handle.fmt a.parent
  let one (a : Arg) : Nat :=
    if a.fresh && (groupBox 0 0 a).isSome then
      (boxCoords a.cext).foldl (fun n c =>
        match a.map c with
        | none => n
        | some pc =>
          let p := regionCoord a.parent pc
          if inOverlap boxes (Handle.level a.parent) (Handle.region a.parent) p then
            n + fmtWidth (f a) + (if nth p 0 0 % fmtBlock (f a) == 0 then 8 * headerBytes (f a) else 0)
          else n) 0
    else 0
  x.foldl (fun n k => k.2.foldl (fun n a => n + (one a + 7) / 8) n) 0

/-- Storage of a child's own boxes. -/
def freshBytes (as : List Arg) : Nat :=
  as.foldl (fun n a => if a.fresh then n + (compactLayout (Handle.fmt a.parent) (Handle.layout a.parent) a.cext).2 else n) 0

/-! ### Creation -/

/-- A child to create: its index, cluster, the core whose scratchpad it uses, the core that DSPAWN fixes for it, its slice. -/
structure Kid where
  index : Nat
  cluster : Nat
  bound : Option Nat
  fixed : Option Nat
  slice : Option Slice
  deriving DecidableEq, Repr

/-- Sizes of the scratchpad buffers of a task descriptor (R52, R368). -/
def descriptorBuffers (d : Nat) : SMap Nat :=
  (List.range 24).filterMap (fun j => let k := natBits d (64 + 8 * j) 8; if k = 0 then none else some (40 + j, 4096 * k))

/-- A new task of a spawn group: a view child is Runnable, a down child Copying-In (R14, R16, R19). -/
def newChild (s : State) (parent g : Nat) (x : Task) (down : Bool) (entry desc : Nat) (k : Kid) (as : List Arg) : Task :=
  let r := { Rec.empty with
    launch := x.r.launch, kind := .child g, parent := some parent, cluster := k.cluster, entry := entry, fsize := natBits desc 0 4,
    level := if down then x.r.level + 1 else x.r.level, cls := x.r.cls, child := k.index, deadline := x.r.deadline,
    contract := x.r.contract, wid := x.r.wid, det := k.slice.isSome, descBudget := natBits desc 32 32, sbufs := descriptorBuffers desc,
    slice := k.slice, bound := k.bound, fixed := k.fixed, down := down, boxes := as.map (fun a => if a.fresh then 0 else a.child), args := as }
  let t := { Task.empty with st := (if down then .copyingIn else .runnable), r := r }
  { t with r := { r with budget := s.sliceBudget t } }

/-- Create the children of a group in ascending index, each in its queue. -/
def State.createKids (s : State) (parent g : Nat) (x : Task) (down : Bool) (entry desc : Nat) : List (Kid × List Arg) → State × List Nat
  | [] => (s, [])
  | (k, as) :: r =>
    let t := s.taskId
    let c := newChild s parent g x down entry desc k as
    let s := (s.addTask t c).enqueue t false
    let p := State.createKids s parent g x down entry desc r
    (p.1, t :: p.2)

/-- Entries of a cluster's share of the queue area in use (R294): a record for each task that has one, and a pending
descriptor for the tasks of one creation that have none yet. -/
def State.areaUse (s : State) (cl : Nat) : Nat :=
  let mine := s.tasks.filter (fun p => p.2.r.cluster == cl && p.2.st != .returned && !p.2.service)
  let waits := (mine.filter (fun p => p.2.r.pa == 0)).foldl (fun (l : List (Nat × TaskKind)) p =>
    if l.contains (p.2.r.launch, p.2.r.kind) then l else l ++ [(p.2.r.launch, p.2.r.kind)]) []
  (mine.filter (fun p => p.2.r.pa != 0)).length + waits.length

/-- Entries of 64 bytes in a cluster's share of the queue area, QSIZE x 64 KiB (R294); 0 where the partition has no descriptor. -/
def State.areaShare (s : State) (part : Nat) : Nat := natBits (s.queueDescriptor part) 116 12 * 1024

/-- A cluster's share of the queue area is full: what would add to it waits (R294). -/
def State.areaFull (s : State) (part cl : Nat) : Bool := s.areaShare part != 0 && s.areaShare part ≤ s.areaUse cl

/-- The common part of SPAWN and DSPAWN (R168): build every child's boxes, check, release, create. A task descriptor outside the code
image is FLT_BOUNDS, after the capacities: the spec names no fault for it (log 43). -/
def State.spawnGroup (s : State) (x : Task) (down : Bool) (h : Nat) (es : List SpawnEntry) (kids : List Kid) : Res State := do
  let args ← kids.mapM (fun k => es.mapM (fun e => x.childArg down k.index e))
  let byKid := (kids.map (fun k => k.index)).zip args
  let boxes := byKid.flatMap (fun p => ((List.range p.2.length).zip p.2).filterMap (fun q => groupBox p.1 q.1 q.2))
  check (overlapOk down boxes) Flt.overlap
  check (args.all (fun as => as.all (fun a =>
    !(Handle.mode a.child == modeOut || Handle.mode a.child == modeInout) || !isReducePolicy (Handle.policy a.child)
      || reducible (Handle.fmt a.child)))) Flt.format
  check (x.r.jcount + kids.length ≤ 1048576) Flt.capacity
  check (!down || args.all (fun as => freshBytes as ≤ levelCapacity (x.r.level + 1))) Flt.capacity
  check (!down || stagingBytes byKid boxes ≤ levelCapacity x.r.level) Flt.capacity
  let desc ← s.codeNat x (natBits (blockWord h 1) 32 32) 64
  -- the release, and the order of the inward copies after every earlier access of the control and vector streams (R43, R98)
  waitFor (x.pend.all (fun a => a.stream != .control && a.stream != .vector))
  waitFor (s.queueReachable (s.partOf x))
  waitFor (kids.all (fun k => !s.areaFull (s.partOf x) k.cluster))
  let args ← args.mapM (fun as => as.mapM (fun a => if a.fresh then s.snapshot x a else .ok a))
  let g := SMap.lowestFree s.spawns
  let order := s.spawns.foldl (fun n p => max n (p.2.order + 1)) 0
  let y := x.mapRec (fun r => { r with jcount := r.jcount + kids.length, groups := r.groups ++ [g] })
  let p := (s.setTask s.cur y).createKids s.cur g x down (natBits (blockWord h 0) 32 32) desc (kids.zip args)
  let grp : Group := { parent := s.cur, order := order, children := p.2, live := kids.length, boxes := if down then boxes else [],
                       held := [], fatal := [], conflict := none, stageLevel := x.r.level,
                       stageIn := if x.r.level = 0 then x.r.launch else x.r.cluster,
                       staging := if down then stagingBytes byKid boxes else 0, stageAt := none, last := none }
  .ok { p.1 with spawns := SMap.put p.1.spawns g grp }
where
  isReducePolicy (p : BitVec 4) : Bool := 2 ≤ p.toNat
  reducible (f : Fmt) : Bool := fmtKind f != .hs && !fmtIsBlock f

/-- Complete the acting task's instruction in a state that holds its new record. -/
def State.retireCur (s : State) (len : Nat) : State := s.modTask s.cur (fun x => x.retire len)

/-- The cluster that a spawn's placement names (R18, R168). -/
def State.place (s : State) (x : Task) (a : SReg) : Res Nat := do
  if a == 0 then .ok x.r.cluster
  else do
    let v ← x.src a
    check (x.r.level == 0) Flt.illegal
    check (v.toNat < 144 && (s.partClusters (s.partOf x)).contains v.toNat) Flt.bounds
    .ok v.toNat

/-- spawn and spawn.down (R168). -/
def State.spawn (s : State) (down : Bool) (d a : SReg) (ext : BitVec 32) : Out :=
  s.issue taskForm (fun x => do
    let (h, es) ← s.spawnBlock x ext.toNat
    x.soundRegs (es.flatMap SpawnEntry.regs) (es.map (fun e => e.hreg))
    check (natBits (blockWord h 1) 4 1 == 0 && blockWord h 2 == 0 && blockWord h 3 == 0) Flt.illegal
    let n ← if d == 0 then .ok (natBits (blockWord h 0) 0 32) else (do .ok (← x.src d).toNat)
    check (n ≤ 65536) Flt.capacity
    check (!(down && x.r.level == 2)) Flt.illegal
    let cl ← s.place x a
    if n = 0 then s.done x 8
    else
      -- a level-2 view child runs on the parent's core (R18)
      let bound := if !down && x.r.level == 2 then some (coreOfTask x) else none
      let s' ← s.spawnGroup x down h es ((List.range n).map (fun i => { index := i, cluster := cl, bound := bound, fixed := none, slice := none }))
      .ok (s'.retireCur 8))

def execSpawn (d a : SReg) (ext : BitVec 32) (s : State) : Out := s.spawn false d a ext
def execSpawnDown (d a : SReg) (ext : BitVec 32) (s : State) : Out := s.spawn true d a ext

/-! ### Deterministic spawn (R31, R32, R169) -/

/-- Round up a quotient. -/
def ceilDiv (a b : Nat) : Nat := (a + b - 1) / b

/-- The clusters of DSPAWN's set, ascending (R169). -/
def clusterSet (die mask : Nat) : List Nat := ((List.range 16).filter (fun c => natBits mask c 1 == 1)).map (fun c => die * 16 + c)

/-- The permutation of word 2: dimension of each place. -/
def dspawnPerm (w2 : Nat) : List Nat := (List.range (natBits w2 62 2 + 1)).map (fun j => natBits w2 (54 + 2 * j) 2)

/-- Reserved and unused fields of words 2 and 3 (Table 10.1). -/
def dspawnWordsOk (w2 w3 : Nat) : Bool :=
  let dn := natBits w2 62 2
  natBits w2 16 29 == 0 && natBits w2 (54 + 2 * (dn + 1)) (8 - 2 * (dn + 1)) == 0 && natBits w3 0 (48 - 16 * dn) == 0

/-- dspawn (R169). -/
def execDspawn (d a : SReg) (ext : BitVec 32) (s : State) : Out :=
  s.issue taskForm (fun x => do
    match s.launch? x.r.launch with
    | none => fault Flt.illegal
    | some l =>
      check l.det Flt.illegal
      let (h, es) ← s.spawnBlock x ext.toNat
      x.soundRegs (es.flatMap SpawnEntry.regs) (es.map (fun e => e.hreg))
      let w2 := blockWord h 2
      let w3 := blockWord h 3
      check (dspawnWordsOk w2 w3) Flt.illegal
      let down := natBits (blockWord h 1) 4 1 == 1
      let dn := natBits w2 62 2
      let p ← if d == 0 then .ok (natBits w2 0 16) else (do .ok (← x.src d).toNat)
      let set ← if a == 0 then .ok (x.r.cluster / 16 * 2 ^ 16 + 2 ^ (x.r.cluster % 16)) else (do .ok (← x.src a).toNat)
      check (set < 2 ^ 20) Flt.illegal
      let die := natBits set 16 4
      let cls := clusterSet die (natBits set 0 16)
      let perm := dspawnPerm w2
      check ((List.range (dn + 1)).all (fun k => perm.contains k)) Flt.illegal
      check (!cls.isEmpty && 1 ≤ p && p ≤ 8 * cls.length) Flt.illegal
      check (x.r.level != 2 && (x.r.level == 0 || cls == [x.r.cluster])) Flt.illegal
      check (die < 9 && cls.all (fun c => (s.partClusters (s.partOf x)).contains c)) Flt.bounds
      let raw := (List.range (dn + 1)).map (fun k => natBits w3 (48 - 16 * k) 16)
      let trips ← if natBits w2 53 1 == 1 then raw.mapM (fun e => s.shapeEntry x (natBits w2 45 8) e) else .ok raw
      let n := trips.foldl (fun m t => m * t) 1
      check (n ≤ 2 ^ 32) Flt.capacity
      if n = 0 then s.done x 8
      else
        let q := ceilDiv n p
        let kid (k : Nat) : Kid :=
          let cl := nth cls (k / 8) x.r.cluster
          { index := k, cluster := cl, bound := none, fixed := some (8 * cl + k % 8),
            slice := some { first := k * q, last := min n ((k + 1) * q), n := n, p := p, trips := trips, logical := k } }
        let kids := (List.range (ceilDiv n q)).map kid
        let s' ← s.spawnGroup x down h es kids
        .ok (s'.retireCur 8))

end Sys2Proof.Machine
end

