-- ==== Sys2Proof/Machine/Schedule.lean ====
section
/-! DEFINITION. The hardware scheduler: storage and inward copies of a new task, dispatch, budgets, contracts and releases
(02 R13 to R19; 19 R292 to R300; 18 R282). -/

namespace Sys2Proof.Machine
open Sys2Proof

/-! ### CHILD_STORAGE_ALLOCATION (R16, R18, R43, R328) -/

/-- The task whose storage an argument's parent handle names: the parent, or for a firing its own launch. -/
def State.argParent (s : State) (x : Task) : Task :=
  match x.r.parent with
  | some p => match s.task? p with
    | some y => y.seenFrom x
    | none => x.own
  | none => x.own

/-- The core that takes the storage of a level-2 task (R18, R32, R341). -/
def State.storageCore (s : State) (x : Task) : Option Nat :=
  match x.r.bound, x.r.fixed with
  | some c, _ => if (s.core c).fenced then none else some c
  | none, some c => s.fixedCore x.r.cluster c
  | none, none => s.roomiestCore x.r.cluster

/-- The lowest free descriptor of a region table, which has 2^20 (R37). -/
def freeRegion (m : SMap Region) : Option Nat := if SMap.lowestFree m < 2 ^ 20 then some (SMap.lowestFree m) else none

/-- Storage for one argument at a level, aligned to al bytes: the table with its descriptor, the cell address and the handle; none where
it does not fit. -/
def State.placeArg (s : State) (al : Nat) (x view : Task) (t core : Nat) (a : Arg) : Option (State × Handle) :=
  match s.regionOf view a.parent with
  | .error _ => none
  | .ok g =>
    let size := (compactLayout g.fmt g.layout.toNat a.cext).2
    if x.r.level = 1 then
      let c := s.cluster x.r.cluster
      match lowestFit al (s.clusterUse x.r.cluster) size (levelCapacity 1), freeRegion c.regions with
      | none, _ | _, none => none
      | some b, some id =>
        let r := childRegion g a 1 b t x.r.launch
        let s := s.setCluster x.r.cluster { c with regions := SMap.put c.regions id r }
        some (s.fillStorage r (clusterMem x.r.cluster + b) a, childHandle a 1 id)
    else if x.r.level = 2 then
      match lowestFit al (s.scratchUse core) size (levelCapacity 2), freeRegion (s.core core).regions with
      | none, _ | _, none => none
      | some b, some id =>
        let r := childRegion g a 2 b t x.r.launch
        let s := s.modCore core (fun k => { k with regions := SMap.put k.regions id r })
        some (s.fillStorage r (scratchpad core + b) a, childHandle a 2 id)
    else
      match s.launch? x.r.launch with
      | none => none
      | some l =>
        match lowestFit al (s.outsideUse x.r.launch) size (levelCapacity 0), freeRegion l.regions with
        | none, _ | _, none => none
        | some b, some id =>
          let cell := outsideBase x.r.launch + b
          let r := { childRegion g a 0 0 t x.r.launch with place := some cell }
          let s := s.setLaunch x.r.launch { l with regions := SMap.put l.regions id r }
          some (s.fillStorage r cell a, childHandle a 0 id)

/-- Storage for every fresh argument, or none of it. -/
def State.placeArgs (s : State) (al : Nat) (x view : Task) (t core : Nat) : List Arg → Option (State × List Arg)
  | [] => some (s, [])
  | a :: r =>
    if a.fresh then
      match s.placeArg al x view t core a with
      | none => none
      | some (s, h) =>
        match State.placeArgs s al x view t core r with
        | none => none
        | some (s, l) => some (s, { a with child := h } :: l)
    else match State.placeArgs s al x view t core r with
      | none => none
      | some (s, l) => some (s, a :: l)

/-- The same on 64-byte boundaries, or packed where the boxes fit only so (R18; log 10). -/
def State.placeBoxes (s : State) (x view : Task) (t core : Nat) (l : List Arg) : Option (State × List Arg) :=
  (s.placeArgs 64 x view t core l).orElse (fun _ => s.placeArgs 1 x view t core l)

/-- The return staging of a child's group is reserved, now or before (R48); none where it does not fit now. -/
def State.reserveStaging (s : State) (x : Task) : Option State :=
  match x.r.kind with
  | .child g =>
    match SMap.find s.spawns g with
    | some grp =>
      if grp.staging == 0 || grp.stageAt.isSome then some s
      else (lowestFit 64 (if grp.stageLevel == 0 then s.outsideUse grp.stageIn else s.clusterUse grp.stageIn) grp.staging
          (levelCapacity grp.stageLevel)).map
        (fun b => { s with spawns := SMap.put s.spawns g { grp with stageAt := some b } })
    | none => some s
  | _ => some s

/-- The storage of a task's own boxes is there. -/
def Task.placed (x : Task) : Bool :=
  ((List.range x.r.args.length).zip x.r.args).all (fun p => !p.2.fresh || nth x.r.boxes p.1 0 != 0)

/-- CHILD_STORAGE_ALLOCATION: the allocator gives a task in Copying-In, or a view child with a SCRATCH box, its storage, filled with
its inward copies; what does not fit now waits (R18), and so does a task that holds a context only for a trap of its copies. A poisoned
copy is consumed in the child (R337). -/
def execChildStorageAllocation (t : Nat) (s : State) : Out :=
  match s.task? t with
  | none => .next s
  | some x =>
    if !(x.st == .copyingIn || x.st == .runnable) || x.r.home.isSome || x.placed || x.pendFault.isSome then .next s
    else
      let view := s.argParent x
      match x.r.args.mapM (fun (a : Arg) => if a.fresh && a.stale then s.snapshot view a else Except.ok a) with
      | .error e => s.deliverReturn t x (.error e)
      | .ok args =>
        match args.findSome? (fun a => if a.fresh then a.bad else none) with
        | some a => .next (s.requeue t x Flt.ue (word (2 * (if isDram a then a else 0))))
        | none => match if x.r.level = 2 then s.storageCore x else some 0 with
          | none => .next s
          | some core =>
            match (s.reserveStaging x).bind (fun s => s.placeBoxes x view t core (args.map (fun a => { a with stale := false }))) with
            | none => .next s
            | some (s, args) =>
              .next (s.setTask t (x.mapRec (fun r => { r with
                args := args, boxes := args.map (fun a => a.child), bound := if r.level = 2 then some core else r.bound })))

/-! ### COPY_IN_COMPLETE and DISPATCH (R14, R295, R297, R10, R265) -/

/-- The frame slot a task gets on a core: its own where its frame stands there already. -/
def State.frameSlot (s : State) (t core : Nat) (x : Task) : Option Nat :=
  if x.r.home == some core && !x.r.saved.getLsbD 7 && !x.r.saved.getLsbD 4 then some x.r.fslot
  else
    let others := { s with tasks := SMap.del s.tasks t }
    frameFit (others.scratchUse core) x.frameBytes (2 ^ 21)

/-- A free place for a record in its cluster's share of the queue area, on a pinned page: the lowest (R289, R294, R312; log 10). -/
def State.recordPlace (s : State) (x : Task) : Option Nat :=
  let part := s.partOf x
  let d := s.queueDescriptor part
  let pages := natBits d 116 12
  let base := natBits d 64 52 + ((s.partClusters part).filter (fun c => c < x.r.cluster)).length * (pages * 65536)
  let free (a : Nat) : Option Nat := if s.tasks.any (fun p => p.2.r.pa == a) then none else some a
  (List.range pages).findSome? (fun i =>
    let va := base + 65536 * i
    if s.pinned part va then match s.physical part va wantsRead with
      | .ok a => (List.range 1024).findSome? (fun k => free (a + 64 * k))
      | .error _ => none
    else none)

/-- Materialise some continuation records, in order (R294); none while the area has no room for one of them. A partition without a
queue area keeps none (log 10). -/
def State.materialiseAll (s : State) : List Nat → Option State
  | [] => some s
  | t :: rest =>
    match s.task? t with
    | none => State.materialiseAll s rest
    | some x =>
      if s.areaShare (s.partOf x) == 0 || x.service then State.materialiseAll s rest
      else match s.recordPlace x with
        | none => none
        | some a =>
          let s := s.modTask t (fun x => x.mapRec (fun r => { r with pa := a }))
          if s.areaShare (s.partOf x) < s.areaUse x.r.cluster then none else State.materialiseAll s rest

/-- Materialise the record of a task before its first dispatch, after those of the lower tasks of its creation in its cluster: the moment
is the model's (R13, R294; log 10). -/
def State.materialise (s : State) (t : Nat) : Option State :=
  match s.task? t with
  | none => none
  | some x =>
    if x.r.pa != 0 then some s
    else s.materialiseAll ((s.tasks.filter (fun p => p.1 ≤ t && p.2.r.pa == 0 && p.2.r.launch == x.r.launch && p.2.r.kind == x.r.kind
      && p.2.r.cluster == x.r.cluster)).map (fun p => p.1))

/-- A core may dispatch a record: it is Runnable with its storage there, or in need of a trap, not bound elsewhere, its contract is
not suspended, its partition not under reset, and its record has a place (R32, R294, R341, R348). -/
def State.suits (s : State) (core t : Nat) : Bool :=
  match s.task? t with
  | none => false
  | some x =>
    x.st == .runnable && (x.placed || x.pendFault.isSome) && (match s.boundCore x with | some c => c == core | none => true)
      && (match s.contractOf x with | some k => !k.suspended | none => true) && !s.partResetting (s.partOf x)
      && (s.materialise t).isSome

/-- The first of two contract records (R295): one that comes for a trap stands at the head (R313). -/
def contractBefore (a b : Nat × Task) : Bool :=
  if a.2.pendFault.isSome != b.2.pendFault.isSome then a.2.pendFault.isSome
  else if a.2.r.deadline != b.2.r.deadline then a.2.r.deadline < b.2.r.deadline else false

/-- The record that a free core dispatches (R295): contract by deadline, then entry; interactive; batch. -/
def State.bestRecord (s : State) (core : Nat) : Option Nat :=
  let cl := s.cluster (clusterOfCore core)
  let ok (q : List Nat) := q.filter (fun t => s.suits core t)
  let c0 := if s.contractCores (clusterOfCore core) < s.contractLimit (clusterOfCore core) then
      ((ok cl.q0).filterMap (fun t => (s.task? t).map (fun x => (t, x)))).foldl (fun m p => match m with
        | none => some p
        | some (b : Nat × Task) => if contractBefore p b then some p else some b) none
    else none
  match c0, ok cl.q1, ok cl.q2 with
  | some p, _, _ => some p.1
  | none, t :: _, _ => some t
  | none, [], t :: _ => some t
  | none, [], [] => none

/-- The record that a core dispatches next: the one whose request freed the core (R301, R307), else the best of its queues. -/
def State.pickRecord (s : State) (core : Nat) : Option Nat :=
  let room (t : Nat) : Bool := match s.task? t with
    | some x => x.r.cluster == clusterOfCore core && (x.r.cls != 0 || s.contractCores (clusterOfCore core) < s.contractLimit (clusterOfCore core))
    | none => false
  match (s.core core).claimant with
  | some t => if s.suits core t && room t then some t else s.bestRecord core
  | none => s.bestRecord core

/-- The privilege level of a launch's tasks (R265, R267, R361). -/
def Launch.level (l : Launch) : Nat := if l.service.isSome then 2 else if l.priv || l.supervisor then 1 else 0

/-- The registers of a task at its first instruction (R10, R111). -/
def Task.firstContext (x : Task) : Ctl :=
  let s3 := match x.r.kind with
    | .firing _ _ => 0
    | .amendment _ _ => 1
    | _ => x.r.child
  let c := (Ctl.empty.wr 3 (word s3)).wr 4 (word x.r.wid)
  let c := ((List.range 32).zip x.r.boxes).foldl (fun c p => c.hw (BitVec.ofNat 5 p.1) p.2) c
  { c with pc := 4 * x.r.entry }

/-- The task as its slice begins or goes on (R297, R299): budget, privilege state, frame slot; RESUMED after JOIN or YIELD (R13). -/
def State.startSlice (s : State) (core : Nat) (x : Task) (slot : Nat) : Task :=
  let fresh := x.r.home.isNone
  let pl := match s.launch? x.r.launch with | some l => l.level | none => 0
  let x := if fresh then { x with ctl := x.firstContext, frame := [] } else x
  let mid := x.r.midSlice
  let x := if x.r.preempted then s.loadSaved x else x
  let x := if mid then x
    else { x with ctl := { x.ctl with pl := pl, ie := false, act := false },
                  r := { x.r with budget := s.sliceBudget x, granted := false } }
  let x := match s.contractOf x with
    | some k => if x.r.cls = 0 && k.clusters.contains x.r.cluster then x.mapRec (fun r => { r with budget := min r.budget (SMap.get k.accounts r.cluster 0) }) else x
    | none => x
  Task.follow { x with
    st := if x.r.ending || x.r.dead then .retiring else .running,
    r := { x.r with
      midSlice := false, stops := [], cregs := none, resuming := false, resumed := x.r.resumed || x.r.resuming,
      fslot := slot, core := some core, home := some core, dispatchedAt := s.cycle } }

/-- COPY_IN_COMPLETE: the copy engine's timeline reaches the last inward copy, and the task becomes Runnable (R14). A service
core runs its one task at once (R361). -/
def execCopyInComplete (t : Nat) (s : State) : Out :=
  match s.task? t with
  | none => .next s
  | some x =>
    if !(x.st == .copyingIn && x.placed) then .next s
    else match x.r.kind with
      | .service d => .next ((s.setTask t (s.startSlice (serviceCore d) x 0)).modCore (serviceCore d) (fun k => { k with task := some t }))
      | _ => .next (s.copiesDone t)

/-- The core registers that come with a context (R268). -/
def Core.takeRegs (k : Core) : Option CoreRegs → Core
  | some r => { k with svec := r.svec, tdeleg := r.tdeleg, supcyc := r.supcyc }
  | none => k

/-- What a dispatch of a task reads and writes can be reached now: its slot and the launch queue descriptor (R321, R323). -/
def State.dispatchable (s : State) (x : Task) : Bool :=
  (!x.r.preempted || s.slotOnline (s.slotBase (ctxDie x) x.r.ctx)) && s.queueReachable (s.partOf x)

/-- The one task of a service core, when it is Runnable after a JOIN, a YIELD or a trap's wait (R361). -/
def State.serviceRecord (s : State) (core : Nat) : Option Nat :=
  (s.tasks.find? (fun p => p.2.st == .runnable && (match p.2.r.kind with | .service d => serviceCore d == core | _ => false))).map (fun p => p.1)

/-- DISPATCH: a free, unfenced core takes the first suitable record, a service core its one task. A task whose storage another core still holds is written
out there first (R304); its frame moves with it (R15). A frame that finds no place claims one (R303). -/
def execDispatch (core : Nat) (s : State) : Out :=
  if !(core < 1161 && (s.core core).task.isNone && !(s.core core).fenced) then .next s
  else match if core < 1152 then s.pickRecord core else s.serviceRecord core with
    | none => .next s
    | some t =>
      match s.task? t with
      | none => .next s
      | some x =>
        if !s.dispatchable x then .next s else
        let moved := x.r.preempted && x.r.home != some core
        let s := if moved then s.trySave t ((List.range 64).filter (fun i => !x.r.saved.getLsbD i)) else s
        match s.task? t with
        | none => .next s
        | some y =>
          if y.st != .runnable then .next s
          else match s.frameSlot t core y with
          | none => .next (s.modCore core (fun k => { k with claim := some .scratch }))
          | some slot =>
            let s := s.dequeue t
            let s := (s.materialise t).getD s
            let y := (s.task? t).getD y
            let s := s.setTask t (s.startSlice core y slot)
            .next (s.modCore core (fun k => { k.takeRegs y.r.cregs with
              task := some t, request := false, claimant := none, claim := none, buffer := k.buffer.filter (fun i => i != t) }))

/-! ### SLICE_BUDGET_EXHAUSTED (R298, R29) -/

def execSliceBudgetExhausted (t : Nat) (s : State) : Out :=
  match s.task? t with
  | none => .next s
  | some x =>
    match s.launch? x.r.launch with
    | none => .next s
    | some l =>
      if !(budgetGone x && s.queueReachable (s.partOf x)) then .next s
      else if l.ovr = 1 && !x.r.granted then .next (s.setTask t (x.mapRec (fun r => { r with budget := l.ovrc, granted := true })))
      else if l.ovr = 2 then
        if !s.maySuspend x then .next s
        else match s.suspend t with
        | none => .next (s.saveFails t)
        | some s' =>
          if (s.contractOf x).isSome then .next (s'.modTask t (fun y => { y with st := .deferred }))
          else .next ((s'.modTask t (fun y => y.mapRec (fun r => { r with budget := s.sliceBudget x }))).makeRunnable t false)
      else .next ((s.endTask t Flt.budget).interruptSupervisor (s.partOf x))

/-! ### Contracts (R282, R299, R300) -/

/-- CONTRACT_ACCOUNT_EXHAUSTED: an account has reached 0: FLT_BUDGET in every running slice of the contract on that cluster. -/
def execContractAccountExhausted (part n cl : Nat) (s : State) : Out :=
  match SMap.find s.contracts (contractKey part n) with
  | none => .next s
  | some k =>
    if !(k.part == part && k.clusters.contains cl && SMap.get k.accounts cl 0 == 0 && !k.spent.contains cl) then .next s
    else
      let s := { s with contracts := SMap.put s.contracts (contractKey part n) { k with spent := cl :: k.spent } }
      let hit := s.tasks.filter (fun p => p.2.r.core.isSome && p.2.r.cluster == cl && p.2.r.contract == n && s.partOf p.2 == part)
      .next (hit.foldl (fun s p => s.modTask p.1 (fun x => x.mapRec (fun r => { r with budget := 0 }))) s)

/-- An account of a contract is at 0 and the running slices have not been told (R299). -/
def Contract.owes (k : Contract) : Bool := k.accounts.any (fun a => a.2 == 0 && !k.spent.contains a.1)

/-- A release tick of a contract has come (R299): an account that is at 0 by then raises its fault first. -/
def State.refillDue (s : State) (k : Contract) : Bool := k.q + (k.refills + 1) * k.period ≤ s.tick && !k.owes && s.queueReachable k.part

/-- CONTRACT_RELEASE: at a release tick Q + k x PERIOD every account is full again and the Deferred tasks become Runnable with
a new budget, in ascending WID (R295). -/
def execContractRelease (part n : Nat) (s : State) : Out :=
  match SMap.find s.contracts (contractKey part n) with
  | none => .next s
  | some k =>
    if !(k.part == part && s.refillDue k) then .next s
    else
      let k' := { k with refills := k.refills + 1, accounts := k.clusters.map (fun c => (c, k.budget)), spent := [] }
      let s := { s with contracts := SMap.put s.contracts (contractKey part n) k' }
      let due := sortBy (fun (a b : Nat × Task) => a.2.r.wid < b.2.r.wid)
        (s.tasks.filter (fun p => p.2.st == .deferred && p.2.r.contract == n && s.partOf p.2 == part))
      .next (due.foldl (fun s p =>
        (s.modTask p.1 (fun x => x.mapRec (fun r => { r with budget := s.sliceBudget x, granted := false }))).makeRunnable p.1 false) s)

/-- The bytes of a readable Z8 box of rank 1 at one of some levels that holds at least so many, from an offset on. -/
def State.boxBytes (s : State) (x : Task) (h : Handle) (off n : Nat) (levels : List Nat) : Res (List Byte) := do
  useHandle h
  check (levels.contains (Handle.level h)) Flt.mode
  check (Handle.fmt h == Fm.z8 && Handle.rank h == 0) Flt.format
  check (off + n ≤ Handle.ext h 0) Flt.bounds
  let bs ← (List.range n).mapM (fun i => do
    let (g, p) ← s.boxElem x h [off + i, 0, 0, 0]
    s.elemSound x g p
    s.readElem x g p)
  .ok (bs.map (fun b => BitVec.ofNat 8 b))

/-- A contract descriptor's word. -/
abbrev descWord (n i : Nat) : Nat := natBits n (64 * i) 64

/-- Its density in units of 2^-16 of a core (R300). -/
def density (budget rdead : Nat) : Nat := ceilDiv (budget * 2 ^ 12) rdead

/-- The admission test on one cluster (R300); a fenced core adds nothing (R286). -/
def State.admits (s : State) (u cl : Nat) : Bool :=
  let c := s.cluster cl
  let used := s.contracts.foldl (fun n p => if p.2.clusters.contains cl then n + density p.2.budget p.2.rdead else n) 0
  let cores := ((coresOf [cl]).filter (fun k => !(s.core k).fenced)).length
  u + used ≤ min c.cres cores * c.cbound

/-- qadmit (R282). -/
def execQadmit (d : SReg) (a : HReg) (s : State) : Out :=
  s.issue (privForm 1) (fun x => do
    x.dst d
    let n := bytesToNat (← s.boxBytes x (x.ctl.hd a) 0 32 [0])
    let period := descWord n 0
    let budget := natBits n 64 32
    let rdead := descWord n 2
    let die := natBits n 208 4
    let mask := natBits n 192 16
    check (1 ≤ period && period < 2 ^ 32 && 1 ≤ budget && 1 ≤ rdead && rdead ≤ period && natBits n 96 32 == 0
      && natBits n 212 44 == 0 && mask != 0) Flt.illegal
    let part := s.partOf x
    let set := ((List.range 16).filter (fun c => natBits mask c 1 == 1)).map (fun c => die * 16 + c)
    check (die < 9 && set.all (fun c => (s.partClusters part).contains c)) Flt.bounds
    let no (code : Nat) := s.done (x.wr d (word (0xFFFFFFFF00000000 + code))) 4
    if !set.all (fun c => s.admits (density budget rdead) c) then no 1
    else match (List.range 1024).find? (fun k => (SMap.find s.contracts (contractKey part k)).isNone) with
      | none => no 2
      | some k =>
        let c : Contract := { part := part, period := period, budget := budget, rdead := rdead, clusters := set, q := s.tick,
                              refills := 0, accounts := set.map (fun c => (c, budget)), spent := [], suspended := false }
        { s with contracts := SMap.put s.contracts (contractKey part k) c }.done (x.wr d (word k)) 4)

/-- The Held tasks of a contract number of a partition. -/
def State.heldTasks (s : State) (part n : Nat) : List Nat :=
  (s.tasks.filter (fun p => p.2.st == .held && p.2.r.contract == n && s.partOf p.2 == part)).map (fun p => p.1)

/-- The operand of qrelease and qcancel names a contract of the partition, or 0xFFFF. -/
def State.contractOperand (s : State) (x : Task) (v : Word) : Res Nat := do
  check (v.toNat < 2 ^ 16) Flt.illegal
  check (v.toNat == 0xFFFF || (v.toNat < 1024 && (SMap.find s.contracts (contractKey (s.partOf x) v.toNat)).isSome)) Flt.bounds
  .ok v.toNat

/-- qrelease (R282): the Held tasks become Runnable; a halted replica's group traffic is admitted again (R127). -/
def execQrelease (a : SReg) (s : State) : Out :=
  s.issue (privForm 1) (fun x => do
    let n ← s.contractOperand x (← x.src a)
    let part := s.partOf x
    let s := match SMap.find s.contracts (contractKey part n) with
      | some k => if n = 0xFFFF then s else { s with contracts := SMap.put s.contracts (contractKey part n) { k with suspended := false } }
      | none => s
    let s := { s with fencedTraffic := false }.routesChanged
    .ok (((s.heldTasks part n).foldl (fun s t => s.makeRunnable t false) s).modTask s.cur (fun x => x.retire 4)))

/-- A live task of a cancelled contract goes on in the interactive class, one in Copying-In in that class's queue; a Deferred one
becomes Runnable at once. -/
def State.toInteractive (s : State) (t : Nat) : State :=
  match s.task? t with
  | none => s
  | some x =>
    let s := s.dequeue t
    let y := x.mapRec (fun r => { r with cls := 1, contract := 0xFFFF })
    let y := if x.st == .deferred then y.mapRec (fun r => { r with budget := s.defaultBudget (s.partOf x) 1 }) else y
    let s := s.setTask t y
    if x.st == .copyingIn then s.enqueue t false
    else if x.st == .runnable || x.st == .deferred then s.makeRunnable t false else s

/-- Cancel a contract (R282, R348): its reservation leaves the sums, its bindings and tasks go on without it, its periodic
launches end. -/
def State.cancelContract (s : State) (part n : Nat) : State :=
  let s := { s with
    contracts := SMap.del s.contracts (contractKey part n),
    bindings := s.bindings.map (fun (p : Nat × Binding) =>
      let same := match s.launch? p.2.launch with | some l => l.part == part | none => false
      if same && p.2.contract == n then (p.1, { p.2 with contract := 0xFFFF, cls := 1 }) else p) }
  let mine := s.tasks.filter (fun p => p.2.r.contract == n && s.partOf p.2 == part && p.2.st != .returned)
  let s := mine.foldl (fun s p => s.toInteractive p.1) s
  let ended := s.launches.filter (fun p => p.2.part == part && p.2.periodic && p.2.contract == n && p.2.live)
  let s := { s with launches := s.launches.map (fun (p : Nat × Launch) => if p.2.part == part && p.2.periodic && p.2.contract == n then (p.1, { p.2 with closing := true }) else p) }
  ended.foldl (fun s p => s.tryFinishLaunch p.1) s

/-- qcancel (R282): the Held tasks end with FLT_TRAP, the contract is cancelled. -/
def execQcancel (a : SReg) (s : State) : Out :=
  s.issue (privForm 1) (fun x => do
    let n ← s.contractOperand x (← x.src a)
    let part := s.partOf x
    let s := (s.heldTasks part n).foldl (fun s t => s.endTask t Flt.trap) s
    let s := if n = 0xFFFF then s else s.cancelContract part n
    .ok (s.modTask s.cur (fun x => x.retire 4)))

/-! ### Root tasks and periodic releases (R21, R292) -/

/-- Raw work identifier of the j-th coordinate tuple, field 0 fastest (R21). -/
def Launch.widOf (l : Launch) (j : Nat) : Nat :=
  ((List.range l.fields).foldl (fun (p : Nat × Nat × Nat) f =>
    (p.1 + p.2.1 % l.count f * 2 ^ p.2.2, p.2.1 / l.count f, p.2.2 + l.width f)) (0, j, 0)).1

/-- Root tasks of a launch. -/
def Launch.roots (l : Launch) : Nat := (List.range l.fields).foldl (fun n f => n * l.count f) 1

/-- The descriptor of the root tasks (R292, R368), 0 for none. -/
def State.rootDescriptor (s : State) (l : Launch) : Nat :=
  if l.rtdesc = 0xFFFFFFFF then 0
  else match l.service with
    | some d => Memory.readNat s.mem (scratchpad (serviceCore d) + l.code + l.rtdesc) 64
    | none => match s.readVirtual l.part (l.code + l.rtdesc) 64 with
      | .ok bs => bytesToNat bs
      | .error _ => 0

/-- The root tasks of a launch enter their queues in ascending WID (R21). -/
def State.createRoots (s : State) (n : Nat) (l : Launch) (deadline : Nat) : State :=
  let desc := s.rootDescriptor l
  let boxes := (s.rootBoxes l).map (fun p => p.2)
  (List.range l.roots).foldl (fun s j =>
    let t := s.taskId
    let r := { Rec.empty with
      launch := n, cluster := nth l.clusters (j % l.clusters.length) 0, entry := l.entry, fsize := natBits desc 0 4, cls := l.cls,
      deadline := deadline, contract := l.contract, wid := l.widOf j, descBudget := natBits desc 32 32,
      sbufs := descriptorBuffers desc, boxes := boxes }
    let x := { Task.empty with r := r }
    let s := s.addTask t x
    (s.setTask t (x.mapRec (fun r => { r with budget := s.sliceBudget x }))).makeRunnable t false) s

/-- The tick of the next release of a periodic launch (R292). -/
def Launch.releaseAt (l : Launch) (k : Contract) : Nat := l.start + (l.releases + l.skipped) * k.period

/-- A release of a periodic launch can be made now: its clusters' areas have room (R294) and what it reads can be read. -/
def State.releaseRoom (s : State) (l : Launch) : Bool :=
  s.queueReachable l.part && (l.rtdesc == 0xFFFFFFFF || s.reachable l.part (l.code + l.rtdesc) 64) && !l.clusters.any (s.areaFull l.part)

/-- A release of a launch has come, and only a full area can hold it back: it is made or skipped before the clock goes on (R292). -/
def State.releaseDue (s : State) (n : Nat) (l : Launch) : Bool :=
  match SMap.find s.contracts (contractKey l.part l.contract) with
  | none => false
  | some k => l.periodic && l.live && !l.closing && l.releaseAt k ≤ s.tick && (0 < s.liveRoots n || s.releaseRoom l)

/-- PERIODIC_RELEASE: release k at START + k x PERIOD, skipped while a root task of the one before it lives. -/
def execPeriodicRelease (launch : Nat) (s : State) : Out :=
  match s.launch? launch with
  | none => .next s
  | some l =>
    match SMap.find s.contracts (contractKey l.part l.contract) with
    | none => .next s
    | some k =>
      if !s.releaseDue launch l then .next s
      else if 0 < s.liveRoots launch then .next (s.setLaunch launch { l with skipped := l.skipped + 1 })
      else
        let s := s.setLaunch launch { l with releases := l.releases + 1 }
        .next (s.createRoots launch l (l.releaseAt k + k.rdead))

end Sys2Proof.Machine
end

