-- ==== Sys2Proof/Machine/Privileged.lean ====
section
/-! DEFINITION. The privileged forms of chapter 18 (R268 to R288) but for contexts, contracts, partitions and the PHY. -/

namespace Sys2Proof.Machine
open Sys2Proof

/-! ### System registers (R268, R279, Table 18.1) -/

/-- The lowest PL that reads a register; none for an unassigned number. -/
def srRead (n : Nat) : Option Nat :=
  if n ≤ 0x00C || (0x040 ≤ n && n ≤ 0x07F) then some 1
  else if n = 0x100 || n = 0x101 || n = 0x102 || n = 0x200 then some 1
  else if n = 0x201 || n = 0x202 then some 2
  else none

/-- The lowest PL that writes a register; none where no write is allowed. -/
def srWrite (n : Nat) : Option Nat :=
  if n = 0x000 || n = 0x001 || n = 0x004 || n = 0x006 || (0x008 ≤ n && n ≤ 0x00B) || (0x040 ≤ n && n ≤ 0x07F) then some 1
  else if n = 0x101 || n = 0x102 || n = 0x201 || n = 0x202 then some 2
  else none

/-- The clusters whose registers a core reaches: its own; a service core, which lies in none, reaches those of its die
(log 23). -/
def clustersOf (core : Nat) : List Nat :=
  if core < 1152 then [clusterOfCore core] else (List.range 16).map (fun c => (core - 1152) * 16 + c)

/-- The value of a register. -/
def State.srValue (s : State) (x : Task) (n : Nat) : Word :=
  let core := coreOfTask x
  let k := s.core core
  let cl := s.cluster (nth (clustersOf core) 0 0)
  let die := s.die (dieOfCore core)
  if n = 0x000 then s.pstate x
  else if n = 0x001 then k.svec
  else if n = 0x002 then x.ctl.tstate
  else if n = 0x003 then x.ctl.taddr
  else if n = 0x004 then x.ctl.tresume
  else if n = 0x005 then x.ctl.tval
  else if n = 0x006 then k.tdeleg
  else if n = 0x007 then x.ctl.trec
  else if n ≤ 0x00B then k.ipend.extractLsb' (64 * (n - 8)) 64
  else if n = 0x00C then k.supcyc
  else if n ≤ 0x07F then (if n = 0x040 then 0 else SMap.get x.ctl.tframe.s (n - 0x040) 0)
  else if n = 0x100 then word (if core < 1152 then cl.cpart else 63)
  else if n = 0x101 then word cl.cres
  else if n = 0x102 then word cl.cbound
  else if n = 0x200 then word (dieOfCore core)
  else if n = 0x201 then die.dctx
  else die.derr

/-- The core-resident bits that a write of some bits keeps: write one to clear. -/
def w1c (old v : Word) : Word := old &&& ~~~v

/-- Write a register (R268): reserved and read-only fields ignore it. -/
def State.srPut (s : State) (x : Task) (n : Nat) (v : Word) : State × Task :=
  let core := coreOfTask x
  let d := dieOfCore core
  let eachCluster (f : Cluster → Cluster) : State := (clustersOf core).foldl (fun s c => s.setCluster c (f (s.cluster c))) s
  if n = 0x000 then (s, { x with ctl := { x.ctl with ie := v.getLsbD 2 } })
  else if n = 0x001 then (s.modCore core (fun k => { k with svec := v &&& 0xFFFFFFFC }), x)
  else if n = 0x004 then (s, { x with ctl := { x.ctl with tresume := v } })
  else if n = 0x006 then (s.modCore core (fun k => { k with tdeleg := v &&& delegMask }), x)
  else if n ≤ 0x00B then (s.modCore core (fun k => { k with ipend := k.ipend &&& ~~~((v.setWidth 256) <<< (64 * (n - 8))) }), x)
  else if n ≤ 0x07F then
    if n = 0x040 then (s, x)
    else
      let f := x.ctl.tframe
      (s, { x with ctl := { x.ctl with tframe := { f with s := SMap.put f.s (n - 0x040) v, bad := f.bad.filter (fun r => r != n - 0x040) } } })
  else if n = 0x101 then (eachCluster (fun c => { c with cres := min 8 (v.toNat % 16) }), x)
  else if n = 0x102 then (eachCluster (fun c => { c with cbound := v.toNat % 2 ^ 16 }), x)
  else if n = 0x201 then (s.setDie d { s.die d with dctx := v &&& 0xFFFF3FFFFFFF0000 }, x)
  else (s.setDie d { s.die d with derr := w1c (s.die d).derr v }, x)

/-- The trap-frame register that a number names holds a poisoned value. -/
def tregBad (x : Task) (n : Nat) : Bool := 0x041 ≤ n && n ≤ 0x07F && x.ctl.tframe.bad.contains (n - 0x040)

/-- mfsr: s[D] := the register; a poisoned trap-frame copy passes its poison on (R337). -/
def execMfsr (d : SReg) (sr : BitVec 12) (s : State) : Out :=
  s.issueTask (privForm 1) 4 (fun x => do
    x.dst d
    match srRead sr.toNat with
    | none => fault Flt.illegal
    | some pl => do
      check (pl ≤ x.ctl.pl) Flt.priv
      let y := x.wr d (s.srValue x sr.toNat)
      .ok (if d != 0 && tregBad x sr.toNat then { y with ctl := { y.ctl with bad := d.toNat :: y.ctl.bad } } else y))

/-- mtsr: the register := s[S]. -/
def execMtsr (d : SReg) (sr : BitVec 12) (s : State) : Out :=
  s.issue (privForm 1) (fun x => do
    match srRead sr.toNat, srWrite sr.toNat with
    | none, _ => fault Flt.illegal
    | some _, none => fault Flt.illegal
    | some _, some pl => do
      check (pl ≤ x.ctl.pl) Flt.priv
      let v ← x.src d
      let p := s.srPut x sr.toNat v
      p.1.done p.2 4)

/-! ### Trap return (R274) -/

/-- A privileged control transfer. -/
abbrev privTransferForm : Form := ⟨1, true, true⟩

/-- tret; accesses that the trap set aside come back. -/
def execTret (s : State) : Out :=
  s.issue privTransferForm (fun x => do
    check x.ctl.act Flt.illegal
    waitFor (noLoads x)
    .ok (s.setTask s.cur (x.takeBack.mapCtl Ctl.trapReturn)))

/-- tret.end: the task ends with the trap's code, or FLT_TRAP after an interrupt. -/
def execTretEnd (s : State) : Out :=
  s.issue privTransferForm (fun x => do
    check x.ctl.act Flt.illegal
    check ((x.ctl.tstate.extractLsb' 10 2).toNat != 2) Flt.illegal
    let code := if x.ctl.tstate.getLsbD 9 then Flt.trap else (x.ctl.tstate.extractLsb' 0 8).toNat
    .ok (s.endTask s.cur code))

/-! ### tlbinv, isend, corefence, halt (R284 to R286, R288) -/

/-- The cached translations that a tlbinv drops. -/
def tlbHit (part kind va : Nat) (e : TlbEntry) : Bool :=
  e.part == part && (kind == 1 || (e.page ≤ va && va < e.page + e.size))

/-- An access in flight of the partition uses a translation; one that is to be issued again translates anew (R227). -/
def State.usesEntry (s : State) (part : Nat) (e : TlbEntry) : Bool :=
  let base := natBits e.leaf.toNat 16 30 * 2 ^ 16
  s.tasks.any (fun p => s.partOf p.2 == part && p.2.pend.any (fun a => a.again.isNone &&
    (a.cells.any (fun c => base ≤ c && c < base + e.size) || a.writes.any (fun w => base ≤ w.a && w.a < base + e.size))))

/-- The caches and the walkers drop the translations that a tlbinv names (R284). -/
def State.dropTranslations (s : State) (part kind va : Nat) : State :=
  let hit (n : NonLeaf) : Bool := n.part == part && (kind == 1 || n.top == va / 2 ^ n.shift)
  { s with
    tlb := s.tlb.filter (fun e => !tlbHit part kind va e),
    ctlb := s.ctlb.filter (fun e => !tlbHit part kind va e),
    dies := s.dies.map (fun p => (p.1, { p.2 with nonleaf := p.2.nonleaf.filter (fun n => !hit n) })) }

/-- tlbinv: a release; it completes once every access through a dropped entry has performed. -/
def execTlbinv (a b : SReg) (s : State) : Out :=
  s.issue (privForm 1) (fun x => do
    let kind ← x.src a
    let va ← x.src b
    check (kind.toNat < 2) Flt.illegal
    let part := s.partOf x
    waitFor (settled x)
    waitFor (((s.tlb ++ s.ctlb).filter (tlbHit part kind.toNat va.toNat)).all (fun e => !s.usesEntry part e))
    (s.dropTranslations part kind.toNat va.toNat).done x 4)

/-- isend: a release at system scope, then the vector or message; one to a core of a partition under reset is lost (R349). -/
def execIsend (a b : SReg) (s : State) : Out :=
  s.issue (privForm 1) (fun x => do
    let t ← x.src a
    let v ← x.src b
    check (v.toNat < 256) Flt.illegal
    let kind := t.toNat % 4
    let core := t.toNat / 2 ^ 16 % 2 ^ 11
    check (kind != 3 && t.toNat == kind + (if kind == 0 then core * 2 ^ 16 else 0)) Flt.illegal
    let part := s.partOf x
    let msix := match s.part? part with | some p => p.msix | none => 0
    check (kind != 0 || (coresOf (s.partClusters part)).contains core) Flt.bounds
    check (kind != 1 || v.toNat < msix / 256 % 256) Flt.bounds
    waitFor (settled x)
    let vf := match s.part? part with | some p => p.vf | none => 0
    let s := if kind = 0 then (if s.partResetting part then s else s.setPending core v.toNat)
      else if kind = 1 then s.send (.msix vf ((msix % 256 + v.toNat) % 256))
      else s.send (.management part v.toNat)
    s.done x 4)

/-- corefence: a fence completes when the core holds no context. -/
def execCorefence (a b : SReg) (s : State) : Out :=
  s.issue (privForm 2) (fun x => do
    let c ← x.src a
    let v ← x.src b
    check (c.toNat < 2 ^ 11 && v.toNat < 2) Flt.illegal
    check (c.toNat < 1152) Flt.bounds
    let k := s.core c.toNat
    if v == 0 then (s.modCore c.toNat (fun k => { k with fenced := false })).done x 4
    else if !k.fenced then .ok (s.fenceCore c.toNat)
    else do
      waitFor k.task.isNone
      s.done x 4)

/-- halt: the control stream stops until an interrupt is pending. -/
def execHalt (s : State) : Out :=
  s.issueTask (privForm 1) 4 (fun x => .ok { x with ctl := { x.ctl with halted := true } })

/-- HALT_WAKE (R275): any pending vector wakes a halted core. -/
def execHaltWake (core : Nat) (s : State) : Out :=
  match (s.core core).task with
  | none => .next s
  | some t =>
    match s.task? t with
    | none => .next s
    | some x =>
      if x.ctl.halted && (lowestPending (s.core core)).isSome then .next (s.setTask t { x with ctl := { x.ctl with halted := false } })
      else .next s

/-- INTERRUPT_ENTRY (R275): the lowest pending vector at an instruction boundary; it resumes at the instruction that was about
to issue. -/
def execInterruptEntry (core : Nat) (s : State) : Out :=
  match (s.core core).task, lowestPending (s.core core) with
  | some t, some v =>
    match s.task? t with
    | none => .next s
    | some x =>
      match controlRuns s x, s.boundary x with
      | true, .interrupt _ => s.trapEntry t x v true x.ctl.pc x.ctl.pc 0
      | _, _ => .next s
  | _, _ => .next s

/-- FAULT_DELIVERY (R261, R272, R313, R326): the fault of a record or vector instruction reaches the control stream's next
boundary. A Waiting task goes to the head of its queue to take a trap; a
request whose page has become present raises none (R313). -/
def execFaultDelivery (t : Nat) (s : State) : Out :=
  match s.task? t with
  | none => .next s
  | some x =>
    match x.pendFault with
    | none => .next s
    | some f =>
      let traps := toSupervisor f.code || s.delegates x f.code
      let present := f.code == Flt.page && (match s.walk (s.partOf x) f.val.toNat ⟨false, false⟩ with | .ok _ => true | .error _ => false)
      if x.ctl.act then .next s
      else if present then .next (s.setTask t { x with pendFault := none })
      else if controlRuns s x then
        s.raise t { x with pendFault := none } f.code f.val
      else if x.st == .waiting then
        if traps then .next ((s.setTask t { x with wait := none }).makeRunnable t true)
        else if isRequeue f.code then .next (s.requeue t { x with pendFault := none } f.code f.val)
        else .next (s.endTask t f.code)
      else .next s

end Sys2Proof.Machine
end

