-- ==== Sys2Proof/Machine/Phy.lean ====
section
/-! DEFINITION. The PHY registers, granule commands, repair, the classifier, and their device steps (18 R287; 20 R315 to R325;
21 R342, R343; 24 R362). -/

namespace Sys2Proof.Machine
open Sys2Proof

/-! ### Channels -/

def Stack.chan (k : Stack) (c : Nat) : Chan := SMap.get k.chans c Chan.reset

/-- Change a channel. -/
def State.modChan (s : State) (die c : Nat) (f : Chan → Chan) : State :=
  let k := s.stack die
  s.setStack die { k with chans := SMap.put k.chans c (f (k.chan c)) }

/-- Change a stack. -/
def State.modStack (s : State) (die : Nat) (f : Stack → Stack) : State := s.setStack die (f (s.stack die))

/-- The slot of the stack against a die (R314). -/
def stackSlot (die : Nat) : Nat := if die < 4 then die else die - 1

/-- Physical base of a frame of a stack (R314). -/
def frameBase (die f : Nat) : Nat := stackSlot die * 2 ^ 40 + f * 2 ^ 16

/-- Log an action of a stack in the containment log of every partition that owns a frame of it (R344; log 24). -/
def State.logStack (s : State) (die action where_ : Nat) : State :=
  let owners := (List.range 36).filter (fun p => (s.stack die).frames.any (fun f => f.2.owner == p))
  owners.foldl (fun s p => s.logEntry p 0 action (serviceCore die) 0 0 where_) s

/-- A location in CLSEV layout (Table 20.7). -/
def clsevWord (kind pc bank row col lane : Nat) : Nat :=
  2 ^ 63 + kind * 2 ^ 60 + pc % 64 * 2 ^ 54 + bank % 64 * 2 ^ 48 + row % 2 ^ 18 * 2 ^ 30 + col % 2 ^ 10 * 2 ^ 20 + lane % 128 * 2 ^ 13

/-! ### The register map (Tables 20.5, 20.7, 20.8) -/

/-- The registers that phyrd and phywr reach. -/
inductive PhyReg where
  | rdly (n : Nat)
  | wdly (n : Nat)
  | trctl
  | trstat
  | trpass0
  | trpass1
  | lrep
  | chctl
  | chstat
  | grancmd
  | granstat
  | clswin
  | clsth
  | clsev
  | repcmd
  | repstat
  deriving DecidableEq, Repr

/-- The register at a number. -/
def phyReg (n : Nat) : Option PhyReg :=
  if n ≤ 73 then some (.rdly n)
  else if 0x080 ≤ n && n ≤ 0x080 + 73 then some (.wdly (n - 0x080))
  else match n with
    | 0x100 => some .trctl
    | 0x101 => some .trstat
    | 0x102 => some .trpass0
    | 0x103 => some .trpass1
    | 0x110 => some .lrep
    | 0x120 => some .chctl
    | 0x121 => some .chstat
    | 0x800 => some .grancmd
    | 0x801 => some .granstat
    | 0x810 => some .clswin
    | 0x811 => some .clsth
    | 0x812 => some .clsev
    | 0x813 => some .repcmd
    | 0x814 => some .repstat
    | _ => none

/-- The register of a number and channel: a stack-wide register stands at channel 0 (R322). -/
def phyLookup (reg ch : Nat) : Res PhyReg :=
  match phyReg reg with
  | none => fault Flt.bounds
  | some r => if 0x800 ≤ reg && ch != 0 then fault Flt.bounds else .ok r

/-- A threshold of 0 is held as 1. -/
def heldThreshold (v : BitVec 32) : BitVec 32 :=
  let b (i : Nat) : BitVec 8 := let x := v.extractLsb' (8 * i) 8; if x = 0 then 1 else x
  b 3 ++ b 2 ++ b 1 ++ b 0

/-- The enabled lanes of an LREP value lie in their halves (R323). -/
def lrepOk (v : Word) : Bool :=
  (!v.getLsbD 7 || (v.extractLsb' 0 7).toNat ≤ 35)
    && (!v.getLsbD 15 || (36 ≤ (v.extractLsb' 8 7).toNat && (v.extractLsb' 8 7).toNat ≤ 71))

/-- Take the oldest event out of CLSEV (R320): the word it reads, or 0. -/
def State.popEvent (s : State) (die : Nat) : Word × State :=
  let k := s.stack die
  match k.events with
  | [] => (word (flag k.ovf * 2 ^ 12), s.setStack die { k with ovf := false })
  | e :: r => (e ||| word (flag k.ovf * 2 ^ 12), s.setStack die { k with events := r, ovf := false })

/-- Read a register; a write-only one reads zero (R6). -/
def State.phyRead (s : State) (die ch : Nat) (r : PhyReg) : Word × State :=
  let k := s.stack die
  let c := k.chan ch
  match r with
  | .rdly n => (zext64 (SMap.get c.rdly n 32), s)
  | .wdly n => (zext64 (SMap.get c.wdly n 32), s)
  | .trstat => (word (flag c.busy + 2 * flag c.done), s)
  | .trpass0 => (if c.busy then 0 else c.pass0, s)
  | .trpass1 => (if c.busy then 0 else c.pass1, s)
  | .lrep => (zext64 c.lrep, s)
  | .chctl => (word (flag c.offline), s)
  | .chstat => (word (flag c.drained), s)
  | .granstat => (word ((if k.granCmd.isSome then 1 else k.granResult) + k.freeCells % 2 ^ 24 * 2 ^ 8), s)
  | .clswin => (k.clswin, s)
  | .clsth => (zext64 k.clsth, s)
  | .clsev => s.popEvent die
  | .repstat => (word (if k.repCmd.isSome then 1 else k.repResult), s)
  | .trctl | .grancmd | .repcmd => (0, s)

/-- Write a register (R318, R321 to R325, R362): it waits at issue, faults with FLT_ILLEGAL and changes nothing, or the PHY
takes the value. -/
def State.phyWrite (s : State) (die ch : Nat) (r : PhyReg) (v : Word) : Res State := do
  let k := s.stack die
  let c := k.chan ch
  match r with
  | .rdly n =>
    check c.drained Flt.illegal
    waitFor (!c.busy)
    .ok (s.modChan die ch (fun c => { c with rdly := SMap.put c.rdly n (v.setWidth 6) }))
  | .wdly n =>
    check c.drained Flt.illegal
    waitFor (!c.busy)
    .ok (s.modChan die ch (fun c => { c with wdly := SMap.put c.wdly n (v.setWidth 6) }))
  | .trctl =>
    check c.drained Flt.illegal
    if v.getLsbD 0 then do
      waitFor (!c.busy)
      .ok (s.modChan die ch (fun c => { c with busy := true, done := false, pass0 := 0, pass1 := 0, run := v.setWidth 32 }))
    else .ok s
  | .lrep =>
    check (c.drained && lrepOk v) Flt.illegal
    waitFor (!c.busy)
    let s := s.modChan die ch (fun c => { c with lrep := v.setWidth 16 })
    let s := if v.getLsbD 7 && !c.lrep.getLsbD 7 then s.logStack die 6 (clsevWord 5 (2 * ch) 0 0 0 (v.extractLsb' 0 7).toNat) else s
    .ok (if v.getLsbD 15 && !c.lrep.getLsbD 15 then s.logStack die 6 (clsevWord 5 (2 * ch + 1) 0 0 0 (v.extractLsb' 8 7).toNat) else s)
  | .chctl =>
    if v.getLsbD 0 then .ok (if c.offline then s else s.modChan die ch (fun c => { c with offline := true, drained := false }))
    else .ok (s.modChan die ch (fun c => { c with offline := false, drained := false }))
  | .grancmd =>
    waitFor k.granCmd.isNone
    .ok (s.modStack die (fun k => { k with granCmd := some v }))
  | .repcmd =>
    waitFor k.repCmd.isNone
    .ok (s.modStack die (fun k => { k with repCmd := some v }))
  | .clswin => .ok (s.modStack die (fun k => { k with clswin := v &&& 0xFFFFFFFFFFFF }))
  | .clsth => .ok (s.modStack die (fun k => { k with clsth := heldThreshold (v.setWidth 32) }))
  | .trstat | .trpass0 | .trpass1 | .chstat | .granstat | .clsev | .repstat => .ok s

/-- The register that a phyrd or phywr addresses (R287). -/
def phyAddress (x : Task) (a : Word) : Res (Nat × Nat × PhyReg) := do
  check (a.toNat < 2 ^ 17) Flt.illegal
  let die := dieOfCore (coreOfTask x)
  check (die != 4) Flt.bounds
  let r ← phyLookup (a.toNat % 2 ^ 12) (a.toNat / 2 ^ 12)
  waitFor (settled x)
  .ok (die, a.toNat / 2 ^ 12, r)

/-- phyrd. -/
def execPhyrd (d a : SReg) (s : State) : Out :=
  s.issue (privForm 2) (fun x => do
    let v ← x.src a
    x.dst d
    let (die, ch, r) ← phyAddress x v
    let p := s.phyRead die ch r
    p.2.done (x.wr d p.1) 4)

/-- phywr. -/
def execPhywr (a b : SReg) (s : State) : Out :=
  s.issue (privForm 2) (fun x => do
    let v ← x.src a
    let w ← x.src b
    let (die, ch, r) ← phyAddress x v
    (← s.phyWrite die ch r w).done x 4)

/-! ### The steps of the controller and the PHY -/

/-- A register write as a step of its own: what would wait or fault changes nothing. -/
def State.phyStep (s : State) (die ch : Nat) (r : PhyReg) (v : Word) : Out :=
  if die = 4 || 9 ≤ die || 32 ≤ ch then .next s
  else match s.phyWrite die ch r v with
    | .ok s' => .next s'
    | .error _ => .next s

def execRdly (die ch lane : Nat) (v : Word) (s : State) : Out := if lane ≤ 73 then s.phyStep die ch (.rdly lane) v else .next s
def execWdly (die ch lane : Nat) (v : Word) (s : State) : Out := if lane ≤ 73 then s.phyStep die ch (.wdly lane) v else .next s
def execTrctl (die ch : Nat) (v : Word) (s : State) : Out := s.phyStep die ch .trctl v
def execLrep (die ch : Nat) (v : Word) (s : State) : Out := s.phyStep die ch .lrep v
def execChctl (die ch : Nat) (v : Word) (s : State) : Out := s.phyStep die ch .chctl v
def execGrancmd (die : Nat) (v : Word) (s : State) : Out := s.phyStep die 0 .grancmd v
def execRepcmd (die : Nat) (v : Word) (s : State) : Out := s.phyStep die 0 .repcmd v

/-- CLSEV: a read returns and removes the oldest event. -/
def execClsev (die : Nat) (s : State) : Out := if die = 4 || 9 ≤ die then .next s else .next (s.popEvent die).2

/-- The accesses of the streams that the controllers hold: those of a saved context are abandoned or kept in it (R99). -/
def State.heldAccesses (s : State) : List Access := s.tasks.flatMap (fun p => if p.2.r.midSlice then [] else p.2.pend.filter (fun a => a.again.isNone))

/-- An access in flight reaches a byte with some property. -/
def State.inFlight (s : State) (at_ : Nat → Bool) : Bool := s.heldAccesses.any (fun a => a.cells.any at_ || a.writes.any (fun w => at_ w.a))

/-- A byte's unit uses a channel of the stack against a die. -/
def State.usesChannel (s : State) (die ch a : Nat) : Bool :=
  isDram a && stackDie a == die && match s.frameAt a with
    | some f => (pseudoChannels f.gran a).any (fun p => p / 2 == ch)
    | none => false

/-- CHANNEL_DRAINED (R323): the accesses that the controller holds for the channel have completed. -/
def execChannelDrained (die ch : Nat) (s : State) : Out :=
  if ((s.stack die).chan ch).offline && !s.inFlight (s.usesChannel die ch) then .next (s.modChan die ch (fun c => { c with drained := true })) else .next s

/-- The PASS bits of a run (R324, R325): free values of the lanes; a repaired lane's bit reports its spare. -/
def passBits (lrep : BitVec 16) (free : Nat) : Nat :=
  let bit (n : Nat) : Nat := free / 2 ^ n % 2
  let source (n : Nat) : Nat :=
    if lrep.getLsbD 7 && n == (lrep.extractLsb' 0 7).toNat then 72
    else if lrep.getLsbD 15 && n == (lrep.extractLsb' 8 7).toNat then 73
    else n
  (List.range 74).foldl (fun m n => m + bit (source n) * 2 ^ n) 0

/-- TRAINING_RUN_DONE (R324). What the lanes sample the spec leaves to the hardware (log 11). -/
def execTrainingRunDone (die ch : Nat) (s : State) : Out :=
  let c := (s.stack die).chan ch
  if c.busy then
    let (f, s) := s.freshFree
    let m := passBits c.lrep f
    .next (s.modChan die ch (fun c => { c with busy := false, done := true, pass0 := word m, pass1 := word (m / 2 ^ 64) }))
  else .next s

/-- An access of a stream in flight touches a frame (R318). A line that a group has staged stands in its buffer and is none. -/
def State.frameBusy (s : State) (base : Nat) : Bool := s.inFlight (fun a => base ≤ a && a < base + 65536)

/-- GRANULE_CHANGE_DONE (R318): an invalid command or one without enough free cells changes nothing; else the frame has its
new state, all zeros. -/
def execGranuleChangeDone (die : Nat) (s : State) : Out :=
  let k := s.stack die
  match k.granCmd with
  | none => .next s
  | some v =>
    let f := natBits v.toNat 0 20
    let st := natBits v.toNat 20 3
    let owner := natBits v.toNat 23 6
    let base := frameBase die f
    if s.frameBusy base then .next s
    else
      let answer (r : Nat) : State := s.setStack die { k with granCmd := none, granResult := r }
      let old := match SMap.find k.frames f with | some e => granCells e.gran | none => 0
      let need := if st = 7 then 0 else granCells st
      if v.toNat / 2 ^ 29 != 0 || (4 ≤ st && st ≤ 6) || (st < 4 && 36 ≤ owner) then .next (answer 3)
      else if k.freeCells + old < need then .next (answer 2)
      else
        let frames := if st = 7 then SMap.del k.frames f else SMap.put k.frames f { gran := st, owner := owner }
        let s := s.setStack die { k with granCmd := none, granResult := 0, freeCells := k.freeCells + old - need, frames := frames }
        .next (if st = 7 then s
          else { s with mem := Memory.clear s.mem base 65536,
                        poison := s.poison.filter (fun w => !(base ≤ 8 * w && 8 * w < base + 65536)) })

/-- Log a row that is to retire (R342): action 5 with the frame index of every frame in use that has a unit on the row, to the
frame's partition; which units those are the spec does not derive from addresses (log 24). -/
def State.logRow (s : State) (die pc bank row : Nat) : State :=
  (s.stack die).frames.foldl (fun s f =>
    let u := granUnit f.2.gran
    if f.2.owner < 36 && (List.range (65536 / u)).any (fun i => inRow f.2.gran (frameBase die f.1 + i * u) pc bank row) then
      s.logEntry f.2.owner 0 5 (serviceCore die) 0 0 f.1
    else s) s

/-- ROW_REPAIR_DONE (R321, R342): the row moves onto a spare of its bank, or RESULT 2 says that none is left. -/
def execRowRepairDone (die : Nat) (s : State) : Out :=
  let k := s.stack die
  match k.repCmd with
  | none => .next s
  | some v =>
    let pc := natBits v.toNat 54 6
    let bank := natBits v.toNat 48 6
    let row := natBits v.toNat 30 18
    let key := pc * 64 + bank
    let used := SMap.get k.sparesUsed key 0
    if used < Config.spareRows die key then
      .next ((s.setStack die { k with repCmd := none, repResult := 0, sparesUsed := SMap.put k.sparesUsed key (used + 1) }).logStack die 4
        (clsevWord 2 pc bank row 0 0))
    else .next ((s.setStack die { k with repCmd := none, repResult := 2 }).logRow die pc bank row)

/-- An access in flight touches a stack. -/
def State.stackBusy (s : State) (die : Nat) : Bool := s.inFlight (fun a => isDram a && stackDie a == die)

/-- PCERASE (R343, R345): it takes effect once no access to the stack is in flight. -/
def execPcerase (die : Nat) (v : Word) (s : State) : Out :=
  if die = 4 || 9 ≤ die || s.stackBusy die then .next s
  else
    let new := (List.range 64).filter (fun p => v.getLsbD p && !(s.stack die).pcerase.getLsbD p)
    let s := s.modStack die (fun k => { k with pcerase := v })
    .next (new.foldl (fun s p => s.logStack die 7 (clsevWord 5 p 0 0 0 0)) s)

/-! ### The classifier (R320) -/

/-- The events that a new corrected error raises: the kinds whose count within the window stands at the threshold or above with
it (log 24). -/
def classify (th : BitVec 32) (old : List CeEntry) (e : CeEntry) : List Nat :=
  let t (i : Nat) : Nat := (th.extractLsb' (8 * i) 8).toNat
  let rows (l : List CeEntry) : List Nat := (l.map (fun x => x.row)).foldl (fun m r => if m.contains r then m else r :: m) []
  let banks (l : List CeEntry) : List Nat := (l.map (fun x => x.pc * 64 + x.bank)).foldl (fun m r => if m.contains r then m else r :: m) []
  let inBank (x : CeEntry) : Bool := x.pc == e.pc && x.bank == e.bank
  let count (f : CeEntry → Bool) (g : List CeEntry → Nat) (th : Nat) : Bool := th ≤ g ((e :: old).filter f)
  let kind (k : Nat) (b : Bool) : List Nat := if b then [k] else []
  kind 1 (count (fun x => inBank x && x.row == e.row && x.col == e.col) List.length (t 2))
    ++ kind 2 (count (fun x => inBank x && x.row == e.row) List.length (t 0))
    ++ kind 3 (count (fun x => inBank x && x.col == e.col) (fun l => (rows l).length) (t 1))
    ++ kind 4 (count inBank (fun l => (rows l).length) (4 * t 0))
    ++ kind 5 (count (fun x => x.pc / 2 == e.pc / 2 && x.lane == e.lane) (fun l => (banks l).length) (t 3))

/-- A corrected read of a DRAM byte (R317, R320): an entry of the classifier, whose bank, row, column and lane the spec does
not derive from the address (log 11); its events, and vector 32 on the die's service core. -/
def State.dramCorrected (s : State) (a : Nat) : State :=
  let die := stackDie a
  let k := s.stack die
  let gran := match s.frameAt a with | some f => f.gran | none => 0
  let pcs := pseudoChannels gran a
  let (f, s) := s.freshFree
  let pc := nth pcs (f / 2 ^ 41 % pcs.length) 0
  let e : CeEntry := { pc := pc, bank := f % 64, row := f / 64 % 2 ^ 18, col := f / 2 ^ 24 % 2 ^ 10,
                       lane := f / 2 ^ 34 % 36 + 36 * (pc % 2), tick := s.tick }
  let old := (k.errors.filter (fun x => s.tick ≤ x.tick + k.clswin.toNat)).take 1023
  let kinds := classify k.clsth old e
  let words := kinds.map (fun i => word (clsevWord i e.pc e.bank e.row e.col e.lane))
  let all := k.events ++ words
  let s := s.setStack die { k with errors := e :: old, events := all.take 64, ovf := k.ovf || 64 < all.length }
  if kinds.isEmpty then s else s.setPending (serviceCore die) 32

end Sys2Proof.Machine
end

