-- ==== Sys2Proof/Machine/Sync.lean ====
section
/-! DEFINITION. Semaphores, the fence, the queues to and from the vector stream, engine configuration, the rendezvous and
the claim and release of tile entries (10 R180 to R187, R373; 03 R53 to R56). -/

namespace Sys2Proof.Machine
open Sys2Proof

/-! ### What one cycle orders (R54, R186) -/

/-- The starts of a cycle on the task's tile entries, and the changes and tests of its semaphores, numbered from 64. -/
def Task.startsOf (x : Task) (cycle : Nat) : List (Nat × Nat) := if x.tileCycle == cycle then x.tileStarts else []

/-- The place of an engine's starts and signals in a cycle (R54, R186). -/
def engineRank : Engine → Nat
  | .matrix => 0
  | .copy => 1

/-- The ranks of R186 among the changes of one semaphore in one cycle: the signals of the matrix and of the copy engine are 0 and 1. -/
abbrev vsigRank : Nat := 2
abbrev controlRank : Nat := 3
abbrev testRank : Nat := 4

/-- A change of a semaphore, or a record's test, of a rank keeps the order of R186: none of a higher rank has come in the cycle. -/
def Task.semInOrder (x : Task) (cycle rank i : Nat) : Bool := !(x.startsOf cycle).any (fun p => p.1 == 64 + i && rank < p.2)

/-- Note one of them. -/
def Task.noteSem (x : Task) (cycle rank i : Nat) : Task := { x with tileCycle := cycle, tileStarts := x.startsOf cycle ++ [(64 + i, rank)] }

/-! ### Semaphores (R186) -/

/-- A signal of the control stream: it releases the earlier accesses (R96), reads the semaphore and changes it. -/
def State.semChange (s : State) (d a : SReg) (j : BitVec 4) (i : BitVec 8) (signal : Bool) (f : BitVec 32 → Nat → BitVec 32) : Out :=
  s.issueTask taskForm 4 (fun x => do
    let v ← x.src a
    x.dst d
    waitFor ((!signal || settled x) && x.semInOrder s.cycle controlRank i.toNat)
    let old := x.sem i.toNat
    .ok (((x.setSem i.toNat (f old (semOperand v j))).noteSem s.cycle controlRank i.toNat).wr d (zext64 old)))

def execSemset (d a : SReg) (j : BitVec 4) (i : BitVec 8) (s : State) : Out := s.semChange d a j i true (fun _ x => BitVec.ofNat 32 x)
def execSemadd (d a : SReg) (j : BitVec 4) (i : BitVec 8) (s : State) : Out := s.semChange d a j i true semPlus
def execSemsub (d a : SReg) (j : BitVec 4) (i : BitVec 8) (s : State) : Out := s.semChange d a j i false semMinus
def execSemrd (d : SReg) (i : BitVec 8) (s : State) : Out := s.issueScalar taskForm 4 d (fun x => .ok (zext64 (x.sem i.toNat)))

/-! ### The fence (R187) -/

/-- A fence at .dev or .sys (codes 3 and 4) makes every earlier write of the stream at core scope visible, whatever its class
(R92). -/
def coreWritesVisible (x : Task) (sc : BitVec 3) : Bool :=
  sc.toNat < 3 || x.pend.all (fun a => a.stream != .control || (a.load.isSome && a.rmw.isNone) || a.scope != 0)

/-- What a fence waits for: the earlier accesses of the named classes have performed, and R92's writes are visible. Every scope
is satisfied then (log 3). An empty mask has no effect (R86). -/
def fenceSettled (x : Task) (mask : BitVec 16) (sc : BitVec 3) : Bool :=
  mask == 0 || (classesSettled x .control mask && coreWritesVisible x sc)

def execFence (mask : BitVec 16) (sc : BitVec 3) (s : State) : Out :=
  s.issueTask plainForm 4 (fun x => do
    waitFor (fenceSettled x mask sc)
    .ok x)

/-! ### Engine configuration (R180, R181) -/

/-- The engine of a two-bit field. -/
def engineOf (e : BitVec 2) : Engine := if e == 0 then .matrix else .copy

def execEcfg (a : SReg) (eng : BitVec 2) (slot : BitVec 4) (ext : BitVec 32) (s : State) : Out :=
  s.issueTask taskForm 8 (fun x => do
    let v ← if a == 0 then .ok (sext64 ext) else x.src a
    let e := x.eng (engineOf eng)
    .ok (x.setEng (engineOf eng) { e with cfg := SMap.put e.cfg slot.toNat v }))

def execEnest (d a : SReg) (eng : BitVec 2) (lvl : BitVec 1) (ext : BitVec 32) (s : State) : Out :=
  s.issueTask taskForm 8 (fun x => do
    let steps ← x.src d
    let trip ← if a == 0 then .ok (zext64 ext) else x.src a
    check (steps.extractLsb' 48 16 == (0 : BitVec 16)) Flt.illegal
    check (trip.toNat < 65536) Flt.bounds
    let n : Nest := { trip := trip.toNat, s0 := steps.extractLsb' 32 16, s1 := steps.extractLsb' 16 16, s2 := steps.extractLsb' 0 16 }
    let e := x.eng (engineOf eng)
    .ok (x.setEng (engineOf eng) (if lvl == 0 then { e with n5 := n } else { e with n6 := n })))

/-! ### The rendezvous (R182) and the queues (R373) -/

/-- The work that rdv waits for is done: no vector stream, both timelines at their issued counts. -/
def rdvReady (x : Task) : Bool := !x.vec.on && x.mat.done == x.mat.issued && x.cpy.done == x.cpy.issued

def execRdv (s : State) : Out := s.issueTask taskForm 4 (fun x => do waitFor (rdvReady x); .ok x)

/-- Entries of each queue (R222). -/
abbrev queueSize : Nat := 64

def execVqsend (a : SReg) (s : State) : Out :=
  s.issueTask taskForm 4 (fun x => do
    let v ← x.src a
    waitFor (settled x && x.vec.cq.length < queueSize)
    .ok { x with vec := { x.vec with cq := x.vec.cq ++ [v] } })

def execVqrecv (d : SReg) (s : State) : Out :=
  s.issueTask taskForm 4 (fun x => do
    x.dst d
    match x.vec.vq with
    | [] => .error .stall
    | v :: r => .ok ({ x with vec := { x.vec with vq := r } }.wr d v))

/-! ### Tile entries (R52 to R56, R183) -/

/-- The entries a mask names. -/
def maskTiles (m : Word) : List Nat := (List.range 64).filter (fun t => m.getLsbD t)

/-- An entry that a task may name: a scratchpad buffer has to be declared (R52). -/
def Task.declared (x : Task) (t : Nat) : Bool := t < 40 || (SMap.find x.r.sbufs t).isSome

/-- Take entries for a task (R56). -/
def Task.claimTiles (x : Task) (ids : List Nat) : Task :=
  ids.foldl (fun x t => x.setTile t { x.tile t with claimed := true }) x

/-- claim: the entries are the task's. A claim that finds no free unit waits for a save (R304): `State.claimed`. -/
def execClaim (a : SReg) (s : State) : Out :=
  s.issueTask taskForm 4 (fun x => do
    let m ← x.src a
    check ((maskTiles m).all x.declared) Flt.illegal
    .ok (x.claimTiles (maskTiles m)))

def execRelease (a : SReg) (s : State) : Out :=
  s.issueTask taskForm 4 (fun x => do
    let m ← x.src a
    let ids := maskTiles m
    check (ids.all x.declared) Flt.illegal
    check (ids.all (fun t => (x.tile t).st == .empty || (x.tile t).st == .ready)) Flt.illegal
    waitFor (ids.all (fun t => (x.tile t).readers == 0))
    .ok (ids.foldl (fun x t => x.setTile t Tile.empty) x))

end Sys2Proof.Machine
end

