-- ==== Sys2Proof/Machine/TileOps.lean ====
section
/-! DEFINITION. The moves of tile entries (03 R52 to R56, Table 3.8): an operation on an entry starts in one turn and completes
in a later one. -/

namespace Sys2Proof.Machine
open Sys2Proof

/-- The operations of Table 3.8 that an engine or the vector sequencer performs on an entry. -/
inductive TileUse where
  | fill
  | update
  | read
  | drain
  deriving DecidableEq, Repr

/-- The entry is in the state that the operation requires. -/
def TileUse.may (u : TileUse) (t : Tile) : Bool :=
  match u with
  | .fill => t.st == .empty
  | .update | .drain => t.st == .ready && t.readers == 0
  | .read => t.st == .ready

/-- The entry once the operation has started; its first operation claims it (R56). -/
def TileUse.start (u : TileUse) (t : Tile) : Tile :=
  match u with
  | .fill | .update => { t with st := .filling, claimed := true }
  | .read => { t with readers := t.readers + 1, claimed := true }
  | .drain => { t with st := .draining, claimed := true }

/-- The entry as it was before the operation started. -/
def TileUse.undo (u : TileUse) (t : Tile) : Tile :=
  match u with
  | .fill => { t with st := .empty }
  | .update | .drain => { t with st := .ready }
  | .read => { t with readers := t.readers - 1 }

/-- The operations of one pass or instruction, each on its entry. -/
abbrev TileUses := List (Nat × TileUse)

/-- Every entry is in the state that its operation requires. -/
def Task.mayUse (x : Task) (us : TileUses) : Bool := us.all (fun u => u.2.may (x.tile u.1))

/-- A task whose operations have started, and one as if they had not. -/
def Task.startUses (x : Task) (us : TileUses) : Task := us.foldl (fun x u => x.setTile u.1 (u.2.start (x.tile u.1))) x
def Task.undoUses (x : Task) (us : TileUses) : Task := us.foldl (fun x u => x.setTile u.1 (u.2.undo (x.tile u.1))) x

/-- A start keeps the order matrix engine, copy engine, vector sequencer of one cycle (R54). -/
def Task.startInOrder (x : Task) (cycle rank : Nat) (us : TileUses) : Bool :=
  us.all (fun u => !(x.startsOf cycle).any (fun p => p.1 == u.1 && rank < p.2))

/-- A completion comes before every start of its cycle on its entries (R54). -/
def Task.endInOrder (x : Task) (cycle : Nat) (us : TileUses) : Bool :=
  us.all (fun u => !(x.startsOf cycle).any (fun p => p.1 == u.1))

/-- Note the starts of a cycle. -/
def Task.noteStarts (x : Task) (cycle rank : Nat) (us : TileUses) : Task :=
  { x with tileCycle := cycle, tileStarts := x.startsOf cycle ++ us.map (fun u => (u.1, rank)) }

/-- An entry is in the state that an operation requires (Table 3.8). -/
def Task.needs (x : Task) (id : Nat) (u : TileUse) : Res Unit := waitFor (u.may (x.tile id))

/-- A drain leaves the entry Empty and claimed (R53, R56). -/
def Task.drain (x : Task) (id : Nat) : Task := x.setTile id { Tile.empty with claimed := true }

/-- A read of an entry consumes its poisoned words (R337): w tells which it reads. -/
def Task.soundTile (x : Task) (id : Nat) (w : Nat → Bool) : Res Unit := if (x.tile id).bad.any w then faultUe true else .ok ()

/-- The contents of an entry moved back from an update are a free value (R55). -/
def State.freeTile (s : State) (t : Tile) : State × Tile :=
  let (f, s) := s.freshFree
  (s, { t with data := BitVec.ofNat 2097152 f, scale := BitVec.ofNat 32768 (f / 2 ^ 2097152), bad := [] })

/-- Entries that a faulting operation moved go back to the state they held before (R55). -/
def State.putBack (s : State) (x : Task) : List Moved → State × Task
  | [] => (s, x)
  | m :: r =>
    let p := if m.update && m.tile.st == .ready then s.freeTile m.tile else (s, m.tile)
    State.putBack p.1 (x.setTile m.id p.2) r

/-- The entries that some operations are about to move, as they stand. -/
def Task.movedBy (x : Task) (us : TileUses) : List Moved :=
  (us.filter (fun u => u.2 != .read)).map (fun u => { id := u.1, tile := x.tile u.1, update := u.2 == .update })

/-- Entries noted by earlier passes stay as they were noted first. -/
def noteMoved (old new : List Moved) : List Moved :=
  old.map (fun m => { m with update := m.update || new.any (fun n => n.id == m.id && n.update) })
    ++ new.filter (fun n => !old.any (fun m => m.id == n.id))

end Sys2Proof.Machine
end

