-- ==== Sys2Proof/Machine/Records.lean ====
section
/-! DEFINITION. What every engine record shares: loops, steps and windows, engine storage, and how a pass runs (08 R138 to R141;
12 R228 to R234; 03 R52 to R56). -/

namespace Sys2Proof.Machine
open Sys2Proof

/-! ### Loops and steps (R139, R140, R228) -/

/-- The two's-complement value of a step field. -/
def signed16 (w : BitVec 16) : Int := w.toInt

/-- The loop word of a level below 4. -/
def loopWord (r : RecWord) (level : Nat) : BitVec 64 :=
  match level with
  | 0 => r.l1
  | 1 => r.l2
  | 2 => r.l3
  | _ => r.l4

/-- The reference of operand k. -/
def recRef (r : RecWord) (k : Nat) : BitVec 32 :=
  match k with
  | 0 => r.o0
  | 1 => r.o1
  | 2 => r.o2
  | _ => r.o3

/-- The step of operand k at a level, 0 innermost; levels 4 and 5 are ENEST's 5 and 6. Operand 3 never steps. -/
def QRec.step (q : QRec) (r : RecWord) (k level : Nat) : Int :=
  if 3 ≤ k then 0
  else if level < 4 then signed16 ((loopWord r level).extractLsb' (32 - 16 * k) 16)
  else
    let n := if level = 4 then q.n5 else q.n6
    signed16 (if k = 0 then n.s0 else if k = 1 then n.s1 else n.s2)

/-- The dimension that operand k steps at a level; the ENEST levels use that of loop level 3. -/
def recDsel (r : RecWord) (k level : Nat) : Nat := ((recRef r k).extractLsb' (16 + 2 * min level 3) 2).toNat

/-- The levels of a record. -/
abbrev levels : List Nat := [0, 1, 2, 3, 4, 5]

/-- The loop indices of a pass, innermost first. -/
def loopIndices (p : Nat) : List Nat → List Nat
  | [] => []
  | t :: r => (p % t) :: loopIndices (p / t) r

/-- i_L of a pass. -/
def QRec.loopIndex (q : QRec) (p level : Nat) : Nat := nth (loopIndices p q.trips) level 0

/-- The offset of box operand k along a dimension in a pass. -/
def QRec.offset (q : QRec) (r : RecWord) (k p d : Nat) : Int :=
  levels.foldl (fun n l => if recDsel r k l = d then n + q.loopIndex p l * q.step r k l else n) 0

/-- The steps of an operand are all zero. -/
def QRec.still (q : QRec) (r : RecWord) (k : Nat) : Bool := levels.all (fun l => q.step r k l == 0)

/-- The group of a tile id (Table 3.7). -/
def tileGroup (id : Nat) : Nat := if id < 32 then 0 else if id < 40 then 1 else if id < 64 then 2 else 3

/-- INDEX of operand k as its steps move it in a pass (R139, R228). -/
def QRec.tileIndex (q : QRec) (r : RecWord) (k p : Nat) : Int :=
  levels.foldl (fun n l => n + q.loopIndex p l * q.step r k l) (refIndex (recRef r k) : Int)

/-- The tile id of operand k in a pass (R139, R228). -/
def QRec.tileId (q : QRec) (x : Task) (r : RecWord) (k p : Nat) : Res Nat := do
  let n := q.tileIndex r k p
  check (0 ≤ n && n < 64 && tileGroup n.toNat == tileGroup (refIndex (recRef r k))) Flt.bounds
  check (x.declared n.toNat) Flt.illegal
  .ok n.toNat

/-- Operand k is a box, or a tile. -/
def isBox (r : RecWord) (k : Nat) : Bool := refType (recRef r k) == 2

/-- A pass reads a slot, of either role, that RELA or RELB selects and that no later pass reads: it reads it as a drain (R235). -/
def QRec.lastRead (q : QRec) (x : Task) (r : RecWord) (p id : Nat) : Bool :=
  let names (k p : Nat) : Bool := match q.tileId x r k p with | .ok i => i == id | .error _ => false
  (List.range q.passes).any (fun j => (r.kflags.getLsbD 1 && names 0 j) || (r.kflags.getLsbD 2 && names 1 j))
    && (List.range q.passes).all (fun j => j ≤ p || !(names 0 j || names 1 j))

/-- The operations on tile entries of one pass, of the kinds that name tiles (R235 to R246); an id out of range has none: its pass
faults. -/
def QRec.passUses (q : QRec) (x : Task) (i : Instr) : TileUses :=
  let id (r : RecWord) (k : Nat) (u : TileUse) : TileUses :=
    if isBox r k then [] else match q.tileId x r k q.pass with | .ok n => [(n, u)] | .error _ => []
  let source (r : RecWord) : TileUses := id r 0 (if r.rel then .drain else .read)
  let ring (r : RecWord) (n : Nat) : TileUses :=
    if n == 0 || isBox r 1 then id r 1 .fill else [(refIndex r.o1 + q.pass % n, .fill)]
  match i with
  | .mmul r =>
    let role (k : Nat) : TileUses := (id r k .read).map (fun u => (u.1, if q.lastRead x r q.pass u.1 then TileUse.drain else .read))
    let a := role 0
    let t := (id r 2 .fill).map (fun u => (u.1, if r.clr && !q.named.contains u.1 then TileUse.fill else .update))
    a ++ (role 1).filter (fun u => !a.contains u) ++ t
  | .copy r => source r ++ id r 1 .fill
  | .fill r => id r 1 .fill
  | .edec r => ring r (w7 r 16 5)
  | .vqx r => source r ++ id r 1 .fill
  | _ => []

/-- Those of the pass that an engine has at hand: of a record that has started. -/
def QRec.uses (q : QRec) (x : Task) : TileUses :=
  match decodeRecord q.w with
  | .ok i => if q.started then q.passUses x i else []
  | .error _ => []

/-- The task as a pass sees it: the operations that have started for it are not yet on its entries. -/
def QRec.view (q : QRec) (x : Task) : Task := if q.opened then x.undoUses (q.uses x) else x

/-- The trip counts of the six levels as the start fetches them (R139, R231). -/
def State.recordTrips (s : State) (x : Task) (q : QRec) (r : RecWord) : Res (List Nat) := do
  let one (l : Nat) : Res Nat :=
    let t := ((loopWord r l).extractLsb' 48 16).toNat
    if !r.shp then .ok t
    else if t = 0xFFFF then .ok 1
    else do
      let v ← s.shapeEntry x.own (w7 r 48 16) t
      check (v < 65536) Flt.bounds
      .ok v
  let ts ← [0, 1, 2, 3].mapM one
  .ok (ts ++ [q.n5.trip, q.n6.trip])

/-! ### Box operands (R229, R230) -/

/-- The handle that a reference names, of the copies taken at issue (R140). -/
def QRec.handle (q : QRec) (r : RecWord) (k : Nat) : Handle := SMap.get q.hs (refIndex (recRef r k)) 0

/-- A box operand: readable or writable. -/
structure BoxUse where
  k : Nat
  write : Bool
  deriving DecidableEq, Repr

/-- The checks of the handles of some box operands, in the order of R230: the fields, the modes, the descriptors. -/
def State.checkBoxes (s : State) (x : Task) (q : QRec) (r : RecWord) (us : List BoxUse) : Res Unit := do
  us.forM (fun u => useHandle (q.handle r u.k))
  check (us.all (fun u => !u.write || !readOnly (q.handle r u.k))) Flt.mode
  us.forM (fun u => do let _ ← s.regionOf x.own (q.handle r u.k))

/-- A window of a handle at an offset, and its region. -/
def State.window2 (s : State) (x : Task) (h : Handle) (o : Nat → Int) (w : Nat → Nat) : Res (Region × Handle) := do
  check (dims.all (fun d => 0 ≤ o d)) Flt.bounds
  let n ← boxSub h (fun d => (o d).toNat) w
  check (blockHandleOk n) Flt.format
  let g ← s.regionOf x.own n
  .ok (g, n)

/-- The window of operand k in a pass. -/
def State.boxWindow (s : State) (x : Task) (q : QRec) (r : RecWord) (k p : Nat) (w : Nat → Nat) : Res (Region × Handle) :=
  s.window2 x (q.handle r k) (q.offset r k p) w

/-- The extent that ECFG slot 8 + d gives, or a default (R229, R234). -/
def QRec.extent (q : QRec) (dflt : Nat → Nat) (d : Nat) : Nat :=
  let v := (SMap.get q.cfg (8 + d) 0).toNat
  if v = 0 then dflt d else v

/-- The ECFG extents are in range. -/
def QRec.extentsOk (q : QRec) : Bool := dims.all (fun d => (SMap.get q.cfg (8 + d) 0).toNat ≤ 16777215)

/-! ### Data of a window or a tile -/

/-- Elements and block headers in linear order, dimension 0 fastest. -/
structure Data where
  tag : Fmt
  ext : List Nat
  vals : List Nat
  hdrs : List Nat
  deriving DecidableEq, Repr

/-- Coordinates of the blocks of a window: the first element of each. -/
def blockCoords (f : Fmt) (e : Nat → Nat) : List (List Nat) :=
  if headerBytes f == 0 then [] else (boxCoords e).filter (fun c => nth c 0 0 % fmtBlock f == 0)

/-- Read a window; a poisoned word that it reads is consumed (R337). -/
def State.readWindow (s : State) (x : Task) (g : Region) (h : Handle) : Res Data := do
  let t := x.own
  let vals ← (boxCoords (Handle.ext h)).mapM (fun c => do
    let p := regionCoord h c
    s.elemSound t g p
    s.readElem t g p)
  let hdrs ← (blockCoords g.fmt (Handle.ext h)).mapM (fun c => do
    let cells ← s.headerCells t g (regionCoord h c) wantsRead
    waitFor (!cells.any s.lineStalled)
    s.soundCells t cells
    .ok (s.readCells cells))
  .ok { tag := g.fmt, ext := dims.map (Handle.ext h), vals := vals, hdrs := hdrs }

/-- The writes of a window, each part that is single-copy atomic by itself (R84). -/
def State.writeWindow (s : State) (x : Task) (g : Region) (h : Handle) (vals hdrs : List Nat) : Res (List (List ByteWrite)) := do
  let t := x.own
  let a ← ((boxCoords (Handle.ext h)).zip vals).mapM (fun p => s.writeElem t g (regionCoord h p.1) p.2)
  let b ← ((blockCoords g.fmt (Handle.ext h)).zip hdrs).mapM (fun p => do
    let cells ← s.headerCells t g (regionCoord h p.1) wantsWrite
    .ok (bitWrites cells 0 (8 * cells.length) p.2))
  .ok (atomicParts g.fmt a ++ b)

/-- Blocks among n elements. -/
def blocksIn (f : Fmt) (n : Nat) : Nat := if headerBytes f == 0 then 0 else n / fmtBlock f

/-- Where the headers of a scratchpad buffer begin, in bits: the next 64-byte boundary after its elements (R233). -/
def sbufHeaderBit (f : Fmt) (n : Nat) : Nat := ((n * fmtWidth f + 7) / 8 + 63) / 64 * 64 * 8

/-- The contents of an entry as its tag and geometry lay them out (R233). -/
def Task.tileData (x : Task) (id : Nat) : Data :=
  let t := x.tile id
  if tileGroup id = 1 then { tag := t.tag, ext := [64, 128, 1, 1], vals := unpackBits 40 8192 t.data.toNat, hdrs := [] }
  else
    let n := t.e0 * t.e1 * t.e2 * t.e3
    let hb := 8 * headerBytes t.tag
    let hdr := if id < 32 then t.scale.toNat else t.data.toNat / 2 ^ sbufHeaderBit t.tag n
    { tag := t.tag, ext := [t.e0, t.e1, t.e2, t.e3], vals := unpackBits (fmtWidth t.tag) n t.data.toNat,
      hdrs := unpackBits hb (blocksIn t.tag n) hdr }

/-- The limits of a fill of an entry (R233). -/
def Task.fillFits (x : Task) (id : Nat) (tag : Fmt) (e : Nat → Nat) : Res Unit := do
  let w := fmtWidth tag
  let n := e 0 * e 1 * e 2 * e 3
  if id < 32 then do
    check (e 2 == 1 && e 3 == 1 && e 1 ≤ 128) Flt.bounds
    check (n * w ≤ 131072 && blocksIn tag n * headerBytes tag ≤ 4096) Flt.bounds
    check (e 0 * w % 8 == 0 && e 0 % fmtBlock tag == 0) Flt.format
  else if id < 40 then check (e 0 ≤ 64 && e 1 ≤ 128 && e 2 == 1 && e 3 == 1) Flt.bounds
  else do
    let bytes := if headerBytes tag == 0 then (n * w + 7) / 8 else sbufHeaderBit tag n / 8 + blocksIn tag n * headerBytes tag
    check (bytes ≤ SMap.get x.r.sbufs id 0) Flt.bounds

/-- Fill a slot or a scratchpad buffer (R233). -/
def Task.fillTile (x : Task) (id : Nat) (d : Data) : Task :=
  let e (i : Nat) := nth d.ext i 1
  let payload := packBits (fmtWidth d.tag) d.vals
  let hdr := packBits (8 * headerBytes d.tag) d.hdrs
  let data := if id < 32 || d.hdrs.isEmpty then payload else payload + 2 ^ sbufHeaderBit d.tag d.vals.length * hdr
  x.setTile id
    { st := .ready, readers := 0, tag := d.tag, quarter := false, e0 := e 0, e1 := e 1, e2 := e 2, e3 := e 3,
      data := BitVec.ofNat 2097152 data, scale := if id < 32 then BitVec.ofNat 32768 hdr else 0, claimed := true, bad := [] }

/-- Fill an accumulator tile with 8,192 values of 40 bits, some of whose containers are poisoned (R66, R233, R336). -/
def Task.fillAcc (x : Task) (id : Nat) (tag : Fmt) (quarter : Bool) (vals bad : List Nat) : Task :=
  x.setTile id
    { st := .ready, readers := 0, tag := tag, quarter := quarter, e0 := 64, e1 := 128, e2 := 1, e3 := 1,
      data := BitVec.ofNat 2097152 (packBits 40 vals), scale := 0, claimed := true, bad := bad }

/-- The part of some data that a window from its origin names. -/
def Data.part (d : Data) (w : Nat → Nat) : Res Data := do
  let e (i : Nat) := nth d.ext i 1
  let b := fmtBlock d.tag
  check (dims.all (fun i => w i ≤ e i)) Flt.bounds
  check (w 0 % b == 0) Flt.format
  let lin (c : List Nat) (f0 : Nat) := nth c 0 0 / f0 + e 0 / f0 * (nth c 1 0 + e 1 * (nth c 2 0 + e 2 * nth c 3 0))
  if dims.all (fun i => w i == e i) then .ok d
  else .ok { tag := d.tag, ext := dims.map w, vals := (boxCoords w).map (fun c => nth d.vals (lin c 1) 0),
             hdrs := (blockCoords d.tag w).map (fun c => nth d.hdrs (lin c b) 0) }

/-- The values of data: elements under their blocks' headers. -/
def Data.values (d : Data) : List Val :=
  ((List.range d.vals.length).zip d.vals).map (fun p => blockValue d.tag (nth d.hdrs (p.1 / fmtBlock d.tag) 0) p.2)

/-- A list in pieces of n. -/
def chunks {α : Type} (n : Nat) : Nat → List α → List (List α)
  | 0, _ => []
  | f + 1, l => if l.isEmpty then [] else l.take n :: chunks n f (l.drop n)

/-- Values converted to a format, whole blocks at a time for a block format (R70 to R72). -/
def convertAll (f : Fmt) (wrap : Bool) (l : List Val) : List Nat × List Nat :=
  if fmtIsBlock f then
    let bs := (chunks (fmtBlock f) (l.length + 1) l).map (convertBlock f 0)
    (bs.flatMap (fun b => b.2), bs.map (fun b => b.1))
  else (l.map (convert f 0 wrap), [])

/-! ### Overlapping windows (R238) -/

/-- The storage bytes of a window as the set bits of a number, counted from BASE. -/
def windowMask (g : Region) (h : Handle) : Nat :=
  let elem (c : List Nat) : Nat := let b := elemBytes g (regionCoord h c); (2 ^ b.2 - 1) * 2 ^ b.1
  let hdr (c : List Nat) : Nat := (2 ^ headerBytes g.fmt - 1) * 2 ^ locateHeader g (regionCoord h c)
  (blockCoords g.fmt (Handle.ext h)).foldl (fun m c => m ||| hdr c) ((boxCoords (Handle.ext h)).foldl (fun m c => m ||| elem c) 0)

/-- Set bits of a number. -/
def bitCount (n : Nat) : Nat := ((List.range (Nat.log2 n + 1)).filter (fun i => n.testBit i)).length

/-- The source bytes that the destination covers fit the staging buffer. -/
def stagingOk (a b : Region × Handle) : Bool :=
  !(Handle.level a.2 == Handle.level b.2 && Handle.region a.2 == Handle.region b.2)
    || bitCount (windowMask a.1 a.2 &&& windowMask b.1 b.2) ≤ 65536

/-! ### How a pass runs -/

/-- What a fault of an engine's stream leaves of the tile entries that its record moved (R55). -/
def State.backOut (s : State) (x : Task) (e : Engine) : State × Task :=
  match activeRecord e (x.eng e).queue with
  | none => (s, x)
  | some (i, q) =>
    let p := s.putBack (q.view x) q.moved
    let g := p.2.eng e
    (p.1, p.2.setEng e { g with queue := g.queue.set i { q with opened := false, moved := [] } })

/-- The engine of a stream. -/
def streamEngine : Stream → Option Engine
  | .matrix => some .matrix
  | .copy => some .copy
  | _ => none

/-- The same for what becomes of an operation: the first fault alone moves entries back. -/
def State.onFault (s : State) (x : Task) (st : Stream) (r : Res State) : State × Task :=
  match r, streamEngine st with
  | .error (.flt _ _), some e => if x.pendFault.isSome then (s, x) else s.backOut x e
  | _, _ => (s, x)

/-- The start of a pass (R53, R231 step 3): every entry it names is in the state that its use requires, and moves. -/
def State.startPass (s : State) (t : Nat) (x : Task) (e : Engine) : Out :=
  match activeRecord e (x.eng e).queue with
  | none => .next s
  | some (i, q) =>
    let us := q.uses x
    let rank := engineRank e
    if !x.mayUse us || !x.startInOrder s.cycle rank us then .next s
    else
      let y := (x.startUses us).noteStarts s.cycle rank us
      let g := y.eng e
      .next (s.setTask t (y.setEng e
        { g with queue := g.queue.set i { q with opened := true, moved := noteMoved q.moved (x.movedBy us) } }))

/-- The pass at hand has yet to start on its entries. -/
def Task.passClosed (x : Task) (e : Engine) : Bool :=
  match activeRecord e (x.eng e).queue with
  | some (_, q) => !q.opened && !(q.uses x).isEmpty
  | none => false

/-- The pass at hand may complete in this cycle (R54). -/
def Task.passMayEnd (x : Task) (e : Engine) (cycle : Nat) : Bool :=
  match activeRecord e (x.eng e).queue with
  | some (_, q) => x.endInOrder cycle (q.uses x)
  | none => true

/-- Run the next turn of the record that an engine of the acting task works on: what does not complete is delivered as an
engine's (R261, R310). -/
def State.issueTurn (s : State) (e : Engine) (body : Task → QRec → Res (State × QRec)) : Out :=
  match s.task? s.cur with
  | none => .next s
  | some x =>
    match activeRecord e (x.eng e).queue with
    | none => .next s
    | some (i, q) =>
      if !q.started then .next s
      else
        let r := do
          -- a pass reads after its record's earlier writes (R232)
          waitFor (!recordWrites x e q)
          let p ← body (q.view x) q
          .ok (p.1.modTask s.cur (fun y =>
            let g := y.eng e
            y.setEng e { g with queue := g.queue.set i { p.2 with opened := false } }))
        let p := s.onFault x (streamOf e) r
        p.1.deliverStream s.cur p.2 (streamOf e) r

/-- A turn that runs a whole pass. -/
def State.issuePass (s : State) (e : Engine) (body : Task → QRec → Res (State × QRec)) : Out :=
  s.issueTurn e (fun x q => do
    let p ← body x q
    .ok (p.1, { p.2 with pass := q.pass + 1 }))

/-- Every pass of a record satisfies its checks. -/
def QRec.everyPass (q : QRec) (f : Nat → Res Unit) : Res Unit := (List.range q.passes).forM f

/-- The state with a task's new context. -/
def State.withTask (s : State) (y : Task) : State := s.setTask s.cur y

/-- A writing pass of the copy engine: its bytes are in flight under the record's number and scope. -/
def State.postRecord (s : State) (y : Task) (q : QRec) (r : RecWord) (ws : List (List ByteWrite)) : State :=
  s.withTask (y.postWrites .copy 0 r.scope q.num ws)

end Sys2Proof.Machine
end

