-- ==== Sys2Proof/Machine/MemorySteps.lean ====
section
/-! DEFINITION. The device steps of memory: data that returns, posted stores that perform, page walks, scrubbing and a Belvedere
mismatch (09 R146, R161; 20 R308 to R313, R317; 21 R332 to R338). -/

namespace Sys2Proof.Machine
open Sys2Proof

/-- The core that a corrected word of a scratchpad counts against (R339). -/
def scratchOwner (a : Nat) : Option Nat :=
  if scratchpad 0 ≤ a && a < scratchpad 1161 then some ((a - scratchpad 0) / 2 ^ 21) else none

/-- The scratchpad buffer of a task that holds a byte of its packed buffers, and the byte's place in it (R52). -/
def bufferAt (off : Nat) : List (Nat × Nat) → Option (Nat × Nat)
  | [] => none
  | b :: r => if off < b.2 then some (b.1, off) else bufferAt (off - b.2) r

/-- An uncorrectable word of a frame or of a scratchpad buffer that stands at a byte of a core's scratchpad (R336); none where the byte is
in neither. -/
def State.poisonScratch (s : State) (core off : Nat) : Option State :=
  match s.tasks.find? (fun p => (p.2.r.core == some core || p.2.r.home == some core) && p.2.st != .returned
      && p.2.frameUse.any (fun u => u.1 ≤ off && off < u.1 + u.2)) with
  | none => none
  | some (t, x) =>
    let base := 4096 * x.r.fslot
    if off < base + x.frameSize then
      some (s.setTask t { x with frameBad := (if x.frameBad.contains ((off - base) / 8) then [] else [(off - base) / 8]) ++ x.frameBad })
    else (bufferAt (off - base - x.frameSize) x.r.sbufs).map (fun b =>
      s.setTask t (x.setTile b.1 { x.tile b.1 with bad := b.2 / 8 :: (x.tile b.1).bad.filter (fun q => q != b.2 / 8) }))

/-- What the error-correcting code found in an access (R317, R336): a corrected read counts as FLT_CE; an uncorrectable one
poisons the word or unit. -/
def State.noteEcc (s : State) (ecc : Ecc) (a : Nat) : State :=
  match ecc with
  | .clean => s
  | .corrected =>
    if isDram a then s.dramCorrected a
    else match scratchOwner a with
      | some c => s.countEvent c Flt.ce 0
      | none => s
  | .uncorrectable =>
    match (scratchOwner a).bind (fun c => s.poisonScratch c ((a - scratchpad 0) % 2 ^ 21)) with
    | some s' => s'
    | none => s.poisonUnit a

/-- An access in flight of a task may perform: the orders that bind it hold, its task's context is not saved, no prepared
group stalls its lines and its channels have not drained (R323). -/
def State.ready (s : State) (x : Task) (k : Nat) (a : Access) : Bool :=
  mayPerform x.pend k && a.again.isNone && !x.r.midSlice && !x.r.stops.contains a.stream && (a.load.isNone || !a.cells.any s.lineStalled)
    && s.cellsHeld (a.cells ++ a.writes.map (fun w => w.a))

/-- The k-th access of a task, which a suspension abandoned, is issued again once its stream runs (R99, R227): a miss waits for the walker; a
fault drops it and waits for the control stream's boundary (R315, R319). -/
def State.issueAgain (s : State) (t : Nat) (x : Task) (k : Nat) (a : Access) (pages : List (Nat × Nat)) : State :=
  if x.r.midSlice || x.r.stops.contains a.stream || maxRequests ≤ s.requests (coreOfTask x) then s
  else match s.reissued x a pages with
    | .ok b => s.setTask t { x with pend := x.pend.set k b }
    | .error (.miss va w) => s.noteMiss { task := t, stream := a.stream, va := va, wants := w }
    | .error (.flt code val) =>
      if x.pendFault.isSome then s else s.setTask t { x.unpost k with pendFault := some { code := code, val := val } }
    | .error _ => s

/-- The j-th single-copy atomic part of an access in flight: how many bytes stand before it, and its length. -/
def Access.part (a : Access) (j : Nat) : Option (Nat × Nat) := a.parts[j]?.map (fun n => ((a.parts.take j).foldl (fun m k => m + k) 0, n))

/-- An access without one of its parts. -/
def Access.without (a : Access) (j : Nat) : Access :=
  match a.part j with
  | some p => { a with writes := a.writes.take p.1 ++ a.writes.drop (p.1 + p.2), parts := a.parts.eraseIdx j }
  | none => a

/-- One part of an access in flight performs by itself (R84, R372): element j of a vector load is read, or part j of the writes of a vector
store or of a pass is done. Numbers from the count of accesses on name such parts. -/
def State.performPart (s : State) (t : Nat) (x : Task) (n : Nat) (loads : Bool) : State :=
  let m := x.pend.length
  let k := (n - m) % m
  let j := (n - m) / m
  match x.pend[k]? with
  | none => s
  | some a =>
    if a.load.isSome != loads then s
    else match a.vectorLoad, a.part j with
      | some l, _ => match l.els[j]? with
        | none => s
        | some e =>
          if (SMap.find l.got e.1).isSome || !s.ready x k { a with cells := e.2.1 } then s
          else s.setTask t { x with pend := x.pend.set k { a with load := a.load.map (fun d => { d with vector := some (s.readEarly x l e) }) } }
      | none, some p =>
        let ws := (a.writes.drop p.1).take p.2
        if !s.ready x k { a with writes := ws } then s
        else
          let b := a.without j
          (s.store ws).setTask t (if b.parts.isEmpty then x.unpost k else { x with pend := x.pend.set k b })
      | none, none => s

/-- LOAD_DATA_RETURN (R161): the data of the k-th access in flight, a load, is written to its register; an atomic performs. -/
def execLoadDataReturn (t k : Nat) (ecc : Ecc) (s : State) : Out :=
  match s.task? t with
  | none => .next s
  | some x =>
    match x.pend[k]? with
    | none => .next (s.performPart t x k true)
    | some a =>
      if a.load.isSome && a.again.isSome then .next (s.issueAgain t x k a (a.again.getD []))
      else if a.load.isSome && s.ready x k a then
        let s := match a.cells with | c :: _ => s.noteEcc ecc c | [] => s
        .next (match s.task? t with | some x => s.performAccess t x k a | none => s)
      else .next s

/-- POSTED_STORE_PERFORM (R146, R317): the k-th access in flight, a store, performs; a store to a part of a unit whose read is
uncorrectable writes its bytes and leaves the unit poisoned. -/
def execPostedStorePerform (t k : Nat) (ecc : Ecc) (s : State) : Out :=
  match s.task? t with
  | none => .next s
  | some x =>
    match x.pend[k]? with
    | none => .next (s.performPart t x k false)
    | some a =>
      if a.load.isNone && a.again.isSome then .next (s.issueAgain t x k a (a.again.getD []))
      else if a.load.isNone && s.ready x k a then
        let s := match a.writes with | w :: _ => s.noteEcc ecc w.a | [] => s
        .next (match s.task? t with | some x => s.performAccess t x k a | none => s)
      else .next s

/-- The task whose registers a core holds. -/
def State.onCore (s : State) (c : Nat) : Option (Nat × Task) :=
  s.tasks.find? (fun p => p.2.r.core == some c)

/-- A list that holds a number. -/
def mark (l : List Nat) (n : Nat) : List Nat := if l.contains n then l else n :: l

/-- A word of the control state of a task is uncorrectable (R335, R336): 0 to 63 the scalar registers, 64 to 191 the handle registers,
four words each, 192 to 319 the semaphore file, two semaphores each (log 32). -/
def poisonControl (x : Task) (w : Nat) : Task :=
  if w == 0 then x
  else if w < 64 then { x with ctl := { x.ctl with bad := mark x.ctl.bad w, own := mark x.ctl.own w } }
  else if w < 192 then { x with ctl := { x.ctl with hbad := mark x.ctl.hbad ((w - 64) / 4) } }
  else if w < 320 then { x with semBad := mark x.semBad (w - 192) }
  else x

/-- A word of a vector register is uncorrectable: q as VReg.bad numbers it. -/
def poisonVector (x : Task) (n q : Nat) : Task :=
  let r := SMap.get x.vec.v n { tag := Fm.none, data := 0, scale := 0, bad := [], own := false }
  { x with vec := { x.vec with v := SMap.put x.vec.v n { r with bad := mark r.bad q, own := true } } }

/-- A word of a tile is uncorrectable: q as Tile.bad numbers it. -/
def poisonTile (x : Task) (n q : Nat) : Task := x.setTile n { x.tile n with bad := mark (x.tile n).bad q }

/-- A register or memory word of the core that a task runs on is uncorrectable (R335 to R338). Words 0 to 319 are those of its control
state; 1,024 on the masks k0 to k15, 64 words each; 2,048 on a0 to a31; 2,112 on b0 to b15, four words each; 4,096 on the codebook slots,
256 words each; 2^18 on the data planes of v0 to v511, 256 words each; then their scale planes, 64 words each; 2^19 on the operand slots, 4,096
words each, the scale plane from word 2,048 of a slot; then the accumulator tiles, 8,192 containers each (log 32). -/
def poisonRegister (x : Task) (w : Nat) : Task :=
  if w < 320 then poisonControl x w
  else if 1024 + 64 ≤ w && w < 2048 then { x with vec := { x.vec with kbad := mark x.vec.kbad ((w - 1024) / 64) } }
  else if 2048 ≤ w && w < 2080 then { x with vec := { x.vec with abad := mark x.vec.abad (w - 2048) } }
  else if 2112 ≤ w && w < 2176 then { x with vec := { x.vec with bbad := mark x.vec.bbad ((w - 2112) / 4) } }
  else if 4096 ≤ w && w < 6144 then x.setCodebook ((w - 4096) / 256) { x.codebook ((w - 4096) / 256) with bad := true }
  else if 2 ^ 18 ≤ w && w < 2 ^ 18 + 2 ^ 17 then poisonVector x ((w - 2 ^ 18) / 256) ((w - 2 ^ 18) % 256)
  else if 2 ^ 18 + 2 ^ 17 ≤ w && w < 2 ^ 18 + 2 ^ 17 + 2 ^ 15 then
    poisonVector x ((w - 2 ^ 18 - 2 ^ 17) / 64) (256 + (w - 2 ^ 18 - 2 ^ 17) % 64)
  else if 2 ^ 19 ≤ w && w < 2 ^ 19 + 2 ^ 17 then
    let q := (w - 2 ^ 19) % 4096
    poisonTile x ((w - 2 ^ 19) / 4096) (if q < 2048 then q else 32768 + (q - 2048))
  else if 2 ^ 19 + 2 ^ 17 ≤ w && w < 2 ^ 19 + 2 ^ 17 + 2 ^ 16 then poisonTile x (32 + (w - 2 ^ 19 - 2 ^ 17) / 8192) ((w - 2 ^ 19 - 2 ^ 17) % 8192)
  else x

/-- A word of the context buffer of a core is uncorrectable (R301, R336): the control state of the suspended task that it holds. Entry e
has the words from 8,192 + 1,024 e on. -/
def State.poisonBuffer (s : State) (c w : Nat) : State :=
  match (s.core c).buffer[(w - 8192) / 1024]? with
  | some t => s.modTask t (fun x => if x.r.core.isNone then poisonControl x ((w - 8192) % 1024) else x)
  | none => s

/-- The task whose registers and storage units a scrub of a core reads: 0 the one on the core, from 1 on those off it whose units stand there
still (R303). -/
def State.scrubbed (s : State) (c holder : Nat) : Option (Nat × Task) :=
  if holder = 0 then s.onCore c
  else (s.tasks.filter (fun p => p.2.r.home == some c && p.2.r.core.isNone && p.2.st != .returned))[holder - 1]?

/-- The scrubber of a core reads one word of its register files and own memories (R335, R336, R338): a corrected word is counted, an
uncorrectable one is poisoned. -/
def State.scrubRegister (s : State) (c holder w : Nat) (ecc : Ecc) : State :=
  match ecc with
  | .clean => s
  | .corrected => s.countEvent c Flt.ce 0
  | .uncorrectable =>
    if 8192 ≤ w && w < 8192 + 4096 then s.poisonBuffer c w
    else if 12288 ≤ w && w < 12288 + 512 then s.modCore c (fun k => { k with sframeBad := mark k.sframeBad (w - 12288) })
    else match s.scrubbed c holder with
    | some (t, x) => s.setTask t (poisonRegister x w)
    | none => s

/-- SCRUB_SWEEP (R338): the scrubber reads one on-chip word, corrects it or poisons it. Below 2^48 the address is that of an on-chip
memory; above, bits 19:0 name a word of a core's register files, bits 30:20 the core, and the bits above the task (log 32). -/
def execScrubSweep (addr : Nat) (ecc : Ecc) (s : State) : Out :=
  if addr < 2 ^ 46 then .next s
  else if addr < 2 ^ 48 then .next (s.noteEcc ecc addr)
  else .next (s.scrubRegister ((addr - 2 ^ 48) / 2 ^ 20 % 2 ^ 11) ((addr - 2 ^ 48) / 2 ^ 31) ((addr - 2 ^ 48) % 2 ^ 20) ecc)

/-- The operation at the head of a control stream's compare queue is one that Belvedere compares (R332): its next instruction, or a trap
entry. -/
def State.compares (s : State) (x : Task) : Bool :=
  match s.boundary x with
  | .issue => (match s.fetch x with | .ok i => compared i | .error _ => false)
  | .interrupt _ | .faultDelivery => true
  | _ => false

/-- BELVEDERE_MISMATCH (R332 to R334): the control core and its copy differ. The compare of the control stream's next operation fails and FLT_CHECK
rolls the node back; where that operation is not compared, the next compared one or trap entry meets it. No other stream is re-executed. -/
def execBelvedereMismatch (t : Nat) (st : Stream) (s : State) : Out :=
  match s.task? t with
  | none => .next s
  | some x =>
    if !(st == .control && controlRuns s x) then .next s
    else if s.compares x then s.raise t x Flt.check 0
    else .next (s.setTask t { x with bel := { x.bel with struck := true } })

/-- The misses that one walk serves: those of one die, partition and page (R310). -/
def State.sharesWalk (s : State) (die part page size : Nat) (m : Miss) : Bool :=
  match s.task? m.task with
  | some y => dieOfTask y == die && s.partOf y == part && page ≤ m.va && m.va < page + size
  | none => false

/-- A held element of a group stands, in whole or in part, on the page of an address, as the parent's region table has it. -/
def State.heldOn (s : State) (parent : Task) (va : Nat) (e : HeldElem) : Bool :=
  match SMap.find (s.regionTable parent e.level) e.region with
  | none => false
  | some r =>
    let b := elemBytes r e.coord
    e.level == 0 && (List.range b.2).any (fun i => (r.base + b.1 + i) / 65536 == va / 65536)

/-- A walk for the resolution of a dead last child's group faults for good: the held elements on that page, which no fault can reach, are
passed over, and the others stay (R30; log 42). -/
def State.dropHeld (s : State) (x : Task) (va : Nat) : State :=
  match x.r.kind, x.r.parent.bind s.task? with
  | .child g, some y => match SMap.find s.spawns g with
    | some grp => { s with spawns := SMap.put s.spawns g { grp with held := grp.held.filter (fun e => !s.heldOn (y.seenFrom x) va e) } }
    | none => s
  | _, _ => s

/-- The table entry whose error a walk for a miss has met (R344). -/
def State.badEntry (s : State) (m : Miss) : Nat :=
  match s.task? m.task with
  | none => 0
  | some x => match s.part? (s.partOf x) with
    | some p => ((s.walkPath [] (s.partOf x) m.va p.l1 walkLevels).find? s.isBad).getD 0
    | none => 0

/-- The fault of a walk reaches the stream that missed (R313). A task in Returning or Copying-In, or a dead one whose group it
resolves, takes its trap at the head of its queue. -/
def State.walkFault (s : State) (m : Miss) (x : Task) (code : Nat) : Out :=
  let val : Word := if code == Flt.page || code == Flt.prot then word m.va else if code == Flt.ue then word (2 * s.badEntry m) else 0
  let dropped := { s with misses := s.misses.filter (fun n => n != m) }
  match m.stream with
  | .control => if controlRuns s x then dropped.raise m.task x code val else .next dropped
  | _ =>
    if x.pendFault.isSome then .next s
    else if x.r.dead then
      if code == Flt.page then .next (dropped.trapLater m.task x code val) else .next (dropped.dropHeld x m.va)
    else if x.st == .returning || x.st == .copyingIn then
      if code == Flt.page || s.delegates x code then .next (dropped.trapLater m.task x code val)
      else if isRequeue code then .next (dropped.requeue m.task x code val)
      else .next (dropped.endTask m.task code)
    else
      let p := match streamEngine m.stream with
        | some e => if code == Flt.page then (dropped, x) else dropped.backOut x e
        | none => (dropped, x)
      .next (p.1.setTask m.task { p.2 with pendFault := some { code := code, val := val } })

/-! ### The walker of a die (R310) -/

/-- The partition and 64 KiB page of a miss, and its cluster, when it is one of a die. -/
def State.missPage (s : State) (die : Nat) (m : Miss) : Option ((Nat × Nat) × Nat) :=
  match s.task? m.task with
  | some y => if dieOfTask y == die then some ((s.partOf y, m.va / 65536), coreOfTask y / 8) else none
  | none => none

/-- The die's misses that have no walk: the oldest 4,096 stand in its miss queue, the others in their cores' request slots. -/
def State.queued (s : State) (die : Nat) : List ((Nat × Nat) × Nat) :=
  ((s.misses.filterMap (s.missPage die)).filter (fun q => !(s.die die).walks.contains q.1)).take 4096

/-- The queued miss that gets the next free walk: clusters in round-robin order, within one the oldest. -/
def State.nextQueued (s : State) (die : Nat) : Option ((Nat × Nat) × Nat) :=
  let q := s.queued die
  let order := (List.range 144).map (fun i => ((s.die die).turn + 1 + i) % 144)
  (order.findSome? (fun c => q.find? (fun m => m.2 == c))).orElse (fun _ => q.head?)

/-- Free walks are given to queued misses, up to 64 at once; a walk that no miss waits for any more is free. -/
def State.startWalks (s : State) (die : Nat) : Nat → State
  | 0 => s
  | fuel + 1 =>
    let wanted := (s.misses.filterMap (s.missPage die)).map (fun q => q.1)
    let d := s.die die
    let live := d.walks.filter wanted.contains
    let s := s.setDie die { d with walks := live }
    if 64 ≤ live.length then s
    else match s.nextQueued die with
      | none => s
      | some q => State.startWalks (s.setDie die { d with walks := live ++ [q.1], turn := q.2 }) die fuel

/-- The newest entries of a cache, at most so many; a page replaces what stood for it. -/
def keepNewest (n : Nat) (l : List TlbEntry) (e : TlbEntry) : List TlbEntry :=
  (e :: l.filter (fun o => !(o.core == e.core && o.part == e.part && o.page == e.page && o.size == e.size))).take n

/-- A translation enters the box translation caches of some cores, 256 entries each, and the TLBs of their clusters: 8,192 entries, of
which 512 are kept for pinned pages (R308). Which entry leaves a full cache the spec does not say: the oldest (log 9). -/
def State.cacheLeaf (s : State) (cores : List Nat) (e : TlbEntry) : State :=
  let pin (o : TlbEntry) : Bool := natBits o.leaf.toNat 8 1 == 1
  let put (f : List TlbEntry → TlbEntry → List TlbEntry) (l : List TlbEntry) (c : Nat) : List TlbEntry :=
    f (l.filter (fun o => o.core == c)) { e with core := c } ++ l.filter (fun o => o.core != c)
  let shared (l : List TlbEntry) (o : TlbEntry) : List TlbEntry :=
    if pin o then keepNewest 8192 l o
    else
      let old := l.filter (fun k => !(k.part == o.part && k.page == o.page && k.size == o.size))
      let rest := (old.filter (fun k => !pin k)).take (8192 - 512 - 1)
      keepNewest 8192 (old.filter (fun k => pin k || rest.contains k)) o
  let clusters := (cores.map (fun c => c / 8)).foldl (fun l c => if l.contains c then l else c :: l) []
  { s with tlb := cores.foldl (put (keepNewest 256)) s.tlb, ctlb := clusters.foldl (put shared) s.ctlb }

/-- PAGE_WALK (R310, R313): a walk of the die's walker serves a miss and all that share its page, or the stream faults. It waits for a
free walk, and until its table entries can be read. -/
def execPageWalk (t : Nat) (st : Stream) (s : State) : Out :=
  match s.misses.find? (fun m => m.task == t && m.stream == st), s.task? t with
  | some m, some x =>
    let part := s.partOf x
    let die := dieOfTask x
    let s := s.startWalks die 64
    let kept := (s.die die).nonleaf
    if !((s.die die).walks.contains (part, m.va / 65536) && s.walkable kept part m.va) then .next s
    else match s.walkBy kept part m.va m.wants with
      | .error code => s.walkFault m x code
      | .ok w =>
        let size := 2 ^ w.shift
        let page := m.va / size * size
        let served := s.misses.filter (s.sharesWalk die part page size)
        let cores := (served.filterMap (fun n => (s.task? n.task).map coreOfTask)).foldl (fun l c => if l.contains c then l else c :: l) []
        let d := s.die die
        let s := s.setDie die { d with
          walks := d.walks.filter (fun k => !(k.1 == part && page ≤ k.2 * 65536 && k.2 * 65536 < page + size)),
          nonleaf := (w.nonleaf ++ d.nonleaf).take 1024 }
        .next ({ s with misses := s.misses.filter (fun n => !served.contains n) }.cacheLeaf cores
          { core := 0, part := part, page := page, size := size, leaf := word w.leaf })
  | _, _ => .next s

end Sys2Proof.Machine
end

