-- ==== Sys2Proof/Machine/Sundial.lean ====
section
/-! DEFINITION. Event-time streams and the Sundial unit (06 R101 to R116; 10 R190; 17 R262 to R264). -/

namespace Sys2Proof.Machine
open Sys2Proof

/-! ### Numbers and storage -/

/-- The die of a stream id and of a source id (R190). -/
def dieOfStream (id : Nat) : Nat := id / 256
def dieOfSource (id : Nat) : Nat := id / 1024

/-- A map's lowest free key among n from a base on. -/
def SMap.freeIn {α : Type} (m : SMap α) (base n : Nat) : Option Nat :=
  ((List.range n).find? (fun i => (SMap.find m (base + i)).isNone)).map (fun i => base + i)

/-- The virtual address of byte i of the storage a level-0 handle of a launch names, element by element of whole bytes. -/
def State.unitAddress (s : State) (launch : Nat) (h : Handle) (i : Nat) : Option Nat :=
  match s.launch? launch with
  | none => none
  | some l => (SMap.find l.regions (Handle.region h)).map (fun g =>
      let eb := max 1 (fmtWidth g.fmt / 8)
      g.base + locate g (regionCoord h [i / eb, 0, 0, 0]) / 8 + i % eb)

/-- Bytes that the unit reads of a level-0 box, and whether one of them is poisoned; zeros where no page is mapped. -/
def State.unitRead (s : State) (launch : Nat) (h : Handle) (off n : Nat) : List Byte × Bool :=
  let part := s.launchPart launch
  let one (i : Nat) : Byte × Bool :=
    match (s.unitAddress launch h (off + i)).bind (fun va => (s.physical part va wantsRead).toOption) with
    | some pa => (Memory.read s.mem pa, s.isBad pa)
    | none => (0, false)
  let l := (List.range n).map one
  (l.map (fun p => p.1), l.any (fun p => p.2))

/-- A byte that the unit would read of a level-0 box cannot be read now: its line stalls its readers (R124), or its channel is offline
(R323). -/
def State.unitStalled (s : State) (launch : Nat) (h : Handle) (off n : Nat) : Bool :=
  (List.range n).any (fun i =>
    match s.unitAddress launch h (off + i) with
    | some va => !s.reachable (s.launchPart launch) va 1
    | none => false)

/-- Bytes that the unit writes to a level-0 box. -/
def State.unitWrite (s : State) (launch : Nat) (h : Handle) (off : Nat) (bs : List Byte) : State :=
  let part := s.launchPart launch
  ((List.range bs.length).zip bs).foldl (fun s p =>
    match s.unitAddress launch h (off + p.1) with
    | some va => s.storeVirtual part va [p.2]
    | none => s) s

/-! ### Records (Table 6.1) -/

/-- ETIME, KIND, SOURCE and SEQ of a record. -/
def recEtime (bs : List Byte) : Nat := bytesToNat (bs.take 8)
def recWord1 (bs : List Byte) : Nat := bytesToNat ((bs.drop 8).take 8)
def recKind (bs : List Byte) : Nat := natBits (recWord1 bs) 62 2
def recSource (bs : List Byte) : Nat := natBits (recWord1 bs) 52 10
def recSeq (bs : List Byte) : Nat := natBits (recWord1 bs) 0 44

/-- A record with SOURCE, CAUSE and SEQ written. -/
def recMark (bs : List Byte) (source cause seq : Nat) : List Byte :=
  bs.take 8 ++ natToBytes 8 (recKind bs * 2 ^ 62 + source % 1024 * 2 ^ 52 + cause % 256 * 2 ^ 44 + seq % 2 ^ 44) ++ bs.drop 16

/-- Slots of a stream's ring. -/
def EStream.size (e : EStream) : Nat := Handle.ext e.ring 0 / e.recSize

/-- The first free slot at or after the write position (R102). -/
def EStream.freeSlot (e : EStream) : Option Nat :=
  ((List.range e.size).map (fun i => (e.wpos + i) % e.size)).find? (fun i => (SMap.find e.slots i).isNone)

/-- The unit of a die has handled the end of this tick: what would arrive in the rest of the tick waits for the next (R105). -/
def State.tickDone (s : State) (die : Nat) : Bool := (s.die die).ticked == s.tick + 1

/-- A record enters the ring through a source (R102); none while no slot is free or the tick is over (R105). -/
def State.enterRecord (s : State) (source : Nat) (bs : List Byte) : Option State :=
  match SMap.find s.sources source with
  | none => none
  | some c =>
    match SMap.find s.streams c.stream with
    | none => none
    | some e =>
      match if s.tickDone (dieOfStream c.stream) then none else e.freeSlot with
      | none => none
      | some i =>
        let s := s.unitWrite e.launch e.ring (i * e.recSize) (recMark (bs.take e.recSize) (source % 1024) 0 c.seq)
        let die := dieOfStream c.stream
        let d := s.die die
        let e := { e with slots := SMap.put e.slots i 0, arrivals := e.arrivals ++ [(d.arrived, i)], wpos := (i + 1) % e.size }
        some { s.setDie die { d with arrived := d.arrived + 1 } with streams := SMap.put s.streams c.stream e, sources := SMap.put s.sources source { c with seq := c.seq + 1 } }

/-- A copy to the drop ring (R109): the drop counter, then a drop record or the lost-drop counter. -/
def State.dropRecord (s : State) (n : Nat) (bs : List Byte) (cause : Nat) : State :=
  match SMap.find s.streams n with
  | none => s
  | some e =>
    let room := (Handle.ext e.drop 0 - 64) / e.recSize
    let heads := (s.unitRead e.launch e.drop 0 16).1
    let drops := bytesToNat (heads.take 8) + 1
    if e.dropped < room then
      let s := s.unitWrite e.launch e.drop (64 + e.dropped * e.recSize) (recMark bs (recSource bs) cause (recSeq bs))
      let s := s.unitWrite e.launch e.drop 0 (natToBytes 8 drops)
      { s with streams := SMap.put s.streams n { e with dropped := e.dropped + 1 } }
    else s.unitWrite e.launch e.drop 0 (natToBytes 8 drops ++ natToBytes 8 (bytesToNat (heads.drop 8) + 1))

/-! ### Windows (R107, R108) -/

def Binding.start (g : Binding) (k : Nat) : Nat := g.offset + k * g.slide
def Binding.stop (g : Binding) (k : Nat) : Nat := g.offset + k * g.slide + g.size

/-- A watermark has reached an event time; at its top it has reached every one (R105, R190). -/
def wmReached (w t : Nat) : Bool := t ≤ w || 2 ^ 64 - 1 ≤ w

/-- The windows of a binding that contain an event time. -/
def Binding.windowsOf (g : Binding) (t : Nat) : List Nat :=
  if t < g.offset then []
  else
    let top := (t - g.offset) / g.slide
    ((List.range (g.size / g.slide)).map (fun i => top + 1 - g.size / g.slide + i)).filter (fun k => k ≤ top && t < g.stop k && g.start k ≤ t)
      |>.foldl (fun l k => if l.contains k then l else l ++ [k]) []

def State.window (s : State) (b k : Nat) : Option Window := (SMap.find s.windows b).bind (fun m => SMap.find m k)
def State.setWindow (s : State) (b k : Nat) (w : Window) : State :=
  { s with windows := SMap.put s.windows b (SMap.put (SMap.get s.windows b []) k w) }
def State.delWindow (s : State) (b k : Nat) : State :=
  { s with windows := SMap.put s.windows b (SMap.del (SMap.get s.windows b []) k) }

/-- A window that opens. -/
def Window.fresh : Window := { st := .opened, rev := 0, recs := [], late := [], taken := [], task := none, pool := [] }

/-- Windows held on a die (R116). -/
def State.windowsHeld (s : State) (die : Nat) : Nat :=
  s.windows.foldl (fun n p => if dieOfStream (p.1 / 4) == die then n + p.2.length else n) 0

/-- What becomes of a record in one window (R109): held, or dropped with a cause. -/
inductive Applied where
  | held (w : Window)
  | dropped (cause : Nat)
  deriving DecidableEq, Repr

/-- The rule of R109 for a record in ring slot i and window k. -/
def State.applyWindow (s : State) (die b k i w : Nat) (g : Binding) : Applied :=
  let win := s.window b k
  let full := 4096 ≤ s.windowsHeld die
  if g.freed.contains k then .dropped 1
  else if w < g.stop k then
    match win with
    | none => if full then .dropped 2 else .held { Window.fresh with recs := [i] }
    | some x => if x.recs.length < g.maxrec then .held { x with recs := x.recs ++ [i] } else .dropped 3
  else match win with
    | some x =>
      if x.st == .failed then .dropped 4
      else if w < g.stop k + g.lateness then
        if x.late.length < 256 then .held { x with late := x.late ++ [i] } else .dropped 3
      else .dropped 1
    | none =>
      if w < g.stop k + g.lateness then (if full then .dropped 2 else .held { Window.fresh with late := [i] }) else .dropped 1

/-- Apply a data record (R109); one that needs a window beyond the die's limit interrupts the supervisor, once (R116). -/
def State.applyData (s : State) (n i : Nat) (bs : List Byte) : State :=
  match SMap.find s.streams n with
  | none => s
  | some e =>
    let step (acc : State × Nat × Nat × Bool) (p : Nat × Binding) : State × Nat × Nat × Bool :=
      (p.2.windowsOf (recEtime bs)).foldl (fun (acc : State × Nat × Nat × Bool) k =>
        match acc.1.applyWindow (dieOfStream n) p.1 k i e.w p.2 with
        | .held w => (acc.1.setWindow p.1 k w, acc.2.1 + 1, acc.2.2)
        | .dropped c => (acc.1, acc.2.1, c, acc.2.2.2 || c == 2)) acc
    let r := (s.bindings.filter (fun p => p.2.stream == n)).foldl step (s, 0, 0, false)
    let s := r.1
    let held := r.2.1
    let cause := if held == 0 && r.2.2.1 == 0 then 6 else r.2.2.1
    let e := (SMap.find s.streams n).getD e
    let warn := r.2.2.2 && !e.interrupted
    let e := { e with h := max e.h (recEtime bs), interrupted := e.interrupted || r.2.2.2,
                      slots := if held == 0 then SMap.del e.slots i else SMap.put e.slots i held }
    let s := { s with streams := SMap.put s.streams n e }
    let s := if cause == 0 then s else s.dropRecord n bs cause
    if warn then s.interruptSupervisor (s.launchPart e.launch) else s

/-- The watermark of a source after a record (R104, R106). -/
def Source.mark (c : Source) (w now kind etime : Nat) : Source :=
  let base := if c.st == .idle then max c.wm w else c.wm
  let wm := if kind == 1 then max base etime else if c.explicit then base else max base (etime - c.bound)
  { c with wm := wm, last := now, st := if c.st == .closed then .closed else .active }

/-- Apply the oldest record that has arrived in a stream (R105 step 1). -/
def State.applyArrival (s : State) (n i : Nat) : State :=
  match SMap.find s.streams n with
  | none => s
  | some e =>
    let bs := (s.unitRead e.launch e.ring (i * e.recSize) e.recSize).1
    let src := dieOfStream n * 1024 + recSource bs
    let kind := recKind bs
    let s := { s with streams := SMap.put s.streams n { e with arrivals := e.arrivals.filter (fun j => j.2 != i) } }
    let freeSlot (s : State) : State :=
      match SMap.find s.streams n with
      | some e => { s with streams := SMap.put s.streams n { e with slots := SMap.del e.slots i } }
      | none => s
    if 2 ≤ kind then freeSlot (s.dropRecord n bs 5)
    else
      let s := match SMap.find s.sources src with
        | some c => { s with sources := SMap.put s.sources src (c.mark e.w s.tick kind (recEtime bs)) }
        | none => s
      if kind == 1 then freeSlot s else s.applyData n i bs

/-! ### Firing (R110, R111, R114, R263) -/

/-- The order of a gather: ETIME, SOURCE, SEQ (R110). -/
def gatherBefore (a b : List Byte) : Bool :=
  let key (x : List Byte) : Nat := (recEtime x * 1024 + recSource x) * 2 ^ 44 + recSeq x
  key a < key b

/-- A handle over row k of the result region (R263). -/
def resultHandle (mode : BitVec 4) (g : Region) (id row off n : Nat) : Handle :=
  mkHandle mode 0 0 1 g.fmt g.layout.toNat id (fun d => if d = 0 then off else if d = 1 then row else 0) (fun d => if d = 0 then n else 1)

/-- Rows of the result region. -/
def State.resultRegion (s : State) (g : Binding) : Option Region := (s.launch? g.launch).bind (fun l => SMap.find l.regions g.result)

/-- Write 64-bit elements of a slot's header. -/
def State.writeHeader64 (s : State) (g : Binding) (r : Region) (k first : Nat) (ws : List Nat) : State :=
  let row := k % nth r.size 1 1
  let part := s.launchPart g.launch
  ((List.range ws.length).zip ws).foldl (fun s p =>
    s.storeVirtual part (r.base + locate r [first + p.1, row, 0, 0] / 8) (natToBytes 8 p.2)) s

/-- Element 3 of a slot's header: the record count and STATUS. -/
def State.headerCount (s : State) (g : Binding) (r : Region) (k : Nat) : Nat :=
  match s.readVirtual (s.launchPart g.launch) (r.base + locate r [3, k % nth r.size 1 1, 0, 0] / 8) 8 with
  | .ok bs => natBits (bytesToNat bs) 0 32
  | .error _ => 0

/-- The slot of window k belongs to no other window that is held (R108). -/
def State.slotFree (s : State) (b k rows : Nat) : Bool :=
  (SMap.get s.windows b []).all (fun p => p.1 == k || p.1 % rows != k % rows || k < p.1)

/-- Elements of a box that stand side by side from a place on, given the places of all of them. -/
def sideBySide (places : List Nat) (first w : Nat) : Nat :=
  ((List.range places.length).find? (fun j => !places.contains (first + j * w))).getD places.length

/-- The bytes of a binding's pool that stand side by side from its first element: virtual address and length (R263). -/
def State.poolBytes (s : State) (launch : Nat) (h : Handle) : Nat × Nat :=
  match (s.launch? launch).bind (fun l => SMap.find l.regions (Handle.region h)) with
  | none => (0, 0)
  | some g =>
    let w := fmtWidth g.fmt
    let at_ (c : List Nat) := locate g (regionCoord h c)
    let first := at_ [0, 0, 0, 0]
    let n := if Handle.count h = 0 then 0
      else if at_ (dims.map (fun d => Handle.ext h d - 1)) - first = (Handle.count h - 1) * w then Handle.count h
      else sideBySide ((boxCoords (Handle.ext h)).map at_) first w
    (g.base + (first + 7) / 8, (first + n * w) / 8 - (first + 7) / 8)

/-- The storage that the gathered boxes of a launch's windows hold: virtual address and length. -/
def State.poolUse (s : State) (launch : Nat) : List (Nat × Nat) :=
  s.windows.flatMap (fun p => match SMap.find s.bindings p.1 with
    | some g => if g.launch == launch then p.2.flatMap (fun q => q.2.pool.map (fun r => r.2)) else []
    | none => [])

/-- The address of a gathered box in a pool, beside those of every binding that shares its storage; a box without records needs no room. -/
def State.poolFit (s : State) (size launch : Nat) (h : Handle) : Option Nat :=
  let p := s.poolBytes launch h
  let used := ((s.poolUse launch).filter (fun u => p.1 < u.1 + u.2)).map (fun u => (u.1 - p.1, u.1 + u.2 - p.1 - (u.1 - p.1)))
  if size = 0 then some p.1 else (lowestFit 64 used size p.2).map (fun off => p.1 + off)

/-- The descriptor of a kernel's task (Table 6.3, R110), 0 for none. -/
def State.kernelDescriptor (s : State) (l : Launch) (g : Binding) : Nat :=
  if g.tdesc = 0 then 0
  else match s.readVirtual l.part (l.code + g.tdesc) 64 with
    | .ok bs => bytesToNat bs
    | .error _ => 0

/-- Gather the records of some ring slots into the pool: the region, the address and the handle of the box; none where it does not
fit. -/
def State.gather (s : State) (g : Binding) (e : EStream) (slots : List Nat) : Option (State × Nat × Nat × Handle) :=
  match s.launch? g.launch with
  | none => none
  | some l =>
    let size := slots.length * e.recSize
    match s.poolFit size g.launch g.pool with
    | some va =>
      let recs := slots.map (fun i => s.unitRead g.launch e.ring (i * e.recSize) e.recSize)
      let sorted := sortBy (fun x y => gatherBefore x.1 y.1) recs
      let part := l.part
      let put (acc : State × Nat) (r : List Byte × Bool) : State × Nat :=
        let s := acc.1.storeVirtual part acc.2 r.1
        let s := if r.2 then (match s.physical part acc.2 wantsRead with | .ok pa => s.poisonUnit pa | .error _ => s) else s
        (s, acc.2 + e.recSize)
      let s := (sorted.foldl put (s, va)).1
      let id := SMap.lowestFree l.regions
      let row := e.recSize / 4
      let r : Region := { base := va, size := [row, slots.length, 1, 1], stride := [0, e.recSize, 0, 0], fmt := Fm.z32, layout := 0,
                          rank := 1, level := 0, valid := true, shard := 0, root := none, org := [0, 0, 0, 0],
                          g := [row, slots.length, 1, 1], bytes := 0, owner := 0, launch := none, place := none }
      let s := s.setLaunch g.launch { l with regions := SMap.put l.regions id r }
      some (s, id, va, mkHandle modeIn 0 0 1 Fm.z32 0 id (fun _ => 0) (fun d => if d = 0 then row else if d = 1 then slots.length else 1))
    | none => none

/-- What a firing reads of its launch and partition can be read now: the task's descriptor and the launch queue descriptor. -/
def State.firingReads (s : State) (l : Launch) (g : Binding) : Bool :=
  s.queueReachable l.part && (g.tdesc == 0 || s.reachable l.part (l.code + g.tdesc) 64)

/-- An argument of a firing: its parent handle, mode, and whether it is copied. -/
def firingArg (h : Handle) (fresh : Bool) : Arg :=
  { parent := h, off := [0, 0, 0, 0], ext := dims.map (Handle.ext h), padLo := [0, 0, 0, 0], padHi := [0, 0, 0, 0], fresh := fresh,
    child := h, snap := [], hdrs := [], bad := none, stale := fresh }

/-- Fire or amend window k of a binding with the records of some slots (R110, R114): its task stands in the cluster's queue,
Copying-In; the machine stays as it is where the pool has no room. Every late record of an Absent window that a tick's end has applied is in its one
firing: R115 speaks of one such record, and the choice for several is the model's (log 33). -/
def State.fireWindow (s : State) (b k : Nat) (amend : Bool) : State :=
  match SMap.find s.bindings b with
  | none => s
  | some g =>
    match SMap.find s.streams g.stream, s.launch? g.launch, s.resultRegion g with
    | some e, some l, some r =>
      let w := (s.window b k).getD Window.fresh
      let slots := if amend then w.late else w.recs ++ w.late
      match if s.areaFull l.part (dieOfStream g.stream * 16 + g.cluster) || !s.firingReads l g then none else s.gather g e slots with
      | none => s
      | some (s, id, va, h0) =>
        let row := k % nth r.size 1 1
        let s := if amend then s else s.writeHeader64 g r k 0 [0, g.start k, g.stop k, slots.length]
        let desc := s.kernelDescriptor l g
        let args := [firingArg h0 true, firingArg (resultHandle modeInout r g.result row 8 (8 * g.slotb)) true,
                     firingArg (resultHandle modeView r g.result row 0 8) false]
        let t := s.taskId
        let live := (SMap.find s.contracts (contractKey l.part g.contract)).isSome && g.contract != 0xFFFF
        let rec_ := { Rec.empty with
          launch := g.launch, kind := if amend then .amendment b k else .firing b k, cluster := dieOfStream g.stream * 16 + g.cluster,
          entry := g.entry, fsize := natBits desc 0 4, level := 1, cls := if live then 0 else if g.contract = 0xFFFF then g.cls else 1,
          deadline := s.tick + g.budget, contract := if live then g.contract else 0xFFFF, wid := k,
          descBudget := natBits desc 32 32, sbufs := descriptorBuffers desc, args := args,
          boxes := args.map (fun a => if a.fresh then 0 else a.child) }
        let x := { Task.empty with st := .copyingIn, r := rec_ }
        let s := s.addTask t x
        let s := (s.setTask t (x.mapRec (fun q => { q with budget := s.sliceBudget x }))).enqueue t false
        let w := { w with st := if amend then .amending else .firing, recs := if amend then w.recs else slots, late := [],
                          taken := if amend then w.late else [], task := some t, pool := w.pool ++ [(id, va, slots.length * e.recSize)] }
        s.setWindow b k w
    | _, _, _ => s

/-- A window is Freed: its records leave the ring, its pool space and regions return (R115, R263), and the die's streams may
interrupt for a lack of windows again (R116). -/
def State.freeWindow (s : State) (b k : Nat) : State :=
  match SMap.find s.bindings b, s.window b k with
  | some g, some w =>
    let s := s.delWindow b k
    let s := match s.launch? g.launch with
      | some l => s.setLaunch g.launch { l with regions := l.regions.filter (fun p => !w.pool.any (fun q => q.1 == p.1)) }
      | none => s
    match SMap.find s.streams g.stream with
    | some e =>
      let drop (m : SMap Nat) (i : Nat) : SMap Nat := if SMap.get m i 0 ≤ 1 then SMap.del m i else SMap.put m i (SMap.get m i 0 - 1)
      let s := if e.w < g.stop k + g.lateness then
          { s with bindings := SMap.put s.bindings b { g with freed := k :: g.freed } } else s
      let e := { e with slots := (w.recs ++ w.late ++ w.taken).foldl drop e.slots }
      let streams := SMap.put s.streams g.stream e
      { s with streams := streams.map (fun (p : Nat × EStream) =>
          if dieOfStream p.1 == dieOfStream g.stream then (p.1, { p.2 with interrupted := false }) else p) }
    | none => s
  | _, _ => s

/-! ### SUNDIAL_TICK (R105) -/

/-- Streams of a die. -/
def State.dieStreams (s : State) (die : Nat) : List Nat := (s.streams.filter (fun p => dieOfStream p.1 == die)).map (fun p => p.1)

/-- Step 1: every record that has arrived on the die, in the order of arrival. -/
def State.applyArrivals (s : State) (die : Nat) : State :=
  let l := (s.streams.filter (fun p => dieOfStream p.1 == die)).flatMap (fun p => p.2.arrivals.map (fun a => (a.1, p.1, a.2)))
  (sortBy (fun (a b : Nat × Nat × Nat) => a.1 < b.1) l).foldl (fun s a => s.applyArrival a.2.1 a.2.2) s

/-- Step 2: an Active source without a record for T ticks is Idle. -/
def Source.idleAt (c : Source) (now : Nat) : Source := if c.st == .active && c.last + c.timeout ≤ now then { c with st := .idle } else c

/-- Step 3: the watermark rises to the least one over the Active sources; of a stream that closes, the sources close and it goes
to the top (R190, R264). -/
def State.raiseWatermark (s : State) (n : Nat) : State :=
  match SMap.find s.streams n with
  | none => s
  | some e =>
    let act := s.sources.filter (fun p => p.2.stream == n && p.2.st == .active)
    let low := act.foldl (fun m p => min m p.2.wm) (2 ^ 64 - 1)
    let w := if e.closing then 2 ^ 64 - 1 else if act.isEmpty then e.w else max e.w low
    { s with streams := SMap.put s.streams n { e with w := w, h := (if w < 2 ^ 64 - 1 then max e.h w else e.h), closed := e.closing },
             sources := if e.closing then s.sources.map (fun p => if p.2.stream == n then (p.1, { p.2 with st := .closed }) else p) else s.sources }

/-- Windows of a die's bindings that may be Freed (R108, R115). -/
def State.freeable (s : State) (die : Nat) : List (Nat × Nat) :=
  s.windows.flatMap (fun p =>
    match SMap.find s.bindings p.1 with
    | none => []
    | some g =>
      match SMap.find s.streams g.stream with
      | none => []
      | some e =>
        if dieOfStream g.stream != die then []
        else (p.2.filter (fun q => wmReached e.w (g.stop q.1 + g.lateness) && ((q.2.st == .published && q.2.late.isEmpty) || q.2.st == .failed))).map
          (fun q => (p.1, q.1)))

/-- The Absent windows of an EMPTY binding whose end the watermark has reached (R105, R108), from a number on: so many are looked at.
One whose slot belongs to an earlier window waits, and so does every later one of that slot. -/
def emptyWindows (g : Binding) (e : EStream) (held : SMap Window) (rows : Nat) (k : Nat) : Nat → List Nat
  | 0 => []
  | fuel + 1 =>
    let due := g.stop k ≤ e.w && (e.w < 2 ^ 64 - 1 || g.stop k ≤ e.h)
    let waits := (SMap.find held k).isSome || g.fired.contains k || g.freed.contains k || !held.all (fun p => p.1 % rows != k % rows || k < p.1)
    if !due then []
    else if waits then emptyWindows g e held rows (k + 1) fuel
    else k :: emptyWindows g e held rows (k + 1) fuel

/-- Window k of an EMPTY binding has fired: it is Absent no more. -/
def Binding.fire (g : Binding) (k : Nat) : Binding :=
  if k < g.next then g
  else
    let l := k :: g.fired
    let n := ((List.range (l.length + 1)).find? (fun i => !l.contains (g.next + i))).getD 0
    { g with next := g.next + n, fired := l.filter (fun i => g.next + n ≤ i) }

/-- Windows that fire at this tick's end: end, binding and number. -/
def State.firings (s : State) (die : Nat) : List (Nat × Nat × Nat) :=
  s.bindings.flatMap (fun p =>
    match SMap.find s.streams p.2.stream, s.resultRegion p.2 with
    | some e, some r =>
      if dieOfStream p.2.stream != die then []
      else
        let held := SMap.get s.windows p.1 []
        let rows := nth r.size 1 1
        let opened := (held.filter (fun q => q.2.st == .opened && wmReached e.w (p.2.stop q.1))).map (fun q => q.1)
        let empties := if p.2.emptyFires then emptyWindows p.2 e held rows p.2.next (rows * (p.2.fired.length + p.2.freed.length + 1)) else []
        (opened ++ empties).map (fun k => (p.2.stop k, p.1, k))
    | _, _ => [])

/-- Fire a window whose slot is free; an Absent one also needs a place among the die's windows (R116). -/
def State.fireOne (s : State) (f : Nat × Nat × Nat) : State :=
  match SMap.find s.bindings f.2.1 with
  | none => s
  | some g =>
    match s.resultRegion g with
    | none => s
    | some r =>
      if s.slotFree f.2.1 f.2.2 (nth r.size 1 1)
          && ((s.window f.2.1 f.2.2).isSome || s.windowsHeld (dieOfStream g.stream) < 4096) then
        let s' := s.fireWindow f.2.1 f.2.2 false
        match s'.window f.2.1 f.2.2, SMap.find s'.bindings f.2.1 with
        | some w, some g => if w.st == .firing && g.emptyFires then
            { s' with bindings := SMap.put s'.bindings f.2.1 (g.fire f.2.2) } else s'
        | _, _ => s'
      else s

/-- Windows of one tick in the order in which the unit takes them: end, binding, number (R110; for amendments log 33). -/
def byEnd (l : List (Nat × Nat × Nat)) : List (Nat × Nat × Nat) :=
  sortBy (fun a b => a.1 < b.1 || (a.1 == b.1 && (a.2.1 < b.2.1 || (a.2.1 == b.2.1 && a.2.2 < b.2.2)))) l

/-- Published windows with late records (R114): end, binding and number. -/
def State.amendable (s : State) (die : Nat) : List (Nat × Nat × Nat) :=
  s.windows.flatMap (fun p =>
    match if dieOfStream (p.1 / 4) != die then none else SMap.find s.bindings p.1 with
    | none => []
    | some g => (p.2.filter (fun q => q.2.st == .published && !q.2.late.isEmpty)).map (fun q => (g.stop q.1, p.1, q.1)))

/-- A closing stream whose last window is Freed goes, with its sources and bindings (R190). -/
def State.dropStream (s : State) (n : Nat) : State :=
  match SMap.find s.streams n with
  | none => s
  | some e =>
    let mine := s.bindings.filter (fun p => p.2.stream == n)
    let busy := mine.any (fun p => !(SMap.get s.windows p.1 []).isEmpty) || !e.arrivals.isEmpty
      || (s.firings (dieOfStream n)).any (fun f => f.2.1 / 4 == n)
    if !e.closed || busy then s
    else
      let s := { s with streams := SMap.del s.streams n, bindings := s.bindings.filter (fun p => p.2.stream != n),
                        sources := s.sources.filter (fun p => p.2.stream != n),
                        windows := s.windows.filter (fun p => p.1 / 4 != n) }
      s.tryFinishLaunch e.launch

/-- The work of a tick's end on a die. A closed source's number is free again at the end of the tick once no record of it waits: R106 names no
moment, and the choice is the model's (log 33). -/
def State.sundialTick (s : State) (die : Nat) : State :=
  let ns := s.dieStreams die
  let s := s.applyArrivals die
  let now := s.tick
  let s := { s with sources := s.sources.map (fun (p : Nat × Source) => if dieOfSource p.1 == die then (p.1, p.2.idleAt now) else p) }
  let s := ns.foldl (fun s n => s.raiseWatermark n) s
  let s := (s.freeable die).foldl (fun s p => s.freeWindow p.1 p.2) s
  let s := (byEnd (s.firings die)).foldl (fun s f => s.fireOne f) s
  let s := (byEnd (s.amendable die)).foldl (fun s p => s.fireWindow p.2.1 p.2.2 true) s
  let s := { s with sources := s.sources.filter (fun p => !(dieOfSource p.1 == die && p.2.st == .closed && p.2.waiting.isEmpty)) }
  ns.foldl (fun s n => s.dropStream n) s

/-- A group holds a line staged that the unit of a die may have to read: the counters of a drop ring, or a record in its
slot (R124). -/
def State.tickStalled (s : State) (die : Nat) : Bool :=
  (s.streams.filter (fun p => dieOfStream p.1 == die)).any (fun p =>
    s.holding (s.launchPart p.2.launch) || s.unitStalled p.2.launch p.2.drop 0 16 || p.2.slots.any (fun q => s.unitStalled p.2.launch p.2.ring (q.1 * p.2.recSize) p.2.recSize))

/-- The end of the tick has come and the unit of a die, which has streams, has not handled it. -/
def State.sundialDue (s : State) (die : Nat) : Bool :=
  s.cycle % 16 == 15 && (s.die die).ticked != s.tick + 1 && !(s.dieStreams die).isEmpty && !s.tickStalled die

/-- SUNDIAL_TICK: at the last cycle of a tick (R105), once, and once no line it reads stalls. -/
def execSundialTick (die : Nat) (s : State) : Out :=
  if s.sundialDue die then .next ((s.sundialTick die).setDie die { (s.sundialTick die).die die with ticked := s.tick + 1 }) else .next s

/-- SOURCE_IDLE (R105 step 2): after the tick's records have been applied. -/
def execSourceIdle (source : Nat) (s : State) : Out :=
  match SMap.find s.sources source with
  | none => .next s
  | some c =>
    let waiting := match SMap.find s.streams c.stream with | some e => !e.arrivals.isEmpty | none => false
    if s.cycle % 16 = 15 && !waiting then .next { s with sources := SMap.put s.sources source (c.idleAt s.tick) } else .next s

/-- STREAM_RECORD_ENTRY (R102): the oldest record that waits at a source takes a slot. -/
def execStreamRecordEntry (source : Nat) (s : State) : Out :=
  match SMap.find s.sources source with
  | none => .next s
  | some c =>
    match c.waiting with
    | [] => .next s
    | bs :: _ =>
      match s.enterRecord source bs with
      | none => .next s
      | some s' => match SMap.find s'.sources source with
        | some c' => .next { s' with sources := SMap.put s'.sources source { c' with waiting := c'.waiting.drop 1 } }
        | none => .next s'

/-! ### WINDOW_PUBLICATION (R112 to R114) -/

/-- The W timeline of a die rises (R113). -/
def State.publicationEvent (s : State) (die : Nat) : State := s.setDie die { s.die die with wtl := (s.die die).wtl + 1 }

/-- The unit acts on a returned firing or amendment. -/
def State.publishWindow (s : State) (b k : Nat) (amend : Bool) (status : Nat) : State :=
  match SMap.find s.bindings b, s.window b k with
  | some g, some w =>
    match s.resultRegion g with
    | none => s
    | some r =>
      let die := dieOfStream g.stream
      let count := s.headerCount g r k
      if status = 0 then
        let n := if amend then count + w.taken.length else count
        let rev := w.rev + 1
        let s := (s.writeHeader64 g r k 3 [n % 2 ^ 32]).writeHeader64 g r k 0 [rev]
        let s := (s.setWindow b k { w with st := .published, rev := rev, recs := w.recs ++ w.taken, taken := [], task := none }).publicationEvent die
        if w.late.isEmpty then s else s.fireWindow b k true
      else if !amend then
        let s := s.writeHeader64 g r k 3 [count + status * 2 ^ 32]
        ((s.setWindow b k { w with st := .failed, task := none }).publicationEvent die).interruptSupervisor (s.launchPart g.launch)
      else
        let s := s.writeHeader64 g r k 3 [count + status * 2 ^ 32]
        let s := match SMap.find s.streams g.stream with
          | some e => w.taken.foldl (fun (s : State) i =>
              let bs := (s.unitRead e.launch e.ring (i * e.recSize) e.recSize).1
              let s := s.dropRecord g.stream bs 4
              match SMap.find s.streams g.stream with
              | some e =>
                let m := if SMap.get e.slots i 0 ≤ 1 then SMap.del e.slots i else SMap.put e.slots i (SMap.get e.slots i 0 - 1)
                { s with streams := SMap.put s.streams g.stream { e with slots := m } }
              | none => s) s
          | none => s
        let s := (s.setWindow b k { w with st := .published, taken := [], task := none }).publicationEvent die
        if w.late.isEmpty then s else s.fireWindow b k true
  | _, _ => s

/-- The header of window k's slot cannot be read now: its channels are not there, or a write of the unit still waits (R124, R321, R323;
log 44). -/
def State.headerStalled (s : State) (b k : Nat) : Bool :=
  match SMap.find s.bindings b with
  | none => false
  | some g => match s.resultRegion g with
    | none => false
    | some r =>
      let part := s.launchPart g.launch
      s.holding part || [0, 1, 2, 3].any (fun i => !s.reachable part (r.base + locate r [i, k % nth r.size 1 1, 0, 0] / 8) 8)

/-- WINDOW_PUBLICATION: a firing or amendment task has reached Returned. -/
def execWindowPublication (t : Nat) (s : State) : Out :=
  match s.task? t with
  | none => .next s
  | some x =>
    if x.st != .returned then .next s
    else match x.r.kind with
      | .firing b k =>
        if s.headerStalled b k then .next s
        else .next (((s.delTask t).publishWindow b k false x.r.status).tryFinishLaunch x.r.launch)
      | .amendment b k =>
        -- the late records of a failed amendment are read for the drop ring
        if s.headerStalled b k || (x.r.status != 0 && s.tickStalled (dieOfStream (b / 4))) then .next s
        else .next (((s.delTask t).publishWindow b k true x.r.status).tryFinishLaunch x.r.launch)
      | _ => .next s

/-! ### The Sundial forms (R190) -/

/-- A handle of a ring or pool: SHARED, level 0 (R190). -/
def sharedLevel0 (h : Handle) : Res Unit := do
  useHandle h
  check (Handle.mode h == modeShared && Handle.level h == 0) Flt.mode

/-- The handle register after one. -/
def nextHandle (x : Task) (a : HReg) : Res Handle := do
  check (a.toNat + 1 < 32) Flt.illegal
  .ok (x.ctl.hd (BitVec.ofNat 5 (a.toNat + 1)))

/-- stopen. It names no die: the stream opens on the die of the task's cluster (log 43). -/
def execStopen (d : SReg) (a : HReg) (b : SReg) (s : State) : Out :=
  s.issue taskForm (fun x => do
    let rs ← x.src b
    x.dst d
    let drop ← nextHandle x a
    let ring := x.ctl.hd a
    check (rs.toNat < 2 ^ 16 && rs.toNat % 32 == 0 && 32 ≤ rs.toNat && rs.toNat ≤ 256) Flt.illegal
    sharedLevel0 ring
    sharedLevel0 drop
    check ([ring, drop].all (fun h => Handle.fmt h == Fm.z8 && Handle.rank h == 0)) Flt.format
    let _ ← s.regionOf x ring
    let _ ← s.regionOf x drop
    check (Handle.ext ring 0 % rs.toNat == 0 && 2 ≤ Handle.ext ring 0 / rs.toNat && 64 + rs.toNat ≤ Handle.ext drop 0) Flt.bounds
    match SMap.freeIn s.streams (256 * dieOfTask x) 256 with
    | none => fault Flt.capacity
    | some id =>
      let e : EStream := { launch := x.r.launch, ring := ring, drop := drop, recSize := rs.toNat, w := 0, h := 0, wpos := 0, slots := [],
                           arrivals := [], dropped := 0, closing := false, closed := false, interrupted := false }
      { s with streams := SMap.put s.streams id e }.done (x.wr d (word id)) 4)

/-- A stream that is open in the issuing task's launch. -/
def State.openStream (s : State) (x : Task) (id : Nat) : Res EStream :=
  match SMap.find s.streams id with
  | some e => if e.launch == x.r.launch && !e.closed then .ok e else fault Flt.bounds
  | none => fault Flt.bounds

/-- stsrc. -/
def execStsrc (d a b : SReg) (s : State) : Out :=
  s.issue taskForm (fun x => do
    let v ← x.src a
    let bound ← x.src b
    x.dst d
    let n := v.toNat
    check (natBits n 19 13 == 0 && natBits n 13 2 != 3 && natBits n 32 32 != 0) Flt.illegal
    let id := natBits n 0 12
    let e ← s.openStream x id
    match SMap.freeIn s.sources (1024 * dieOfStream id) 1024 with
    | none => fault Flt.capacity
    | some k =>
      let c : Source := { stream := id, explicit := natBits n 12 1 == 1, kind := natBits n 13 2, port := natBits n 15 4, bound := bound.toNat,
                          timeout := natBits n 32 32, st := .active, wm := e.w, last := s.tick, seq := 0, waiting := [] }
      { s with sources := SMap.put s.sources k c }.done (x.wr d (word k)) 4)

/-- The fields of a binding descriptor in range (R107, Table 6.3). Its reserved bits must be zero: what others do the spec does not say
(log 33). -/
def bindingOk (n csize : Nat) : Bool :=
  let w (i : Nat) := descWord n i
  let size := w 0
  let slide := w 1
  size != 0 && slide != 0 && slide ≤ size && size % slide == 0 && size / slide ≤ 64
    && natBits (w 4) 32 32 * 4 < csize && natBits (w 7) 0 32 % 64 == 0 && (natBits (w 7) 0 32 == 0 || natBits (w 7) 0 32 + 64 ≤ csize)
    && natBits (w 5) 0 25 == 0 && natBits (w 6) 0 28 == 0 && natBits (w 7) 32 32 == 0 && natBits (w 5) 25 16 != 0
    && !(natBits (w 5) 48 16 == 0xFFFF && (natBits (w 5) 46 2 == 0 || natBits (w 5) 46 2 == 3))

/-- stbind. A CONTRACT that the partition has not admitted is accepted, and the firings are then interactive; a CLUSTER outside the partition of the
launch is accepted, and the firings stand in its queue: R107 is silent on both, and the choices are the model's (log 33). -/
def execStbind (d a : SReg) (b : HReg) (s : State) : Out :=
  s.issue taskForm (fun x => do
    let v ← x.src a
    x.dst d
    let pool ← nextHandle x b
    check (v.toNat < 2 ^ 12) Flt.illegal
    let _ ← s.openStream x v.toNat
    let n := bytesToNat (← s.boxBytes x (x.ctl.hd b) 0 64 [0, 1, 2])
    sharedLevel0 pool
    let _ ← s.regionOf x pool
    match s.launch? x.r.launch with
    | none => fault Flt.bounds
    | some l =>
      check (bindingOk n l.csize) Flt.illegal
      let w (i : Nat) := descWord n i
      match SMap.find l.regions (natBits (w 6) 44 20) with
      | none => fault Flt.bounds
      | some r =>
        check ((r.fmt == Fm.s64 || r.fmt == Fm.z64) && r.rank == 1) Flt.format
        let slotb := natBits (w 6) 28 16
        check (8 + 8 * slotb ≤ nth r.size 0 0) Flt.bounds
        check (ceilDiv (w 0 + w 3) (w 1) + 1 ≤ nth r.size 1 1) Flt.capacity
        match SMap.freeIn s.bindings (4 * v.toNat) 4 with
        | none => fault Flt.capacity
        | some id =>
          let g : Binding := { stream := v.toNat, launch := x.r.launch, size := w 0, slide := w 1, offset := w 2, lateness := w 3,
                               entry := natBits (w 4) 32 32, budget := natBits (w 4) 0 32, contract := natBits (w 5) 48 16,
                               cls := natBits (w 5) 46 2, cluster := natBits (w 5) 42 4, emptyFires := natBits (w 5) 41 1 == 1,
                               maxrec := natBits (w 5) 25 16, result := natBits (w 6) 44 20, slotb := slotb, tdesc := natBits (w 7) 0 32,
                               pool := pool, next := 0, fired := [], freed := [] }
          { s with bindings := SMap.put s.bindings id g }.done (x.wr d (word id)) 4)

/-- strec: a release at die scope, then the record enters through its source; a full ring stalls it. -/
def execStrec (d a : SReg) (b : HReg) (s : State) : Out :=
  s.issue taskForm (fun x => do
    let src ← x.src d
    let off ← x.src a
    match SMap.find s.sources src.toNat with
    | none => fault Flt.bounds
    | some c =>
      check (c.st != .closed) Flt.bounds
      let e ← s.openStream x c.stream
      check (c.kind == 0) Flt.illegal
      waitFor (settled x)
      let bs ← s.boxBytes x (x.ctl.hd b) off.toNat e.recSize [0, 1, 2]
      waitFor (!s.tickDone (dieOfStream c.stream))
      match s.enterRecord src.toNat bs with
      | none => .error .stall
      | some s' => s'.done x 4)

/-- stclose: a source, or a stream with all its sources. -/
def execStclose (a : SReg) (s : State) : Out :=
  s.issue taskForm (fun x => do
    let v ← x.src a
    let n := v.toNat
    check (n < 2 ^ 16 && natBits n 14 1 == 0) Flt.illegal
    if natBits n 15 1 == 0 then
      match SMap.find s.sources (natBits n 0 14) with
      | none => fault Flt.bounds
      | some c =>
        check (c.st != .closed) Flt.bounds
        let _ ← s.openStream x c.stream
        waitFor (!s.tickDone (dieOfStream c.stream))
        { s with sources := SMap.put s.sources (natBits n 0 14) { c with st := .closed } }.done x 4
    else do
      check (natBits n 12 2 == 0) Flt.illegal
      let _ ← s.openStream x (natBits n 0 12)
      waitFor (!s.tickDone (dieOfStream (natBits n 0 12)))
      (s.closeStream (natBits n 0 12)).done x 4)

end Sys2Proof.Machine
end

