-- ==== Sys2Proof/Machine/Groups.lean ====
section
/-! DEFINITION. Commit groups: the group forms, the group-tagged store and the steps of the commit sequence (07 R120 to R127; 10
R191, R192). A destination keeps a group under originating device x 64 + group. -/

namespace Sys2Proof.Machine
open Sys2Proof

/-! ### Numbers -/

/-- The key of a group of this device at a destination. -/
def State.groupKey (s : State) (g : Nat) : Nat := s.deviceOf (s.cgroup g).launch * 64 + g

/-- Packets sent to a destination. -/
def CGroup.sentTo (c : CGroup) (d : Nat) : Nat := (c.sent.filter (fun p => p.1 == d)).length

/-- Before its decision (R124). -/
def CGroup.undecided (c : CGroup) : Bool := c.st == .opened || c.st == .preparing || c.st == .deciding

/-- A group that a task's launch has opened on this device; to another launch it behaves as Free (R120). -/
def State.ownGroup (s : State) (x : Task) (g : Nat) : Option CGroup :=
  let c := s.cgroup g
  if c.st != .free && c.launch == x.r.launch then some c else none

def DestGroup.empty : DestGroup :=
  { part := 63, received := [], poisonedBy := [], prepared := false, expected := none, decision := none, opening := 0, withdrawn := [] }

def State.dest (s : State) (key : Nat) : DestGroup := SMap.get s.dests key DestGroup.empty
def State.setDest (s : State) (key : Nat) (d : DestGroup) : State := { s with dests := SMap.put s.dests key d }

/-- An opening of a group has ended at this destination: what arrives of it later is dropped. -/
def State.endedHere (s : State) (key opening : Nat) : Bool := opening < SMap.get s.ended key 0

/-- A destination forgets a group whose decision it has applied. -/
def State.endDest (s : State) (key : Nat) : State :=
  { s with dests := SMap.del s.dests key, ended := SMap.put s.ended key (max (SMap.get s.ended key 0) ((s.dest key).opening + 1)) }

/-- A withdrawal of a task's stores of a group has not gone out yet (R123). -/
def State.withdrawing (s : State) (g t : Nat) : Bool := s.withdrawals.any (fun w => w.1 == g && w.2 / 256 == t)

/-- The timeout of a group has expired before its decision (R126, R191). -/
def State.groupExpired (s : State) (g : Nat) : Bool := (s.cgroup g).undecided && 16 * (s.cgroup g).timeoutAt + 15 ≤ s.cycle

/-! ### Decisions and aborts (R124 to R126) -/

/-- Every destination learns a decision: this device keeps it, another is sent a message. -/
def State.tellDests (s : State) (g : Nat) (publish : Bool) : State :=
  let c := s.cgroup g
  let me := s.deviceOf c.launch
  let part := s.launchPart c.launch
  c.dests.foldl (fun s d =>
    if d == me then s.setDest (me * 64 + g) { s.dest (me * 64 + g) with decision := some publish, opening := c.opening }
    else s.sendControl part d (if publish then kindPublish else kindAbort) g c.opening 0) s

/-- A task that waits at a replicated gcommit may go on: its gcommit completes when it issues again, for a task that was halted meanwhile
once it has been released (R127, R191; log 34). -/
def State.endCompare (s : State) (g : Nat) : State :=
  let c := s.cgroup g
  if c.replicas.isEmpty || c.compared then s
  else
    let s := s.setCGroup g { c with compared := true }
    match c.committer with
    | some t => s.modTask t (fun x => if x.r.comparing == some (g, false) then x.mapRec (fun r => { r with comparing := some (g, true) }) else x)
    | none => s

/-- Abort a group that is not yet decided, with a cause (R126): the first one that reached the originator stays, a REFUSED reply's
cause 6 among them. -/
def State.abortGroup (s : State) (g cause : Nat) : State :=
  let c := s.cgroup g
  if !c.undecided then s
  else
    let key := s.groupKey g
    let s := s.endCompare g
    let s := s.setCGroup g { s.cgroup g with st := .aborting, cause := if c.refused then 6 else cause }
    let s := { s with packets := s.packets.filter (fun p => p.dev * 64 + p.group != key) }
    s.tellDests g false

/-- The group is Free with its outcome (R124 step 6). -/
def State.freeGroup (s : State) (g : Nat) : State := s.setCGroup g { s.cgroup g with st := .free, done := true }

/-! ### The group forms (R191) -/

/-- A group number in a register that holds nothing else. -/
def groupOperand (v : Word) : Res Nat := do
  check (v.toNat < 64) Flt.illegal
  .ok v.toNat

/-- gopen. With 64 it takes the lowest Free group, where R191 says any (log 45). -/
def execGopen (d a b : SReg) (s : State) : Out :=
  s.issue taskForm (fun x => do
    let t ← x.src a
    let n ← x.src b
    x.dst d
    check (1 ≤ t.toNat && t.toNat < 2 ^ 32 && n.toNat ≤ 64) Flt.illegal
    let pick := if n.toNat < 64 then (if (s.cgroup n.toNat).st == .free then some n.toNat else none)
      else (List.range 64).find? (fun g => (s.cgroup g).st == .free)
    match pick with
    | none => s.done (x.wr d 64) 4
    | some g =>
      (s.setCGroup g { CGroup.reset with
        st := .opened, launch := x.r.launch, timeoutAt := s.tick + t.toNat, opening := (s.cgroup g).opening + 1 }).done (x.wr d (word g)) 4)

/-- The parameters of a replicated gcommit (R191): digest and replica devices, ascending. -/
def State.replicaParams (s : State) (x : Task) (h : Handle) : Res (List Byte × List Nat) := do
  let head ← s.boxBytes x h 0 80 [0]
  let r := bytesToNat ((head.drop 48).take 2)
  check (2 ≤ r && r ≤ 8) Flt.illegal
  let devs := (List.range r).map (fun i => bytesToNat ((head.drop (64 + 2 * i)).take 2))
  check ((List.range (r - 1)).all (fun i => nth devs i 0 < nth devs (i + 1) 0)) Flt.illegal
  let size := match s.launch? x.r.launch with | some l => l.meshDevices | none => 0
  check (devs.all (fun d => d < size)) Flt.bounds
  .ok (head.take 48, devs)

/-- gcommit: a release at system scope, then R124 begins; a replicated one holds its task until the digests have been compared
(R127). -/
def execGcommit (a : SReg) (b : HReg) (s : State) : Out :=
  s.issue taskForm (fun x => do
    let v ← x.src a
    let g := v.toNat % 64
    let replicated := v.getLsbD 8
    check (v.toNat == g + flag replicated * 256 && (replicated || b == 0)) Flt.illegal
    if x.r.comparing == some (g, true) then s.done (x.mapRec (fun r => { r with comparing := none })) 4
    else do
      waitFor (x.r.comparing != some (g, false))
      match s.ownGroup x g with
      | none => fault Flt.group
      | some c => do
        check (c.st == .opened) Flt.group
        if replicated then do
          let (digest, devs) ← s.replicaParams x (x.ctl.hd b)
          waitFor (settled x)
          let me := s.deviceOf x.r.launch
          let s := s.setCGroup g { c with st := .preparing, committer := some s.cur, replicas := devs, digests := (me, digest) :: c.digests }
          let s := s.setTask s.cur (x.mapRec (fun r => { r with comparing := some (g, false) }))
          .ok ((devs.filter (fun d => d != me)).foldl (fun s d =>
            if s.groupRoute (s.launchPart x.r.launch) d then s.sendOn (s.launchPart x.r.launch) (.digest d g digest) else s) s)
        else do
          waitFor (settled x)
          (s.setCGroup g { c with st := .preparing, committer := some s.cur }).done x 4)

/-- gabort. -/
def execGabort (a : SReg) (s : State) : Out :=
  s.issue taskForm (fun x => do
    let g ← groupOperand (← x.src a)
    match s.ownGroup x g with
    | none => s.done x 4
    | some _ => .ok ((s.abortGroup g 1).modTask s.cur (fun x => x.retire 4)))

/-- State codes of gstat. -/
def groupCode : GroupSt → Nat
  | .free => 0
  | .opened => 1
  | .preparing => 2
  | .deciding => 3
  | .publishing => 4
  | .aborting => 5

/-- gstat: the last opening of the number by the task's own launch. -/
def execGstat (d a : SReg) (s : State) : Out :=
  s.issueScalar taskForm 4 d (fun x => do
    let g ← groupOperand (← x.src a)
    let c := s.cgroup g
    if c.launch == x.r.launch && (c.st != .free || c.done) then
      .ok (word (groupCode c.st + 8 + c.cause * 2 ^ 4 + flag c.done * 2 ^ 7 + c.discarded % 2 ^ 32 * 2 ^ 32))
    else .ok 0)

/-! ### Group-tagged stores (R121, R122, R192) -/

/-- The live launches of a partition on a mesh, oldest first. -/
def State.meshLaunches (s : State) (part mesh : Nat) : List (Nat × Launch) :=
  s.launches.filter (fun l => l.2.part == part && l.2.live && l.2.service.isNone && l.2.field 9 0 50 == mesh)

/-- What names a launch on another device (log 25): its mesh in the low 50 bits, and its place among the live launches of its
partition on that mesh. -/
def State.meshWord (s : State) (launch : Nat) : Nat :=
  match s.launch? launch with
  | some l => l.field 9 0 50 + 2 ^ 50 * ((s.meshLaunches l.part (l.field 9 0 50)).filter (fun p => p.1 < launch)).length
  | none => 0

/-- The bytes of values in a message: a mark, the coordinates and the value of each. -/
def elemBytesOf (es : List RemoteElem) : List Byte :=
  es.flatMap (fun e => natToBytes 1 (flag e.hdr) ++ dims.flatMap (fun d => natToBytes 4 (nth e.coord d 0)) ++ natToBytes 8 e.v)

/-- A store packet leaves: to this device's own staging, or to another over a usable route (log 25). It is checked against the
level-0 table of a launch. On another device it is for the partition with the number that the originator's has here: the spec numbers no partition
across devices (R121, R349), and the choice is the model's (log 25). -/
def State.sendPacket (s : State) (g t dest launch table : Nat) (st : Stream) (cls : BitVec 4) (h : Handle) (es : List RemoteElem) : State :=
  let c := s.cgroup g
  let me := s.deviceOf launch
  let part := s.launchPart launch
  let mesh := s.meshWord table
  let run := packetRun t (match s.task? t with | some x => x.r.runs | none => 0)
  let c := { c with contributors := if c.contributors.contains t then c.contributors else c.contributors ++ [t] }
  if dest != me && !s.groupRoute part dest then s.setCGroup g { c with unsent := t :: c.unsent.filter (fun w => w != t) }
  else
  let s := s.setCGroup g { c with sent := c.sent ++ [(dest, t)] }
  if dest == me then { s with packets := s.packets ++ [{ dev := me, group := g, opening := c.opening, who := run, stream := st, cls := cls, dest := dest, part := part,
                                                           launch := some table, mesh := mesh, handle := h, elems := es, bad := false }] }
  else s.sendOn part (.packet dest (natToBytes 1 g ++ natToBytes 1 part ++ natToBytes 6 run ++ natToBytes 1 (match st with | .copy => 1 | _ => 0)
      ++ natToBytes 1 cls.toNat ++ natToBytes 8 mesh ++ natToBytes 32 h.toNat ++ natToBytes 4 c.opening ++ elemBytesOf es))

/-- The bytes of an element of a region as writes at offsets from BASE. -/
def elemOffsets (g : Region) (p : List Nat) (v : Nat) : List ByteWrite :=
  let b := elemBytes g p
  bitWrites ((List.range b.2).map (fun i => b.1 + i)) (locate g p % 8) (fmtWidth g.fmt) v

/-- What a value writes in a region, as offsets from BASE. -/
def RemoteElem.writes (e : RemoteElem) (g : Region) : List ByteWrite :=
  if e.hdr then byteWrites (locateHeader g e.coord) (natToBytes (headerBytes g.fmt) e.v) else elemOffsets g e.coord e.v

/-- st.g: one group-tagged store, its element found against the handle's extents alone (R192). A store into a group past Open is discarded and counted. -/
def execStG (m : StG) (s : State) : Out :=
  s.issue taskForm (fun x => do
    let v ← x.src m.s
    let t ← x.src m.a
    let i ← x.src m.idx
    let g := t.toNat % 64
    let dev := t.toNat / 2 ^ 16 % 2 ^ 16
    check (t.toNat == g + dev * 2 ^ 16) Flt.illegal
    let h := x.ctl.hd m.h
    match s.ownGroup x g with
    | none => fault Flt.group
    | some c =>
      sharedLevel0 h
      let p ← handleElem h i.toNat m.sz
      let size := match s.launch? x.r.launch with | some l => l.meshDevices | none => 0
      check (dev < size) Flt.bounds
      -- a task that was rolled back contributes afresh once its withdrawal has gone out (R123)
      waitFor (!s.withdrawing g s.cur)
      if c.st == .opened then (s.sendPacket g s.cur dev x.r.launch (s.activeLaunch x) .control m.cls h [{ coord := regionCoord h p, hdr := false, v := v.toNat }]).done x 8
      else (s.setCGroup g { c with discarded := c.discarded + 1 }).done x 8)

/-! ### Staging at a destination (R121, R122) -/

/-- Line entries in use in a die's Orangery buffer: lines of one group merge. -/
def State.linesUsed (s : State) (die : Nat) : Nat :=
  ((SMap.get s.staged die []).foldl (fun (l : List (Nat × Nat)) e =>
    match e.writes with
    | w :: _ => let k := (e.dev * 64 + e.group, w.a / 64); if l.contains k then l else k :: l
    | [] => l) []).length

/-- The launch of a packet here: its own, or, for one from another device, the live one of the partition that its mesh and place name with
this device in it (log 25). -/
def State.packetLaunch (s : State) (p : Packet) : Option Launch :=
  match p.launch with
  | some n => s.launch? n
  | none => ((s.meshLaunches p.part (p.mesh % 2 ^ 50))[p.mesh / 2 ^ 50]?).map (fun l => l.2)

/-- The region that a packet's handle names in its launch's level-0 table, under R36 (R121). -/
def State.packetRegion (s : State) (p : Packet) : Option Region :=
  let h := p.handle
  let fits (g : Region) : Bool :=
    g.valid && Handle.fmt h == g.fmt && Handle.layout h == g.layout.toNat && Handle.rank h == g.rank.toNat
      && g.level == 0 && dims.all (fun d => Handle.org h d + Handle.ext h d ≤ nth g.size d 1)
  (s.packetLaunch p).bind (fun l => (SMap.find l.regions (Handle.region h)).filter fits)

/-- The physical bytes of a packet: its handle is right, every element lies in its region, every page is mapped, writable and, for a
group's, commit-eligible (R121). -/
def State.packetCells (s : State) (p : Packet) (group : Bool) : Option (List ByteWrite) :=
  match s.packetRegion p with
  | none => none
  | some g =>
    if !p.elems.all (fun e => dims.all (fun d => nth e.coord d 0 < nth g.size d 1)) then none
    else (p.elems.flatMap (fun e => e.writes g)).mapM (fun w =>
      match s.walk p.part (g.base + w.a) wantsWrite with
      | .ok (e, shift) =>
        if !group || natBits e 7 1 == 1 then some { w with a := natBits e 16 30 * 2 ^ 16 + (g.base + w.a) % 2 ^ shift }
        else none
      | .error _ => none)

/-- The walks for a packet's bytes can be made now (R321, R323). -/
def State.packetReachable (s : State) (p : Packet) : Bool :=
  match s.packetRegion p with
  | some g => (p.elems.flatMap (fun e => e.writes g)).all (fun w => s.walkable [] p.part (g.base + w.a))
  | none => true

/-- Writes gathered by the 64-byte line that they reach, each line once, in the order of their first write. -/
def byLine (ws : List ByteWrite) : List (List ByteWrite) :=
  let lines := ws.foldl (fun (l : List Nat) w => if l.contains (w.a / 64) then l else l ++ [w.a / 64]) []
  lines.map (fun k => ws.filter (fun w => w.a / 64 == k))

/-- No earlier packet of the same stream and class waits: packets of one stream in one class arrive in program order (R122). -/
def firstOfStream (l : List Packet) (k : Nat) : Bool :=
  match l[k]? with
  | some p => (l.take k).all (fun q => !(q.dev == p.dev && q.who == p.who && q.stream == p.stream && q.cls == p.cls))
  | none => false

/-- A full buffer at this destination aborts the group with cause 3 (R122, R126). -/
def State.reportFull (s : State) (p : Packet) : State :=
  match s.groups.find? (fun q => q.1 == p.group && s.groupKey q.1 == p.dev * 64 + p.group && q.2.st != .free) with
  | some q => s.abortGroup q.1 3
  | none => s.sendControl p.part p.dev kindFull p.group p.opening 0

/-- Stage the bytes of a packet that reach one line, in the buffer beside that line's stack; none where it has no free entry
(R122). -/
def State.stageLine (s : State) (p : Packet) (ws : List ByteWrite) : Option State :=
  match ws with
  | [] => some s
  | w :: _ =>
    let die := stackDie w.a
    let old := SMap.get s.staged die []
    let merges := old.any (fun e => e.dev == p.dev && e.group == p.group && e.writes.any (fun v => v.a / 64 == w.a / 64))
    if !merges && 131072 ≤ s.linesUsed die then none
    else
      let gran := match s.frameAt w.a with | some f => f.gran | none => 0
      some { s with staged := SMap.put s.staged die (old ++ [{ dev := p.dev, group := p.group, who := p.who, gran := gran, writes := ws }]) }

/-- The k-th packet on its way reaches its destination: it is staged line by line, poisons its group there, or finds a buffer full;
poisoned data poisons the group too (R121, R122, Table 21.3). A packet of an opening that has ended here, or of a run that has been
withdrawn, is dropped (R123, R126). -/
def execOrangeryStaging (k : Nat) (s : State) : Out :=
  match s.packets[k]? with
  | none => .next s
  | some p =>
    if !firstOfStream s.packets k || !s.packetReachable p then .next s
    else
      let s := { s with packets := s.packets.eraseIdx k }
      let key := p.dev * 64 + p.group
      let d := s.dest key
      if d.decision == some false || s.endedHere key p.opening || d.withdrawn.contains p.who then .next s
      else
        let d := { d with opening := p.opening, part := p.part, received := d.received ++ [p.who] }
        let poisoned := { d with poisonedBy := d.poisonedBy ++ [p.who] }
        match s.packetCells p true with
        | none => .next (s.setDest key poisoned)
        | some ws =>
          let s := s.setDest key (if p.bad then poisoned else d)
          .next (match (byLine ws).foldlM (fun s l => s.stageLine p l) s with
            | some s' => s'
            | none => s.reportFull p)

/-- The k-th entry of a die's Orangery buffer takes an error: one that cannot be corrected poisons its group here (Table 21.3). -/
def State.noteStaged (s : State) (die k : Nat) (ecc : Ecc) : State :=
  match (SMap.get s.staged die [])[k]? with
  | some e =>
    let key := e.dev * 64 + e.group
    let d := s.dest key
    if ecc == .uncorrectable then s.setDest key { d with poisonedBy := d.poisonedBy ++ [e.who] } else s
  | none => s

/-- The staged entries of a group, in arrival order. -/
def State.stagedOf (s : State) (key : Nat) : List Staged :=
  s.staged.flatMap (fun p => p.2.filter (fun e => e.dev * 64 + e.group == key))

/-- Drop staged entries. -/
def State.unstage (s : State) (gone : Staged → Bool) : State :=
  { s with staged := s.staged.map (fun p => (p.1, p.2.filter (fun e => !gone e))) }

/-- Forget a contributor's entries of a group at this destination, and its packets that have arrived and wait (R123). -/
def State.withdrawHere (s : State) (key who : Nat) : State :=
  let d := s.dest key
  let s := { s with packets := s.packets.filter (fun p => !(p.dev * 64 + p.group == key && p.who == who)) }
  (s.unstage (fun e => e.dev * 64 + e.group == key && e.who == who)).setDest key
    { d with received := d.received.filter (fun w => w != who), poisonedBy := d.poisonedBy.filter (fun w => w != who),
             withdrawn := who :: d.withdrawn }

/-- A destination learns of a withdrawal and, once PREPARE has been sent, of its new count; one with no packet left forgets
the group. -/
def State.tellWithdrawal (s : State) (g run : Nat) (c : CGroup) (dest : Nat) : State :=
  let me := s.deviceOf c.launch
  let part := s.launchPart c.launch
  let n := c.sentTo dest
  let deciding := c.st == .deciding
  if dest == me then
    let key := me * 64 + g
    let s := s.withdrawHere key run
    if n = 0 then { s with dests := SMap.del s.dests key }
    else if deciding then s.setDest key { s.dest key with expected := (s.dest key).expected.map (fun _ => n) }
    else s
  else
    let s := s.sendControl part dest kindWithdraw g c.opening run
    if deciding then s.sendControl part dest (if n = 0 then kindAbort else kindPrepare) g c.opening n else s

/-- WITHDRAWAL (R123): the originator lowers its counts, at this device and by messages at the others. -/
def execWithdrawal (g t : Nat) (s : State) : Out :=
  match s.withdrawals.find? (fun w => w.1 == g && w.2 / 256 == t) with
  | none => .next s
  | some w =>
    let s := { s with withdrawals := s.withdrawals.filter (fun p => p != w) }
    let c := s.cgroup g
    if !c.undecided then .next s
    else
      let told := { c with sent := c.sent.filter (fun p => p.2 == t) }.dests
      let c := { c with sent := c.sent.filter (fun p => p.2 != t), unsent := c.unsent.filter (fun w => w != t) }
      .next (told.foldl (fun s d => s.tellWithdrawal g w.2 c d) (s.setCGroup g c))

/-! ### The commit sequence (R124) -/

/-- PREPARE_SEND: every contributor other than the issuing task has reached Returned and every packet has left over a usable
route; a group without packets publishes at once. -/
def execPrepareSend (g : Nat) (s : State) : Out :=
  let c := s.cgroup g
  let returned (t : Nat) : Bool := match s.task? t with | some y => y.st == .returned | none => true
  if !(c.st == .preparing && !s.groupExpired g && (c.replicas.isEmpty || c.compared) && !s.withdrawals.any (fun p => p.1 == g)
      && c.unsent.isEmpty && c.dests.all (fun d => d == s.deviceOf c.launch || s.groupRoute (s.launchPart c.launch) d)
      && c.contributors.all (fun t => c.committer == some t || returned t)) then .next s
  else if c.dests.isEmpty then .next (s.freeGroup g)
  else
    let me := s.deviceOf c.launch
    let s := s.setCGroup g { c with st := .deciding }
    .next (c.dests.foldl (fun s d =>
      if d == me then s.setDest (me * 64 + g) { s.dest (me * 64 + g) with expected := some (c.sentTo d), opening := c.opening }
      else s.sendControl (s.launchPart c.launch) d kindPrepare g c.opening (c.sentTo d)) s)

/-- A destination's reply reaches the originator: PREPARED, or REFUSED with cause 6. -/
def State.replyPrepared (s : State) (g dest : Nat) (refused : Bool) : State :=
  let c := s.cgroup g
  if c.st != .deciding then s
  else if refused then s.setCGroup g { c with refused := true }
  else s.setCGroup g { c with prepared := dest :: c.prepared.filter (fun d => d != dest) }

/-- PREPARED: this device as the destination of a group, by its key there, has received as many packets as PREPARE named; it
stalls the reads of the staged lines, or refuses. -/
def execPrepared (g dest : Nat) (s : State) : Out :=
  let d := s.dest g
  match d.expected with
  | none => .next s
  | some n =>
    if d.prepared || d.received.length != n || d.decision.isSome then .next s
    else
      let own := s.groups.find? (fun q => s.groupKey q.1 == g && q.2.st != .free)
      let refused := !d.poisonedBy.isEmpty
      let s := if refused then s.setDest g { d with expected := none } else s.setDest g { d with prepared := true }
      match own with
      | some q => .next (s.replyPrepared q.1 dest refused)
      | none => .next (s.sendControl d.part (g / 64) (if refused then kindRefused else kindPrepared) (g % 64) d.opening dest)

/-- GROUP_DECISION: Publish when every reply is PREPARED, Abort on any REFUSED. After the timeout there is only the abort (R126). -/
def execGroupDecision (g : Nat) (s : State) : Out :=
  let c := s.cgroup g
  if c.st != .deciding || s.groupExpired g || s.withdrawals.any (fun p => p.1 == g) then .next s
  else if c.refused then .next (s.abortGroup g 6)
  else if c.dests.all (fun d => c.prepared.contains d) then .next ((s.setCGroup g { c with st := .publishing }).tellDests g true)
  else .next s

/-- A destination's acknowledgement reaches the originator. -/
def State.acknowledge (s : State) (g dest : Nat) : State :=
  let c := s.cgroup g
  s.setCGroup g { c with acked := dest :: c.acked.filter (fun d => d != dest) }

/-- The acknowledgement of this device as a destination, of the partition that the group reached. -/
def State.sendAck (s : State) (key dest part opening : Nat) : State :=
  match s.groups.find? (fun q => s.groupKey q.1 == key && q.2.st != .free) with
  | some q => s.acknowledge q.1 dest
  | none => s.sendControl part (key / 64) kindAck (key % 64) opening dest

/-- A staged entry is written: where its frame still has the granule and owner that it was staged for (R319). -/
def State.publishEntry (s : State) (part : Nat) (e : Staged) : State :=
  s.store (e.writes.filter (fun w => s.frameOk w.a part e.gran))

/-- PUBLISH: this device, as a destination, writes the masked bytes of a group, frees its entries and acknowledges. It waits for the
channels of its lines (R323). -/
def execPublish (g dest : Nat) (s : State) : Out :=
  if (s.dest g).decision != some true || !(s.stagedOf g).all (fun e => e.writes.all (fun w => s.online w.a)) then .next s
  else
    let part := (s.dest g).part
    let opening := (s.dest g).opening
    let s := (s.stagedOf g).foldl (fun s e => s.publishEntry part e) s
    let s := s.unstage (fun e => e.dev * 64 + e.group == g)
    .next ((s.endDest g).sendAck g dest part opening)

/-- ABORT_DISCARD: this device, as a destination, discards a group's entries and acknowledges. -/
def execAbortDiscard (g dest : Nat) (s : State) : Out :=
  if (s.dest g).decision != some false then .next s
  else
    let part := (s.dest g).part
    let opening := (s.dest g).opening
    let s := s.unstage (fun e => e.dev * 64 + e.group == g)
    let s := { s.endDest g with packets := s.packets.filter (fun p => p.dev * 64 + p.group != g) }
    .next (s.sendAck g dest part opening)

/-- GROUP_FREE: every destination has acknowledged. -/
def execGroupFree (g : Nat) (s : State) : Out :=
  let c := s.cgroup g
  if (c.st == .publishing || c.st == .aborting) && c.dests.all (fun d => c.acked.contains d) then .next (s.freeGroup g) else .next s

/-- The other replicas of a group whose digests have not been compared learn that its timeout has expired: every group aborts (R127). -/
def State.tellReplicas (s : State) (g : Nat) : State :=
  let c := s.cgroup g
  if c.compared then s
  else (c.replicas.filter (fun d => d != s.deviceOf c.launch)).foldl
    (fun s d => s.sendControl (s.launchPart c.launch) d kindExpired g c.opening 0) s

/-- GROUP_TIMEOUT: at the end of the tick that the timeout names (R126, R191). -/
def execGroupTimeout (g : Nat) (s : State) : Out :=
  if s.groupExpired g then .next ((s.tellReplicas g).abortGroup g 2) else .next s

/-! ### Replica digests (R127) -/

/-- Halt this device's replica: its committing task, running or pre-empted at its gcommit, and the running tasks of its partition's
contracts are Held, and the contracts are suspended. -/
def State.haltReplica (s : State) (g : Nat) : State :=
  let c := s.cgroup g
  let part := s.launchPart c.launch
  let hold (s : State) (t : Nat) : State :=
    match s.task? t with
    | none => s
    | some x =>
      if x.r.core.isNone && x.st == .runnable && x.r.comparing.isSome && c.committer == some t then
        (s.dequeue t).modTask t (fun y => { y with st := .held })
      else if x.r.core.isNone || x.st != .running then s
      else match s.suspend t with
        | some s' => s'.modTask t (fun y => { y with st := .held })
        | none => s.saveFails t
  let s := { s with contracts := s.contracts.map (fun (p : Nat × Contract) => if p.2.part == part then (p.1, { p.2 with suspended := true }) else p) }
  let mine := (s.tasks.filter (fun p => s.partOf p.2 == part && (s.contractOf p.2).isSome)).map (fun p => p.1)
  (match c.committer with | some t => t :: mine | none => mine).foldl hold s

/-- What the comparison decides for one replica: publish, abort, or abort with its traffic fenced. -/
inductive Verdict where
  | publish
  | minority
  | split
  deriving DecidableEq, Repr

/-- The decision for a device (R127). -/
def verdict (digests : List (Nat × List Byte)) (n dev : Nat) : Verdict :=
  let mine := match digests.find? (fun p => p.1 == dev) with | some p => p.2 | none => []
  let same (d : List Byte) : Nat := (digests.filter (fun p => p.2 == d)).length
  if same mine == n then .publish
  else if n < 3 then .split
  else if n < 2 * same mine then .publish
  else if digests.any (fun p => n < 2 * same p.2) then .minority else .split

/-- A group waits for the comparison of its replicas' digests (R127). -/
def CGroup.awaitsCompare (c : CGroup) : Bool := c.st == .preparing && !c.replicas.isEmpty && !c.compared

/-- A verdict acts on this device's group while it waits for one. -/
def State.applyVerdict (s : State) (g : Nat) (v : Verdict) : State :=
  if !(s.cgroup g).awaitsCompare then s
  else match v with
  | .publish => s.endCompare g
  | .minority => { (s.endCompare g).haltReplica g with fencedTraffic := true }.abortGroup g 5
  | .split => ((s.endCompare g).haltReplica g).abortGroup g 5

/-- REPLICA_DIGEST_COMPARE: the coordinator, once every replica's digest has arrived. -/
def execReplicaDigestCompare (g : Nat) (s : State) : Out :=
  let c := s.cgroup g
  let me := s.deviceOf c.launch
  let n := c.replicas.length
  if !(c.awaitsCompare && !s.groupExpired g && c.replicas.head? == some me
      && c.replicas.all (fun d => c.digests.any (fun p => p.1 == d))) then .next s
  else
    let part := s.launchPart c.launch
    let code (v : Verdict) : Nat := match v with | .publish => 0 | .minority => 1 | .split => 2
    let s := (c.replicas.filter (fun d => d != me)).foldl (fun s d => s.sendControl part d kindVerdict g c.opening (code (verdict c.digests n d))) s
    let mine := verdict c.digests n me
    let s := if mine == .split then
        let s := s.send (.report (c.digests.flatMap (fun p => p.2)))
        match s.part? part with | some p => s.send (.msix p.vf (p.msix % 256)) | none => s
      else s
    .next (s.applyVerdict g mine)

end Sys2Proof.Machine
end

