-- ==== Sys2Proof/Machine/Launches.lean ====
section
/-! DEFINITION. The launch unit, the launches that the management cores submit, and the service cores (02 R20, R21; 07 R117,
R118; 18 R265 to R267, R276; 19 R289 to R293; 24 R361). -/

namespace Sys2Proof.Machine
open Sys2Proof

/-! ### How the tables of a launch are read -/

/-- Who reads: the launch unit through a partition's page tables, the management cores through a level-1 table that they
built, or a service core's scratchpad. -/
inductive ReadBy where
  | part (p : Nat)
  | table (l1 : Nat)
  | service (die : Nat)
  deriving DecidableEq, Repr

/-- Bytes at an address; none where no page is mapped, or where they are poisoned (Table 21.3). -/
def State.readBy (s : State) (r : ReadBy) (a n : Nat) : Option (List Byte) :=
  match r with
  | .part p => (s.readVirtual p a n).toOption
  | .table l1 => ((pageRuns a n).mapM (fun (r : Nat × Nat) =>
      match s.walkFrom [] 63 r.1 l1 walkLevels with
      | .ok w =>
        let pa := natBits w.leaf 16 30 * 2 ^ 16 + r.1 % 2 ^ w.shift
        if isDram pa && (match s.frameAt pa with | some f => f.gran == natBits w.leaf 4 3 | none => false)
            && !(List.range r.2).any (fun i => s.isBad (pa + i)) then
          some (Memory.readList s.mem pa r.2) else none
      | .error _ => none)).map List.flatten
  | .service d =>
    let base := scratchpad (serviceCore d)
    if a + n ≤ 2 ^ 21 && !((List.range n).any (fun i => s.isBad (base + a + i))) then some (Memory.readList s.mem (base + a) n) else none

/-- The number in some bytes. -/
def State.readNatBy (s : State) (r : ReadBy) (a n : Nat) : Option Nat := (s.readBy r a n).map bytesToNat

/-! ### Root boxes (R117, R118, R290) -/

/-- The region descriptor of a root box table entry. -/
def rootRegion (b : Nat) : Region :=
  let w (i : Nat) : Nat := natBits b (64 * i) 64
  { base := w 0, size := dims.map (fun d => natBits (w (d + 1)) 36 28), stride := dims.map (fun d => natBits (w (d + 1)) 0 36),
    fmt := BitVec.ofNat 6 (natBits (w 5) 58 6), layout := BitVec.ofNat 4 (natBits (w 5) 54 4), rank := BitVec.ofNat 2 (natBits (w 5) 52 2),
    level := BitVec.ofNat 2 (natBits (w 5) 50 2), valid := natBits (w 5) 49 1 == 1, shard := BitVec.ofNat 24 (natBits (w 6) 0 24),
    root := none, org := [0, 0, 0, 0], g := dims.map (fun d => natBits b (768 + 32 * d) 32), bytes := 0, owner := 0,
    launch := none, place := none }

/-- The handle of an entry. -/
def rootHandle (b : Nat) : Handle := BitVec.ofNat 256 (natBits b 512 256)

/-- Reserved bits of an entry and of its descriptor are zero. -/
def rootEntryReserved (b : Nat) : Bool :=
  natBits b 52 12 == 0 && natBits b (64 * 5) 49 == 0 && natBits b (64 * 6 + 24) 40 == 0 && natBits b (64 * 7) 64 == 0
    && natBits b 896 128 == 0 && natBits b 740 6 == 0 && dims.all (fun d => natBits b (64 * 6 + 6 * d) 2 == 0)

/-- KIND and AXIS of a dimension. -/
def shardKind (g : Region) (d : Nat) : Nat := (g.shard.extractLsb' (6 * d + 4) 2).toNat
def shardAxis (g : Region) (d : Nat) : Nat := (g.shard.extractLsb' (6 * d + 2) 2).toNat

/-- The local size of a dimension (Table 7.1). -/
def localSize (kind g n m : Nat) : Nat :=
  if kind = 0 then g
  else if kind = 1 then min (ceilDiv g n) (g - m * ceilDiv g n)
  else ceilDiv (g - m) n

/-- A root box keeps R117: no axis twice, the local sizes of Table 7.1, global sizes above 0. -/
def rootShardOk (l : Launch) (g : Region) : Bool :=
  dims.all (fun d =>
    let k := shardKind g d
    let j := shardAxis g d
    nth g.g d 0 != 0 && k != 3 && (k == 0 || j < l.axes)
      && nth g.size d 1 == localSize k (nth g.g d 0) (l.meshSize j) (l.meshCoord j)
      && dims.all (fun e => e == d || k == 0 || shardKind g e == 0 || shardAxis g e != j))

/-- In LAYOUT 0 to 3 an element of 8 bits or more asks that every stride its address uses is a multiple of its bytes; the launch unit writes
no other descriptor (R39). -/
def stridesOk (g : Region) : Bool :=
  let unused := match g.layout.toNat with | 0 => some 0 | 1 => some 1 | _ => none
  3 < g.layout.toNat || fmtWidth g.fmt < 8
    || dims.all (fun d => g.rank.toNat < d || some d == unused || nth g.stride d 0 % (fmtWidth g.fmt / 8) == 0)

/-- A root handle is the whole of its own region (R36, R290), at the level that the launch has; its format is neither NONE nor a
reserved code (R58). A misaligned stride breaks it, since Table 19.3 has no other reason for R39; a SIZE above the rank that is not 1, for which
the table has none at all, is accepted with its handle (R37; log 27). -/
def rootHandleOk (n level : Nat) (g : Region) (h : Handle) : Bool :=
  g.valid && g.fmt != Fm.none && !fmtReserved g.fmt && g.level.toNat == level && Handle.region h == n && Handle.fmt h == g.fmt && Handle.layout h == g.layout.toNat
    && Handle.rank h == g.rank.toNat && Handle.level h == level && stridesOk g
    && dims.all (fun d => Handle.org h d == 0 && Handle.ext h d == nth g.size d 1)

/-! ### Rejection (R291, Table 19.3) -/

/-- The work identifier keeps R20. -/
def widOk (l : Launch) : Bool :=
  let fs := List.range l.fields
  1 ≤ l.fields && l.fields ≤ 6 && fs.all (fun f => 1 ≤ l.width f && l.count f ≤ 2 ^ l.width f)
    && fs.foldl (fun n f => n + l.width f) 0 ≤ 64 && l.roots ≤ 2 ^ 32

/-- The mesh keeps R117. -/
def meshOk (l : Launch) : Bool :=
  (List.range l.axes).all (fun j => l.meshCoord j < l.meshSize j) && l.meshDevices ≤ 4096

/-- The reserved bits of a header are zero. -/
def headerReservedOk (l : Launch) : Bool :=
  l.field 0 52 12 == 0 && l.field 2 39 25 == 0 && l.field 6 14 2 == 0 && l.field 6 5 3 == 0 && l.field 7 52 4 == 0
    && l.field 8 61 3 == 0 && l.field 9 50 14 == 0 && l.field 10 48 16 == 0 && l.field 12 32 32 == 0
    && [13, 14, 15].all (fun w => l.field w 0 64 == 0)

/-- The code image, the tables, the shape records and the root tasks' descriptor are there (reason 4). -/
def State.tablesMapped (s : State) (r : ReadBy) (l : Launch) : Bool :=
  let mapped (a n : Nat) : Bool := (s.readBy r a n).isSome
  l.csize != 0 && mapped l.code l.csize && mapped l.boxtab (128 * l.nbox) && mapped l.shapetab (16 * l.nshape)
    && (List.range l.nshape).all (fun i => match s.readNatBy r (l.shapetab + 16 * i) 16 with
        | some d => mapped (natBits d 0 52) (4 * (natBits d 64 16 + 1))
        | none => false)
    && (l.rtdesc == 0xFFFFFFFF || (l.rtdesc % 64 == 0 && l.rtdesc + 64 ≤ l.csize))

/-- The root box table, entry by entry, as far as it can be read. -/
def State.rootEntries (s : State) (r : ReadBy) (l : Launch) : List (Nat × Nat) :=
  (List.range l.nbox).filterMap (fun n => (s.readNatBy r (l.boxtab + 128 * n) 128).map (fun b => (n, b)))

/-- The queue area, which a pinned page backs (Table 20.2), can hold the root tasks' pending descriptors, one for each of a cluster's
root tasks (reason 8). -/
def State.areaHolds (s : State) (part : Nat) (l : Launch) : Bool :=
  let d := s.queueDescriptor part
  let share := natBits d 116 12 * 1024
  l.clusters.isEmpty || (ceilDiv l.roots l.clusters.length ≤ share && s.pinned part (natBits d 64 52))

/-- The lowest reason of Table 19.3 that applies, or 0. A launch is read from a ring, submitted by the management cores, or
one of a service core. -/
def State.rejectReason (s : State) (r : ReadBy) (l : Launch) (ring supervisor : Bool) (entryOk : Bool) : Nat :=
  let es := s.rootEntries r l
  let service := l.service.isSome
  let level := if service then 2 else 0
  let contractHeld := (SMap.find s.contracts (contractKey l.part l.contract)).isSome && l.contract < 1024
  let contractOk :=
    if service then l.cls == 0 && l.contract == 0 && !l.periodic
    else l.cls != 3 && (l.contract == 0xFFFF || contractHeld) && (l.cls != 0 || l.contract != 0xFFFF)
      && (!l.periodic || l.contract != 0xFFFF)
  let cases : List (Nat × Bool) :=
    [ (1, widOk l && (!service || (l.fields == 1 && l.count 0 == 1))),
      (2, meshOk l && (!service || (l.field 9 0 50 == 0 && l.field 10 0 48 == 0))
        && es.all (fun p => rootShardOk l (rootRegion p.2) && rootHandleOk p.1 level (rootRegion p.2) (rootHandle p.2))),
      (3, 1 ≤ l.profile && l.profile ≤ 4),
      (4, s.tablesMapped r l),
      (5, contractOk),
      (6, !(l.priv && (ring || service))),
      (7, headerReservedOk l && l.ovr != 3 && entryOk && es.all (fun p => rootEntryReserved p.2)
        && (List.range l.nshape).all (fun i => match s.readNatBy r (l.shapetab + 16 * i) 16 with
            | some d => natBits d 52 12 == 0 && natBits d 80 48 == 0
            | none => true)),
      (8, service || supervisor || s.areaHolds l.part l) ]
  match cases.find? (fun p => !p.2) with
  | some p => p.1
  | none => 0

/-! ### Acceptance (R21, R262, R292) -/

/-- A launch before its checks. -/
def newLaunch (hdr : Nat) (part : Nat) (clusters : List Nat) (crec : Option Nat) (supervisor : Bool) (service : Option Nat) : Launch :=
  { hdr := BitVec.ofNat 1024 hdr, part := part, clusters := clusters, regions := [], crec := crec, supervisor := supervisor,
    service := service, live := true, closing := false, start := 0, releases := 0, skipped := 0, fatal := 0, fatalWid := 0,
    fatalStatus := 0 }

/-- The region table of an accepted launch. -/
def State.withRegions (s : State) (r : ReadBy) (l : Launch) : Launch :=
  { l with regions := (s.rootEntries r l).map (fun p => (p.1, rootRegion p.2)) }

/-- The cluster list of a launch of a partition (R21). -/
def State.clusterList (s : State) (part contract : Nat) : List Nat :=
  match if contract = 0xFFFF then none else SMap.find s.contracts (contractKey part contract) with
  | some k => k.clusters
  | none => s.partClusters part

/-- Accept a launch: its root tasks are created at once, or under PERIODIC at its releases. -/
def State.acceptLaunch (s : State) (l : Launch) : State :=
  let n := SMap.lowestFree s.launches
  let l := { l with start := if l.startTick = 0 then s.tick else l.startTick, releases := if l.periodic then 0 else 1 }
  let s := s.setLaunch n l
  let deadline := match if l.contract = 0xFFFF then none else SMap.find s.contracts (contractKey l.part l.contract) with
    | some k => s.tick + k.rdead
    | none => 2 ^ 64 - 1
  if l.periodic then s else s.createRoots n l deadline

/-- Reject a launch: the reason stands in the completion record, and then the issuer is interrupted: the host function whose ring
held it, or the management cores (R265, R291, R351). -/
def State.rejectLaunch (s : State) (part vf crec code : Nat) (ring : Bool) : State :=
  let s := s.storeVirtual part crec (natToBytes 8 (code * 2 ^ 8))
  if ring then s.istatAfter part vf istatRejected else s.managementAfter part launchUnit code

/-- A header that a partition's launch unit checks (R291): accepted, rejected, or waiting for room in the queue area (R294). -/
def State.submitLaunch (s : State) (part vf crec hdr : Nat) (ring entryOk : Bool) : Option State :=
  let l0 := newLaunch hdr part [] (some crec) false none
  let l := { l0 with clusters := s.clusterList part l0.contract }
  let code := s.rejectReason (.part part) l ring false entryOk
  if code != 0 then some (s.rejectLaunch part vf crec code ring)
  else if l.clusters.any (s.areaFull part) then none
  else some (s.acceptLaunch (s.withRegions (.part part) l))

/-- Every bit of a 64-byte ring entry beside its two addresses is zero (R289). -/
def ringEntryOk (e : Nat) : Bool := natBits e 52 12 == 0 && natBits e 116 396 == 0

/-- What the launch unit reads for a header may be read now (R124, R321, R323): the queue descriptor, the image, the root box and shape tables,
the shape records. -/
def State.tablesReachable (s : State) (part : Nat) (l : Launch) : Bool :=
  s.queueReachable part && s.reachable part l.code l.csize && s.reachable part l.boxtab (128 * l.nbox)
    && s.reachable part l.shapetab (16 * l.nshape)
    && (List.range l.nshape).all (fun i => match s.readNatBy (.part part) (l.shapetab + 16 * i) 16 with
        | some d => s.reachable part (natBits d 0 52) (4 * (natBits d 64 16 + 1))
        | none => true)

/-- LAUNCH: the launch unit of a partition reads the 64-byte ring entry at HEAD (R289, R351), on a pinned page (Table 20.2). -/
def execLaunch (part : Nat) (s : State) : Out :=
  match s.part? part with
  | none => .next s
  | some p =>
    let f := s.hostFn p.vf
    let d := s.queueDescriptor part
    let size := natBits d 52 12
    if p.resetting || !s.queueReachable part || f.head == f.tail || size == 0 then .next s
    else
      let moved := s.setHostFn p.vf { f with head := (f.head + 1) % size }
      let ring := natBits d 0 52 + 64 * f.head
      match if s.pinned part ring then s.readVirtual part ring 64 else .error Flt.prot with
      | .error _ => .next (moved.raiseIstat p.vf istatRejected)
      | .ok bs =>
        if !s.reachable part ring 64 then .next s
        else
        let e := bytesToNat bs
        let crec := natBits e 64 52
        match s.readVirtual part (natBits e 0 52) 128 with
        | .error _ => .next (moved.rejectLaunch part p.vf crec 4 true)
        | .ok hs =>
          if !(s.reachable part (natBits e 0 52) 128 && s.tablesReachable part (newLaunch (bytesToNat hs) part [] none false none)) then .next s
          else match moved.submitLaunch part p.vf crec (bytesToNat hs) true (ringEntryOk e) with
          | some s' => .next s'
          | none => .next s

/-- PRIVILEGED_LAUNCH (R265): the management cores, once their firmware runs, submit the header of a privileged launch to the
launch unit of a partition. -/
def execPrivilegedLaunch (part crec : Nat) (header : List Byte) (s : State) : Out :=
  match s.part? part with
  | none => .next s
  | some p =>
    let hdr := bytesToNat (header.take 128)
    let l := newLaunch hdr part [] none false none
    if p.resetting || !s.boot.started || !l.priv || !s.tablesReachable part l then .next s
    else match s.submitLaunch part p.vf crec hdr false true with
      | some s' => .next s'
      | none => .next s

/-! ### Supervisor launches (R267) -/

/-- The management cores take a frame that no partition owns: it is in use, all zeros, and owned by none (63) until its
partition is created. -/
def State.takeFrame (s : State) (pa gran : Nat) : Option State :=
  let die := stackDie pa
  let k := s.stack die
  let f := frameIndex pa
  let base := frameBase die f
  let old := match SMap.find k.frames f with | some e => granCells e.gran | none => 0
  let owned := match SMap.find k.frames f with | some e => e.owner < 36 | none => false
  if !isDram pa || owned || 4 ≤ gran || k.freeCells + old < granCells gran then none
  else
    let s := s.setStack die { k with freeCells := k.freeCells + old - granCells gran, frames := SMap.put k.frames f { gran := gran, owner := 63 } }
    some { s with mem := Memory.clear s.mem base 65536, poison := s.poison.filter (fun w => !(base ≤ 8 * w && 8 * w < base + 65536)) }

/-- The images that the management cores write lie in the frames they took. -/
def loadOk (x : LoadImage) : Bool :=
  x.writes.all (fun w => (List.range w.2.length).all (fun i => x.frames.any (fun f => f.1 / 65536 == (w.1 + i) / 65536)))
    && x.header.length == 128

/-- The page tables that the management cores built for a launch (R267, R311): the level-1 table is the storage of its root box 2, Z64,
rank 1, extent 8,192, aligned to 64 KiB; every page that they map is pinned. -/
def State.supervisorTables (s : State) (l1 : Nat) (l : Launch) : Bool :=
  l1 % 65536 == 0 && (s.leaves l1 walkLevels).all (fun e => natBits e.1 8 1 == 1)
    && match s.readNatBy (.table l1) (l.boxtab + 256) 128 with
      | some b =>
        let g := rootRegion b
        2 < l.nbox && g.fmt == Fm.z64 && g.rank == 0 && nth g.size 0 0 == 8192
          && match s.walkFrom [] 63 g.base l1 walkLevels with
            | .ok w => natBits w.leaf 16 30 * 2 ^ 16 + g.base % 2 ^ w.shift == l1
            | .error _ => false
      | none => false

/-- A reply of the management cores stands in MBOX of PF 0 and ISTAT says so (R350). -/
def State.replied (s : State) (m : Message) (bytes : List Byte) : State :=
  let s := s.send m
  (s.setHostFn 0 { s.hostFn 0 with mbox := BitVec.ofNat 512 (bytesToNat (bytes.take 64)) }).raiseIstat 0 istatReply

/-- SUPERVISOR_LAUNCH: the management cores, once their firmware runs, load the launch, check it and reply with its number, or with the REJECT code
and nothing changed. -/
def execSupervisorLaunch (x : LoadImage) (s : State) : Out :=
  let reply (number code : Nat) (s : State) : State :=
    let bytes := natToBytes 4 number ++ natToBytes 4 code ++ natToBytes 56 0
    s.replied (.mailbox 0 bytes) bytes
  match if loadOk x && s.boot.started then x.frames.foldlM (fun s f => s.takeFrame f.1 f.2) s else none with
  | none => .next s
  | some s1 =>
    let s2 := x.writes.foldl (fun s w => s.storeBytes w.1 w.2) s1
    let l := newLaunch (bytesToNat x.header) 63 [] none true none
    let code := s2.rejectReason (.table x.l1) l false true true
    if code != 0 then .next (reply 0 code s)
    else if !s2.supervisorTables x.l1 l then .next s
    else match (List.range 4096).find? (fun n => (SMap.find s2.svLaunches n).isNone) with
      | none => .next s
      | some n =>
        let k := SMap.lowestFree s2.launches
        let s3 := s2.setLaunch k (s2.withRegions (.table x.l1) l)
        .next (reply n 0 { s3 with
          svLaunches := SMap.put s3.svLaunches n { launch := k, frames := x.frames.map (fun f => f.1), l1 := x.l1, part := none } })

/-! ### Service cores (R361) -/

/-- A die with a service core. -/
def isDie (d : Nat) : Bool := d < 9

/-- Start the launch whose header lies at HDR in a service core's scratchpad. -/
def State.startService (s : State) (die : Nat) : State :=
  let d := s.die die
  let r : ReadBy := .service die
  match s.readNatBy r d.svcHdr 128 with
  | none => (s.setDie die { d with svcReject := 4 }).interruptManagement (serviceCore die) 4
  | some hdr =>
    let l := newLaunch hdr 63 [] none false (some die)
    let code := s.rejectReason r l false false true
    if code != 0 then (s.setDie die { d with svcReject := code }).interruptManagement (serviceCore die) code
    else
      let n := SMap.lowestFree s.launches
      let l := s.withRegions r l
      let s := (s.setLaunch n l).setDie die { d with svcReject := 0, svcBusy := true }
      let t := s.taskId
      let desc := s.rootDescriptor l
      let c := serviceCore die
      let x := { Task.empty with
        st := .copyingIn
        r := { Rec.empty with
          launch := n, kind := .service die, cluster := die * 16, entry := l.entry, fsize := natBits desc 0 4, level := 2, cls := l.cls, contract := l.contract,
          sbufs := descriptorBuffers desc, bound := some c, boxes := (s.rootBoxes l).map (fun p => p.2) } }
      (s.addTask t (s.startSlice c x 0)).modCore c (fun k => { k with task := some t })

/-- SVCRUN: a write of the register (Table 24.2). -/
def execSvcrun (die : Nat) (v : Word) (s : State) : Out :=
  if !isDie die then .next s
  else
    let d := s.die die
    let d := { d with svcHdr := natBits v.toNat 0 21, svcDone := d.svcDone && !v.getLsbD 61 }
    let s := s.setDie die d
    .next (if v.getLsbD 63 && !d.svcBusy && d.up then s.startService die else s)

/-- SERVICE_TASK_END: SVCSTAT takes the STATUS of the ended task, DONE is set and the management cores are interrupted. -/
def execServiceTaskEnd (die : Nat) (s : State) : Out :=
  match s.tasks.find? (fun p => p.2.r.kind == TaskKind.service die && p.2.st == .returned) with
  | none => .next s
  | some p =>
    let s := s.setDie die { s.die die with svcStatus := p.2.r.status % 256, svcDone := true, svcBusy := false }
    let s := match s.launch? p.2.r.launch with
      | some l => s.setLaunch p.2.r.launch { l with live := false }
      | none => s
    .next ((s.delTask p.1).interruptManagement (serviceCore die) (p.2.r.status % 256))

/-- SERVICE_CORE_RESET (R276): a service core that a double trap has stopped starts anew without a task. -/
def execServiceCoreReset (die : Nat) (s : State) : Out :=
  if !(s.die die).svcStopped then .next s
  else
    let gone := s.tasks.filter (fun p => p.2.r.kind == TaskKind.service die)
    let s := { s with tasks := s.tasks.filter (fun p => !(p.2.r.kind == TaskKind.service die)) }
    let s := gone.foldl (fun s p => match s.launch? p.2.r.launch with
      | some l => s.setLaunch p.2.r.launch { l with live := false }
      | none => s) s
    .next ((s.setCore (serviceCore die) Core.reset).setDie die { s.die die with svcStopped := false, svcBusy := false })

end Sys2Proof.Machine
end

