-- ==== Sys2Proof/Machine/HostPort.lean ====
section
/-! DEFINITION. The host port: its registers, the mailbox, record submission and memory accesses (22 R346 to R352), and the
management registers that a write reaches (20 R320; 21 R345; 23 R358). -/

namespace Sys2Proof.Machine
open Sys2Proof

/-- The partition that a virtual function serves; none for PF 0. -/
def State.functionPart (s : State) (vf : Nat) : Option (Nat × Part) := if vf = 0 then none else s.parts.find? (fun p => p.2.vf == vf)

/-- A write of DOORBELL (R350, R351): discarded during a reset of the partition (R349); a tail at or above RSIZE is ignored. -/
def State.doorbell (s : State) (vf : Nat) (v : Word) : State :=
  match s.functionPart vf with
  | none => s
  | some p =>
    let t := v.toNat % 4096
    if p.2.resetting then s.raiseIstat vf istatDbLost
    else if natBits (s.queueDescriptor p.1) 52 12 ≤ t then s.raiseIstat vf istatBadTail
    else s.setHostFn vf { s.hostFn vf with tail := t }

/-- DOORBELL. -/
def execDoorbell (vf : Nat) (tail : BitVec 64) (s : State) : Out := .next (s.doorbell vf tail)

/-- The function exists: PF 0; a partition's, or once a start has succeeded each of the 36 (R350, R356). -/
def State.hasFunction (s : State) (vf : Nat) : Bool := vf == 0 || (s.functionPart vf).isSome || (vf ≤ 36 && s.boot.started)

/-- The message in MBOX goes to the management cores (R350). -/
def State.mailboxSend (s : State) (vf : Nat) : State := s.send (.mailbox vf (natToBytes 64 (s.hostFn vf).mbox.toNat))

/-- MBSEND. -/
def execMbsend (vf : Nat) (s : State) : Out := if s.hasFunction vf then .next (s.mailboxSend vf) else .next s

/-- Free record slots of a source's stream ring, those left out that waiting records will take (CREDIT, Table 22.2). -/
def State.credit (s : State) (source : Nat) : Nat :=
  match (SMap.find s.sources source).bind (fun c => SMap.find s.streams c.stream) with
  | some e => e.size - e.slots.length - (match SMap.find s.sources source with | some c => c.waiting.length | none => 0)
  | none => 0

/-- A source takes records from outside: of a kind, of a stream of a partition, not closed. -/
def State.sourceOf (s : State) (source kind : Nat) (part : Option Nat) : Option (Source × EStream) :=
  match SMap.find s.sources source with
  | none => none
  | some c =>
    match SMap.find s.streams c.stream with
    | none => none
    | some e =>
      if c.kind == kind && c.st != .closed && (match part with | some p => s.launchPart e.launch == p | none => true) then some (c, e) else none

/-- A write of SUBMIT (R352): the record in RECWIN enters through a source of kind 1, or NOCRED is set. One that comes after the unit's work
of the tick is done, or behind one that waits, takes its slot next (STREAM_RECORD_ENTRY). -/
def State.submitRecord (s : State) (vf : Nat) (v : Word) : State :=
  match s.functionPart vf with
  | none => s
  | some p =>
    let src := v.toNat % 2 ^ 14
    let rec_ := natToBytes 256 (s.hostFn vf).recwin.toNat
    match if p.2.resetting then none else s.sourceOf src 1 (some p.1) with
    | none => s.raiseIstat vf istatNoCred
    | some c =>
      if s.credit src = 0 then s.raiseIstat vf istatNoCred
      else match if c.1.waiting.isEmpty then s.enterRecord src rec_ else none with
        | some s' => s'
        | none => { s with sources := SMap.put s.sources src { c.1 with waiting := c.1.waiting ++ [rec_.take c.2.recSize] } }

/-- SUBMIT. -/
def execSubmit (vf : Nat) (v : Word) (s : State) : Out := .next (s.submitRecord vf v)

/-! ### Register writes (R6) -/

/-- Replace word i of a register of several words. -/
def putWord (w : Nat) (x : BitVec w) (i : Nat) (v : Word) : BitVec w :=
  (x &&& ~~~((BitVec.ofNat w (2 ^ 64 - 1)) <<< (64 * i))) ||| (v.setWidth w <<< (64 * i))

/-- A host register (Table 22.2): PF 0 has no DOORBELL, RECWIN, SUBMIT and CREDSRC. -/
def State.writeHostReg (s : State) (vf reg : Nat) (v : Word) : State :=
  let f := s.hostFn vf
  if reg = 0x000 then s.doorbell vf v
  else if reg = 0x010 then s.setHostFn vf { f with istat := f.istat &&& ~~~(v.setWidth 8) }
  else if reg = 0x018 then
    let s := s.setHostFn vf { f with imask := v.setWidth 8 }
    let opened := f.istat &&& f.imask &&& ~~~(v.setWidth 8)
    if opened == 0 then s else s.raiseIstat vf opened
  else if 0x100 ≤ reg && reg < 0x140 then s.setHostFn vf { f with mbox := putWord 512 f.mbox ((reg - 0x100) / 8) v }
  else if reg = 0x140 then (if v.getLsbD 0 then s.mailboxSend vf else s)
  else if vf = 0 then s
  else if 0x200 ≤ reg && reg < 0x300 then s.setHostFn vf { f with recwin := putWord 2048 f.recwin ((reg - 0x200) / 8) v }
  else if reg = 0x300 then s.submitRecord vf v
  else if reg = 0x308 then s.setHostFn vf { f with credsrc := v.toNat % 2 ^ 14 }
  else s

/-- STATUS of PF 0 (Table 22.2). -/
def Boot.statusWord (b : Boot) : Nat := flag b.minimal + 2 ^ 8 * b.reason

/-- Word i of a register of several words. -/
def wordAt (w : Nat) (x : BitVec w) (i : Nat) : Word := word (natBits x.toNat (64 * i) 64)

/-- What a read of a host register gives (Table 22.2): the write-only ones and reserved bits read zero (R6), as those do that PF 0 does not
have. CREDIT counts the slots of the source that CREDSRC names, of the function's partition. -/
def State.readHostReg (s : State) (vf reg : Nat) : Word :=
  let f := s.hostFn vf
  if !s.hasFunction vf then 0
  else if reg = 0x010 then f.istat.setWidth 64
  else if reg = 0x018 then f.imask.setWidth 64
  else if reg = 0x020 then (if vf = 0 then word s.boot.statusWord else 0)
  else if 0x100 ≤ reg && reg < 0x140 then wordAt 512 f.mbox ((reg - 0x100) / 8)
  else if vf = 0 then 0
  else if reg = 0x008 then word f.head
  else if reg = 0x308 then word f.credsrc
  else if reg = 0x310 then
    match s.functionPart vf with
    | some p => (match s.sourceOf f.credsrc 1 (some p.1) with | some _ => word (s.credit f.credsrc) | none => 0)
    | none => 0
  else 0

/-- What a read of a bring-up register gives (Table 23.3). -/
def State.readBoot (s : State) (reg : Nat) : Word :=
  if reg = 0x000 then word (s.boot.fails + 2 ^ 8 * s.boot.lastReason)
  else if reg = 0x008 then word s.boot.minver
  else if reg = 0x010 then s.boot.keyrev.setWidth 64
  else 0

/-- A containment register (Table 21.5): reserved bits ignore the write, SCRUBINT below 20 is held as 20. -/
def State.writeContainmentReg (s : State) (die reg : Nat) (v : Word) : State :=
  let d := s.die die
  let win : Word := v &&& 0xFF00FFFFFFFFFFFF
  if reg = 0x000 then s.setDie die { d with chkwin := win }
  else if reg = 0x008 then s.setDie die { d with cewin := win }
  else if reg = 0x010 then s.setDie die { d with uewin := win }
  else if reg = 0x018 then s.setDie die { d with scrubint := max 20 (v.toNat % 64) }
  else s

/-- Events of a list that are still inside a window (R339), as many as a field of 8 bits shows (log 24). -/
def inWindow (now win : Nat) (l : List Nat) : Nat := min 255 (l.filter (fun t => now ≤ t + win)).length

/-- What a read of a containment register gives (Table 21.5, R345). -/
def State.readContainmentReg (s : State) (die reg : Nat) : Word :=
  let d := s.die die
  let fenced (lo : Nat) : Word := word (packBits 1 ((List.range 64).map (fun i => if (s.core (128 * die + lo + i)).fenced then 1 else 0)))
  let win (r : Word) : Nat := natBits r.toNat 0 48
  if reg = 0x000 then d.chkwin
  else if reg = 0x008 then d.cewin
  else if reg = 0x010 then d.uewin
  else if reg = 0x018 then word d.scrubint
  else if reg = 0x020 then (if die = 4 then 0 else (s.stack die).pcerase)
  else if reg = 0x028 then fenced 0
  else if reg = 0x030 then fenced 64
  else if 0x100 ≤ reg && reg < 0x500 && reg % 8 = 0 then
    let k := s.core (128 * die + (reg - 0x100) / 8)
    word (inWindow s.tick (win d.chkwin) k.chk + 2 ^ 8 * inWindow s.tick (win d.cewin) k.ce + 2 ^ 16 * inWindow s.tick (win d.uewin) k.ue)
  else 0

/-- A write of the durable bring-up registers (Table 23.3) by the management firmware, which runs once a start is under way; in minimal mode only
ROM runs (R359). MINVER rises only after BOOTOK, and a BOOTOK that ends step 6 makes the start succeed (R356, R358). -/
def State.writeBoot (s : State) (reg : Nat) (v : Word) : State :=
  let b := s.boot
  if b.minimal || !(b.starting || b.started) then s
  else if reg = 0x000 then { s with boot := { b with lastReason := natBits v.toNat 8 8 } }
  else if reg = 0x008 then (if b.started then { s with boot := { b with minver := max b.minver (v.toNat % 2 ^ 32) } } else s)
  else if reg = 0x010 then { s with boot := { b with keyrev := b.keyrev ||| v.setWidth 4 } }
  else if reg = 0x018 then (if v.getLsbD 0 then { s with boot := { b with fails := 0, lastReason := 0, starting := false, started := true } } else s)
  else s

/-- A route table entry that the management cores write, after which pending decisions are sent again (R126, R354; log 25): valid in [63], node in [15:0], primary port in [19:16],
alternate port in [23:20]. Entry 4,096 sets the node of this device. -/
def State.writeRoute (s : State) (part dev : Nat) (v : Word) : State :=
  let r : Route := { valid := v.getLsbD 63, node := v.toNat % 2 ^ 16, primary := natBits v.toNat 16 4, alternate := natBits v.toNat 20 4 }
  if dev = 4096 then { s with node := v.toNat % 2 ^ 16 }
  else if dev < 4096 then { s with routes := SMap.put s.routes part (SMap.put (SMap.get s.routes part []) dev r) }.routesChanged else s

/-- REGISTER_WRITE. -/
def execRegisterWrite (blk : RegBlock) (reg : Nat) (v : Word) (s : State) : Out :=
  match blk with
  | .host vf => .next (if s.hasFunction vf then s.writeHostReg vf reg v else s)
  | .containment die =>
    if !isDie die then .next s
    else if reg = 0x020 then execPcerase die v s
    else .next (s.writeContainmentReg die reg v)
  | .classifier die =>
    if !isDie die || die = 4 then .next s
    else match if reg = 0x810 then some PhyReg.clswin else if reg = 0x811 then some PhyReg.clsth else none with
      | some r => s.phyStep die 0 r v
      | none => .next s
  | .bringUp => .next (s.writeBoot reg v)
  | .routes part => .next (s.writeRoute part reg v)

/-! ### Host accesses to partition memory (R351) -/

/-- HOST_MEMORY_ACCESS: it acts on every byte or on none; a read of a line that a prepared group has staged waits (R124), and
poison travels with the data (Table 21.3). -/
def execHostMemoryAccess (part va : Nat) (x : HostAccess) (s : State) : Out :=
  match x with
  | .read len =>
    match (List.range len).mapM (fun i => s.physical part (va + i) wantsRead) with
    | .error _ => .next s
    | .ok cells =>
      if !cells.all s.readable then .next s
      else .next (s.send (.hostData (cells.map s.byteAt) (cells.any s.isBad)))
  | .write bytes =>
    match (List.range bytes.length).mapM (fun i => s.physical part (va + i) wantsWrite) with
    | .error _ => .next s
    | .ok cells =>
      if !cells.all s.online then .next s
      else .next (s.store ((cells.zip bytes).map (fun p => { a := p.1, mask := 0xFF, v := p.2 })))

end Sys2Proof.Machine
end

