-- ==== Sys2Proof/Machine/Caerlink.lean ====
section
/-! DEFINITION. Caerlink: flits that arrive, ports that go down and routes that come back (07 R121 to R127; 22 R349, R353, R354).
R353 gives a flit's parts; the layout inside header and payload is the model's own (log 25). -/

namespace Sys2Proof.Machine
open Sys2Proof

/-- A number in a message. -/
def msgNat (b : List Byte) (i n : Nat) : Nat := bytesToNat ((b.drop i).take n)

/-- The values of a message: a mark, four coordinates and a value each. -/
def msgElems : Nat → List Byte → List RemoteElem
  | 0, _ => []
  | n + 1, b =>
    if b.length < 25 then []
    else { coord := dims.map (fun d => msgNat b (1 + 4 * d) 4), hdr := msgNat b 0 1 % 2 == 1, v := msgNat b 17 8 } :: msgElems n (b.drop 25)

/-- The key under which the acknowledgement of a record's remote stores waits. -/
abbrev ackKey : Nat := 2 ^ 252
/-- The key of the part of a message of a kind that has arrived. -/
abbrev partKey (kind : Nat) : Nat := 2 ^ 253 + kind

/-- A stream record arrives (R354), on whatever port: it enters the source of kind 2 that it names, behind those that wait. -/
def State.takeStreamRecord (s : State) (b : List Byte) : State :=
  let id := msgNat b 0 2
  match s.sourceOf id 2 none with
  | none => s
  | some (c, e) =>
    let r := ((b.drop 2) ++ natToBytes e.recSize 0).take e.recSize
    match if c.waiting.isEmpty then s.enterRecord id r else none with
    | some s' => s'
    | none => { s with sources := SMap.put s.sources id { c with waiting := c.waiting ++ [r] } }

/-- The port withholds credit from the endpoint of a stream record: no slot of its ring is free beside those that waiting records will take
(R102, R354). -/
def State.withheld (s : State) (b : List Byte) : Bool :=
  match s.sourceOf (msgNat b 0 2) 2 none with
  | none => false
  | some (c, e) => e.size ≤ e.slots.length + c.waiting.length

/-- A group packet arrives (R122, R349); its data may be poisoned (Table 21.3). -/
def State.takePacket (s : State) (src : Nat) (b : List Byte) (bad : Bool) : State :=
  let group := msgNat b 0 1 % 64
  let part := msgNat b 1 1
  if s.partResetting part then s.sendControl part src kindReset group (msgNat b 50 4) 0
  else { s with packets := s.packets ++ [{ dev := src, group := group, who := msgNat b 2 6, stream := if msgNat b 8 1 = 1 then .copy else .control,
                                           cls := BitVec.ofNat 4 (msgNat b 9 1), dest := 0, part := part, launch := none, mesh := msgNat b 10 8,
                                           handle := BitVec.ofNat 256 (msgNat b 18 32), opening := msgNat b 50 4,
                                           elems := msgElems b.length (b.drop 54), bad := bad }] }

/-- A partition learns that a peer was reset (R348 step 7): vector 34 and ISTAT.PEER. -/
def State.noticeReset (s : State) (part : Nat) : State :=
  match s.part? part with
  | some p => (s.interruptPart part 34).raiseIstat p.vf istatPeer
  | none => s

/-- A group that is aborted by a reset at one of its destinations: its partition and those of its other destinations are told (R126,
R348). -/
def State.peerReset (s : State) (g src : Nat) : State :=
  let c := s.cgroup g
  if !c.undecided then s
  else
    let me := s.deviceOf c.launch
    let part := s.launchPart c.launch
    (c.dests.filter (fun d => d != me && d != src)).foldl (fun s d => s.sendControl part d kindReset g c.opening 1)
      ((s.abortGroup g 4).noticeReset part)

/-- A control message of the commit sequence arrives (R123 to R127): as the destination's, under the sender's key, or as the
originator's. What belongs to an opening that has ended here is dropped, but for a decision, which is acknowledged (R126). -/
def State.takeControl (s : State) (src : Nat) (b : List Byte) : State :=
  let kind := msgNat b 0 1
  let g := msgNat b 1 1 % 64
  let value := msgNat b 2 8
  let opening := msgNat b 10 4
  let part := msgNat b 14 1
  let key := src * 64 + g
  let d := { s.dest key with opening := opening, part := part }
  if kind ≤ kindAbort ∧ kind ≠ kindPrepared ∧ kind ≠ kindRefused ∨ kind = kindWithdraw then
    if s.endedHere key opening then (if kind = kindPublish ∨ kind = kindAbort then s.sendControl part src kindAck g opening src else s)
    else if kind = kindPrepare then s.setDest key { d with expected := some value }
    else if kind = kindPublish then s.setDest key { d with decision := some true }
    else if kind = kindAbort then s.setDest key { d with decision := some false }
    else (s.setDest key d).withdrawHere key value
  else if kind = kindReset ∧ value ≠ 0 then s.noticeReset part
  else if kind = kindVerdict then s.applyVerdict g (if value = 0 then .publish else if value = 1 then .minority else .split)
  else if kind = kindExpired then (if (s.cgroup g).awaitsCompare && (s.cgroup g).replicas.contains src then s.abortGroup g 2 else s)
  else if opening ≠ (s.cgroup g).opening then s
  else if kind = kindPrepared then s.replyPrepared g src false
  else if kind = kindRefused then s.replyPrepared g src true
  else if kind = kindAck then s.acknowledge g src
  else if kind = kindFull then s.abortGroup g 3
  else if kind = kindReset then s.peerReset g src
  else s

/-- A replica's digest arrives at the coordinator (R127). -/
def State.takeDigest (s : State) (src : Nat) (b : List Byte) : State :=
  let g := msgNat b 0 1 % 64
  let c := s.cgroup g
  s.setCGroup g { c with digests := (src, (b.drop 1).take 48) :: c.digests.filter (fun p => p.1 != src) }

/-- The stores that another device's rcp sends. -/
def remoteStore (src : Nat) (b : List Byte) (bad : Bool) : Packet :=
  { dev := src, group := 0, opening := 0, who := 0, stream := .copy, cls := 0, dest := 0, part := msgNat b 0 1, launch := none,
    mesh := msgNat b 9 8, handle := BitVec.ofNat 256 (msgNat b 17 32), elems := msgElems b.length (b.drop 49), bad := bad }

/-- They cannot perform yet: the channels of their walks or of their bytes take no ordinary traffic (R321, R323). -/
def State.storeWaits (s : State) (p : Packet) : Bool :=
  !s.packetReachable p || (match s.packetCells p false with
    | some ws => !ws.all (fun (w : ByteWrite) => s.online w.a)
    | none => false)

/-- The stores of another device's rcp perform here and are acknowledged (R248). -/
def State.takeRemoteStore (s : State) (src : Nat) (b : List Byte) (bad : Bool) : State :=
  let p := remoteStore src b bad
  let s := match s.packetCells p false with
    | some ws => (s.store ws).poisonCells (if p.bad then ws.map (fun (w : ByteWrite) => w.a) else [])
    | none => s
  s.sendOn p.part (.storeAck src (msgNat b 1 4) (msgNat b 5 4))

/-- A message waits for a record of this device. -/
def State.keepPeer (s : State) (src key params : Nat) (b : List Byte) : State :=
  { s with inbox := s.inbox ++ [{ dev := src, key := key, params := params, bytes := b }] }

/-- The partition that a message of a kind names (log 25). -/
def messagePart (kind : Nat) (b : List Byte) : Nat := msgNat b (if kind = 2 then 1 else if kind = 3 then 14 else 0) 1

/-- A whole message of a kind from a device of its partition's numbering. -/
def State.takeFrom (s : State) (kind src : Nat) (b : List Byte) (bad : Bool) : State :=
  if kind = 2 then s.takePacket src b bad
  else if kind = 3 then s.takeControl src b
  else if kind = 4 then s.takeDigest src (b.drop 1)
  else if kind = 5 then s.keepPeer src (msgNat b 1 32) (msgNat b 33 64) (b.drop 97)
  else if kind = 6 then s.takeRemoteStore src b bad
  else if kind = 7 then s.keepPeer src ackKey (msgNat b 1 4 * 2 ^ 32 + msgNat b 5 4) []
  else s

/-- A whole message of a kind from a node: a stream record, or a message of the device there, if the partition's route table names one. A
fenced replica's group traffic is refused (R127). -/
def State.takeMessage (s : State) (kind node : Nat) (b : List Byte) (bad : Bool) : State :=
  if s.fencedTraffic && 2 ≤ kind && kind ≤ 4 then s
  else if kind = 1 then s.takeStreamRecord b
  else match s.deviceAt (messagePart kind b) node with
    | some src => s.takeFrom kind src b bad
    | none => s

/-- A flit is delivered only whole: 256 bytes, the reserved ones zero, its CRC right (R353). -/
def flitOk (f : List Byte) : Bool := f.length == 256 && msgNat f 232 8 == 0 && msgNat f 240 16 == (Config.flitCrc (f.take 240)).toNat

/-- A flit that a port may deliver now: whole, for this device's node, and the next of its kind from its source (R353). -/
def State.flitDue (s : State) (port : Nat) (flit : List Byte) : Bool :=
  s.portUp port && flitOk flit && msgNat flit 2 2 == s.node
    && msgNat flit 8 8 == SMap.get s.seqIn (flitKey (msgNat flit 0 1) (msgNat flit 4 2)) 0

/-- FLIT_RECEIVE: header byte 0 holds the kind, bit 0 of byte 1 says that more of the message follows and bit 1 that its data is poisoned, bytes
2 and 3 name the destination node, 4 and 5 the source node, 6 and 7 count the payload bytes in use, 8 to 15 hold the sequence number (log
25). A stream flit for a full ring has no credit to come (R354). -/
def execFlitReceive (port : Nat) (flit : List Byte) (s : State) : Out :=
  if !s.flitDue port flit then .next s
  else
    let kind := msgNat flit 0 1
    let src := msgNat flit 4 2
    let more := msgNat flit 1 1 % 2 = 1
    let here (p : PeerData) : Bool := p.dev == src && p.key == partKey kind
    let before := (s.inbox.filter here).flatMap (fun p => p.bytes)
    let b := before ++ (flit.drop 16).take (min 216 (msgNat flit 6 2))
    if !more && ((kind = 1 && s.withheld b) || (kind = 6 && s.storeWaits (remoteStore src b false))) then .next s
    else
      let s := { s with inbox := s.inbox.filter (fun p => !here p), seqIn := SMap.put s.seqIn (flitKey kind src) (msgNat flit 8 8 + 1) }
      if more then .next (s.keepPeer src (partKey kind) 0 b) else .next (s.takeMessage kind src b (msgNat flit 1 1 / 2 % 2 = 1))

/-- PORT_DOWN (R354): traffic takes the alternate port, or stops. -/
def execPortDown (port : Nat) (s : State) : Out :=
  if s.portUp port then .next { s with downPorts := port :: s.downPorts } else .next s

/-- ROUTE_RESTORED (R126): a port carries traffic again, and pending decisions are sent again. -/
def execRouteRestored (port : Nat) (s : State) : Out :=
  if !s.downPorts.contains port then .next s
  else
    let s := { s with downPorts := s.downPorts.filter (fun p => p != port) }
    .next s.routesChanged

end Sys2Proof.Machine
end

