-- ==== Sys2Proof/Machine/Matrix.lean ====
section
/-! DEFINITION. The matrix engine: mmul and its numerics (04 R66, R73 to R79; 12 R235). -/

namespace Sys2Proof.Machine
open Sys2Proof

/-! ### Operand formats (R74) -/

/-- The kinds that may be paired. -/
inductive MatKind where
  | float
  | int
  | mx
  | kb
  deriving DecidableEq, Repr

/-- K and the kind of an operand format (Table 4.4). -/
def matFormat (f : Fmt) : Option (Nat × MatKind) :=
  match f.toNat with
  | 0x0A | 0x0B => some (64, .float)
  | 0x0C | 0x0D => some (128, .float)
  | 0x01 | 0x05 | 0x19 => some (128, .int)
  | 0x18 => some (256, .int)
  | 0x10 | 0x11 | 0x12 | 0x13 | 0x15 => some (128, .mx)
  | 0x14 => some (256, .mx)
  | 0x1D | 0x1E => some (128, .kb)
  | 0x1C => some (256, .kb)
  | _ => none

/-- K and the kind of a pair. -/
def matPair (a b : Fmt) : Option (Nat × MatKind) :=
  match matFormat a, matFormat b with
  | some p, some q => if p == q then some p else none
  | _, _ => none

/-! ### Sums (R73, R76 to R78) -/

/-- wsum of R76: W bits below and including the leading bit of the largest addend, the rest dropped toward zero. -/
def wsum (w : Nat) (l : List Val) : Val :=
  if l.any Val.isNan || (l.contains (.inf false) && l.contains (.inf true)) then .nan
  else if l.contains (.inf false) then .inf false
  else if l.contains (.inf true) then .inf true
  else
    let tops := l.filterMap (fun v => match v with
      | .num _ m e => if m = 0 then none else some ((Nat.log2 m : Int) + e)
      | _ => none)
    match tops with
    | [] => .num (l.all Val.sign) 0 0
    | t :: r =>
      let q := r.foldl max t - w + 1
      let term (v : Val) : Int := match v with
        | .num s m e =>
          let n : Int := if 0 ≤ e - q then (m * 2 ^ (e - q).toNat : Nat) else (m / 2 ^ (q - e).toNat : Nat)
          if s then -n else n
        | _ => 0
      let sum := l.foldl (fun n v => n + term v) 0
      if sum = 0 then .num (l.all Val.sign) 0 0 else .num (sum < 0) sum.natAbs q

/-- An exact sum. -/
def exactSum (l : List Val) : Val :=
  match l with
  | [] => .num false 0 0
  | v :: r => r.foldl Val.addFold v

/-- Round to nearest even into a layout. -/
def FloatFmt.toNearest (F : FloatFmt) (v : Val) : Val := F.value (F.ofVal 0 v)

/-- One group's or block's contribution enters the accumulator by the rounding points of a profile (Table 4.5): the addends
of a float group, or the one exact sum of a block. -/
def foldInto (prof : Nat) (block : Bool) (acc : Val) (p : List Val) : Val :=
  let c := exactSum p
  if prof = 4 then a40.toNearest (wsum 96 (if block then [acc, c] else acc :: p))
  else if prof = 2 then a40.toNearest (acc.addFold (a40.toNearest (if block then c else wsum 48 p)))
  else fp32.toNearest (acc.addFold (fp32.toNearest (if block then c else wsum 32 p)))

/-- An integer group sum enters an I40 accumulator (R78). -/
def foldInt (wrap : Bool) (acc : Int) (p : List Int) : Int :=
  let sum := acc + p.foldl (fun n i => n + i) 0
  if wrap then signedOf 40 (codeOf 40 sum) else clampInt (-(2 ^ 39)) (2 ^ 39 - 1) sum

/-- An integer or half-step operand as the integer factor of a product: in quarter units both factors count halves (R63). -/
def intFactor (quarter : Bool) (f : Fmt) (v : Nat) : Int :=
  if fmtKind f == .hs then 2 * signedOf (fmtWidth f) v + 1
  else
    let i : Int := if fmtKind f == .sint then signedOf (fmtWidth f) v else v
    if quarter then 2 * i else i

/-! ### One pass (R235) -/

/-- Rows of a shape code. -/
def shapeRows (shape : BitVec 4) : Nat := match shape.toNat with | 0 => 128 | 1 => 64 | _ => 32

/-- Element k of row i of A, and element k of column j of B, as indices. -/
def aIndex (kk i k : Nat) : Nat := i * kk + k
def bIndex (bt : Bool) (kk k j : Nat) : Nat := if bt then j * kk + k else k * 64 + j

/-- The new bits of one element of the tile. -/
def mmulElement (prof : Nat) (wrap bt : Bool) (kk : Nat) (kind : MatKind) (a b : Data) (av bv : List Val) (i j old : Nat) : Nat :=
  let ks := List.range kk
  match kind with
  | .int =>
    let quarter := fmtKind a.tag == .hs || fmtKind b.tag == .hs
    let prod (k : Nat) : Int :=
      intFactor quarter a.tag (nth a.vals (aIndex kk i k) 0) * intFactor quarter b.tag (nth b.vals (bIndex bt kk k j) 0)
    codeOf 40 ((chunks 8 kk ks).foldl (fun acc g => foldInt wrap acc (g.map prod)) (signedOf 40 old))
  | _ =>
    let block := kind != .float
    let size := if block then fmtBlock a.tag else 8
    let prod (k : Nat) : Val := (nth av (aIndex kk i k) .nan).mul (nth bv (bIndex bt kk k j) .nan)
    a40.ofVal 0 ((chunks size kk ks).foldl (fun acc g => foldInto prof block acc (g.map prod)) (a40.value old))

/-- The 8,192 values of the tile after a pass: rows M to 127 read +0 after a fill and stay in an update. -/
def mmulTile (prof : Nat) (wrap bt : Bool) (m kk : Nat) (kind : MatKind) (a b : Data) (old : List Nat) : List Nat :=
  let av := a.values
  let bv := b.values
  ((List.range 8192).zip old).map (fun p =>
    if p.1 / 64 < m then mmulElement prof wrap bt kk kind a b av bv (p.1 / 64) (p.1 % 64) p.2 else p.2)

/-- The profile that a record runs under: its own, or the launch's default (R75, R234). -/
def State.profileOf (s : State) (x : Task) (r : RecWord) : Nat :=
  if r.prof != 0 then r.prof.toNat else match s.launch? x.r.launch with | some l => l.profile | none => 0

/-- What the start of an mmul checks (R230, R234, R235). -/
def State.checkMmul (s : State) (x : Task) (q : QRec) (r : RecWord) : Res Unit := do
  let prof := s.profileOf x r
  check (1 ≤ prof && prof ≤ 4) Flt.profile
  q.everyPass (fun p => do
    let _ ← q.tileId x r 0 p
    let _ ← q.tileId x r 1 p
    let _ ← q.tileId x r 2 p)

/-- mmul: one pass. -/
def execMmul (r : RecWord) (s : State) : Out :=
  s.issuePass .matrix (fun x q => do
    let p := q.pass
    let ia ← q.tileId x r 0 p
    let ib ← q.tileId x r 1 p
    let it ← q.tileId x r 2 p
    let fill := r.clr && !q.named.contains it
    x.needs ia (if q.lastRead x r p ia then .drain else .read)
    x.needs ib (if q.lastRead x r p ib then .drain else .read)
    x.needs it (if fill then .fill else .update)
    x.soundTile ia (fun _ => true)
    x.soundTile ib (fun _ => true)
    x.soundTile it (fun w => !fill && w / 64 < shapeRows r.shape)
    let a := x.tileData ia
    let b := x.tileData ib
    let bt := r.kflags.getLsbD 0
    let m := shapeRows r.shape
    let prof := s.profileOf x r
    match matPair a.tag b.tag with
    | none => fault Flt.format
    | some (kk, kind) => do
      check (bt || !fmtIsBlock b.tag) Flt.format
      check (1 ≤ prof && prof ≤ 4 && (prof == 3) == (kind == .int)) Flt.profile
      check (nth a.ext 1 0 == m && nth a.ext 0 0 == kk) Flt.bounds
      check (if bt then nth b.ext 1 0 == 64 && nth b.ext 0 0 == kk else nth b.ext 1 0 == kk && nth b.ext 0 0 == 64) Flt.bounds
      let tag := if kind == .int then Fm.i40 else Fm.a40
      let quarter := kind == .int && (fmtKind a.tag == .hs || fmtKind b.tag == .hs)
      let t := x.tile it
      check (fill || (t.tag == tag && t.quarter == quarter)) Flt.format
      let old := if fill then List.replicate 8192 0 else (x.tileData it).vals
      let y := x.fillAcc it tag quarter (mmulTile prof r.wrap bt m kk kind a b old) (if fill then [] else (x.tile it).bad)
      let y := if q.lastRead x r p ia then y.drain ia else y
      let y := if ib != ia && q.lastRead x r p ib then y.drain ib else y
      .ok (s.withTask y, { q with named := it :: q.named }))

end Sys2Proof.Machine
end

