-- ==== Sys2Proof/Machine/Copies.lean ====
section
/-! DEFINITION. The copy family, gather and scatter (12 R236 to R239). -/

namespace Sys2Proof.Machine
open Sys2Proof

/-- The window extents of operand 0 when it is a box (R229). -/
def QRec.sourceExt (q : QRec) (r : RecWord) (d : Nat) : Nat := q.extent (Handle.ext (q.handle r 0)) d

/-- The box operands of a record, operand 0 read and operand 1 written. -/
def copyUses (r : RecWord) : List BoxUse :=
  [⟨0, false⟩, ⟨1, true⟩].filter (fun u => isBox r u.k)

/-! ### copy (R236, R237) -/

/-- An integer destination, where wrap may be set (R70): IDX16 converts as Z16 (R208). -/
def wrapTarget (f : Fmt) : Bool := fmtIsInt f || f == Fm.idx16 || f == Fm.i40

/-- The geometry of every accumulator tile. -/
abbrev accGeometry : List Nat := [64, 128, 1, 1]

/-- The extents that any window holds: one element, or one block of a block format. -/
def leastWindow (f : Fmt) (d : Nat) : Nat := if d = 0 then fmtBlock f else 1

/-- The window of a tile source as far as it is known at the record's start: the extents that ECFG gives, those of an accumulator tile,
and else the least that a slot or a buffer may hold (R229, R230, R233). -/
def QRec.tileWindow (q : QRec) (r : RecWord) (f : Fmt) : Nat → Nat :=
  q.extent (fun d => if tileGroup (refIndex r.o0) = 1 then nth accGeometry d 1 else leastWindow f d)

/-- What the start of a copy checks (R230): handles and modes, formats, windows and tile ids of every pass, staging. -/
def State.checkCopy (s : State) (x : Task) (q : QRec) (r : RecWord) : Res Unit := do
  let h0 := q.handle r 0
  let h1 := q.handle r 1
  s.checkBoxes x q r (copyUses r)
  check q.extentsOk Flt.bounds
  if isBox r 0 && isBox r 1 then do
    check (Handle.fmt h0 == Handle.fmt h1 && Handle.layout h0 == Handle.layout h1) Flt.format
    q.everyPass (fun p => do
      let a ← s.boxWindow x q r 0 p (q.sourceExt r)
      let b ← s.boxWindow x q r 1 p (q.sourceExt r)
      check (stagingOk a b) Flt.overlap)
  else if isBox r 0 then do
    let acc := tileGroup (refIndex r.o1) == 1
    check (!acc || Handle.fmt h0 == Fm.a40 || Handle.fmt h0 == Fm.i40) Flt.format
    q.everyPass (fun p => do
      let id ← q.tileId x r 1 p
      let _ ← s.boxWindow x q r 0 p (q.sourceExt r)
      x.fillFits id (Handle.fmt h0) (q.sourceExt r))
  else do
    check (tileGroup (refIndex r.o0) != 1 || !fmtIsBlock (Handle.fmt h1)) Flt.format
    q.everyPass (fun p => do
      let _ ← q.tileId x r 0 p
      let w := q.tileWindow r (Handle.fmt h1)
      check (tileGroup (refIndex r.o0) != 1 || dims.all (fun d => w d ≤ nth accGeometry d 1)) Flt.bounds
      let _ ← s.boxWindow x q r 1 p w)

/-- A box fills an accumulator tile: elements outside the window read +0 (R237). -/
def accFromBox (d : Data) : List Nat :=
  (List.range 8192).map (fun i =>
    let c0 := i % 64
    let c1 := i / 64
    if c0 < nth d.ext 0 1 && c1 < nth d.ext 1 1 then nth d.vals (c0 + nth d.ext 0 1 * c1) 0 % 2 ^ 40 else 0)

/-- The values of an accumulator tile, a quarter unit divided by 4 (R66). -/
def accValue (tag : Fmt) (quarter : Bool) (v : Nat) : Val :=
  match scalarValue tag v with
  | .num s m e => .num s m (if quarter then e - 2 else e)
  | w => w

/-- What a copy from a tile writes to a box of a format (R236, R237). -/
def Task.fromTile (x : Task) (id : Nat) (f : Fmt) (wrap : Bool) (d : Data) : Res (List Nat × List Nat) := do
  let t := x.tile id
  if tileGroup id = 1 then
    if f == Fm.a40 || f == Fm.i40 then do
      check (t.tag == f && !t.quarter) Flt.format
      .ok (d.vals, [])
    else .ok (d.vals.map (fun v => convert f 0 wrap (accValue t.tag t.quarter v)), [])
  else do
    check (t.tag == f) Flt.format
    .ok (d.vals, d.hdrs)

/-- copy: one pass. -/
def execCopy (r : RecWord) (s : State) : Out :=
  s.issuePass .copy (fun x q => do
    let p := q.pass
    if isBox r 0 then do
      let (g, h) ← s.boxWindow x q r 0 p (q.sourceExt r)
      if isBox r 1 then do
        let d ← s.readWindow x g h
        let (g1, h1) ← s.boxWindow x q r 1 p (q.sourceExt r)
        let ws ← s.writeWindow x g1 h1 d.vals d.hdrs
        .ok (s.postRecord x q r ws, q)
      else do
        let id ← q.tileId x r 1 p
        x.needs id .fill
        let d ← s.readWindow x g h
        x.fillFits id d.tag (fun i => nth d.ext i 1)
        .ok (s.withTask (if tileGroup id = 1 then x.fillAcc id d.tag false (accFromBox d) [] else x.fillTile id d), q)
    else do
      let id ← q.tileId x r 0 p
      x.needs id (if r.rel then .drain else .read)
      x.soundTile id (fun _ => true)
      let d := x.tileData id
      let w (i : Nat) : Nat := q.extent (fun j => nth d.ext j 1) i
      let (g1, h1) ← s.boxWindow x q r 1 p w
      let d ← d.part w
      let (vals, hdrs) ← x.fromTile id g1.fmt r.wrap d
      let ws ← s.writeWindow x g1 h1 vals hdrs
      .ok (s.postRecord (if r.rel then x.drain id else x) q r ws, q))

/-! ### copyl (R236) -/

/-- The destination formats of vcvt (R208). -/
def vcvtTarget (f : Fmt) : Bool :=
  match fmtKind f with
  | .sint | .uint | .float | .fp8 | .hs | .idx => true
  | _ => false

/-- What the start of a copyl checks. -/
def State.checkCopyl (s : State) (x : Task) (q : QRec) (r : RecWord) : Res Unit := do
  let f := Handle.fmt (q.handle r 1)
  s.checkBoxes x q r (copyUses r)
  check (vcvtTarget f || fmtIsBlock f) Flt.format
  check q.extentsOk Flt.bounds
  check (q.sourceExt r 0 % fmtBlock f == 0) Flt.format
  q.everyPass (fun p => do
    let a ← s.boxWindow x q r 0 p (q.sourceExt r)
    let b ← s.boxWindow x q r 1 p (q.sourceExt r)
    check (stagingOk a b) Flt.overlap)

/-- copyl: one pass. -/
def execCopyl (r : RecWord) (s : State) : Out :=
  s.issuePass .copy (fun x q => do
    let (g, h) ← s.boxWindow x q r 0 q.pass (q.sourceExt r)
    let (g1, h1) ← s.boxWindow x q r 1 q.pass (q.sourceExt r)
    let d ← s.readWindow x g h
    let c := convertAll g1.fmt r.wrap d.values
    let ws ← s.writeWindow x g1 h1 c.1 c.2
    .ok (s.postRecord x q r ws, q))

/-! ### trans and perm (R236) -/

/-- π of a record, and of the exchange of two coordinates. -/
def permOf (r : RecWord) (d : Nat) : Nat := w7 r (2 * d) 2
def transOf (r : RecWord) (d : Nat) : Nat := if d = w7 r 0 2 then w7 r 2 2 else if d = w7 r 2 2 then w7 r 0 2 else d

/-- The destination coordinate c' takes the source coordinate c with c'_d = c_π(d): the list in the destination's order. -/
def permuteList (e pi : Nat → Nat) (l : List Nat) : List Nat :=
  let inv (k : Nat) : Nat := (dims.find? (fun d => pi d == k)).getD k
  (boxCoords (fun d => e (pi d))).map (fun c' =>
    let c (k : Nat) : Nat := nth c' (inv k) 0
    nth l (c 0 + e 0 * (c 1 + e 1 * (c 2 + e 2 * c 3))) 0)

/-- What the start of a permuting copy checks. -/
def State.checkPermute (s : State) (x : Task) (q : QRec) (r : RecWord) (pi : Nat → Nat) : Res Unit := do
  let h0 := q.handle r 0
  let h1 := q.handle r 1
  s.checkBoxes x q r (copyUses r)
  check (Handle.fmt h0 == Handle.fmt h1 && Handle.layout h0 == Handle.layout h1) Flt.format
  check (!fmtIsBlock (Handle.fmt h0) || pi 0 == 0) Flt.format
  check q.extentsOk Flt.bounds
  q.everyPass (fun p => do
    let a ← s.boxWindow x q r 0 p (q.sourceExt r)
    let b ← s.boxWindow x q r 1 p (fun d => q.sourceExt r (pi d))
    check (stagingOk a b) Flt.overlap)

/-- One pass of a permuting copy. -/
def State.permutePass (s : State) (r : RecWord) (pi : Nat → Nat) : Out :=
  s.issuePass .copy (fun x q => do
    let e := q.sourceExt r
    let (g, h) ← s.boxWindow x q r 0 q.pass e
    let (g1, h1) ← s.boxWindow x q r 1 q.pass (fun d => e (pi d))
    let d ← s.readWindow x g h
    let eb (i : Nat) : Nat := if i = 0 then e 0 / fmtBlock g.fmt else e i
    let ws ← s.writeWindow x g1 h1 (permuteList e pi d.vals) (if d.hdrs.isEmpty then [] else permuteList eb pi d.hdrs)
    .ok (s.postRecord x q r ws, q))

/-- trans and perm: one pass. -/
def execTrans (r : RecWord) (s : State) : Out := s.permutePass r (transOf r)
def execPerm (r : RecWord) (s : State) : Out := s.permutePass r (permOf r)

/-! ### fill (R236) -/

/-- The fill pattern: the low bits of ECFG slot 0. -/
def QRec.pattern (q : QRec) : Nat := (SMap.get q.cfg 0 0).toNat

/-- The extents of a fill: ECFG 8 to 11, else the destination's. An Empty scratchpad buffer has the geometry that it was given last: R236 names none
for it, and the choice is the model's (log 35). -/
def QRec.fillExt (q : QRec) (x : Task) (r : RecWord) (p d : Nat) : Nat :=
  q.extent (fun i => if isBox r 1 then Handle.ext (q.handle r 1) i
    else match q.tileId x r 1 p with
      | .ok id => nth [(x.tile id).e0, (x.tile id).e1, (x.tile id).e2, (x.tile id).e3] i 0
      | .error _ => 0) d

/-- What the start of a fill checks. -/
def State.checkFill (s : State) (x : Task) (q : QRec) (r : RecWord) : Res Unit := do
  s.checkBoxes x q r ([⟨1, true⟩].filter (fun u => isBox r u.k))
  let f : Fmt := if isBox r 1 then Handle.fmt (q.handle r 1) else BitVec.ofNat 6 (w7 r 0 6)
  check (!fmtIsBlock f && f != Fm.none) Flt.format
  check q.extentsOk Flt.bounds
  q.everyPass (fun p => do
    if isBox r 1 then do let _ ← s.boxWindow x q r 1 p (q.fillExt x r p)
    else do
      let id ← q.tileId x r 1 p
      x.fillFits id f (q.fillExt x r p))

/-- fill: one pass. -/
def execFill (r : RecWord) (s : State) : Out :=
  s.issuePass .copy (fun x q => do
    let e := q.fillExt x r q.pass
    let n := e 0 * e 1 * e 2 * e 3
    if isBox r 1 then do
      let (g, h) ← s.boxWindow x q r 1 q.pass e
      let ws ← s.writeWindow x g h (List.replicate n (q.pattern % 2 ^ fmtBits g.fmt)) []
      .ok (s.postRecord x q r ws, q)
    else do
      let id ← q.tileId x r 1 q.pass
      let f : Fmt := BitVec.ofNat 6 (w7 r 0 6)
      x.needs id .fill
      x.fillFits id f e
      .ok (s.withTask (x.fillTile id { tag := f, ext := dims.map e, vals := List.replicate n (q.pattern % 2 ^ fmtBits f), hdrs := [] }), q))

/-! ### gather and scatter (R239) -/

/-- The block windows of list entry i: source, then destination. -/
def State.blockWindows (s : State) (x : Task) (q : QRec) (r : RecWord) (gather : Bool) (list : List Nat) (i : Nat) :
    Res ((Region × Handle) × (Region × Handle)) := do
  let be0 := w7 r 0 16
  let be1 := w7 r 16 16
  let w (d : Nat) : Nat := if d = 0 then be0 else if d = 1 then be1 else 1
  let far (d : Nat) : Int := if d = 0 then (nth list (2 * i) 0 * be0 : Nat) else if d = 1 then (nth list (2 * i + 1) 0 * be1 : Nat) else 0
  let near (d : Nat) : Int := if d = 1 then (i * be1 : Nat) else 0
  let a ← s.window2 x (q.handle r 0) (if gather then far else near) w
  let b ← s.window2 x (q.handle r 1) (if gather then near else far) w
  .ok (a, b)

/-- Every block's windows. -/
def State.allBlocks (s : State) (x : Task) (q : QRec) (r : RecWord) (gather : Bool) (list : List Nat) :
    Res (List ((Region × Handle) × (Region × Handle))) :=
  (List.range (list.length / 2)).mapM (s.blockWindows x q r gather list)

/-- Staged bytes of all the blocks of a record. They are those of the blocks that the list names, not of the windows over the whole handles: R238
does not say which, and the choice is the model's (log 35). -/
def blocksStaged (l : List ((Region × Handle) × (Region × Handle))) : Bool :=
  match l with
  | [] => true
  | b :: _ =>
    !(Handle.level b.1.2 == Handle.level b.2.2 && Handle.region b.1.2 == Handle.region b.2.2)
      || bitCount (l.foldl (fun m p => m ||| windowMask p.1.1 p.1.2) 0 &&& l.foldl (fun m p => m ||| windowMask p.2.1 p.2.2) 0) ≤ 65536

/-- What the start of a gather or scatter checks; it reads the list. -/
def State.checkBlockList (s : State) (x : Task) (q : QRec) (r : RecWord) (gather : Bool) : Res (List Nat) := do
  let h0 := q.handle r 0
  let h1 := q.handle r 1
  let h2 := q.handle r 2
  s.checkBoxes x q r [⟨0, false⟩, ⟨1, true⟩, ⟨2, false⟩]
  check (Handle.fmt h0 == Handle.fmt h1 && Handle.layout h0 == Handle.layout h1 && Handle.fmt h2 == Fm.z32) Flt.format
  check (w7 r 0 16 % fmtBlock (Handle.fmt h0) == 0) Flt.format
  check (Handle.rank h0 ≤ 1 && Handle.rank h1 ≤ 1 && Handle.rank h2 == 1 && Handle.ext h2 0 == 2) Flt.bounds
  let g ← s.regionOf x.own h2
  let d ← s.readWindow x g h2
  let bs ← s.allBlocks x q r gather d.vals
  check (blocksStaged bs) Flt.overlap
  .ok d.vals

/-- One pass of a gather or scatter over the list read at the start: every block is read before any is written; the higher
entry wins where two name one element. -/
def State.blockListPass (s : State) (r : RecWord) (gather : Bool) : Out :=
  s.issuePass .copy (fun x q => do
    let bs ← s.allBlocks x q r gather q.named
    let ds ← bs.mapM (fun b => s.readWindow x b.1.1 b.1.2)
    let ws ← (bs.zip ds).mapM (fun p => s.writeWindow x p.1.2.1 p.1.2.2 p.2.vals p.2.hdrs)
    .ok (s.postRecord x q r (ws.flatMap id), q))

def execGather (r : RecWord) (s : State) : Out := s.blockListPass r true
def execScatter (r : RecWord) (s : State) : Out := s.blockListPass r false

end Sys2Proof.Machine
end

