-- ==== Sys2Proof/Machine/Codebooks.lean ====
section
/-! DEFINITION. Codebooks, entropy decode, VQ expansion and the shape fetch (12 R240 to R247). -/

namespace Sys2Proof.Machine
open Sys2Proof

/-! ### Codebook slots (R240) -/

/-- The codebook slots that a record names beside a cbload's own: slot, TYPE, GEN. -/
def namedSlots (i : Instr) : List (Nat × Nat × Nat) :=
  match i with
  | .edec r => (w7 r 0 3, 1, w7 r 4 4) :: (if r.kflags.getLsbD 0 then [(w7 r 8 3, 2, w7 r 12 4)] else [])
  | .vqx r => [(w7 r 8 3, 2, w7 r 12 4)]
  | _ => []

/-- A slot holds what a record states. -/
def Task.slotMatches (x : Task) (n : Nat × Nat × Nat) : Bool :=
  let c := x.codebook n.1
  c.ty == n.2.1 && c.gen == n.2.2

/-- Change the busy counts of the slots that a record names. -/
def Task.mapBusy (x : Task) (i : Instr) (f : Nat → Nat) : Task :=
  (namedSlots i).foldl (fun y n => y.setCodebook n.1 { y.codebook n.1 with busy := f (y.codebook n.1).busy }) x

/-- The slot of a cbload record. -/
def loadedSlot (w : BitVec 512) : Option Nat :=
  match decodeRecord w with
  | .ok (.cbload r) => some (w7 r 0 3)
  | _ => none

/-! ### Bytes of a box (R241, R244) -/

/-- The bytes of a readable Z8 box from an element on: FLT_BOUNDS beyond it. -/
def State.recordBytes (s : State) (x : Task) (h : Handle) (off n : Nat) : Res (List Byte) := do
  let (g, w) ← s.window2 x h (fun d => if d = 0 then (off : Int) else 0) (fun d => if d = 0 then n else 1)
  let d ← s.readWindow x g w
  .ok (d.vals.map (fun v => BitVec.ofNat 8 v))

/-- A box of FMT and rank 1. -/
def rowBox (h : Handle) (f : Fmt) : Bool := Handle.fmt h == f && Handle.rank h == 0

/-! ### cbload (R241) -/

/-- The code lengths of a prefix table: symbol s in the low nibble of byte s / 2 for even s. -/
def prefixLengths (bs : List Byte) : List Nat := bs.flatMap (fun b => [b.toNat % 16, b.toNat / 16])

/-- Lengths that give a code: not all zero, their sum of 2^-len at most 1. -/
def lengthsOk (l : List Nat) : Bool :=
  l.any (fun n => n != 0) && l.foldl (fun n k => if k = 0 then n else n + 2 ^ (15 - k)) 0 ≤ 2 ^ 15

/-- The element formats of a VQ codebook. -/
def vqFormat (f : Fmt) : Bool :=
  [Fm.s8, Fm.z8, Fm.hs8, Fm.e4m3, Fm.e5m2, 0x02, Fm.z16, Fm.bf16, Fm.fp16].contains f

/-- Bytes of a codebook entry. -/
def entryBytes (f : Fmt) (elems : Nat) : Nat := elems * fmtWidth f / 8

/-- What the start of a cbload checks. -/
def State.checkCbload (s : State) (x : Task) (q : QRec) (r : RecWord) : Res Unit := do
  let h := q.handle r 0
  let f : Fmt := BitVec.ofNat 6 (w7 r 10 6)
  s.checkBoxes x q r [⟨0, false⟩]
  check (rowBox h Fm.z8) Flt.format
  if w7 r 8 2 = 1 then check (Handle.ext h 0 == 128) Flt.bounds
  else do
    check (vqFormat f) Flt.format
    check (Handle.ext h 0 % entryBytes f (w7 r 16 8) == 0 && Handle.ext h 0 ≤ 2048) Flt.bounds

/-- cbload: one pass; it waits until no earlier record uses the slot. -/
def execCbload (r : RecWord) (s : State) : Out :=
  s.issuePass .copy (fun x q => do
    let n := w7 r 0 3
    waitFor ((x.codebook n).busy == 0)
    let bs ← s.recordBytes x (q.handle r 0) 0 (Handle.ext (q.handle r 0) 0)
    check (w7 r 8 2 != 1 || lengthsOk (prefixLengths bs)) Flt.format
    .ok (s.withTask (x.setCodebook n { ty := w7 r 8 2, gen := w7 r 4 4, busy := 0, fmt := BitVec.ofNat 6 (w7 r 10 6),
                                       elems := w7 r 16 8, bytes := bs, bad := false }), q))

/-! ### Prefix decode and expansion (R242) -/

/-- The canonical code: length, code and symbol, in the order of R242. -/
def canonicalCode (lens : List Nat) : List (Nat × Nat × Nat) :=
  let order := (List.range 16).flatMap (fun n =>
    if n = 0 then [] else ((List.range lens.length).filter (fun i => nth lens i 0 == n)).map (fun i => (n, i)))
  (order.foldl (fun (acc : List (Nat × Nat × Nat) × Option (Nat × Nat)) p =>
    let c := match acc.2 with
      | none => 0
      | some (len, code) => (code + 1) * 2 ^ (p.1 - len)
    (acc.1 ++ [(p.1, c, p.2)], some (p.1, c))) ([], none)).1

/-- The bits of bytes, bit 7 of byte 0 first. -/
def bitsOf (bs : List Byte) : List Bool := bs.flatMap (fun b => [7, 6, 5, 4, 3, 2, 1, 0].map (fun i => b.getLsbD i))

/-- One symbol: none on an unassigned code or a short payload. -/
def decodeSymbol (code : List (Nat × Nat × Nat)) (acc len : Nat) : List Bool → Option (Nat × List Bool)
  | [] => none
  | b :: r =>
    let v := 2 * acc + (if b then 1 else 0)
    match code.find? (fun p => p.1 == len + 1 && p.2.1 == v) with
    | some p => some (p.2.2, r)
    | none => if 15 ≤ len + 1 then none else decodeSymbol code v (len + 1) r

/-- So many symbols. -/
def decodeSymbols (code : List (Nat × Nat × Nat)) : Nat → List Bool → Option (List Nat)
  | 0, _ => some []
  | n + 1, bs =>
    match decodeSymbol code 0 0 bs with
    | none => none
    | some (v, r) => (decodeSymbols code n r).map (fun l => v :: l)

/-- The indices in bytes: one each, or little-endian pairs. -/
def indicesOf (idx16 : Bool) (bs : List Byte) : List Nat :=
  if idx16 then (chunks 2 bs.length bs).map bytesToNat else bs.map (fun b => b.toNat)

/-- Expand indices through a codebook: the elements of each entry, FLT_BOUNDS for an index of C or more. -/
def Codebook.expand (c : Codebook) (l : List Nat) : Res (List Nat) := do
  let eb := entryBytes c.fmt c.elems
  let parts ← l.mapM (fun i => do
    check (eb * (i + 1) ≤ c.bytes.length) Flt.bounds
    .ok (unpackBits (fmtWidth c.fmt) c.elems (bytesToNat ((c.bytes.drop (eb * i)).take eb))))
  .ok (parts.flatMap id)

/-- A pass that reads a codebook slot consumes its poison (R336, R337). -/
def Task.soundSlot (x : Task) (n : Nat) : Res Unit := if (x.codebook n).bad then faultUe true else .ok ()

/-! ### Destinations (R245) -/

/-- The data of a fill: COLS columns, and as many rows as the elements give. -/
def columns (tag : Fmt) (cols : Nat) (vals : List Nat) (hdr : Nat) : Res Data := do
  check (cols != 0 && vals.length % cols == 0) Flt.format
  .ok { tag := tag, ext := [cols, vals.length / cols, 1, 1], vals := vals,
        hdrs := unpackBits (8 * headerBytes tag) (blocksIn tag vals.length) hdr }

/-- What the start checks of a destination whose elements a pass alone counts (R230, R245): the window's offset, or a row of COLS columns. -/
def State.checkDecoded (s : State) (x : Task) (q : QRec) (r : RecWord) (p ring : Nat) (tag : Fmt) : Res Unit :=
  if isBox r 1 then do let _ ← s.boxWindow x q r 1 p (leastWindow tag)
  else do
    let id ← if ring = 0 then q.tileId x r 1 p else .ok (refIndex r.o1 + p % ring)
    x.fillFits id tag (fun d => if d = 0 then w7 r 32 16 else 1)

/-- The tile that a pass of a decode or an expansion fills: the pass waits until it is Empty (R231, R245); none for a box. -/
def QRec.decodedTile (q : QRec) (x : Task) (r : RecWord) (ring : Nat) : Res (Option Nat) :=
  if isBox r 1 then .ok none
  else do
    let id ← if ring = 0 then q.tileId x r 1 q.pass else .ok (refIndex r.o1 + q.pass % ring)
    x.needs id .fill
    .ok (some id)

/-- Write decoded elements to the pass's tile, or to the box; the headers of a block format, which the decoder does not give, are a
free value (log 11). -/
def State.fillDecoded (s : State) (x : Task) (q : QRec) (r : RecWord) (dest : Option Nat) (cols : Nat) (tag : Fmt) (vals : List Nat) :
    Res State := do
  let (f, s) := if headerBytes tag == 0 then (0, s) else s.freshFree
  match dest with
  | none => do
    let (g, h) ← s.boxWindow x q r 1 q.pass (fun d => if d = 0 then vals.length else 1)
    check (g.fmt == tag) Flt.format
    let ws ← s.writeWindow x g h vals (unpackBits (8 * headerBytes tag) (blocksIn tag vals.length) f)
    .ok (s.postRecord x q r ws)
  | some id => do
    let d ← columns tag cols vals f
    x.fillFits id tag (fun i => nth d.ext i 1)
    .ok (s.withTask (x.fillTile id d))

/-! ### edec (R243, R244) -/

/-- The header of an entropy block: USIZE, CSIZE, CHECK, RAW; none when it breaks R243. -/
def blockHeader (n : Nat) : Option (Nat × Nat × Nat × Bool) :=
  let u := natBits n 0 16
  let c := natBits n 16 16
  let raw := natBits n 64 1 == 1
  if u % 64 == 0 && 64 ≤ u && u ≤ 16384 && 1 ≤ c && c ≤ 16384 && natBits n 65 63 == 0 && (!raw || c == u) && (raw || c < u) then
    some (u, c, natBits n 32 32, raw)
  else none

/-- CRC-32C of bytes. -/
def checkOf (bs : List Byte) : Nat := (crc32c bs).toNat

/-- The tag of an edec's elements when it does not expand. -/
def edecTag (r : RecWord) : Fmt := BitVec.ofNat 6 (w7 r 21 6)

/-- What the start of an edec checks. -/
def State.checkEdec (s : State) (x : Task) (q : QRec) (r : RecWord) : Res Unit := do
  let vq := r.kflags.getLsbD 0
  let ring := w7 r 16 5
  let tag := if vq then (x.codebook (w7 r 8 3)).fmt else edecTag r
  check (!vq || x.slotMatches (w7 r 8 3, 2, w7 r 12 4)) Flt.gen
  s.checkBoxes x q r (⟨0, false⟩ :: [⟨1, true⟩].filter (fun u => isBox r u.k))
  check (rowBox (q.handle r 0) Fm.z8) Flt.format
  check (vq || fmtWidth tag != 0) Flt.format
  check (!isBox r 1 || Handle.fmt (q.handle r 1) == tag) Flt.format
  check (isBox r 1 || w7 r 32 16 != 0) Flt.format
  check (isBox r 1 || ring == 0 || tileGroup (refIndex r.o1 + ring - 1) == tileGroup (refIndex r.o1)) Flt.bounds
  q.everyPass (fun p => s.checkDecoded x q r p ring tag)

/-- edec: one pass decodes one block; a pass that faults writes no byte of it. -/
def execEdec (r : RecWord) (s : State) : Out :=
  s.issuePass .copy (fun x q => do
    let h := q.handle r 0
    let dest ← q.decodedTile x r (w7 r 16 5)
    let hdr ← s.recordBytes x h q.cursor 16
    match blockHeader (bytesToNat hdr) with
    | none => fault Flt.format
    | some (usize, csize, sum, raw) => do
      let pay ← s.recordBytes x h (q.cursor + 16) csize
      let out : List Byte ← if raw then .ok pay
        else do
          check (x.slotMatches (w7 r 0 3, 1, w7 r 4 4)) Flt.gen
          x.soundSlot (w7 r 0 3)
          match decodeSymbols (canonicalCode (prefixLengths (x.codebook (w7 r 0 3)).bytes)) usize (bitsOf pay) with
          | none => fault Flt.checksum
          | some l => .ok (l.map (fun v => BitVec.ofNat 8 v))
      check (checkOf out == sum) Flt.checksum
      let vq := r.kflags.getLsbD 0
      let cb := x.codebook (w7 r 8 3)
      let tag := if vq then cb.fmt else edecTag r
      (if vq then x.soundSlot (w7 r 8 3) else .ok ())
      let vals ← if vq then cb.expand (indicesOf (r.kflags.getLsbD 1) out)
        else do
          check (8 * usize % fmtWidth tag == 0) Flt.format
          .ok (unpackBits (fmtWidth tag) (8 * usize / fmtWidth tag) (bytesToNat out))
      let s' ← s.fillDecoded x q r dest (w7 r 32 16) tag vals
      .ok (s', { q with cursor := q.cursor + 16 + (csize + 15) / 16 * 16 }))

/-! ### vqx (R246) -/

/-- Elements that a pass of a vqx writes, known at its start when the indices stand in a box. -/
def vqxCount (x : Task) (q : QRec) (r : RecWord) : Nat :=
  let n := Handle.count (q.handle r 0)
  (if r.kflags.getLsbD 0 then n / 2 else n) * (x.codebook (w7 r 8 3)).elems

/-- What the start of a vqx checks: with the indices in a box, also every window or fill of its destination (R230). -/
def State.checkVqx (s : State) (x : Task) (q : QRec) (r : RecWord) : Res Unit := do
  let cb := x.codebook (w7 r 8 3)
  check (x.slotMatches (w7 r 8 3, 2, w7 r 12 4)) Flt.gen
  s.checkBoxes x q r ([⟨0, false⟩, ⟨1, true⟩].filter (fun u => isBox r u.k))
  check (!isBox r 0 || Handle.fmt (q.handle r 0) == Fm.z8) Flt.format
  check (!isBox r 0 || !r.kflags.getLsbD 0 || Handle.count (q.handle r 0) % 2 == 0) Flt.format
  check (!isBox r 1 || Handle.fmt (q.handle r 1) == cb.fmt) Flt.format
  let n := vqxCount x q r
  let cols := w7 r 32 16
  check (isBox r 1 || (cols != 0 && (!isBox r 0 || n % cols == 0))) Flt.format
  q.everyPass (fun p => do
    if !isBox r 0 then do
      let _ ← q.tileId x r 0 p
      s.checkDecoded x q r p 0 cb.fmt
    else if isBox r 1 then do let _ ← s.boxWindow x q r 1 p (fun d => if d = 0 then n else 1)
    else do
      let id ← q.tileId x r 1 p
      x.fillFits id cb.fmt (nth [cols, n / cols, 1, 1] · 1))

/-- vqx: one pass. -/
def execVqx (r : RecWord) (s : State) : Out :=
  s.issuePass .copy (fun x q => do
    let cb := x.codebook (w7 r 8 3)
    let dest ← q.decodedTile x r 0
    x.soundSlot (w7 r 8 3)
    let (d, y) ← if isBox r 0 then do
        let (g, h) ← s.boxWindow x q r 0 q.pass (Handle.ext (q.handle r 0))
        .ok ((← s.readWindow x g h), x)
      else do
        let id ← q.tileId x r 0 q.pass
        x.needs id (if r.rel then .drain else .read)
        x.soundTile id (fun _ => true)
        .ok (x.tileData id, if r.rel then x.drain id else x)
    check (d.tag == Fm.z8) Flt.format
    check (!r.kflags.getLsbD 0 || d.vals.length % 2 == 0) Flt.format
    let vals ← cb.expand (indicesOf (r.kflags.getLsbD 0) (d.vals.map (fun v => BitVec.ofNat 8 v)))
    let s' ← s.fillDecoded y q r dest (w7 r 32 16) cb.fmt vals
    .ok (s', q))

/-! ### shpf (R247) -/

/-- What the start of a shpf checks; it reads the entries. -/
def State.checkShpf (s : State) (x : Task) (q : QRec) (r : RecWord) : Res (List Nat) := do
  let h := q.handle r 1
  let n := w7 r 16 16 + 1
  s.checkBoxes x q r [⟨1, true⟩]
  check (rowBox h Fm.z32) Flt.format
  let l ← (List.range n).mapM (fun i => s.shapeEntry x.own (w7 r 48 16) (w7 r 0 16 + i))
  check (n ≤ Handle.ext h 0) Flt.bounds
  .ok l

/-- shpf: one pass. -/
def execShpf (r : RecWord) (s : State) : Out :=
  s.issuePass .copy (fun x q => do
    let l ← s.checkShpf x q r
    let (g, h) ← s.window2 x (q.handle r 1) (fun _ => 0) (fun d => if d = 0 then l.length else 1)
    let ws ← s.writeWindow x g h l []
    .ok (s.postRecord x q r ws, q))

end Sys2Proof.Machine
end

