-- ==== Sys2Proof/Machine/Remote.lean ====
section
/-! DEFINITION. Remote copies and collectives (12 R248 to R250; 07 R121, R122). -/

namespace Sys2Proof.Machine
open Sys2Proof

/-! ### Shared by the remote kinds -/

/-- Devices of the mesh of a task's launch. -/
def State.meshOf (s : State) (x : Task) : Nat := match s.launch? x.r.launch with | some l => l.meshDevices | none => 0

/-- A list position of coordinates in a box of some extents. -/
def linOf (e : Nat → Nat) (c : List Nat) : Nat := nth c 0 0 + e 0 * (nth c 1 0 + e 1 * (nth c 2 0 + e 2 * nth c 3 0))

/-- Extents in blocks along dimension 0. -/
def blockExt (f : Fmt) (e : Nat → Nat) (d : Nat) : Nat := if d = 0 then e 0 / fmtBlock f else e d

/-- The bytes of some data in a message: the elements, then the headers. -/
def dataBytes (d : Data) : List Byte :=
  let n := d.vals.length * fmtWidth d.tag
  let k := d.hdrs.length * 8 * headerBytes d.tag
  natToBytes ((n + k + 7) / 8) (packBits (fmtWidth d.tag) d.vals + 2 ^ n * packBits (8 * headerBytes d.tag) d.hdrs)

/-- The data in the bytes of a message, of a format and extents that both sides share. -/
def dataOf (f : Fmt) (e : Nat → Nat) (b : List Byte) : Data :=
  let n := e 0 * e 1 * e 2 * e 3
  let v := bytesToNat b
  { tag := f, ext := dims.map e, vals := unpackBits (fmtWidth f) n v,
    hdrs := unpackBits (8 * headerBytes f) (blocksIn f n) (v / 2 ^ (n * fmtWidth f)) }

/-! ### rcp and gcp (R248) -/

/-- The destination window of a remote copy in a pass: inside the handle, which the destination device interprets (R121, R229). -/
def QRec.remoteWindow (q : QRec) (r : RecWord) (p : Nat) : Res Handle := do
  let o := q.offset r 1 p
  check (dims.all (fun d => 0 ≤ o d)) Flt.bounds
  let n ← boxSub (q.handle r 1) (fun d => (o d).toNat) (q.sourceExt r)
  check (blockHandleOk n) Flt.format
  .ok n

/-- What the start of a remote copy checks. -/
def State.checkRemote (s : State) (x : Task) (q : QRec) (r : RecWord) (group : Bool) : Res Unit := do
  let h0 := q.handle r 0
  let h1 := q.handle r 1
  check (!group || (s.ownGroup x (w7 r 16 6)).isSome) Flt.group
  useHandle h0
  useHandle h1
  check (Handle.mode h1 == modeShared && Handle.level h1 == 0) Flt.mode
  let _ ← s.regionOf x.own h0
  check (Handle.fmt h0 == Handle.fmt h1 && (!group || 8 ≤ fmtWidth (Handle.fmt h1))) Flt.format
  check (w7 r 0 16 < s.meshOf x) Flt.bounds
  check q.extentsOk Flt.bounds
  -- this device is the destination of its own rcp (R36)
  if !group && w7 r 0 16 == s.deviceOf x.r.launch then do let _ ← s.regionOf x.own h1
  q.everyPass (fun p => do
    let _ ← s.boxWindow x q r 0 p (q.sourceExt r)
    let _ ← q.remoteWindow r p)

/-- The values of a window as they travel: its elements, then the headers of its blocks. -/
def windowElems (h : Handle) (d : Data) : List RemoteElem :=
  ((boxCoords (Handle.ext h)).zip d.vals).map (fun p => { coord := regionCoord h p.1, hdr := false, v := p.2 })
    ++ ((blockCoords d.tag (Handle.ext h)).zip d.hdrs).map (fun p => { coord := regionCoord h p.1, hdr := true, v := p.2 })

/-- The 64-byte line that a value reaches in a region. -/
def RemoteElem.line (e : RemoteElem) (g : Region) : Nat :=
  (g.base + (if e.hdr then locateHeader g e.coord else locate g e.coord / 8)) / 64

/-- The packets of a window: the values that reach one line by this device's own description of the region, or each value alone where
it has none (R122; log 25). -/
def State.remotePackets (s : State) (x : Task) (h : Handle) (es : List RemoteElem) : List (List RemoteElem) :=
  match s.regionOf x.own h with
  | .error _ => es.map (fun e => [e])
  | .ok g =>
    let lines := es.foldl (fun (l : List Nat) e => if l.contains (e.line g) then l else l ++ [e.line g]) []
    lines.map (fun k => es.filter (fun e => e.line g == k))

/-- gcp: one pass sends a store packet for every line of its window; past Open every packet is discarded and counted. -/
def execGcp (r : RecWord) (s : State) : Out :=
  s.issuePass .copy (fun x q => do
    let n := w7 r 16 6
    let (g, h) ← s.boxWindow x q r 0 q.pass (q.sourceExt r)
    let h1 ← q.remoteWindow r q.pass
    match s.ownGroup x n with
    | none => fault Flt.group
    | some c => do
      let d ← s.readWindow x g h
      let lines := s.remotePackets x h1 (windowElems h1 d)
      waitFor (!s.withdrawing n s.cur)
      if c.st == .opened then
        .ok (lines.foldl (fun s es => s.sendPacket n s.cur (w7 r 0 16) x.r.launch x.r.launch .copy 0 (q.handle r 1) es) s, q)
      else .ok (s.setCGroup n { c with discarded := c.discarded + lines.length }, q))

/-- The message that takes a pass of rcp to its destination (log 25). -/
def remoteMessage (part task num mesh : Nat) (h : Handle) (es : List RemoteElem) : List Byte :=
  natToBytes 1 part ++ natToBytes 4 task ++ natToBytes 4 num ++ natToBytes 8 mesh ++ natToBytes 32 h.toNat ++ elemBytesOf es

/-- Take the first message of a device under a key, when its parameters are as wanted. -/
def State.takePeer (s : State) (dev key : Nat) (params : Option Nat) : Option (PeerData × State) :=
  let here (p : PeerData) : Bool := p.dev == dev && p.key == key && (match params with | some n => p.params == n | none => true)
  (s.inbox.find? here).map (fun p => (p, { s with inbox := s.inbox.eraseP here }))

/-- rcp: a pass of this device's own stores them; one of another device sends them, and ends with their acknowledgement. -/
def execRcp (r : RecWord) (s : State) : Out :=
  s.issueTurn .copy (fun x q => do
    let dev := w7 r 0 16
    let part := s.partOf x
    let next : QRec := { q with pass := q.pass + 1 }
    let (g, h) ← s.boxWindow x q r 0 q.pass (q.sourceExt r)
    let h1 ← q.remoteWindow r q.pass
    if dev = s.deviceOf x.r.launch then do
      let g1 ← s.regionOf x.own h1
      let d ← s.readWindow x g h
      let ws ← s.writeWindow x g1 h1 d.vals d.hdrs
      .ok (s.postRecord x q r ws, next)
    else do
      check (s.routeUp part dev) Flt.link
      if q.cursor ≤ q.pass then do
        let d ← s.readWindow x g h
        .ok (s.sendOn part (.remoteStore dev (remoteMessage part s.cur q.num (s.meshWord x.r.launch) (q.handle r 1) (windowElems h1 d))),
          { q with cursor := q.pass + 1 })
      else
        match s.takePeer dev ackKey (some (s.cur * 2 ^ 32 + q.num)) with
        | none => .error .stall
        | some p => .ok (p.2, next))

/-! ### Collectives (R249, R250) -/

/-- Word 7 of a collective. -/
def collAxis (r : RecWord) : Nat := w7 r 0 2
def collDim (r : RecWord) : Nat := w7 r 2 2
def collTag (r : RecWord) : Nat := w7 r 8 8
def collRoot (r : RecWord) : Nat := w7 r 16 16

/-- Coordinates of the participants, and their devices: those that differ from this one on the axis alone. -/
def State.participants (s : State) (x : Task) (r : RecWord) : List Nat :=
  match s.launch? x.r.launch with
  | none => []
  | some l =>
    let a := collAxis r
    let stride := (List.range a).foldl (fun n j => n * l.meshSize j) 1
    (List.range (l.meshSize a)).map (fun j => l.thisDevice - l.meshCoord a * stride + j * stride)

/-- m of R249. -/
def State.collCoord (s : State) (x : Task) (r : RecWord) : Nat :=
  match s.launch? x.r.launch with
  | some l => l.meshCoord (collAxis r)
  | none => 0

/-- The kinds of collective. -/
inductive CollKind where
  | allred
  | allgath
  | bcast
  | rdscat
  deriving DecidableEq, Repr

/-- The KIND codes, which keep the instances of different kinds apart. -/
def CollKind.code : CollKind → Nat
  | .allred => 0x22
  | .allgath => 0x23
  | .bcast => 0x24
  | .rdscat => 0x25

/-- A kind that folds. -/
def CollKind.folds (k : CollKind) : Bool := k == .allred || k == .rdscat

/-- The destination window (Table 12.4). -/
def CollKind.destExt (k : CollKind) (n dim : Nat) (w : Nat → Nat) (d : Nat) : Nat :=
  if d ≠ dim then w d
  else match k with
    | .allgath => w d * n
    | .rdscat => w d / n
    | _ => w d

/-- What the start of a collective checks. -/
def State.checkCollective (s : State) (x : Task) (q : QRec) (r : RecWord) (k : CollKind) : Res Unit := do
  let f := Handle.fmt (q.handle r 0)
  s.checkBoxes x q r (copyUses r)
  check (f == Handle.fmt (q.handle r 1)) Flt.format
  check (!k.folds || fmtIsInt f || fmtIsFloat f) Flt.format
  let axes := match s.launch? x.r.launch with | some l => l.axes | none => 0
  check (collAxis r < axes) Flt.bounds
  let n := (s.participants x r).length
  check (collRoot r < n) Flt.bounds
  check q.extentsOk Flt.bounds
  check (k != .rdscat || q.sourceExt r (collDim r) % n == 0) Flt.bounds
  q.everyPass (fun p => do
    let _ ← s.boxWindow x q r 0 p (q.sourceExt r)
    let _ ← s.boxWindow x q r 1 p (k.destExt n (collDim r) (q.sourceExt r)))

/-- ⊕ of R250: OP 0 ADD, 1 MAX, 2 MIN; an integer sum wraps under WRAP. -/
def collOp (f : Fmt) (wrap : Bool) (op a b : Nat) : Nat :=
  if op = 0 && wrap && fmtIsInt f then (a + b) % 2 ^ fmtWidth f else reduceOp f (BitVec.ofNat 4 (2 + op)) a b

/-- The fold of the sources in ascending coordinate. -/
def collFold (f : Fmt) (wrap : Bool) (op : Nat) : List (List Nat) → List Nat
  | [] => []
  | l :: r => r.foldl (fun v x => (v.zip x).map (fun p => collOp f wrap op p.1 p.2)) l

/-- A coordinate list with one coordinate replaced. -/
def setCoord (c : List Nat) (d v : Nat) : List Nat := c.set d v

/-- Slices side by side along a dimension. -/
def joinSlices (e : Nat → Nat) (n dim : Nat) (ls : List (List Nat)) : List Nat :=
  (boxCoords (fun d => if d = dim then e d * n else e d)).map (fun c =>
    let v := nth c dim 0
    nth (nth ls (v / e dim) []) (linOf e (setCoord c dim (v % e dim))) 0)

/-- Slice m of n along a dimension. -/
def oneSlice (e : Nat → Nat) (n dim m : Nat) (l : List Nat) : List Nat :=
  (boxCoords (fun d => if d = dim then e d / n else e d)).map (fun c =>
    nth l (linOf e (setCoord c dim (nth c dim 0 + m * (e dim / n)))) 0)

/-- What a participant writes (Table 12.4): elements and headers, from the sources in ascending coordinate. -/
def CollKind.result (k : CollKind) (r : RecWord) (f : Fmt) (w : Nat → Nat) (m : Nat) (src : List Data) : List Nat × List Nat :=
  let n := src.length
  let dim := collDim r
  let fold := collFold f r.wrap (r.kflags.toNat % 4) (src.map (fun d => d.vals))
  match k with
  | .allred => (fold, [])
  | .rdscat => (oneSlice w n dim m fold, [])
  | .bcast => match src[collRoot r]? with
    | some d => (d.vals, d.hdrs)
    | none => ([], [])
  | .allgath =>
    (joinSlices w n dim (src.map (fun d => d.vals)),
      if headerBytes f = 0 then [] else joinSlices (blockExt f w) n dim (src.map (fun d => d.hdrs)))

/-- What the participants compare before data moves: FMT, KFLAGS, word 7 and the window extents. -/
def collParams (f : Fmt) (r : RecWord) (w : Nat → Nat) : Nat :=
  f.toNat + 2 ^ 6 * (r.kflags.toNat + 2 ^ 8 * (r.w7.toNat + 2 ^ 64 * (w 0 + 2 ^ 24 * (w 1 + 2 ^ 24 * (w 2 + 2 ^ 24 * w 3)))))

/-- The count under which an engine keeps the instances of one KIND, axis and TAG. -/
def collSlot (k : CollKind) (r : RecWord) : Nat := k.code + 2 ^ 8 * (collAxis r + 2 ^ 2 * collTag r)

/-- The key of one pass of one instance: KIND, axis and TAG, the record's place among those, the pass, the task's WID, the
partition (log 25). -/
def collKey (k : CollKind) (r : RecWord) (nth pass wid part : Nat) : Nat :=
  collSlot k r + 2 ^ 24 * (nth % 2 ^ 40 + 2 ^ 40 * (pass % 2 ^ 64 + 2 ^ 64 * (wid % 2 ^ 64 + 2 ^ 64 * (part % 64))))

/-- A collective counts among those of its KIND, axis and TAG when it starts. -/
def Eng.countCollective (e : Eng) (k : CollKind) (r : RecWord) : Nat × Eng :=
  let n := SMap.get e.colls (collSlot k r) 0
  (n, { e with colls := SMap.put e.colls (collSlot k r) (n + 1) })

/-- One turn of a collective: a pass first sends this device's source to every participant, then waits for theirs and writes
its own destination. The place of the record among its kind stands in the record since its start. -/
def State.collectivePass (s : State) (r : RecWord) (k : CollKind) : Out :=
  s.issueTurn .copy (fun x q => do
    let me := s.deviceOf x.r.launch
    let part := s.partOf x
    let devs := s.participants x r
    let w := q.sourceExt r
    let f := Handle.fmt (q.handle r 0)
    let key := collKey k r (nth q.named 0 0) q.pass x.r.wid part
    let params := collParams f r w
    let (g, h) ← s.boxWindow x q r 0 q.pass w
    check (devs.all (fun d => d == me || s.routeUp part d)) Flt.link
    if q.cursor ≤ q.pass then do
      let d ← s.readWindow x g h
      let s := devs.foldl (fun (s : State) dev =>
        if dev == me then s.keepPeer me key params (dataBytes d) else s.sendOn part (.peer dev key params (dataBytes d))) s
      .ok (s, { q with cursor := q.pass + 1 })
    else do
      let got := devs.filterMap (fun d => s.inbox.find? (fun p => p.dev == d && p.key == key))
      waitFor (got.length == devs.length)
      check (got.all (fun p => p.params == params)) Flt.format
      let src := got.map (fun p => dataOf f w p.bytes)
      let (g1, h1) ← s.boxWindow x q r 1 q.pass (k.destExt devs.length (collDim r) w)
      let out := k.result r f w (s.collCoord x r) src
      let ws ← s.writeWindow x g1 h1 out.1 out.2
      let s := { s with inbox := s.inbox.filter (fun p => !(p.key == key && devs.contains p.dev)) }
      .ok (s.postRecord x q r ws, { q with pass := q.pass + 1 }))

def execAllred (r : RecWord) (s : State) : Out := s.collectivePass r .allred
def execAllgath (r : RecWord) (s : State) : Out := s.collectivePass r .allgath
def execBcast (r : RecWord) (s : State) : Out := s.collectivePass r .bcast
def execRdscat (r : RecWord) (s : State) : Out := s.collectivePass r .rdscat

end Sys2Proof.Machine
end

