-- ==== Sys2Proof/Machine/Digests.lean ====
section
/-! DEFINITION. SHA-384 (FIPS 180-4) and the digest record (12 R251). -/

namespace Sys2Proof.Machine
open Sys2Proof

/-! ### SHA-384 -/

/-- The round constants. -/
def shaK : List Word :=
  [0x428A2F98D728AE22, 0x7137449123EF65CD, 0xB5C0FBCFEC4D3B2F, 0xE9B5DBA58189DBBC]
    ++ [0x3956C25BF348B538, 0x59F111F1B605D019, 0x923F82A4AF194F9B, 0xAB1C5ED5DA6D8118]
    ++ [0xD807AA98A3030242, 0x12835B0145706FBE, 0x243185BE4EE4B28C, 0x550C7DC3D5FFB4E2]
    ++ [0x72BE5D74F27B896F, 0x80DEB1FE3B1696B1, 0x9BDC06A725C71235, 0xC19BF174CF692694]
    ++ [0xE49B69C19EF14AD2, 0xEFBE4786384F25E3, 0x0FC19DC68B8CD5B5, 0x240CA1CC77AC9C65]
    ++ [0x2DE92C6F592B0275, 0x4A7484AA6EA6E483, 0x5CB0A9DCBD41FBD4, 0x76F988DA831153B5]
    ++ [0x983E5152EE66DFAB, 0xA831C66D2DB43210, 0xB00327C898FB213F, 0xBF597FC7BEEF0EE4]
    ++ [0xC6E00BF33DA88FC2, 0xD5A79147930AA725, 0x06CA6351E003826F, 0x142929670A0E6E70]
    ++ [0x27B70A8546D22FFC, 0x2E1B21385C26C926, 0x4D2C6DFC5AC42AED, 0x53380D139D95B3DF]
    ++ [0x650A73548BAF63DE, 0x766A0ABB3C77B2A8, 0x81C2C92E47EDAEE6, 0x92722C851482353B]
    ++ [0xA2BFE8A14CF10364, 0xA81A664BBC423001, 0xC24B8B70D0F89791, 0xC76C51A30654BE30]
    ++ [0xD192E819D6EF5218, 0xD69906245565A910, 0xF40E35855771202A, 0x106AA07032BBD1B8]
    ++ [0x19A4C116B8D2D0C8, 0x1E376C085141AB53, 0x2748774CDF8EEB99, 0x34B0BCB5E19B48A8]
    ++ [0x391C0CB3C5C95A63, 0x4ED8AA4AE3418ACB, 0x5B9CCA4F7763E373, 0x682E6FF3D6B2B8A3]
    ++ [0x748F82EE5DEFB2FC, 0x78A5636F43172F60, 0x84C87814A1F0AB72, 0x8CC702081A6439EC]
    ++ [0x90BEFFFA23631E28, 0xA4506CEBDE82BDE9, 0xBEF9A3F7B2C67915, 0xC67178F2E372532B]
    ++ [0xCA273ECEEA26619C, 0xD186B8C721C0C207, 0xEADA7DD6CDE0EB1E, 0xF57D4F7FEE6ED178]
    ++ [0x06F067AA72176FBA, 0x0A637DC5A2C898A6, 0x113F9804BEF90DAE, 0x1B710B35131C471B]
    ++ [0x28DB77F523047D84, 0x32CAAB7B40C72493, 0x3C9EBE0A15C9BEBC, 0x431D67C49C100D4C]
    ++ [0x4CC5D4BECB3E42B6, 0x597F299CFC657E2A, 0x5FCB6FAB3AD6FAEC, 0x6C44198C4A475817]

/-- The first hash value of SHA-384. -/
def shaInit : List Word :=
  [0xCBBB9D5DC1059ED8, 0x629A292A367CD507, 0x9159015A3070DD17, 0x152FECD8F70E5939]
    ++ [0x67332667FFC00B31, 0x8EB44A8768581511, 0xDB0C2E0D64F98FA7, 0x47B5481DBEFA4FA4]

/-- Rotation and shift to the right. -/
def shaRotr (x : Word) (n : Nat) : Word := x.rotateRight n
def shaSmall0 (x : Word) : Word := shaRotr x 1 ^^^ shaRotr x 8 ^^^ (x >>> 7)
def shaSmall1 (x : Word) : Word := shaRotr x 19 ^^^ shaRotr x 61 ^^^ (x >>> 6)
def shaBig0 (x : Word) : Word := shaRotr x 28 ^^^ shaRotr x 34 ^^^ shaRotr x 39
def shaBig1 (x : Word) : Word := shaRotr x 14 ^^^ shaRotr x 18 ^^^ shaRotr x 41

/-- The message schedule, the last word first. -/
def shaSchedule (w : List Word) : Nat → List Word
  | 0 => w
  | n + 1 => shaSchedule ((shaSmall1 (nth w 1 0) + nth w 6 0 + shaSmall0 (nth w 14 0) + nth w 15 0) :: w) n

/-- The eight working variables. -/
structure ShaVars where
  a : Word
  b : Word
  c : Word
  d : Word
  e : Word
  f : Word
  g : Word
  h : Word
  deriving DecidableEq, Repr

/-- One round, with a constant and a word of the schedule. -/
def shaRound (v : ShaVars) (kw : Word × Word) : ShaVars :=
  let t1 := v.h + shaBig1 v.e + ((v.e &&& v.f) ^^^ (~~~v.e &&& v.g)) + kw.1 + kw.2
  let t2 := shaBig0 v.a + ((v.a &&& v.b) ^^^ (v.a &&& v.c) ^^^ (v.b &&& v.c))
  { a := t1 + t2, b := v.a, c := v.b, d := v.c, e := v.d + t1, f := v.e, g := v.f, h := v.g }

/-- A big-endian number. -/
def bigEndian (bs : List Byte) : Nat := bytesToNat bs.reverse

/-- One block of 128 bytes. -/
def shaBlock (h : List Word) (blk : List Byte) : List Word :=
  let w := (chunks 8 17 blk).map (fun b => word (bigEndian b))
  let sched := (shaSchedule w.reverse 64).reverse
  let v0 : ShaVars := { a := nth h 0 0, b := nth h 1 0, c := nth h 2 0, d := nth h 3 0, e := nth h 4 0, f := nth h 5 0, g := nth h 6 0, h := nth h 7 0 }
  let v := (shaK.zip sched).foldl shaRound v0
  [v0.a + v.a, v0.b + v.b, v0.c + v.c, v0.d + v.d, v0.e + v.e, v0.f + v.f, v0.g + v.g, v0.h + v.h]

/-- The padded message. -/
def shaPad (bs : List Byte) : List Byte :=
  let n := bs.length
  let zeros := (128 - (n + 17) % 128) % 128
  bs ++ [0x80] ++ List.replicate zeros 0 ++ (natToBytes 16 (8 * n)).reverse

/-- SHA-384: 48 bytes in the order of the standard. -/
def sha384 (bs : List Byte) : List Byte :=
  let p := shaPad bs
  let h := (chunks 128 (p.length / 128 + 1) p).foldl shaBlock shaInit
  (h.take 6).flatMap (fun w => (natToBytes 8 w.toNat).reverse)

/-! ### The canonical bytes of a box (R251) -/

/-- Elements as canonical bytes: whole little-endian containers, or packed fields of less than a byte. -/
def payloadBytes (f : Fmt) (vals : List Nat) : List Byte :=
  natToBytes ((vals.length * fmtWidth f + 7) / 8) (packBits (fmtWidth f) vals)

/-- FMT, rank, two zero bytes, the extents, the payload, the headers. -/
def canonicalBytes (h : Handle) (d : Data) : List Byte :=
  [BitVec.ofNat 8 d.tag.toNat, BitVec.ofNat 8 (Handle.rank h + 1), 0, 0]
    ++ dims.flatMap (fun i => natToBytes 3 (Handle.ext h i))
    ++ payloadBytes d.tag d.vals
    ++ d.hdrs.flatMap (fun v => natToBytes (headerBytes d.tag) v)

/-! ### digest (R251) -/

/-- The box operands of a digest. -/
def digestUses (r : RecWord) : List BoxUse :=
  [⟨0, false⟩, ⟨1, false⟩, ⟨2, false⟩, ⟨3, true⟩].filter (fun u => isBox r u.k)

/-- What the start of a digest checks. -/
def State.checkDigest (s : State) (x : Task) (q : QRec) (r : RecWord) : Res Unit := do
  check (q.trips.all (fun t => t == 1)) Flt.illegal
  s.checkBoxes x q r (digestUses r)
  check (rowBox (q.handle r 3) Fm.z8) Flt.format
  check (48 ≤ Handle.ext (q.handle r 3) 0) Flt.bounds

/-- digest: one pass. -/
def execDigest (r : RecWord) (s : State) : Out :=
  s.issuePass .copy (fun x q => do
    let parts ← ([0, 1, 2].filter (isBox r)).mapM (fun k => do
      let h := q.handle r k
      let g ← s.regionOf x.own h
      let d ← s.readWindow x g h
      .ok (canonicalBytes h d))
    let sum := sha384 (parts.flatMap id)
    let (g, h) ← s.window2 x (q.handle r 3) (fun _ => 0) (fun d => if d = 0 then 48 else 1)
    let ws ← s.writeWindow x g h (sum.map (fun b => b.toNat)) []
    .ok (s.postRecord x q r ws, q))

end Sys2Proof.Machine
end

