-- ==== Sys2Proof/Machine/Encode.lean ====
section
/-! DEFINITION. Video encode: the enc record and the steps of the encoders (12 R252 to R254; 22 R348, R355). The bitstream and the
contents of a context are the encoder's own: constants without a body (log 11). -/

namespace Sys2Proof.Machine
open Sys2Proof

/-! ### The enc record (R252, R253) -/

/-- Luma width and height of a picture box. -/
def pictureW (h : Handle) : Nat := Handle.ext h 0
def pictureH (h : Handle) : Nat := 2 * Handle.ext h 1 / 3

/-- The sample width of a picture is one that the codec takes (Table 12.6). -/
def codecTakes (codec : Nat) (f : Fmt) : Bool := codec == 3 || (if codec = 2 then f == Fm.z16 else f == Fm.z8)

/-- A picture's rank and size. -/
def pictureOk (h : Handle) : Bool :=
  Handle.rank h == 1 && Handle.level h == 0 && Handle.ext h 1 % 3 == 0 && pictureW h % 2 == 0 && pictureH h % 2 == 0
    && 64 ≤ pictureW h && pictureW h ≤ 4096 && 64 ≤ pictureH h && pictureH h ≤ 2304

/-- A byte box of rank 1 at level 0. -/
def byteRow (h : Handle) : Bool := Handle.rank h == 0 && Handle.level h == 0

/-- What the start of an enc checks. -/
def State.checkEnc (s : State) (x : Task) (q : QRec) (r : RecWord) : Res Unit := do
  let h0 := q.handle r 0
  let h1 := q.handle r 1
  let h2 := q.handle r 2
  let f := Handle.fmt h0
  useHandle h0
  useHandle h1
  useHandle h2
  check (!readOnly h1 && Handle.mode h2 == modeShared) Flt.mode
  let _ ← s.regionOf x.own h0
  let _ ← s.regionOf x.own h1
  let _ ← s.regionOf x.own h2
  check ((f == Fm.z8 || f == Fm.z16) && Handle.fmt h1 == Fm.z8 && Handle.fmt h2 == Fm.z8) Flt.format
  check (pictureOk h0 && byteRow h1 && byteRow h2 && [0, 1, 2].all (q.still r)) Flt.bounds
  check (24 ≤ Handle.ext h1 0) Flt.bounds
  check (65536 + 3 * pictureW h0 * pictureH h0 * (fmtWidth f / 8) ≤ Handle.ext h2 0) Flt.bounds

/-- enc: one pass forwards a frame to an encoder of the die and writes its E number into bytes 16 to 23 of the output; a
seventeenth forward waits. -/
def execEnc (r : RecWord) (s : State) : Out :=
  s.issuePass .copy (fun x q => do
    let e := dieOfTask x * 4 + w7 r 0 2
    let c := s.encoder e
    waitFor (c.frames.length < 16)
    let h0 := q.handle r 0
    let h1 := q.handle r 1
    let h2 := q.handle r 2
    let g0 ← s.regionOf x.own h0
    let g1 ← s.regionOf x.own h1
    let g2 ← s.regionOf x.own h2
    let n := c.issued + 1
    let (g, h) ← s.window2 x h1 (fun d => if d = 0 then 16 else 0) (fun d => if d = 0 then 8 else 1)
    let ws ← s.writeWindow x g h ((natToBytes 8 n).map (fun b => b.toNat)) []
    let f : EncFrame :=
      { task := s.cur, part := s.partOf x, r := r, h0 := h0, h1 := h1, h2 := h2, g0 := g0, g1 := g1, g2 := g2, number := n,
        cls := x.r.cls, deadline := x.r.deadline, running := false, stopped := false, picture := [], context := [], bad := false, spilled := false }
    .ok ((s.setEncoder e { c with frames := c.frames ++ [f], issued := n }).postRecord x q r ws, q))

/-! ### The boxes of a frame -/

/-- The physical bytes of a level-0 box's elements as an encoder reaches them; none where a page is not there. -/
def State.frameCells (s : State) (part : Nat) (g : Region) (h : Handle) (k : Wants) : Option (List Nat) :=
  let offs := (boxCoords (Handle.ext h)).flatMap (fun c =>
    let b := elemBytes g (regionCoord h c)
    (List.range b.2).map (fun i => b.1 + i))
  offs.mapM (fun o => match s.physical part (g.base + o) k with | .ok a => some a | .error _ => none)

/-- The writes of bytes from an element of the output on. -/
def State.outputWrites (s : State) (f : EncFrame) (start : Nat) (bs : List Byte) : Option (List ByteWrite) :=
  ((List.range bs.length).zip bs).mapM (fun p =>
    let o := (elemBytes f.g1 (regionCoord f.h1 [start + p.1, 0, 0, 0])).1
    match s.physical f.part (f.g1.base + o) wantsWrite with
    | .ok a => some { a := a, mask := 0xFF, v := p.2 }
    | .error _ => none)

/-- The frame's semaphore has reached its threshold (R253). A frame whose task has gone before that never starts, and keeps its place among the
encoder's 16: R261 does not say what becomes of it, and the choice is the model's (log 36). -/
def State.frameReady (s : State) (f : EncFrame) : Bool :=
  f.r.wthr == 0 || (match s.task? f.task with
    | some x => f.r.wthr.toNat ≤ (match s.savedSem x f.r.wsem.toNat with
        | some a => Memory.readNat s.mem a 4
        | none => (x.sem f.r.wsem.toNat).toNat)
    | none => false)

/-- A frame may start or go on. -/
def State.startable (s : State) (f : EncFrame) : Bool := !f.running && (f.stopped || s.frameReady f)

/-- The order in which an encoder serves frames (R254, R355). -/
def frameBefore (a b : EncFrame) : Bool :=
  if a.cls != b.cls then a.cls < b.cls
  else if a.cls == 0 && a.deadline != b.deadline then a.deadline < b.deadline
  else a.number < b.number

/-- The frame that an encoder serves next. -/
def State.nextFrame (s : State) (c : Encoder) : Option EncFrame :=
  (c.frames.filter s.startable).foldl (fun m f => match m with
    | none => some f
    | some (b : EncFrame) => if frameBefore f b then some f else some b) none

/-- Replace a frame by its number. -/
def Encoder.replace (c : Encoder) (f : EncFrame) : Encoder :=
  { c with frames := c.frames.map (fun g => if g.number == f.number then f else g) }

/-- The samples of a picture: bits [15:10] of a 10-bit one are ignored (R252). -/
def EncFrame.samples (f : EncFrame) (l : List Byte) : List Byte :=
  if Handle.fmt f.h0 == Fm.z16 then ((List.range l.length).zip l).map (fun p => if p.1 % 2 = 0 then p.2 else p.2 &&& 3) else l

/-! ### The steps of an encoder -/

/-- ENCODER_FRAME_START (R253, R254): a stopped frame goes on; a new one reads its picture and context. -/
def execEncoderFrameStart (enc : Nat) (s : State) : Out :=
  let c := s.encoder enc
  if c.frames.any (fun f => f.running) then .next s
  else match s.nextFrame c with
    | none => .next s
    | some f =>
      if f.stopped then .next (s.setEncoder enc (c.replace { f with running := true, stopped := false }))
      else match s.frameCells f.part f.g0 f.h0 wantsRead, s.frameCells f.part f.g2 f.h2 wantsRead with
        | some p, some k =>
          if !(p ++ k).all s.readable then .next s
          else
            let f := { f with
              running := true, bad := (p ++ k).any s.isBad, picture := f.samples (p.map s.byteAt), context := k.map s.byteAt }
            .next (s.setEncoder enc (c.replace f))
        | _, _ => .next s

/-- The parameters of a frame: word 7 [47:0] without ENCODER, the sample width and the size. -/
def EncFrame.params (f : EncFrame) : Nat :=
  w7 f.r 2 46 + 2 ^ 46 * ((Handle.fmt f.h0).toNat + 2 ^ 6 * (pictureW f.h0 + 2 ^ 24 * pictureH f.h0))

/-- What an encoder context is of (R252): the size and CODEC. -/
def EncFrame.sequenceOf (f : EncFrame) : Nat := w7 f.r 2 2 + 4 * (pictureW f.h0 + 2 ^ 24 * pictureH f.h0)

/-- What a frame ends with: status, bitstream, new context and the frame number in the context's sequence. -/
def EncFrame.outcome (f : EncFrame) : Nat × List Byte × List Byte × Nat :=
  let fits := Config.encoderMatches f.sequenceOf f.context
  let before := if fits then f.context else []
  let out := Config.encoderBits f.params before f.picture
  let after := Config.encoderContext f.params before f.picture
  if f.bad then (3, [], f.context, Config.encoderSequence f.context)
  else if Handle.ext f.h1 0 < 64 + out.length then (1, [], f.context, Config.encoderSequence f.context)
  else (if fits then 0 else 2, out, (after ++ f.context.drop after.length).take f.context.length, Config.encoderSequence after)

/-- The E timeline reaches a number, and the frame leaves. -/
def Encoder.finish (c : Encoder) (n : Nat) : Encoder :=
  { c with frames := c.frames.filter (fun f => f.number != n), done := max c.done n }

/-- A semaphore after a signal: it saturates. -/
def raisedSem (v : Nat) : Nat := min (v + 1) (2 ^ 32 - 1)

/-- A completed frame signals its task's semaphore, or the saved one (R253). -/
def State.frameSignal (s : State) (f : EncFrame) : State :=
  if !f.r.sig then s
  else match s.task? f.task with
    | none => s
    | some x =>
      let i := f.r.ssem.toNat
      match s.savedSem x i with
      | some a => s.storeBytes a (natToBytes 4 (raisedSem (Memory.readNat s.mem a 4)))
      | none => s.setTask f.task (x.setSem i (BitVec.ofNat 32 (raisedSem (x.sem i).toNat)))

/-- ENCODER_FRAME_COMPLETE (R253): the bitstream from byte 64, the header, the context, then E and the semaphore. -/
def execEncoderFrameComplete (enc : Nat) (s : State) : Out :=
  let c := s.encoder enc
  match c.frames.find? (fun f => f.running) with
  | none => .next s
  | some f =>
    let (status, out, ctx, num) := f.outcome
    let header := natToBytes 8 out.length ++ natToBytes 4 status ++ natToBytes 4 num
    match s.outputWrites f 64 out, s.outputWrites f 0 header, s.frameCells f.part f.g2 f.h2 wantsWrite with
    | some a, some b, some k =>
      let cw := if status = 0 || status = 2 || f.spilled then (k.zip ctx).map (fun p => { a := p.1, mask := 0xFF, v := p.2 : ByteWrite }) else []
      if !(a ++ b ++ cw).all (fun w => s.online w.a) then .next s
      else .next (((s.store (a ++ b ++ cw)).setEncoder enc (c.finish f.number)).frameSignal f)
    | _, _, _ => .next s

/-- ENCODER_FRAME_SWITCH (R254): the frame that runs stops for a startable one of a higher class; its state goes into its context, whose
bytes the spec leaves to the encoder: free values (log 11). -/
def execEncoderFrameSwitch (enc : Nat) (s : State) : Out :=
  let c := s.encoder enc
  match c.frames.find? (fun f => f.running), s.nextFrame c with
  | some f, some g =>
    if g.cls < f.cls then
      let (v, s) := s.freshFree
      let n := f.context.length
      let ws := match s.frameCells f.part f.g2 f.h2 wantsWrite with
        | some k => (k.zip (natToBytes n v)).map (fun p => { a := p.1, mask := 0xFF, v := p.2 : ByteWrite })
        | none => []
      .next ((s.store ws).setEncoder enc (c.replace { f with running := false, stopped := true, spilled := true }))
    else .next s
  | _, _ => .next s

/-- A reset cuts the frames of a partition (R348 step 5): status 4, and E advances. -/
def State.cutFrames (s : State) (part : Nat) : State :=
  s.encoders.foldl (fun s p =>
    (p.2.frames.filter (fun f => f.part == part)).foldl (fun s f =>
      let s := match s.outputWrites f 8 (natToBytes 4 4) with | some ws => s.store ws | none => s
      s.setEncoder p.1 ((s.encoder p.1).finish f.number)) s) s

end Sys2Proof.Machine
end

