-- ==== Sys2Proof/Machine/RecordSteps.lean ====
section
/-! DEFINITION. The start and the completion of a record (08 R139 to R142; 12 R230 to R232, R240, R253). -/

namespace Sys2Proof.Machine
open Sys2Proof

/-- The fields of a record instruction. -/
def recFields : Instr → Option RecWord
  | .mmul r | .copy r | .copyl r | .trans r | .perm r | .fill r | .gather r | .scatter r => some r
  | .edec r | .vqx r | .cbload r | .shpf r | .gcp r | .rcp r => some r
  | .allred r | .allgath r | .bcast r | .rdscat r | .digest r | .enc r => some r
  | .hintRecord _ r => some r
  | _ => none

/-- An enc record, whose semaphores its encoder tests and signals (R253). -/
def isEnc : Instr → Bool
  | .enc _ => true
  | _ => false

/-- A hint record, which performs nothing (R141). -/
def isHint : Instr → Bool
  | .hintRecord _ _ => true
  | _ => false

/-- The box operands that a kind uses whole (R229), and operand 1 of an edec with a ring (R245). -/
def stillOperands : Instr → List Nat
  | .gather _ | .scatter _ => [0, 1, 2]
  | .edec r => if w7 r 16 5 = 0 then [0] else [0, 1]
  | .vqx r => [0].filter (isBox r)
  | .fill r => [1].filter (isBox r)
  | .cbload _ => [0]
  | .shpf _ => [1]
  | .digest r => [0, 1, 2, 3].filter (isBox r)
  | _ => []

/-- What makes a record illegal before any other check of its start (R142): steps of an operand that has none, WRAP where nothing
wraps, a reserved tag, samples that the codec does not take (R229, R234, R245, R252). -/
def State.recordLegal (s : State) (x : Task) (q : QRec) (i : Instr) : Bool :=
  match recFields i with
  | none => true
  | some r =>
    let f := Handle.fmt (q.handle r 1)
    (stillOperands i).all (q.still r) &&
      (match i with
       | .mmul _ => !r.wrap || s.profileOf x r == 3
       | .copy _ | .copyl _ => !r.wrap || wrapTarget f
       | .fill _ => isBox r 1 || !fmtReserved (BitVec.ofNat 6 (w7 r 0 6))
       | .edec _ => r.kflags.getLsbD 0 || !fmtReserved (edecTag r)
       | .allred _ | .rdscat _ => !r.wrap || fmtIsInt (Handle.fmt (q.handle r 0))
       | .enc _ =>
         let g := Handle.fmt (q.handle r 0)
         !(g == Fm.z8 || g == Fm.z16) || codecTakes (w7 r 2 2) g
       | _ => true)

/-- The tile ids that a record names in a pass: those its references step to, and that of a ring (R228, R245). -/
def QRec.passTiles (q : QRec) (i : Instr) (r : RecWord) (p : Nat) : List Int :=
  let ids := ([0, 1, 2, 3].filter (fun k => refType (recRef r k) == 1)).map (fun k => q.tileIndex r k p)
  match i with
  | .edec _ => if w7 r 16 5 = 0 then ids else [((refIndex r.o1 + p % w7 r 16 5 : Nat) : Int)]
  | _ => ids

/-- No pass of a record names an undeclared scratchpad buffer (R52). -/
def QRec.buffersOk (q : QRec) (x : Task) (i : Instr) : Bool :=
  match recFields i with
  | none => true
  | some r => (List.range q.passes).all (fun p => (q.passTiles i r p).all (fun n => n < 0 || 64 ≤ n || x.declared n.toNat))

/-- The checks of a kind for every pass (R230), and what a start reads once: the block list, or the record's place among the
collectives of its kind, which the engine counts. -/
def State.kindChecks (s : State) (x : Task) (q : QRec) (i : Instr) : Res (QRec × Eng) := do
  let e := x.cpy
  let collective (r : RecWord) (k : CollKind) : Res (QRec × Eng) := do
    s.checkCollective x q r k
    let c := e.countCollective k r
    .ok ({ q with named := [c.1] }, c.2)
  let plain (u : Res Unit) : Res (QRec × Eng) := do u; .ok (q, e)
  match i with
  | .mmul r => plain (s.checkMmul x q r)
  | .copy r => plain (s.checkCopy x q r)
  | .copyl r => plain (s.checkCopyl x q r)
  | .trans r => plain (s.checkPermute x q r (transOf r))
  | .perm r => plain (s.checkPermute x q r (permOf r))
  | .fill r => plain (s.checkFill x q r)
  | .gather r => do .ok ({ q with named := (← s.checkBlockList x q r true) }, e)
  | .scatter r => do .ok ({ q with named := (← s.checkBlockList x q r false) }, e)
  | .edec r => plain (s.checkEdec x q r)
  | .vqx r => plain (s.checkVqx x q r)
  | .cbload r => plain (s.checkCbload x q r)
  | .shpf r => plain (do let _ ← s.checkShpf x q r)
  | .gcp r => plain (s.checkRemote x q r true)
  | .rcp r => plain (s.checkRemote x q r false)
  | .allred r => collective r .allred
  | .allgath r => collective r .allgath
  | .bcast r => collective r .bcast
  | .rdscat r => collective r .rdscat
  | .digest r => plain (s.checkDigest x q r)
  | .enc r => plain (s.checkEnc x q r)
  | _ => .ok (q, e)

/-- The words of a queued record: an XQ record's own, or those of a FORK program in the code image (R178). -/
def State.recordWords (s : State) (x : Task) (q : QRec) : Res (BitVec 512) :=
  match q.off with
  | none => .ok q.w
  | some off => do .ok (BitVec.ofNat 512 (← s.codeNat x.own off 64))

/-- A record's semaphore has reached its threshold, compared unsigned (R231 step 1). -/
def Task.thresholdMet (x : Task) (r : RecWord) : Bool := r.wthr == 0 || r.wthr.toNat ≤ (x.sem r.wsem.toNat).toNat

/-- The semaphore that a record waits for is not poisoned (R336, R337); enc waits for none. -/
def Task.soundThreshold (x : Task) (r : RecWord) (enc : Bool) : Res Unit :=
  if !enc && r.wthr != 0 && x.semFlawed r.wsem.toNat then faultUe true else .ok ()

/-- The slots that a record names, cbload's own among them. -/
def allSlots (i : Instr) : List Nat :=
  (namedSlots i).map (fun n => n.1) ++ (match i with | .cbload r => [w7 r 0 3] | _ => [])

/-- RECORD_START (R231 step 2): the words are fetched, the semaphore waited for, the encoding and then every check of the kind
made; no record behind a cbload of a slot that it names starts before that has completed (R240). -/
def execRecordStart (t : Nat) (e : Engine) (s : State) : Out :=
  match s.task? t with
  | none => .next s
  | some x =>
    match activeRecord e (x.eng e).queue with
    | none => .next s
    | some (k, q) =>
      if q.started || !streamRuns x (streamOf e) then .next s
      else s.deliverStream t x (streamOf e) (do
        let w ← s.recordWords x q
        let raw := recOf w
        waitFor ((bits w 56 8).toNat == 0x30 || x.thresholdMet raw)
        x.soundThreshold raw ((bits w 56 8).toNat == 0x30)
        match decodeRecord w with
        | .error _ => fault Flt.illegal
        | .ok i => do
          check ((match recEngine i with | some eng => eng == e | none => true) && s.recordLegal x { q with w := w } i) Flt.illegal
          waitFor (allSlots i |>.all (fun n => !(((x.eng e).queue.take k).any (fun p => loadedSlot p.w == some n))))
          let trips ← if isHint i then .ok [0] else s.recordTrips x q raw
          let q := { q with w := w, trips := trips }
          check (isHint i || q.buffersOk x i) Flt.illegal
          let (q', cpy) ← s.kindChecks x q i
          let y := match e with | .copy => { x with cpy := cpy } | .matrix => x
          let g := y.eng e
          let y := (y.setEng e { g with queue := g.queue.set k { q' with started := true } }).mapBusy i (fun n => n + 1)
          .ok (s.setTask t (if raw.wthr == 0 then y else y.noteSem s.cycle testRank raw.wsem.toNat)))

/-- A semaphore rises by one and stays at its largest value (R186, R231). -/
def Task.signal (x : Task) (n : Nat) : Task := x.setSem n (BitVec.ofNat 32 (min ((x.sem n).toNat + 1) (2 ^ 32 - 1)))

/-- A task whose oldest record on an engine completes (R231 step 5): the timeline rises, the semaphore signals, the codebook
slots are let go. -/
def Task.completeRecord (x : Task) (e : Engine) (cycle : Nat) : Task :=
  let g := x.eng e
  match g.queue with
  | [] => x
  | q :: rest =>
    let y := x.setEng e { g with queue := rest, done := g.done + 1 }
    match decodeRecord q.w with
    | .error _ => y
    | .ok i =>
      let y := y.mapBusy i (fun n => n - 1)
      let r := recOf q.w
      if r.sig && !isEnc i then (y.signal r.ssem.toNat).noteSem cycle (engineRank e) r.ssem.toNat else y

/-- The signal of an engine's oldest record keeps the order of R186. -/
def Task.signalInOrder (x : Task) (e : Engine) (cycle : Nat) : Bool :=
  match (x.eng e).queue with
  | q :: _ => !(recOf q.w).sig || x.semInOrder cycle (engineRank e) (recOf q.w).ssem.toNat
  | [] => true

/-- RECORD_COMPLETE. -/
def execRecordComplete (t : Nat) (e : Engine) (s : State) : Out :=
  match s.task? t with
  | none => .next s
  | some x => if streamRuns x (streamOf e) && mayComplete x e && x.signalInOrder e s.cycle then .next (s.setTask t (x.completeRecord e s.cycle)) else .next s

/-- A hint record performs nothing: its start gives it no pass (R141). -/
def execHintRecord (_ : BitVec 4) (_ : RecWord) (s : State) : Out := .next s

end Sys2Proof.Machine
end

