-- ==== Sys2Proof/Machine/Partset.lean ====
section
/-! DEFINITION. Partitions: partset and the partition reset (18 R267, R283; 22 R346, R348, R349). -/

namespace Sys2Proof.Machine
open Sys2Proof

/-! ### Groups that meet a reset (R125, R348 step 1) -/

/-- The group of this device that a destination's key names. -/
def State.groupOfKey (s : State) (key : Nat) : Option Nat :=
  (s.groups.find? (fun q => s.groupKey q.1 == key && q.2.st != .free)).map (fun q => q.1)

/-- The groups that a partition originated abort before their decision, and the other partitions that share them are told. -/
def State.abortOwnGroups (s : State) (part : Nat) : State :=
  s.groups.foldl (fun s p =>
    let c := s.cgroup p.1
    if c.undecided && s.launchPart c.launch == part then
      let me := s.deviceOf c.launch
      (c.dests.filter (fun d => d != me)).foldl (fun s d => s.sendControl part d kindReset p.1 c.opening 1) (s.abortGroup p.1 4)
    else s) s

/-- The opening of a group that a key names here: that of what it keeps, or of a packet that has not been staged. -/
def State.openingOf (s : State) (key : Nat) : Nat :=
  match SMap.find s.dests key, s.packets.find? (fun p => p.dev * 64 + p.group == key) with
  | some d, _ => d.opening
  | none, some p => p.opening
  | none, none => 0

/-- The groups of other devices that reached a partition: their originators are told; what is not prepared is dropped and has ended here, so
that the abort to come is acknowledged at once (R126). -/
def State.abortPeerGroups (s : State) (part : Nat) : State :=
  let staged := (s.dests.filter (fun p => p.2.part == part && (s.groupOfKey p.1).isNone)).map (fun p => p.1)
  let flying := (s.packets.filter (fun p => p.part == part)).map (fun p => p.dev * 64 + p.group)
  let foreign := (flying.filter (fun k => (s.groupOfKey k).isNone)).foldl (fun l k => if l.contains k then l else k :: l) staged
  let s := foreign.foldl (fun s k => s.sendControl part (k / 64) kindReset (k % 64) (s.openingOf k) 0) s
  let gone (k : Nat) : Bool := foreign.contains k && !((s.dest k).prepared || (s.dest k).decision == some true)
  let s := { s with packets := s.packets.filter (fun p => !(foreign.contains (p.dev * 64 + p.group))) }
  let s := s.unstage (fun e => gone (e.dev * 64 + e.group))
  (foreign.filter gone).foldl (fun s k => s.endDest k) s

/-- A partition still holds a prepared group, or one whose publication is not applied. -/
def State.holdsPrepared (s : State) (part : Nat) : Bool :=
  s.dests.any (fun p => p.2.part == part && (p.2.prepared || p.2.decision == some true))

/-! ### What a reset clears (R348 steps 2 to 7) -/

/-- Physical ranges of the cluster memories and scratchpads of some clusters. -/
def unitRanges (cls : List Nat) : List (Nat × Nat) :=
  cls.map (fun c => (clusterMem c, 2 ^ 23)) ++ (coresOf cls).map (fun c => (scratchpad c, 2 ^ 21))

/-- Make ranges of the storage zero. -/
def State.zeroRanges (s : State) (rs : List (Nat × Nat)) : State :=
  { s with
    mem := rs.foldl (fun m r => Memory.clear m r.1 r.2) s.mem,
    dirty := rs.foldl (fun m r => Memory.clear m r.1 r.2) s.dirty,
    poison := s.poison.filter (fun w => !rs.any (fun r => r.1 ≤ 8 * w && 8 * w < r.1 + r.2)) }

/-- Every task of a partition ends as under R261 (step 2): its accepted stores perform; cores, queues, spawn groups and misses forget it; its context slot is zero. -/
def State.endPartTasks (s : State) (part : Nat) : State :=
  let mine := (s.tasks.filter (fun p => s.partOf p.2 == part)).map (fun p => p.1)
  let slots := (s.tasks.filter (fun p => mine.contains p.1 && p.2.r.preempted)).map (fun p => (s.slotBase (ctxDie p.2) p.2.r.ctx, slotSize))
  let s := mine.foldl (fun s t => s.performStores t) s
  let s := mine.foldl (fun s t => (s.dequeue t).releaseCore t) (s.zeroRanges slots)
  { s with
    tasks := s.tasks.filter (fun p => !mine.contains p.1),
    spawns := s.spawns.filter (fun p => !mine.contains p.2.parent),
    misses := s.misses.filter (fun m => !mine.contains m.task) }

/-- The launches of a partition end without a completion record; the supervisor launch stays live (R267). -/
def State.endPartLaunches (s : State) (part : Nat) : State :=
  { s with launches := s.launches.map (fun (p : Nat × Launch) =>
      if p.2.part == part && !p.2.supervisor && p.2.service.isNone then (p.1, { p.2 with live := false, closing := true }) else p) }

/-- The streams that a partition opened close without firing (step 4). -/
def State.endPartStreams (s : State) (part : Nat) : State :=
  let mine (l : Nat) : Bool := match s.launch? l with | some x => x.part == part | none => false
  let gone := (s.streams.filter (fun p => mine p.2.launch)).map (fun p => p.1)
  let bound := (s.bindings.filter (fun p => gone.contains p.2.stream)).map (fun p => p.1)
  { s with
    streams := s.streams.filter (fun p => !gone.contains p.1),
    sources := s.sources.filter (fun p => !gone.contains p.2.stream),
    bindings := s.bindings.filter (fun p => !bound.contains p.1),
    windows := s.windows.filter (fun p => !bound.contains p.1) }

/-- The cores and clusters of a partition lose what they hold (step 6). -/
def State.clearUnits (s : State) (cls : List Nat) : State :=
  let s := (coresOf cls).foldl (fun s c => s.modCore c (fun k =>
    { k with task := none, request := false, buffer := [], regions := [], ipend := 0, sframe := [], sframeBad := [] })) s
  let s := cls.foldl (fun s c => s.setCluster c { s.cluster c with q0 := [], q1 := [], q2 := [], regions := [] }) s
  s.zeroRanges (unitRanges cls)

/-- Steps 2 to 7 of a reset. The peers of aborted groups on other devices were told in step 1. -/
def State.finishReset (s : State) (part : Nat) (p : Part) : State :=
  let f := s.hostFn p.vf
  let s := s.cutFrames part
  let s := (s.endPartTasks part).endPartStreams part
  let s := { s.endPartLaunches part with contracts := s.contracts.filter (fun c => c.2.part != part) }
  let s := (s.clearUnits (unitClusters p.units)).setHostFn p.vf { f with head := f.tail }
  let s := { s with parts := SMap.put s.parts part { p with resetting := false } }
  s.raiseIstat p.vf istatReset

/-- A dissolve also frees the clusters, the id and the supervisor launch's number (R267, R283). -/
def State.dissolve (s : State) (part : Nat) (p : Part) : State :=
  let s := (unitClusters p.units).foldl (fun s c => s.setCluster c { s.cluster c with cpart := 63 }) s
  let s := match SMap.find s.svLaunches p.svlaunch with
    | some v => match s.launch? v.launch with
      | some l => s.setLaunch v.launch { l with live := false }
      | none => s
    | none => s
  { s with parts := SMap.del s.parts part, svLaunches := SMap.del s.svLaunches p.svlaunch }

/-! ### partset (R283) -/

/-- The bits of a descriptor that must be zero. -/
def partDescOk (b : Nat) : Bool :=
  natBits b 36 28 == 0 && natBits b 96 32 == 0 && natBits b 160 32 == 0 && natBits b 240 16 == 0 && natBits b 280 40 == 0
    && natBits b 320 192 == 0

/-- The result of a create that does nothing; none when it can be done. -/
def State.createRefused (s : State) (id b : Nat) : Option Nat :=
  let units := BitVec.ofNat 36 (natBits b 0 36)
  let vf := natBits b 272 8
  if (unitClusters units).any (fun c => (s.cluster c).cpart != 63 && (s.cluster c).cpart != id) then some 1
  else if (s.part? id).isSome || vf == 0 || 36 < vf || s.parts.any (fun p => p.2.vf == vf) then some 2
  else match SMap.find s.svLaunches (natBits b 64 32) with
    | some v => if v.part.isSome then some 3 else none
    | none => some 3

/-- The frames of a supervisor launch pass to its partition. -/
def State.giveFrames (s : State) (frames : List Nat) (id : Nat) : State :=
  frames.foldl (fun s a =>
    let k := s.stack (stackDie a)
    match SMap.find k.frames (frameIndex a) with
    | some f => s.setStack (stackDie a) { k with frames := SMap.put k.frames (frameIndex a) { f with owner := id } }
    | none => s) s

/-- Create a partition: CPART, SVEC, empty queues, its frames, and the root tasks of its supervisor launch once. -/
def State.createPart (s : State) (id b : Nat) (v : SvLaunch) : State :=
  let units := BitVec.ofNat 36 (natBits b 0 36)
  let cls := unitClusters units
  let s := cls.foldl (fun s c => s.setCluster c { s.cluster c with cpart := id, q0 := [], q1 := [], q2 := [] }) s
  let s := (coresOf cls).foldl (fun s c => s.modCore c (fun k => { k with svec := word (natBits b 128 32) &&& 0xFFFFFFFC })) s
  let p : Part :=
    { units := units, svlaunch := natBits b 64 32, qos := BitVec.ofNat 48 (natBits b 192 48), vf := natBits b 272 8,
      msix := natBits b 256 16, l1 := v.l1, resetting := false }
  let s := { s with parts := SMap.put s.parts id p, svLaunches := SMap.put s.svLaunches p.svlaunch { v with part := some id } }
  let s := s.giveFrames v.frames id
  match s.launch? v.launch with
  | none => s
  | some l =>
    let l := { l with part := id, clusters := cls, start := s.tick, releases := 1 }
    let s := s.setLaunch v.launch l
    if cls.isEmpty then s else s.createRoots v.launch l (2 ^ 64 - 1)

/-- Where a partition's descriptor may stand: at level 0 (R283), or on a service core in its scratchpad, the only storage that its
launch has (R361; log 37). -/
def descriptorLevels (x : Task) : List Nat := if x.service then [0, 2] else [0]

/-- partset. A reset that meets prepared groups first starts, then waits at issue until their decisions are applied. -/
def execPartset (d a : SReg) (b : HReg) (s : State) : Out :=
  s.issue (privForm 2) (fun x => do
    let v ← x.src a
    x.dst d
    let id := v.toNat % 64
    let op := v.toNat / 256 % 4
    check (v.toNat == id + 256 * op && id < 36 && op != 3 && (op == 0 || b == 0)) Flt.illegal
    if op = 0 then do
      let desc := bytesToNat (← s.boxBytes x (x.ctl.hd b) 0 64 (descriptorLevels x))
      check (partDescOk desc) Flt.illegal
      match s.createRefused id desc, SMap.find s.svLaunches (natBits desc 64 32) with
      | some code, _ => s.done (x.wr d (word code)) 4
      | none, none => s.done (x.wr d 3) 4
      | none, some sv => (s.createPart id desc sv).done (x.wr d 0) 4
    else match s.part? id with
      | none => s.done (x.wr d 2) 4
      | some p =>
        if !p.resetting && s.holdsPrepared id then
          let s := { s with parts := SMap.put s.parts id { p with resetting := true } }
          .ok ((s.abortOwnGroups id).abortPeerGroups id)
        else do
          waitFor (!s.holdsPrepared id)
          let s := (s.abortOwnGroups id).abortPeerGroups id
          let s := s.finishReset id p
          (if op = 2 then s.dissolve id p else s).done (x.wr d 0) 4)

end Sys2Proof.Machine
end

