-- ==== Sys2Proof/Machine/Signatures.lean ====
section
/-! DEFINITION. The verification of the two signatures of an image (23 R357): RSASSA-PSS with SHA-384 and MGF1, and SLH-DSA-SHA2-192s in pure
mode with an empty context (FIPS 205), whose hashes are SHA-256 and SHA-512 (FIPS 180-4). -/

namespace Sys2Proof.Machine
open Sys2Proof

/-- Bytes of a big-endian number. -/
def bigBytes (n v : Nat) : List Byte := (natToBytes n v).reverse

/-- Pieces of n bytes each, k of them. -/
def pieces (n k : Nat) (l : List Byte) : List (List Byte) := (List.range k).map (fun i => (l.drop (n * i)).take n)

/-! ### SHA-512 and SHA-256 -/

/-- The first hash value of SHA-512. -/
def sha512Init : List Word :=
  [0x6A09E667F3BCC908, 0xBB67AE8584CAA73B, 0x3C6EF372FE94F82B, 0xA54FF53A5F1D36F1]
    ++ [0x510E527FADE682D1, 0x9B05688C2B3E6C1F, 0x1F83D9ABFB41BD6B, 0x5BE0CD19137E2179]

/-- SHA-512: 64 bytes. -/
def sha512 (bs : List Byte) : List Byte :=
  let p := shaPad bs
  ((chunks 128 (p.length / 128 + 1) p).foldl shaBlock sha512Init).flatMap (fun w => bigBytes 8 w.toNat)

/-- The sigma functions of SHA-256. -/
def sha2Small0 (x : BitVec 32) : BitVec 32 := x.rotateRight 7 ^^^ x.rotateRight 18 ^^^ (x >>> 3)
def sha2Small1 (x : BitVec 32) : BitVec 32 := x.rotateRight 17 ^^^ x.rotateRight 19 ^^^ (x >>> 10)
def sha2Big0 (x : BitVec 32) : BitVec 32 := x.rotateRight 2 ^^^ x.rotateRight 13 ^^^ x.rotateRight 22
def sha2Big1 (x : BitVec 32) : BitVec 32 := x.rotateRight 6 ^^^ x.rotateRight 11 ^^^ x.rotateRight 25

/-- The message schedule, the last word first. -/
def sha2Schedule (w : List (BitVec 32)) : Nat → List (BitVec 32)
  | 0 => w
  | n + 1 => sha2Schedule ((sha2Small1 (nth w 1 0) + nth w 6 0 + sha2Small0 (nth w 14 0) + nth w 15 0) :: w) n

/-- One round on the eight working variables. -/
def sha2Round (v : List (BitVec 32)) (kw : BitVec 32 × BitVec 32) : List (BitVec 32) :=
  match v with
  | [a, b, c, d, e, f, g, h] =>
    let t1 := h + sha2Big1 e + ((e &&& f) ^^^ (~~~e &&& g)) + kw.1 + kw.2
    let t2 := sha2Big0 a + ((a &&& b) ^^^ (a &&& c) ^^^ (b &&& c))
    [t1 + t2, a, b, c, d + t1, e, f, g]
  | _ => v

/-- One block of 64 bytes. The constants of SHA-256 are the high halves of the first 64 of SHA-512. -/
def sha2Block (h : List (BitVec 32)) (blk : List Byte) : List (BitVec 32) :=
  let w := (pieces 4 16 blk).map (fun b => BitVec.ofNat 32 (bigEndian b))
  let ks := (shaK.take 64).map (fun k => k.extractLsb' 32 32)
  let v := (ks.zip (sha2Schedule w.reverse 48).reverse).foldl sha2Round h
  (h.zip v).map (fun p => p.1 + p.2)

/-- The padded message of SHA-256. -/
def sha2Pad (bs : List Byte) : List Byte :=
  let n := bs.length
  bs ++ [0x80] ++ List.replicate ((64 - (n + 9) % 64) % 64) 0 ++ bigBytes 8 (8 * n)

/-- SHA-256: 32 bytes; its first hash value is the high halves of SHA-512's. -/
def sha256 (bs : List Byte) : List Byte :=
  let p := sha2Pad bs
  ((pieces 64 (p.length / 64) p).foldl sha2Block (sha512Init.map (fun w => w.extractLsb' 32 32))).flatMap (fun w => bigBytes 4 w.toNat)

/-- MGF1 with a hash of some length (RFC 8017). -/
def mgf1 (hash : List Byte → List Byte) (hlen : Nat) (seed : List Byte) (n : Nat) : List Byte :=
  ((List.range ((n + hlen - 1) / hlen)).flatMap (fun i => hash (seed ++ bigBytes 4 i))).take n

/-! ### RSASSA-PSS (check 5) -/

/-- A number to the power 65,537 modulo another: sixteen squarings and a product. -/
def rsaPower (s n : Nat) : Nat := (List.range 16).foldl (fun v _ => v * v % n) (s % n) * s % n

/-- An RSASSA-PSS signature verifies: a modulus of 3,072 bits, SHA-384, MGF1 with SHA-384, a salt of 48 bytes; key and signature are
big-endian (RFC 8017; log 38). -/
def rsaPssOk (key msg sig : List Byte) : Bool :=
  let n := bigEndian key
  let s := bigEndian sig
  let em := bigBytes 384 (rsaPower s n)
  let masked := em.take 335
  let h := (em.drop 335).take 48
  let db := ((masked.zip (mgf1 sha384 48 h 335)).map (fun p => p.1 ^^^ p.2))
  let top := nth masked 0 0
  let db := (nth db 0 0 &&& 0x7F) :: db.drop 1
  2 ^ 3071 ≤ n && sig.length == 384 && s < n && nth em 383 0 == 0xBC && !top.getLsbD 7
    && (db.take 286).all (fun b => b == 0) && nth db 286 0 == 1
    && sha384 (List.replicate 8 0 ++ sha384 msg ++ db.drop 287) == h

/-! ### SLH-DSA-SHA2-192s (check 6): n = 24, h = 63, d = 7, h' = 9, a = 14, k = 17, w = 16 (FIPS 205) -/

/-- The compressed address of a hash: layer, tree, type, and three words. -/
structure SlhAddr where
  layer : Nat
  tree : Nat
  typ : Nat
  w1 : Nat
  w2 : Nat
  w3 : Nat
  deriving DecidableEq, Repr

def SlhAddr.bytes (a : SlhAddr) : List Byte := bigBytes 1 a.layer ++ bigBytes 8 a.tree ++ bigBytes 1 a.typ ++ bigBytes 4 a.w1 ++ bigBytes 4 a.w2 ++ bigBytes 4 a.w3

/-- The functions F, and H and T of any length. -/
def slhF (seed : List Byte) (a : SlhAddr) (m : List Byte) : List Byte := (sha256 (seed ++ List.replicate 40 0 ++ a.bytes ++ m)).take 24
def slhT (seed : List Byte) (a : SlhAddr) (m : List Byte) : List Byte := (sha512 (seed ++ List.replicate 104 0 ++ a.bytes ++ m)).take 24

/-- The digits of some bytes in base 2^b, the highest first. -/
def slhDigits (bs : List Byte) (b n : Nat) : List Nat := (List.range n).map (fun i => bigEndian bs / 2 ^ (8 * bs.length - b * (i + 1)) % 2 ^ b)

/-- A chain of F from position i over so many steps. -/
def slhChain (seed : List Byte) (a : SlhAddr) (x : List Byte) (i : Nat) : Nat → List Byte
  | 0 => x
  | n + 1 => slhChain seed a (slhF seed { a with w3 := i } x) (i + 1) n

/-- The WOTS+ public key of a signature over 24 bytes; the address names the layer and tree, w1 the key pair. -/
def slhWots (seed : List Byte) (a : SlhAddr) (sig m : List Byte) : List Byte :=
  let digits := slhDigits m 4 48
  let sum := digits.foldl (fun n d => n + (15 - d)) 0
  let all := digits ++ slhDigits (bigBytes 2 (sum * 16)) 4 3
  let tops := ((List.range 51).zip all).flatMap (fun p => slhChain seed { a with typ := 0, w2 := p.1 } ((sig.drop (24 * p.1)).take 24) p.2 (15 - p.2))
  slhT seed { a with typ := 1, w2 := 0, w3 := 0 } tops

/-- The root above a node, from its authentication path: w2 the height, w3 the index. -/
def slhClimb (seed : List Byte) (a : SlhAddr) : Nat → Nat → List (List Byte) → List Byte → List Byte
  | _, _, [], node => node
  | height, index, auth :: rest, node =>
    let b := { a with w2 := height + 1, w3 := index / 2 }
    slhClimb seed a (height + 1) (index / 2) rest (slhT seed b (if index % 2 = 0 then node ++ auth else auth ++ node))

/-- The root of an XMSS tree from a signature of 60 pieces. -/
def slhXmss (seed : List Byte) (layer tree idx : Nat) (sig m : List Byte) : List Byte :=
  let a : SlhAddr := { layer := layer, tree := tree, typ := 0, w1 := idx, w2 := 0, w3 := 0 }
  slhClimb seed { a with typ := 2, w1 := 0 } 0 idx (pieces 24 9 (sig.drop (24 * 51))) (slhWots seed a sig m)

/-- The root of the hypertree: seven trees, one above the other. -/
def slhHyper (seed : List Byte) : Nat → Nat → Nat → Nat → List Byte → List Byte → List Byte
  | 0, _, _, _, _, node => node
  | n + 1, layer, tree, idx, sig, node =>
    slhHyper seed n (layer + 1) (tree / 512) (tree % 512) (sig.drop 1440) (slhXmss seed layer tree idx (sig.take 1440) node)

/-- The FORS public key of a signature. -/
def slhFors (seed : List Byte) (tree idx : Nat) (sig md : List Byte) : List Byte :=
  let a : SlhAddr := { layer := 0, tree := tree, typ := 3, w1 := idx, w2 := 0, w3 := 0 }
  let roots := ((List.range 17).zip (slhDigits md 14 17)).flatMap (fun p =>
    let part := sig.drop (360 * p.1)
    let leaf := 2 ^ 14 * p.1 + p.2
    slhClimb seed a 0 leaf (pieces 24 14 (part.drop 24)) (slhF seed { a with w3 := leaf } (part.take 24)))
  slhT seed { a with typ := 4, w2 := 0, w3 := 0 } roots

/-- An SLH-DSA signature verifies over a message in pure mode with an empty context: the key is the seed and the root. -/
def slhDsaOk (key msg sig : List Byte) : Bool :=
  let seed := key.take 24
  let root := key.drop 24
  let m := (0 : Byte) :: (0 : Byte) :: msg
  let r := sig.take 24
  let digest := mgf1 sha512 64 (r ++ seed ++ sha512 (r ++ key ++ m)) 39
  let tree := bigEndian ((digest.drop 30).take 7) % 2 ^ 54
  let leaf := bigEndian (digest.drop 37) % 2 ^ 9
  key.length == 48 && sig.length == 16224
    && slhHyper seed 7 0 tree leaf (sig.drop (24 + 6120)) (slhFors seed tree leaf ((sig.drop 24).take 6120) (digest.take 30)) == root

end Sys2Proof.Machine
end

