-- ==== Sys2Proof/Machine/Boot.lean ====
section
/-! DEFINITION. Bring-up: the start sequence, the verification of images, minimal mode and attestation (23 R356 to R360). The
device's own signatures, the fused key hashes and the serial number are constants without a body (log 11). -/

namespace Sys2Proof.Machine
open Sys2Proof

/-! ### Images (R357, Table 23.2) -/

/-- A number in the header of an image. -/
def imageNat (img : List Byte) (off n : Nat) : Nat := bytesToNat ((img.drop off).take n)

/-- PSIZE, and the bytes of a whole image: header, payload, the RSA and the SLH-DSA signature. -/
def payloadSize (img : List Byte) : Nat := imageNat img 16 8
def imageSize (img : List Byte) : Nat := 512 + payloadSize img + 384 + 16224

/-- The signed message M. -/
def signedMessage (img : List Byte) : List Byte := img.take (512 + payloadSize img)

/-- Checks 1 to 3 of an image: the header, the key slot, the fused hash. -/
def headerChecks (b : Boot) (kind : Nat) (img : List Byte) : Bool :=
  let slot := imageNat img 12 4
  imageNat img 0 4 == 0x4B503942 && imageNat img 4 4 == kind && imageNat img 456 56 == 0 && payloadSize img % 64 == 0
    && img.length == imageSize img && slot < 4 && !b.keyrev.getLsbD slot
    && sha384 ((img.drop 24).take 432) == Config.fusedHash slot

/-- The reason code of an image that is not accepted, 0 for an accepted one: the checks in their order. -/
def verifyImage (b : Boot) (kind : Nat) (img : List Byte) : Nat :=
  let m := signedMessage img
  let n := 512 + payloadSize img
  if !headerChecks b kind img then 3
  else if imageNat img 8 4 < b.minver then 5
  else if !rsaPssOk ((img.drop 24).take 384) m ((img.drop n).take 384) then 3
  else if !slhDsaOk ((img.drop 408).take 48) m ((img.drop (n + 384)).take 16224) then 4
  else 0

/-! ### Starts (R356, R358) -/

/-- The device reset: everything but the durable registers, what has left the device and the model's own fields is as after
State.reset. -/
def State.deviceReset (s : State) (b : Boot) : State :=
  { State.reset with
    boot := { b with minimal := false, reason := 0, measured := [], starting := false, started := false, sram := [] },
    out := s.out, wire := s.wire, node := s.node, agenda := s.agenda, turns := s.turns, born := s.born, free := s.free }

/-- Steps 2 to 5 of a start up to the first that fails: its reason, and the measurements of the accepted images. -/
def startSteps (b : Boot) (x : StartInput) : Nat × List (List Byte) :=
  match x.images with
  | none => (2, [])
  | some set =>
  let fw := nth set 0 []
  let svc := nth set 1 []
  if verifyImage b 1 fw != 0 then (verifyImage b 1 fw, [])
  else
    let m := [sha384 (signedMessage fw)]
    if verifyImage b 2 svc != 0 then (verifyImage b 2 svc, m)
    else
      let m := m ++ [sha384 (signedMessage svc)]
      if !x.diesOk then (7, m) else if !x.untrained.isEmpty then (6, m) else (0, m)

/-- A channel after training: online, its delays free values from a number on. -/
def trainedChan (n : Nat) : Chan :=
  { Chan.reset with
    rdly := (List.range 74).map (fun i => (i, BitVec.ofNat 6 (Config.freeValue (n + i)))),
    wdly := (List.range 74).map (fun i => (i, BitVec.ofNat 6 (Config.freeValue (n + 74 + i)))),
    offline := false, drained := false }

/-- The dies leave reset, the stacks are trained, DCTX has a value that the firmware chose (steps 4 to 6). -/
def State.bringUp (s : State) : State :=
  let dies := (List.range 9).map (fun d =>
    (d, { Die.reset with up := true, start := s.cycle, dctx := word (Config.freeValue (s.free + d)) &&& 0xFFFF3FFFFFFF0000 : Die }))
  let dram := ((List.range 9).filter (fun d => d != 4)).map (fun d =>
    (d, { Stack.reset with chans := (List.range 32).map (fun c => (c, trainedChan (s.free + 9 + 148 * (32 * d + c)))) }))
  { s with dies := dies, dram := dram, free := s.free + 9 + 148 * 288 }

/-- What ROM appends to the NVMe log in minimal mode (R359): the reason, FAILS and the tick (log 25). -/
def logRecord (b : Boot) (tick : Nat) : Message := .log ([BitVec.ofNat 8 b.lastReason, BitVec.ofNat 8 b.fails] ++ natToBytes 8 tick)

/-- What the NVMe log says of a training that failed (Table 23.4, reason 6): the stacks and channels. -/
def trainingRecord (l : List (Nat × Nat)) : Message := .log (BitVec.ofNat 8 6 :: l.flatMap (fun p => [BitVec.ofNat 8 p.1, BitVec.ofNat 8 p.2]))

/-- A record for the NVMe log, when its device is reachable. -/
def State.logged (s : State) (x : StartInput) (m : Message) : State := if x.logDevice then s.send m else s

/-- DEVICE_START: the steps of Table 23.1 up to the write of BOOTOK, which step 6 leaves to the firmware. A self-test that fails is a start that
did not succeed (log 38). With three of these behind it the device enters minimal mode; else the start is counted before step 2, and a step
that fails leaves its reason and resets the device. -/
def execDeviceStart (x : StartInput) (s : State) : Out :=
  let b := s.boot
  if !x.romOk then .next (s.deviceReset { b with fails := min 3 (b.fails + 1), lastReason := 1 })
  else if b.fails = 3 then
    let r := s.deviceReset b
    .next ({ r with boot := { r.boot with minimal := true, reason := b.lastReason } }.logged x (logRecord b s.tick))
  else
    let b := { b with fails := b.fails + 1, lastReason := 8 }
    let r := startSteps b x
    if r.1 != 0 then
      let s := s.deviceReset { b with lastReason := r.1 }
      .next (if r.1 = 6 then s.logged x (trainingRecord x.untrained) else s)
    else
      let s := s.deviceReset b
      .next { s.bringUp with boot := { s.boot with measured := r.2, starting := true } }

/-- BOOTOK, MINVER and KEYREV: writes of the bring-up block (Table 23.3). -/
def execBootok (v : Word) (s : State) : Out := .next (s.writeBoot 0x018 v)
def execMinver (v : Word) (s : State) : Out := .next (s.writeBoot 0x008 v)
def execKeyrev (v : Word) (s : State) : Out := .next (s.writeBoot 0x010 v)

/-- POWER_LOSS (R358): what is not durable is gone. -/
def execPowerLoss (s : State) : Out := .next (s.deviceReset s.boot)

/-! ### Requests (R359, R360) -/

/-- The management cores or ROM answer requests: in minimal mode, or once the firmware runs. -/
def Boot.serves (b : Boot) : Bool := b.minimal || b.started

/-- The bytes of a report: nonce, serial number, measurements, MINVER, KEYREV, FAILS, LASTREASON, STATUS. -/
def reportBytes (b : Boot) (nonce : List Byte) : List Byte :=
  nonce ++ (List.range 32).map Config.deviceIdentity ++ b.measured.flatMap id ++ natToBytes 4 b.minver ++ natToBytes 1 b.keyrev.toNat
    ++ natToBytes 1 b.fails ++ natToBytes 1 b.lastReason ++ natToBytes 8 b.statusWord

/-- ATTESTATION_REQUEST: the report with its two signatures; MBOX holds its first 64 bytes (log 25). -/
def execAttestationRequest (nonce : List Byte) (s : State) : Out :=
  if nonce.length = 32 && s.boot.serves then
    let r := reportBytes s.boot nonce
    .next (s.replied (.report (r ++ Config.signatureOf 0 r ++ Config.signatureOf 1 r)) r)
  else .next s

/-- The images of a set that a payload holds one after another. -/
def imagesOf : Nat → List Byte → List (List Byte)
  | 0, _ => []
  | n + 1, b => if b.length < 512 then [] else b.take (imageSize b) :: imagesOf n (b.drop (imageSize b))

/-- The reason for which a recovery image is refused, or 0 (R359). -/
def recoveryReason (b : Boot) (img : List Byte) : Nat :=
  let own := verifyImage b 3 img
  let set := imagesOf 3 ((img.drop 512).take (payloadSize img))
  let fw := verifyImage b 1 (nth set 0 [])
  let svc := verifyImage b 2 (nth set 1 [])
  if own != 0 then own else if set.length != 2 then 3 else if fw != 0 then fw else svc

/-- RECOVERY_IMAGE: in minimal mode an accepted set goes to NVMe, BOOTOK is written and the device resets; a refused one
changes nothing and is answered with the reason. -/
def execRecoveryImage (img : List Byte) (s : State) : Out :=
  if !s.boot.minimal then .next s
  else
    let code := recoveryReason s.boot img
    let bytes := natToBytes 4 0 ++ natToBytes 4 code ++ natToBytes 56 0
    if code != 0 then .next (s.replied (.mailbox 0 bytes) bytes)
    else
      let s := s.send (.log ((img.drop 512).take (payloadSize img)))
      .next (s.deviceReset { s.boot with fails := 0, lastReason := 0 })

end Sys2Proof.Machine
end

