-- ==== Sys2Proof/Machine/BoxForms.lean ====
section
/-! DEFINITION. Box queries and derivations, shard coordinates, and what a task reads of itself: WID, JSTAT, DSLICE
(02 R22, 03 R40 to R42, 07 R119, 10 R170 to R177, R193). -/

namespace Sys2Proof.Machine
open Sys2Proof

/-! ### Queries (R176): no check of the handle -/

/-- A query of one handle. -/
def State.boxQuery (s : State) (d : SReg) (a : HReg) (f : Handle → Word) : Out :=
  s.issueScalar plainForm 4 d (fun x => .ok (f (x.ctl.hd a)))

def execBoxext (d : SReg) (a : HReg) (dim : BitVec 2) (s : State) : Out := s.boxQuery d a (fun h => word (Handle.ext h dim.toNat))
def execBoxorg (d : SReg) (a : HReg) (dim : BitVec 2) (s : State) : Out := s.boxQuery d a (fun h => word (Handle.org h dim.toNat))
def execBoxrank (d : SReg) (a : HReg) (s : State) : Out := s.boxQuery d a (fun h => word (Handle.rank h + 1))
def execBoxfmt (d : SReg) (a : HReg) (s : State) : Out := s.boxQuery d a (fun h => zext64 (Handle.fmt h))
/-- MODE, POLICY, LEVEL and LAYOUT. -/
def execBoxmode (d : SReg) (a : HReg) (s : State) : Out :=
  s.boxQuery d a (fun h =>
    word ((Handle.mode h).toNat + (Handle.policy h).toNat * 2 ^ 4 + Handle.level h * 2 ^ 8 + Handle.layout h * 2 ^ 10))

/-- Write a handle register with a value that is computed. -/
def State.issueHandle (s : State) (f : Form) (len : Nat) (d : HReg) (val : Task → Res Handle) : Out :=
  s.issueTask f len (fun x => do
    let h ← val x
    .ok (x.mapCtl (fun c => c.hw d h)))

def execBoxmov (d a : HReg) (s : State) : Out := s.issueHandle plainForm 4 d (fun x => .ok (x.ctl.hd a))
def execBoxclr (d : HReg) (s : State) : Out := s.issueHandle plainForm 4 d (fun _ => .ok 0)

/-! ### Derivations -/

/-- boxsub (R174): narrow one dimension by immediates or registers. -/
def execBoxsub (d a : HReg) (dim : BitVec 2) (reg : Bool) (ext : BitVec 32) (s : State) : Out :=
  s.issueHandle taskForm 8 d (fun x => do
    let h := x.ctl.hd a
    let o ← if reg then x.src (ext.extractLsb' 8 6) else .ok (zext64 (ext.extractLsb' 16 16))
    let e ← if reg then x.src (ext.extractLsb' 0 6) else .ok (zext64 (ext.extractLsb' 0 16))
    useHandle h
    boxSub h (fun i => if i = dim.toNat then o.toNat else 0) (fun i => if i = dim.toNat then e.toNat else Handle.ext h i))

/-- A policy that folds (R47). -/
def isReduce (p : BitVec 4) : Bool := 2 ≤ p.toNat && p.toNat ≤ 4

/-- The formats on which a REDUCE policy faults: HS4, HS8, KB and MX (R49). -/
def reduceFormatOk (f : Fmt) : Bool := fmtKind f != .hs && !fmtIsBlock f

/-- boxnew (R175): a copy with other rights. -/
def execBoxnew (d a : HReg) (mode policy : BitVec 4) (s : State) : Out :=
  s.issueHandle taskForm 8 d (fun x => do
    let h := x.ctl.hd a
    useHandle h
    check (modeAllowed (Handle.mode h) mode) Flt.mode
    check (policy.toNat < 5) Flt.mode
    check (!isReduce policy || reduceFormatOk (Handle.fmt h)) Flt.format
    .ok (Handle.withRights h mode policy))

/-- boxroot (R177): the handle of a root box, from the root box table. -/
def execBoxroot (d : HReg) (a : SReg) (s : State) : Out :=
  s.issueHandle plainForm 4 d (fun x => do
    let n ← x.src a
    match s.launch? (s.activeLaunch x) with
    | none => fault Flt.bounds
    | some l =>
      check (n.toNat < l.nbox) Flt.bounds
      .ok (BitVec.ofNat 256 (← s.tableNat x l (l.boxtab + 128 * n.toNat + 64) 32)))

/-- shardcoord (R193): one global coordinate of an element. -/
def execShardcoord (d : SReg) (a : HReg) (b : SReg) (dim : BitVec 2) (s : State) : Out :=
  s.issueScalar plainForm 4 d (fun x => do
    let i ← x.src b
    let h := x.ctl.hd a
    useHandle h
    check (dims.all (fun k => Handle.ext h k != 0)) Flt.bounds
    .ok (BitVec.ofInt 64 (nth (← s.shardGlobal x h (splitIndex h i.toNat)) dim.toNat 0)))

/-! ### What a task reads of itself -/

/-- wid (R22, R173): field f of the work identifier, 0 at or above F. -/
def execWid (d : SReg) (sel : BitVec 6) (s : State) : Out :=
  s.issueScalar plainForm 4 d (fun x =>
    match s.launch? x.r.launch with
    | none => .ok 0
    | some l =>
      let f := sel.toNat
      if l.fields ≤ f then .ok 0
      else
        let low := (List.range f).foldl (fun n i => n + l.width i) 0
        .ok (word (natBits x.r.wid low (l.width f))))

/-- jstat (R172, Table 10.3). -/
def execJstat (d : SReg) (sel : BitVec 6) (s : State) : Out :=
  s.issueScalar plainForm 4 d (fun x =>
    match sel.toNat with
    | 0 => .ok x.r.js0
    | 1 => .ok x.r.js1
    | 2 => .ok x.r.js2
    | _ => .ok x.r.js3)

/-- dslice (R170): the bounds of a deterministic slice; a task that DSPAWN did not create faults. -/
def execDslice (d : SReg) (sel : BitVec 6) (s : State) : Out :=
  s.issueScalar plainForm 4 d (fun x =>
    match x.r.slice with
    | none => fault Flt.illegal
    | some sl =>
      match sel.toNat with
      | 0 => .ok (word sl.first)
      | 1 => .ok (word sl.last)
      | 2 => .ok (word sl.n)
      | 3 => .ok (word sl.p)
      | k => .ok (word (nth sl.trips (k - 4) 1)))

end Sys2Proof.Machine
end

