-- ==== Sys2Proof/Machine/Branches.lean ====
section
/-! DEFINITION. Branches, jumps, the hardware loop, traps, breaks and hints (09 R153 to R156, R164, R165). -/

namespace Sys2Proof.Machine
open Sys2Proof

/-- The address so many words away from the pc. Addresses are 64-bit numbers. -/
def relative (pc : Nat) (off : Int) : Nat := (BitVec.ofInt 64 ((pc : Int) + 4 * off)).toNat

/-- A conditional branch (R153): taken, its slot follows; not taken, it completes in sequence. -/
def State.branchIf (s : State) (a b : SReg) (off : BitVec 14) (cond : Word → Word → Bool) : Out :=
  s.issue transferForm (fun x => do
    let p ← x.src a
    let q ← x.src b
    if cond p q then .ok (s.setTask s.cur (x.mapCtl (fun c => c.branch (relative c.pc off.toInt) none)))
    else s.done x 4)

def execBeq (a b : SReg) (off : BitVec 14) (s : State) : Out := s.branchIf a b off condEq
def execBne (a b : SReg) (off : BitVec 14) (s : State) : Out := s.branchIf a b off condNe
def execBlt (a b : SReg) (off : BitVec 14) (s : State) : Out := s.branchIf a b off condLt
def execBge (a b : SReg) (off : BitVec 14) (s : State) : Out := s.branchIf a b off condGe
def execBltu (a b : SReg) (off : BitVec 14) (s : State) : Out := s.branchIf a b off condLtu
def execBgeu (a b : SReg) (off : BitVec 14) (s : State) : Out := s.branchIf a b off condGeu

/-- The link: the address of the first instruction after the slot (R154); a slot that cannot be read yet settles it in its own turn. -/
def State.linkOf (s : State) (x : Task) : Word := word (x.ctl.pc + 4 + s.lengthAt x (x.ctl.pc + 4))

/-- jal (R154). -/
def execJal (d : SReg) (off : BitVec 20) (s : State) : Out :=
  s.issue transferForm (fun x => do
    x.dst d
    .ok (s.setTask s.cur (x.mapCtl (fun c => c.branch (relative c.pc off.toInt) (some (d, s.linkOf x))))))

/-- jalr (R154): s[A] is read before the link is written; a target that is no multiple of 4 faults. -/
def execJalr (d a : SReg) (imm : BitVec 14) (s : State) : Out :=
  s.issue transferForm (fun x => do
    let p ← x.src a
    x.dst d
    let target := (p + 4 * sext64 imm).toNat
    check (target % 4 == 0) Flt.illegal
    .ok (s.setTask s.cur (x.mapCtl (fun c => c.branch target (some (d, s.linkOf x))))))

/-- A body that ends at a word lies inside the innermost enclosing one (R155). -/
def loopFits (stop : Nat) (l : List LoopEntry) : Bool :=
  match l with
  | e :: _ => stop ≤ e.stop
  | [] => true

/-- The hardware loop (R155): push an entry, or skip the body of a zero count. It is no control transfer; in a delay slot
the branch's target decides (R156). -/
def execLoop (a b : SReg) (off : BitVec 14) (s : State) : Out :=
  s.issue plainForm (fun x => do
    let c := x.ctl
    check (0 < off.toInt) Flt.illegal
    let start := c.pc + 4
    let stop := c.pc + 4 * off.toNat
    check (c.loops.length < 4) Flt.capacity
    check (loopFits stop c.loops) Flt.illegal
    let n ← x.src a
    x.dst b
    if n = 0 then
      match c.delay with
      | some _ => s.done x 4
      | none => do
        let a ← s.after x stop
        .ok (s.setTask s.cur (x.mapCtl (fun c => c.goTo a)))
    else
      let e : LoopEntry := { start := start, stop := stop, left := n.toNat - 1, index := 0, reg := b }
      s.done ({ x with ctl := { c.wr b 0 with loops := e :: c.loops } }) 4)

/-! ### Traps, breaks and hints (R164, R165) -/

/-- trap: FLT_TRAP to the supervisor; it resumes at the next word. -/
def execTrap (code : BitVec 14) (s : State) : Out :=
  match s.task? s.cur with
  | none => .next s
  | some x =>
    match transferForm.checks x with
    | .error e => s.deliver s.cur x (.error e)
    | .ok _ => s.trapEntry s.cur x Flt.trap false x.ctl.pc (x.ctl.pc + 4) (zext64 code)

/-- break: FLT_BREAK to the supervisor; it resumes at its own address. -/
def execBrk (code : BitVec 14) (s : State) : Out :=
  match s.task? s.cur with
  | none => .next s
  | some x =>
    match transferForm.checks x with
    | .error e => s.deliver s.cur x (.error e)
    | .ok _ => s.trapEntry s.cur x Flt.brk false x.ctl.pc x.ctl.pc (zext64 code)

/-- Every hint word executes as nop. -/
def execHint (_bits : BitVec 26) (s : State) : Out := s.issueTask plainForm 4 (fun x => .ok x)

end Sys2Proof.Machine
end

