-- ==== Sys2Proof/Machine/Loads.lean ====
section
/-! DEFINITION. Frame accesses, box loads and stores, shape reads and counters (09 R157 to R163). -/

namespace Sys2Proof.Machine
open Sys2Proof

/-! ### The frame (R158) -/

/-- ldf of a scalar register; a poisoned word may be loaded (R337). -/
def execLdf (d a : SReg) (off : BitVec 11) (s : State) : Out :=
  s.issueTask plainForm 4 (fun x => do
    x.dst d
    let fa ← State.frameAddress x a off 8
    let y := x.wr d (word (Memory.readNat (s.frameOf x) fa 8))
    .ok (if s.frameFlawed x fa 8 then y.takeFlaw d else y))

/-- ldf of a handle register. -/
def execLdfHandle (d : HReg) (a : SReg) (off : BitVec 11) (s : State) : Out :=
  s.issueTask plainForm 4 (fun x => do
    let fa ← State.frameAddress x a off 32
    let y := x.mapCtl (fun c => c.hw d (BitVec.ofNat 256 (Memory.readNat (s.frameOf x) fa 32)))
    .ok (if s.frameFlawed x fa 32 then y.takeHandleFlaw d else y))

/-- stf of a scalar register. -/
def execStf (d a : SReg) (off : BitVec 11) (s : State) : Out :=
  s.issue plainForm (fun x => do
    let v ← x.src d
    let fa ← State.frameAddress x a off 8
    let p := s.writeFrame x fa (natToBytes 8 v.toNat)
    p.1.done p.2 4)

/-- stf of a handle register. -/
def execStfHandle (d : HReg) (a : SReg) (off : BitVec 11) (s : State) : Out :=
  s.issue plainForm (fun x => do
    let fa ← State.frameAddress x a off 32
    let p := s.writeFrame x fa (natToBytes 32 (x.ctl.hd d).toNat)
    p.1.done p.2 4)

/-! ### Box loads and stores (R159 to R162) -/

/-- A box load: every check at issue, the access in flight, the data at its return (R161). -/
def State.boxLoad (s : State) (m : CMem) (signed acq : Bool) : Out :=
  s.issueTask plainForm 4 (fun x => do
    x.dst m.r
    let e ← s.cmemElem x m false
    let cells ← s.regionBytes x e.1 (elemBytes e.1 e.2).1 (elemBytes e.1 e.2).2 wantsRead
    postLoad x m.cls m.sc acq { reg := m.r, signed := signed } cells)

/-- A box store: every check at issue, the bytes in the posted store queue (R146). -/
def State.boxStore (s : State) (m : CMem) (rel : Bool) : Out :=
  s.issueTask plainForm 4 (fun x => do
    let v ← x.src m.r
    let e ← s.cmemElem x m true
    let ws ← s.writeElem x e.1 e.2 v.toNat
    postStore x m.cls m.sc rel ws)

def execLdS (m : CMem) (s : State) : Out := s.boxLoad m true false
def execLdZ (m : CMem) (s : State) : Out := s.boxLoad m false false
def execSt (m : CMem) (s : State) : Out := s.boxStore m false
def execLdAcqS (m : CMem) (s : State) : Out := s.boxLoad m true true
def execLdAcqZ (m : CMem) (s : State) : Out := s.boxLoad m false true
def execStRel (m : CMem) (s : State) : Out := s.boxStore m true

/-! ### Shape records and counters (R157, R163) -/

/-- shpld: entry s[A] + entry of a shape record, zero-extended. The sum does not wrap, since R157 names no wrap: past 2^64 it is
FLT_BOUNDS (log 43). -/
def execShpld (d a : SReg) (shape : BitVec 8) (entry : BitVec 6) (s : State) : Out :=
  s.issueScalar plainForm 4 d (fun x => do
    let i ← x.src a
    .ok (word (← s.shapeEntry x shape.toNat (i.toNat + entry.toNat))))

/-- rdcyc: cycles since the die left reset. -/
def execRdcyc (d : SReg) (s : State) : Out :=
  s.issueScalar plainForm 4 d (fun x => .ok (word (s.cycle - (s.die (dieOfTask x)).start)))

/-- rdtick: reference ticks since the device left reset. -/
def execRdtick (d : SReg) (s : State) : Out := s.issueScalar plainForm 4 d (fun _ => .ok (word s.tick))

/-- rdcore: the global core index. -/
def execRdcore (d : SReg) (s : State) : Out := s.issueScalar plainForm 4 d (fun x => .ok (word (coreOfTask x)))

end Sys2Proof.Machine
end

