-- ==== Sys2Proof/Machine/Scalar.lean ====
section
/-! DEFINITION. The integer forms of the control stream: majors 0x01 to 0x09 and the wide immediates (09 R148 to R152). -/

namespace Sys2Proof.Machine
open Sys2Proof

/-- A form over two registers. -/
def State.alu2 (s : State) (d a b : SReg) (f : Word → Word → Word) : Out :=
  s.issueScalar plainForm 4 d (fun x => do
    let p ← x.src a
    let q ← x.src b
    .ok (f p q))

/-- A form over one register. -/
def State.alu1 (s : State) (len : Nat) (d a : SReg) (f : Word → Word) : Out :=
  s.issueScalar plainForm len d (fun x => do .ok (f (← x.src a)))

/-! ### Integer ALU (R148) -/

def execAdd (d a b : SReg) (s : State) : Out := s.alu2 d a b (fun p q => p + q)
def execSub (d a b : SReg) (s : State) : Out := s.alu2 d a b (fun p q => p - q)
def execAnd (d a b : SReg) (s : State) : Out := s.alu2 d a b (fun p q => p &&& q)
def execOr (d a b : SReg) (s : State) : Out := s.alu2 d a b (fun p q => p ||| q)
def execXor (d a b : SReg) (s : State) : Out := s.alu2 d a b (fun p q => p ^^^ q)
def execAndn (d a b : SReg) (s : State) : Out := s.alu2 d a b (fun p q => p &&& ~~~q)
def execSll (d a b : SReg) (s : State) : Out := s.alu2 d a b (fun p q => p <<< shiftAmount q)
def execSrl (d a b : SReg) (s : State) : Out := s.alu2 d a b (fun p q => p >>> shiftAmount q)
def execSra (d a b : SReg) (s : State) : Out := s.alu2 d a b (fun p q => p.sshiftRight (shiftAmount q))
def execRotl (d a b : SReg) (s : State) : Out := s.alu2 d a b (fun p q => p.rotateLeft (shiftAmount q))
def execSlt (d a b : SReg) (s : State) : Out := s.alu2 d a b (fun p q => boolWord (condLt p q))
def execSltu (d a b : SReg) (s : State) : Out := s.alu2 d a b (fun p q => boolWord (condLtu p q))
def execMin (d a b : SReg) (s : State) : Out := s.alu2 d a b minSigned
def execMax (d a b : SReg) (s : State) : Out := s.alu2 d a b maxSigned
def execMinu (d a b : SReg) (s : State) : Out := s.alu2 d a b minUnsigned
def execMaxu (d a b : SReg) (s : State) : Out := s.alu2 d a b maxUnsigned
def execClz (d a : SReg) (s : State) : Out := s.alu1 4 d a (fun p => word (leadingZeros p))
def execPopc (d a : SReg) (s : State) : Out := s.alu1 4 d a (fun p => word (oneBits p))

/-! ### Multiply and divide (R149) -/

def execMul (d a b : SReg) (s : State) : Out := s.alu2 d a b (fun p q => p * q)
def execMulh (d a b : SReg) (s : State) : Out := s.alu2 d a b (fun p q => highHalf p.toInt q.toInt)
def execMulhu (d a b : SReg) (s : State) : Out := s.alu2 d a b (fun p q => highHalf p.toNat q.toNat)
def execMulhsu (d a b : SReg) (s : State) : Out := s.alu2 d a b (fun p q => highHalf p.toInt q.toNat)
def execDiv (d a b : SReg) (s : State) : Out := s.alu2 d a b quotSigned
def execDivu (d a b : SReg) (s : State) : Out := s.alu2 d a b quotUnsigned
def execRem (d a b : SReg) (s : State) : Out := s.alu2 d a b remSigned
def execRemu (d a b : SReg) (s : State) : Out := s.alu2 d a b remUnsigned

/-! ### Immediate ALU (R150) and immediate shifts (R151) -/

def execAddi (d a : SReg) (imm : BitVec 14) (s : State) : Out := s.alu1 4 d a (fun p => p + sext64 imm)
def execAndi (d a : SReg) (imm : BitVec 14) (s : State) : Out := s.alu1 4 d a (fun p => p &&& sext64 imm)
def execOri (d a : SReg) (imm : BitVec 14) (s : State) : Out := s.alu1 4 d a (fun p => p ||| sext64 imm)
def execXori (d a : SReg) (imm : BitVec 14) (s : State) : Out := s.alu1 4 d a (fun p => p ^^^ sext64 imm)
def execSlti (d a : SReg) (imm : BitVec 14) (s : State) : Out := s.alu1 4 d a (fun p => boolWord (condLt p (sext64 imm)))
def execSltiu (d a : SReg) (imm : BitVec 14) (s : State) : Out := s.alu1 4 d a (fun p => boolWord (condLtu p (sext64 imm)))
def execSlli (d a : SReg) (n : BitVec 6) (s : State) : Out := s.alu1 4 d a (fun p => p <<< n.toNat)
def execSrli (d a : SReg) (n : BitVec 6) (s : State) : Out := s.alu1 4 d a (fun p => p >>> n.toNat)
def execSrai (d a : SReg) (n : BitVec 6) (s : State) : Out := s.alu1 4 d a (fun p => p.sshiftRight n.toNat)
def execRotli (d a : SReg) (n : BitVec 6) (s : State) : Out := s.alu1 4 d a (fun p => p.rotateLeft n.toNat)

/-! ### Wide immediates (R152) -/

def execLi (d : SReg) (ext : BitVec 32) (s : State) : Out := s.issueScalar plainForm 8 d (fun _ => .ok (sext64 ext))
def execLiu (d : SReg) (ext : BitVec 32) (s : State) : Out := s.issueScalar plainForm 8 d (fun _ => .ok (zext64 ext))
/-- The low half is read before the register is written. -/
def execLih (d a : SReg) (ext : BitVec 32) (s : State) : Out :=
  s.alu1 8 d a (fun p => (ext ++ p.setWidth 32 : BitVec 64))

end Sys2Proof.Machine
end

