-- ==== Sys2Proof/Machine/Start.lean ====
section
/-! DEFINITION. The forms that start engine work: FORK and XQ (10 R178, R179; 11 R195; 01 R11). -/

namespace Sys2Proof.Machine
open Sys2Proof

/-! ### Pending work (R178) -/

/-- Programs of FORK whose last record has not started, and XQ records that have not. -/
def pendingPrograms (e : Eng) : Nat := (e.queue.filter (fun q => q.progEnd && !q.xq && !q.started)).length
def pendingXq (e : Eng) : Nat := (e.queue.filter (fun q => q.xq && !q.started)).length

/-- A queued record before it starts, with the copies it takes at issue (R140, R178). -/
def newRecord (x : Task) (e : Eng) (num : Nat) (off : Option Nat) (w : BitVec 512) (last xq : Bool) : QRec :=
  { num := num, off := off, w := w, hs := x.ctl.h, cfg := e.cfg, n5 := e.n5, n6 := e.n6, progEnd := last, xq := xq,
    started := false, trips := [], pass := 0, cursor := 0, named := [], opened := false, moved := [] }

/-! ### The fork block -/

/-- A record program of a fork block: valid, count, offset (R178). -/
structure ForkProg where
  valid : Bool
  count : Nat
  off : Nat
  deriving DecidableEq, Repr

/-- Word 1 or 2 of a fork block. -/
def forkProg (w : Nat) : ForkProg := { valid := natBits w 63 1 == 1, count := natBits w 32 16, off := natBits w 0 32 }

/-- The reserved bits of the block are zero and its values in range (R166, R178). -/
def forkBlockOk (b : Nat) : Bool :=
  let prog (i : Nat) :=
    let w := blockWord b i
    natBits w 48 15 == 0 && (natBits w 63 1 == 0 || (natBits w 32 16 != 0 && natBits w 0 32 % 64 == 0))
  let v := blockWord b 0
  natBits v 32 31 == 0 && (natBits v 63 1 == 0 || natBits v 0 32 % 8 == 0) && prog 1 && prog 2
    && [3, 4, 5, 6, 7].all (fun i => blockWord b i == 0)
    && [0, 1, 2].any (fun i => natBits (blockWord b i) 63 1 == 1)

/-- Append a program to an engine's queue, its records numbered on (R178). -/
def Task.forkEngine (x : Task) (eng : Engine) (p : ForkProg) : Task :=
  if p.valid then
    let e := x.eng eng
    let recs := (List.range p.count).map (fun i => newRecord x e (e.issued + 1 + i) (some (p.off + 64 * i)) 0 (i + 1 == p.count) false)
    x.setEng eng { e with queue := e.queue ++ recs, issued := e.issued + p.count }
  else x

/-- The descriptor of a V program, when its first word is one: the slip depth (R195). A first word that lies outside the
image is none; the stream meets it when it fetches. -/
def State.slipOf (s : State) (x : Task) (off : Nat) : Res (Option Nat) :=
  match s.codeNat x off 8 with
  | .ok w => .ok (if natBits w 56 8 == 0xF8 && natBits w 7 49 == 0 then some (natBits w 0 7) else none)
  | .error (.flt code v) => if code == Flt.bounds then .ok none else .error (.flt code v)
  | .error e => .error e

/-- Start the vector stream (R11, R178, R195): h0 to h7 and s8 to s15 are copied, flags, queues and loop stack are cleared;
v0 to v511 and k1 to k15 stay. The V operation is numbered. -/
def Task.startVector (x : Task) (off : Nat) (slip : Option Nat) : Task :=
  let a := (List.range 8).map (fun i => (i, x.ctl.rd (BitVec.ofNat 6 (8 + i))))
  let b := (List.range 8).map (fun i => (i, x.ctl.hd (BitVec.ofNat 5 i)))
  { x with vec := { x.vec with on := true, pc := if slip.isSome then off + 8 else off, slip := slip.getD 16, a := a, b := b,
                               flags := 0, vq := [], cq := [], loops := [], opened := false, abad := [], bbad := [], queued := [],
                               issued := x.vec.issued + 1 } }

/-- fork (R178). -/
def execFork (ext : BitVec 32) (s : State) : Out :=
  s.issueTask taskForm 8 (fun x => do
    let b ← s.block x ext.toNat 64 64
    check (forkBlockOk b) Flt.illegal
    let m := forkProg (blockWord b 1)
    let c := forkProg (blockWord b 2)
    let v := blockWord b 0
    let vOn := natBits v 63 1 == 1
    let slip ← if vOn then s.slipOf x (natBits v 0 32) else .ok none
    check (match slip with | some n => 1 ≤ n && n ≤ 64 | none => true) Flt.illegal
    let _ ← if vOn then ((List.range 8).mapM (fun i => x.src (BitVec.ofNat 6 (8 + i)))) else .ok []
    waitFor (settled x)
    waitFor (!m.valid || pendingPrograms x.mat < 4)
    waitFor (!c.valid || pendingPrograms x.cpy < 4)
    waitFor (!(vOn && x.vec.on))
    let y := (x.forkEngine .matrix m).forkEngine .copy c
    .ok (if vOn then y.startVector (natBits v 0 32) slip else y))

/-! ### XQ (R179) -/

/-- The engine of a record's kind; none where Table 8.10 does not list it. -/
def kindEngine (kind : Nat) (f8 : BitVec 8) : Option Engine :=
  if 0xF0 ≤ kind then some (if f8.getLsbD 3 then .matrix else .copy)
  else if f8.getLsbD 3 then none
  else if kind = 1 then some .matrix
  else if recForms.any (fun p => p.1 == kind) then some .copy
  else none

/-- An override: a register's value, which must fit the field it supplies. -/
def Task.override (x : Task) (on : Bool) (a : SReg) (i width : Nat) : Res (Option Nat) :=
  if !on then .ok none
  else do
    check (a.toNat + i < 64) Flt.illegal
    let v ← x.src (BitVec.ofNat 6 (a.toNat + i))
    check (v.toNat < 2 ^ width) Flt.illegal
    .ok (some v.toNat)

/-- Replace bits lo to lo + n - 1 of a record. -/
def putBits (w : BitVec 512) (lo n : Nat) (v : Option Nat) : BitVec 512 :=
  match v with
  | none => w
  | some v => (w &&& ~~~(BitVec.ofNat 512 (2 ^ n - 1) <<< lo)) ||| (BitVec.ofNat 512 v <<< lo)

/-- xq: one record to the engine its kind names, with its overrides; s[D] := its number. -/
def execXq (d a : SReg) (f8 : BitVec 8) (ext : BitVec 32) (s : State) : Out :=
  s.issueTask taskForm 8 (fun x => do
    x.dst d
    let n ← s.block x ext.toNat 64 64
    match kindEngine (natBits n 56 8) f8 with
    | none => fault Flt.illegal
    | some eng =>
      let trip ← x.override (f8.getLsbD 0) a 0 16
      let wthr ← x.override (f8.getLsbD 1) a 1 16
      let w7 ← x.override (f8.getLsbD 2) a 2 48
      waitFor (settled x)
      let e := x.eng eng
      waitFor (pendingXq e < 64)
      let w := putBits (putBits (putBits (BitVec.ofNat 512 n) 112 16 trip) 16 16 wthr) 448 48 w7
      let e' := { e with queue := e.queue ++ [newRecord x e (e.issued + 1) none w true true], issued := e.issued + 1 }
      .ok ((x.setEng eng e').wr d (word (e.issued + 1))))

end Sys2Proof.Machine
end

