-- ==== Sys2Proof/Machine/Functions.lean ====
section
/-! DEFINITION. The transcendental functions of the vector stream, rounded correctly (11 R204): fixed-point values with 512
fraction bits and a bound on their error. Where the two bounds round alike, that is the correctly rounded result; where
they do not, the digit is a free value (log 14). -/

namespace Sys2Proof.Machine
open Sys2Proof

/-- Fraction bits of the fixed-point values. -/
abbrev fracBits : Nat := 512

/-- One, in fixed point. -/
abbrev fixOne : Nat := 2 ^ 512

/-- The natural logarithm of 2, times 2^512, rounded down. -/
def ln2Fix : Nat := 0xB17217F7D1CF79ABC9E3B39803F2F6AF40F343267298B62D8A0D175B8BAAFA2BE7B876206DEBAC98559552FB4AFA1B10ED2EAE35C138214427573B291169B825

/-- The number pi, times 2^704, rounded down. -/
def piFix : Nat :=
  0x3243F6A8885A308D313198A2E03707344A4093822299F31D0082EFA98EC4E6C89452821E638D01377BE5466CF34E90C6CC0AC29B7C97C50DD3F84D5B5B54709179216D5D98979FB1BD1310BA698DFB5AC2FFD72DBD01ADFB7

/-- A product of two fixed-point values. -/
def mulFix (a b : Nat) : Nat := a * b / fixOne

/-- The series of the exponential: term, sum and index. -/
def expTerms (r term sum n : Nat) : Nat → Nat
  | 0 => sum
  | k + 1 => let t := mulFix term r / n; expTerms r t (sum + t) (n + 1) k

/-- e^r for r in [0, 1). -/
def expFix (r : Nat) : Nat := expTerms r fixOne fixOne 1 110

/-- e^x of a fixed-point x of a sign, as a fixed-point value and a power of 2. -/
def expOf (neg : Bool) (x : Nat) : Nat × Int :=
  let k := x / ln2Fix
  let r := x % ln2Fix
  if neg then (if r = 0 then (expFix 0, -(k : Int)) else (expFix (ln2Fix - r), -(k : Int) - 1)) else (expFix r, k)

/-- e^-x as a plain fixed-point value. -/
def expNegFix (x : Nat) : Nat :=
  let p := expOf true x
  p.1 / 2 ^ (-p.2).toNat

/-- The series of the inverse hyperbolic tangent. -/
def atanhTerms (z2 power sum n : Nat) : Nat → Nat
  | 0 => sum
  | k + 1 => atanhTerms z2 (mulFix power z2) (sum + power / n) (n + 2) k

/-- ln of m, for m above 0, as an offset from ln of a power of 2: m = 2^k × f with f in [1, 2). -/
def lnMantissa (m : Nat) : Nat :=
  let b := 2 ^ Nat.log2 m
  let z := (m - b) * fixOne / (m + b)
  2 * atanhTerms (mulFix z z) z 0 1 170

/-- The alternating series of the cosine and the sine: term, sums of the even and the odd terms, as integers. -/
def trigTerms (r : Nat) (term : Nat) (c s : Int) (n : Nat) : Nat → Int × Int
  | 0 => (c, s)
  | k + 1 =>
    let t := mulFix term r / n
    match n % 4 with
    | 0 => trigTerms r t (c + t) s (n + 1) k
    | 1 => trigTerms r t c (s + t) (n + 1) k
    | 2 => trigTerms r t (c - t) s (n + 1) k
    | _ => trigTerms r t c (s - t) (n + 1) k

/-- Cosine and sine of m × 2^e, for 2^704 times it an integer. -/
def cosSin (m : Nat) (e : Int) : Int × Int :=
  let half := piFix / 2
  let x := if 0 ≤ e + 704 then m * 2 ^ (e + 704).toNat else m / 2 ^ (-(e + 704)).toNat
  let p := trigTerms (x % half / 2 ^ 192) fixOne fixOne 0 1 140
  match x / half % 4 with
  | 0 => (p.1, p.2)
  | 1 => (-p.2, p.1)
  | 2 => (-p.1, -p.2)
  | _ => (p.2, -p.1)

/-- Round a value between two bounds, in fixed point: by both, and by a free digit where they differ. -/
def FloatFmt.roundBetween (F : FloatFmt) (rm : Rm) (fn bits : Nat) (neg : Bool) (below above : Nat) (k : Int) : Nat :=
  let lo := F.roundIeee rm neg below 1 (k - 512)
  let hi := F.roundIeee rm neg above 1 (k - 512)
  if lo == hi then lo else if Config.roundUp fn bits F.fbits then hi else lo

/-- Round a value known to 2^16 units. -/
def FloatFmt.roundBounds (F : FloatFmt) (rm : Rm) (fn bits : Nat) (neg : Bool) (v : Nat) (k : Int) : Nat :=
  F.roundBetween rm fn bits neg (v - 2 ^ 16) (v + 2 ^ 16) k

/-- A finite magnitude in fixed point. -/
def toFix (m : Nat) (e : Int) : Nat := if 0 ≤ e + 512 then m * 2 ^ (e + 512).toNat else m / 2 ^ (-(e + 512)).toNat

/-- Round a value that lies between a grid point and its neighbour, however near: the magnitude n × 2^e stands for it. -/
def FloatFmt.near (F : FloatFmt) (rm : Rm) (neg : Bool) (n : Nat) (e : Int) : Nat := F.roundIeee rm neg n 1 e

/-- The functions of OP 0x20 to 0x27 (R204). -/
inductive Fn where
  | exp
  | log
  | rcp
  | rsqrt
  | tanh
  | sigm
  | sin
  | cos
  deriving DecidableEq, Repr

/-- A finite non-zero operand whose magnitude is 2^8 or more: the exponential over- or underflows, the others saturate. -/
def isLarge (m : Nat) (e : Int) : Bool := 8 ≤ (Nat.log2 m : Int) + e

/-- A function of a finite non-zero operand, rounded once. -/
def FloatFmt.fnFinite (F : FloatFmt) (rm : Rm) (fn : Fn) (bits : Nat) (s : Bool) (m : Nat) (e : Int) : Nat :=
  let x := toFix m e
  match fn with
  | .exp =>
    if isLarge m e then F.near rm false 1 (if s then -400 else 400)
    else let p := expOf s x; F.roundBounds rm 0 bits false p.1 p.2
  | .log =>
    if s then F.nanBits
    else if m = 2 ^ Nat.log2 m ∧ (Nat.log2 m : Int) + e = 0 then F.bits false 0
    else
      let k : Int := (Nat.log2 m : Int) + e
      let v : Int := k * ln2Fix + lnMantissa m
      F.roundBounds rm 1 bits (v < 0) v.natAbs 0
  | .rcp => F.div rm (.num false 1 0) (.num s m e)
  | .rsqrt => F.rsqrt rm (.num s m e)
  | .tanh =>
    if isLarge m e then F.near rm s (fixOne - 1) (-512)
    else
      let y := expNegFix (2 * x)
      let v := (fixOne - y) * fixOne / (fixOne + y)
      -- the exact value is below 1
      F.roundBetween rm 4 bits s (v - 2 ^ 16) (min (v + 2 ^ 16) (fixOne - 1)) 0
  | .sigm =>
    if isLarge m e then (if s then F.near rm false 1 (-400) else F.near rm false (fixOne - 1) (-512))
    else
      let y := expNegFix x
      F.roundBounds rm 5 bits false ((if s then y else fixOne) * fixOne / (fixOne + y)) 0
  | .sin => let v := (cosSin m e).2; F.roundBounds rm 6 bits ((v < 0) != s) v.natAbs 0
  | .cos => let v := (cosSin m e).1; F.roundBounds rm 7 bits (v < 0) v.natAbs 0

/-- A function of an element, with the special values of Table 11.3. -/
def FloatFmt.fn (F : FloatFmt) (rm : Rm) (fn : Fn) (bits : Nat) : Nat :=
  let zero (s : Bool) := F.bits s 0
  let infinity (s : Bool) := F.ofVal rm (.inf s)
  let one (s : Bool) := F.ofVal rm (.num s 1 0)
  let halfOne := F.ofVal rm (.num false 1 (-1))
  match F.value bits with
  | .nan => F.nanBits
  | .inf s => match fn with
    | .exp => if s then zero false else infinity false
    | .log => if s then F.nanBits else infinity false
    | .rcp => zero s
    | .rsqrt => if s then F.nanBits else zero false
    | .tanh => one s
    | .sigm => if s then zero false else one false
    | .sin => F.nanBits
    | .cos => F.nanBits
  | .num s m e =>
    if m = 0 then match fn with
      | .exp => one false
      | .log => infinity true
      | .rcp => infinity s
      | .rsqrt => infinity s
      | .tanh => zero s
      | .sigm => halfOne
      | .sin => zero s
      | .cos => one false
    else F.fnFinite rm fn bits s m e

end Sys2Proof.Machine
end

