-- ==== Sys2Proof/Machine/Vector.lean ====
section
/-! DEFINITION. What every vector instruction shares: registers, masks, the merge rule, index lists, and how an
instruction completes (04 R67; 11 R196 to R200; 21 R337). -/

namespace Sys2Proof.Machine
open Sys2Proof

/-! ### Registers -/

/-- The value of element i under the register's own tag. -/
def VReg.value (r : VReg) (i : Nat) : Val := blockValue r.tag (r.header (i / fmtBlock r.tag)) (r.elem (fmtWidth r.tag) i)

/-- An element read as an operand consumes poison (R337). -/
def VReg.sound (r : VReg) (w : Nat) (is : List Nat) : Res Unit :=
  if r.bad.isEmpty || is.all (fun i => (elemWords w i).all (fun q => !r.bad.contains q)) then .ok () else faultUe r.own

/-! ### Operands (R198 to R200) -/

/-- A vector-register source must carry the tag that the instruction requires (R58, R198). -/
def Vec.source (v : Vec) (r : Nat) (f : Fmt) : Res VReg := do
  check (f != Fm.none && (v.reg r).tag == f) Flt.format
  .ok (v.reg r)

/-- Element i is active (R199). -/
def Vec.active (v : Vec) (k : BitVec 4) (i : Nat) : Bool := (v.mask k.toNat).getLsbD i

/-- The active elements of a format, ascending. -/
def Vec.activeList (v : Vec) (k : BitVec 4) (f : Fmt) : List Nat := (List.range (fmtElems f)).filter (v.active k)

/-- A value for every active element, none for the others. -/
def Vec.onActive (v : Vec) (k : BitVec 4) (f : Fmt) (val : Nat → Nat) : List (Option Nat) :=
  (List.range (fmtElems f)).map (fun i => if v.active k i then some (val i) else none)

/-- The registers of an index list for a format (R200). -/
def Vec.indexList (v : Vec) (r : Nat) (f : Fmt) : Res (List VReg) := (List.range (listRegs f)).mapM (fun j => v.source (r + j) Fm.idx16)

/-- Entry i of an index list. -/
def listEntry (l : List VReg) (i : Nat) : Res Nat := do
  let r := nth l (i / 1024) VReg.empty
  r.sound 16 [i % 1024]
  .ok (r.elem 16 (i % 1024))

/-- Write every element of a register. -/
def Vec.fill (v : Vec) (r : Nat) (tag : Fmt) (vals : List Nat) : Vec := v.merge r tag (vals.map some)

/-! ### Completion -/

/-- A vector instruction completes with the stream's new context; the next word follows (R137). -/
def State.vecDone (s : State) (x : Task) (v : Vec) : Res State := .ok (s.setTask s.cur { x with vec := { v with pc := v.pc + 8 } })

/-- A vector instruction that changes nothing but the stream's context. -/
def State.issueVec (s : State) (body : Task → Res Vec) : Out := s.issueVector (fun x => do s.vecDone x (← body x))

/-- FMT must be NONE (R58, R207, R220; log 16). -/
def noFormat (w : VWord) : Res Unit := check (w.fmt == Fm.none) Flt.format

/-- No vector access of the task is in flight: what a release of the stream waits for (R96). -/
def vectorSettled (x : Task) : Bool := x.pend.all (fun a => a.stream != .vector)

end Sys2Proof.Machine
end

