-- ==== Sys2Proof/Machine/VectorArith.lean ====
section
/-! DEFINITION. Elementwise arithmetic, transcendentals, compares, selection, masks, conversion, random numbers and reductions of
the vector stream (11 R201 to R211). -/

namespace Sys2Proof.Machine
open Sys2Proof

/-! ### Elementwise forms (R201 to R204) -/

/-- An elementwise form: its formats, its sources, and the effect on an active element, whose operands are 0, 1 and 2. -/
def State.elementwise (s : State) (w : VWord) (accepts : Bool) (srcs : List (BitVec 9)) (f : (Nat → Nat) → Nat) : Out :=
  s.issueVec (fun x => do
    check accepts Flt.format
    let rs ← srcs.mapM (fun r => x.vec.source r.toNat w.fmt)
    let width := fmtWidth w.fmt
    rs.forM (fun r => r.sound width (x.vec.activeList w.k w.fmt))
    .ok (x.vec.merge w.d.toNat w.fmt (x.vec.onActive w.k w.fmt (fun i => f (fun j => (nth rs j VReg.empty).elem width i)))))

/-- The formats F and I of R201. -/
def acceptsFI (f : Fmt) : Bool := fmtIsFloat f || fmtIsInt f

/-- A float element of one of the formats F. -/
def floatLayout (f : Fmt) : FloatFmt := (floatOf f).getD fp32

/-- An integer element: signed for the S formats (R59). -/
def intElem (f : Fmt) (v : Nat) : Int := if fmtKind f == .sint then signedOf (fmtWidth f) v else v

/-- A float operation rounded once, or an integer operation modulo 2^w (R202, R203). -/
def lane2 (f : Fmt) (rm : BitVec 3) (fop : Val → Val → Val) (iop : Int → Int → Int) (a b : Nat) : Nat :=
  if fmtIsFloat f then floatOp2 f rm.toNat fop a b else codeOf (fmtWidth f) (iop (intElem f a) (intElem f b))

/-- A form of two sources. -/
def State.vbinary (s : State) (w : VWord) (accepts : Bool) (f : Nat → Nat → Nat) : Out :=
  s.elementwise w accepts [w.a, w.b] (fun e => f (e 0) (e 1))

/-- A form of one source. -/
def State.vunary (s : State) (w : VWord) (accepts : Bool) (f : Nat → Nat) : Out := s.elementwise w accepts [w.a] (fun e => f (e 0))

/-- The fused forms: the exact product, then the addend, one rounding (R201). -/
def State.vfused (s : State) (w : VWord) (prod addend : Val → Val) : Out :=
  let F := floatLayout w.fmt
  s.elementwise w (fmtIsFloat w.fmt) [w.a, w.b, w.c] (fun e =>
    F.ofVal w.rm.toNat ((prod ((F.value (e 0)).mul (F.value (e 1)))).add w.rm.toNat (addend (F.value (e 2)))))

def execVadd (w : VWord) (s : State) : Out :=
  s.vbinary w (acceptsFI w.fmt) (lane2 w.fmt w.rm (Val.add w.rm.toNat) (fun a b => a + b))
def execVsub (w : VWord) (s : State) : Out :=
  s.vbinary w (acceptsFI w.fmt) (lane2 w.fmt w.rm (fun a b => a.add w.rm.toNat b.neg) (fun a b => a - b))
def execVmul (w : VWord) (s : State) : Out := s.vbinary w (acceptsFI w.fmt) (lane2 w.fmt w.rm Val.mul (fun a b => a * b))
def execVfma (w : VWord) (s : State) : Out := s.vfused w id id
def execVfms (w : VWord) (s : State) : Out := s.vfused w id Val.neg
def execVfnma (w : VWord) (s : State) : Out := s.vfused w Val.neg id
def execVdiv (w : VWord) (s : State) : Out :=
  let F := floatLayout w.fmt
  s.vbinary w (fmtIsFloat w.fmt) (fun a b => F.div w.rm.toNat (F.value a) (F.value b))
def execVsqrt (w : VWord) (s : State) : Out :=
  let F := floatLayout w.fmt
  s.vunary w (fmtIsFloat w.fmt) (fun a => F.sqrt w.rm.toNat (F.value a))
def execVmin (w : VWord) (s : State) : Out := s.vbinary w (acceptsFI w.fmt) (lane2 w.fmt 0 Val.min (fun a b => min a b))
def execVmax (w : VWord) (s : State) : Out := s.vbinary w (acceptsFI w.fmt) (lane2 w.fmt 0 Val.max (fun a b => max a b))
def execVabs (w : VWord) (s : State) : Out :=
  s.vunary w (acceptsFI w.fmt) (fun a => lane2 w.fmt 0 (fun a _ => a.abs) (fun a _ => a.natAbs) a a)
def execVneg (w : VWord) (s : State) : Out :=
  s.vunary w (acceptsFI w.fmt) (fun a => lane2 w.fmt 0 (fun a _ => a.neg) (fun a _ => -a) a a)

/-- An integer form of two sources whose exact result is clamped to the format's bounds (R203). -/
def satLane (f : Fmt) (i : Int) : Nat := codeOf (fmtWidth f) (clampInt (intBounds f).1 (intBounds f).2 i)

def execVadds (w : VWord) (s : State) : Out :=
  s.vbinary w (fmtIsInt w.fmt) (fun a b => satLane w.fmt (intElem w.fmt a + intElem w.fmt b))
def execVsubs (w : VWord) (s : State) : Out :=
  s.vbinary w (fmtIsInt w.fmt) (fun a b => satLane w.fmt (intElem w.fmt a - intElem w.fmt b))
/-- vmulh: the high w bits of the product of 2w bits. -/
def execVmulh (w : VWord) (s : State) : Out :=
  s.vbinary w (fmtIsInt w.fmt) (fun a b => codeOf (fmtWidth w.fmt) (intElem w.fmt a * intElem w.fmt b / 2 ^ fmtWidth w.fmt))
def execVand (w : VWord) (s : State) : Out := s.vbinary w (fmtIsInt w.fmt) (fun a b => a &&& b)
def execVor (w : VWord) (s : State) : Out := s.vbinary w (fmtIsInt w.fmt) (fun a b => a ||| b)
def execVxor (w : VWord) (s : State) : Out := s.vbinary w (fmtIsInt w.fmt) (fun a b => a ^^^ b)
def execVnot (w : VWord) (s : State) : Out := s.vunary w (fmtIsInt w.fmt) (fun a => 2 ^ fmtWidth w.fmt - 1 - a)

/-- A shift: by the low log2 w bits of b, or by the immediate (R203). -/
def State.vshiftBy (s : State) (w : VWord) (f : Nat → Nat → Nat) : Out :=
  if w.flg.getLsbD 0 then s.vunary w (fmtIsInt w.fmt) (fun a => f a w.c.toNat)
  else s.vbinary w (fmtIsInt w.fmt) (fun a b => f a (b % fmtWidth w.fmt))

def execVsll (w : VWord) (s : State) : Out := s.vshiftBy w (fun a n => a * 2 ^ n % 2 ^ fmtWidth w.fmt)
def execVsrl (w : VWord) (s : State) : Out := s.vshiftBy w (fun a n => a / 2 ^ n)
/-- vsra: the sign, which is the element's top bit, comes in, under a Z format too (log 15). -/
def execVsra (w : VWord) (s : State) : Out :=
  s.vshiftBy w (fun a n => codeOf (fmtWidth w.fmt) (signedOf (fmtWidth w.fmt) a / 2 ^ n))

/-- A transcendental form (R204). -/
def State.vfunction (s : State) (w : VWord) (fn : Fn) : Out :=
  s.vunary w (fmtIsFloat w.fmt) (fun a => (floatLayout w.fmt).fn w.rm.toNat fn a)

def execVexp (w : VWord) (s : State) : Out := s.vfunction w .exp
def execVlog (w : VWord) (s : State) : Out := s.vfunction w .log
def execVrcp (w : VWord) (s : State) : Out := s.vfunction w .rcp
def execVrsqrt (w : VWord) (s : State) : Out := s.vfunction w .rsqrt
def execVtanh (w : VWord) (s : State) : Out := s.vfunction w .tanh
def execVsigm (w : VWord) (s : State) : Out := s.vfunction w .sigm
def execVsin (w : VWord) (s : State) : Out := s.vfunction w .sin
def execVcos (w : VWord) (s : State) : Out := s.vfunction w .cos

/-! ### Compares and selection (R205, R206) -/

/-- The conditions of Table 11.4; none stands for an unordered pair. -/
def compareHolds (cond : BitVec 3) (c : Option Int) : Bool :=
  match c with
  | none => cond == 1 || cond == 6
  | some i => match cond.toNat with
    | 0 => i == 0
    | 1 => i != 0
    | 2 => i < 0
    | 3 => i ≤ 0
    | 4 => 0 < i
    | 5 => 0 ≤ i
    | 6 => false
    | _ => true

/-- The order of two elements of a format; none when either is NaN. -/
def compareElems (f : Fmt) (a b : Nat) : Option Int :=
  if fmtIsFloat f then
    let F := floatLayout f
    let x := F.value a
    let y := F.value b
    if x.isNan || y.isNan then none else some (x.cmp y)
  else some (intElem f a - intElem f b)

/-- Bits as a mask: bit i of the result is the i-th of the list. -/
def maskOf (l : List Bool) : BitVec 4096 := BitVec.ofNat 4096 (packBits 1 (l.map (fun b => if b then 1 else 0)))

def execVcmp (w : VWord) (s : State) : Out :=
  s.issueVec (fun x => do
    check (acceptsFI w.fmt || w.fmt == Fm.idx16) Flt.format
    let a ← x.vec.source w.a.toNat w.fmt
    let b ← x.vec.source w.b.toNat w.fmt
    let width := fmtWidth w.fmt
    a.sound width (x.vec.activeList w.k w.fmt)
    b.sound width (x.vec.activeList w.k w.fmt)
    .ok (x.vec.setMask w.d.toNat (maskOf ((List.range (fmtElems w.fmt)).map (fun i =>
      x.vec.active w.k i && compareHolds w.flg (compareElems w.fmt (a.elem width i) (b.elem width i)))))))

/-- The formats that the moving forms accept: every one but NONE and the block formats (R206, R212). -/
def movesFormat (f : Fmt) : Bool := f != Fm.none && !fmtIsBlock f

def execVsel (w : VWord) (s : State) : Out :=
  s.issueVec (fun x => do
    check (movesFormat w.fmt) Flt.format
    let a ← x.vec.source w.a.toNat w.fmt
    let b ← x.vec.source w.b.toNat w.fmt
    let width := fmtWidth w.fmt
    let is := List.range (fmtElems w.fmt)
    a.sound width (is.filter (x.vec.active w.k))
    b.sound width (is.filter (fun i => !x.vec.active w.k i))
    .ok (x.vec.fill w.d.toNat w.fmt (is.map (fun i => if x.vec.active w.k i then a.elem width i else b.elem width i))))

/-! ### Masks (R207) -/

/-- A mask form of two sources. -/
def State.kbinary (s : State) (w : VWord) (f : BitVec 4096 → BitVec 4096 → BitVec 4096) : Out :=
  s.issueVec (fun x => do
    noFormat w
    .ok (x.vec.setMask w.d.toNat (f (x.vec.mask w.a.toNat) (x.vec.mask w.b.toNat))))

def execKand (w : VWord) (s : State) : Out := s.kbinary w (fun a b => a &&& b)
def execKor (w : VWord) (s : State) : Out := s.kbinary w (fun a b => a ||| b)
def execKxor (w : VWord) (s : State) : Out := s.kbinary w (fun a b => a ^^^ b)
def execKandn (w : VWord) (s : State) : Out := s.kbinary w (fun a b => a &&& ~~~b)
def execKnot (w : VWord) (s : State) : Out := s.kbinary w (fun a _ => ~~~a)
def execKmov (w : VWord) (s : State) : Out := s.kbinary w (fun a _ => a)

/-- Element count of FMT, 4,096 under NONE. -/
def maskCount (f : Fmt) : Nat := if f == Fm.none then 4096 else fmtElems f

/-- The one bits of a mask below n. -/
def maskBits (m : BitVec 4096) (n : Nat) : List Nat := (List.range n).filter (fun i => m.getLsbD i)

def execKpop (w : VWord) (s : State) : Out :=
  s.issueVec (fun x => .ok (x.vec.setScalar w.d.toNat (word (maskBits (x.vec.mask w.a.toNat) (maskCount w.fmt)).length)))
def execKfirst (w : VWord) (s : State) : Out :=
  s.issueVec (fun x =>
    .ok (x.vec.setScalar w.d.toNat (word ((maskBits (x.vec.mask w.a.toNat) (maskCount w.fmt)).headD (maskCount w.fmt)))))

/-- kmov.pfx: the bits below min(a[A], 4,096). -/
def execKmovPfx (w : VWord) (s : State) : Out :=
  s.issueVec (fun x => do
    noFormat w
    .ok (x.vec.setMask w.d.toNat (BitVec.ofNat 4096 (2 ^ min (x.vec.scalar w.a.toNat).toNat 4096 - 1))))

/-! ### Conversion (R208, R209) -/

/-- The part is no part of the destination or source: FLT_ILLEGAL, which R142 ranks before FLT_FORMAT. With no element count on a side there is
no ratio to exceed. -/
def partExists (ns nd p : Nat) : Bool :=
  ns == 0 || nd == 0 || p * min ns nd < max ns nd

/-- The part of a conversion between element counts: first destination element, first source element, count. -/
def convertSpan (ns nd p : Nat) : Res (Nat × Nat × Nat) := do
  check (partExists ns nd p) Flt.illegal
  check ((if ns ≤ nd then nd % ns else ns % nd) == 0) Flt.format
  .ok (if ns ≤ nd then (p * ns, 0, ns) else (0, p * nd, nd))

/-- Elements of a block source and the headers of their blocks are consumed together (R335, R337). -/
def VReg.soundBlocks (r : VReg) (is : List Nat) : Res Unit := do
  r.sound (fmtWidth r.tag) (if fmtIsBlock r.tag then is.flatMap (fun i => [i, i / fmtBlock r.tag * fmtBlock r.tag]) else is)
  if fmtIsBlock r.tag && is.any (fun i => r.bad.contains (r.scaleWord i)) then faultUe r.own else .ok ()

/-- vcvt: FLG[0] is the wrap flag, for integer destinations only (R70). -/
def execVcvt (w : VWord) (s : State) : Out :=
  s.issueVec (fun x => do
    let wrap := w.flg.getLsbD 0
    check (!wrap || fmtIsInt w.fmt || w.fmt == Fm.idx16) Flt.illegal
    let a := x.vec.reg w.a.toNat
    check (partExists (fmtElems a.tag) (fmtElems w.fmt) w.c.toNat) Flt.illegal
    check (vcvtTarget w.fmt) Flt.format
    check (a.tag != Fm.none) Flt.format
    let (d0, s0, n) ← convertSpan (fmtElems a.tag) (fmtElems w.fmt) w.c.toNat
    let on (i : Nat) : Bool := d0 ≤ i && i < d0 + n && x.vec.active w.k i
    a.soundBlocks (((List.range (fmtElems w.fmt)).filter on).map (fun i => s0 + (i - d0)))
    .ok (x.vec.merge w.d.toNat w.fmt ((List.range (fmtElems w.fmt)).map (fun i =>
      if on i then some (convert w.fmt w.rm.toNat wrap (a.value (s0 + (i - d0)))) else none))))

/-- vcvtb: whole blocks, each with the scale that R71 or R72 chooses. -/
def execVcvtb (w : VWord) (s : State) : Out :=
  s.issueVec (fun x => do
    let a := x.vec.reg w.a.toNat
    check (partExists (fmtElems a.tag) (fmtElems w.fmt) w.c.toNat) Flt.illegal
    check (fmtIsBlock w.fmt) Flt.format
    check (fmtIsFloat a.tag) Flt.format
    let (d0, s0, n) ← convertSpan (fmtElems a.tag) (fmtElems w.fmt) w.c.toNat
    let src := (List.range n).map (fun i => s0 + i)
    a.sound (fmtWidth a.tag) src
    let bs := (chunks (fmtBlock w.fmt) n (src.map a.value)).map (convertBlock w.fmt w.rm.toNat)
    let vals := List.replicate d0 none ++ bs.flatMap (fun b => b.2.map some) ++ List.replicate (fmtElems w.fmt - d0 - n) none
    .ok (x.vec.setReg w.d.toNat
      ((((x.vec.reg w.d.toNat).merge w.fmt vals).putHeaders (d0 / fmtBlock w.fmt) (bs.map (fun b => b.1))).clearHeaders
        ((List.range bs.length).map (fun i => d0 / fmtBlock w.fmt + i)))))

/-! ### Random numbers (R210) -/

def execVrng (w : VWord) (s : State) : Out :=
  s.issueVec (fun x => do
    check (w.fmt == Fm.z32 || w.fmt == Fm.fp32) Flt.format
    let h := x.vec.box w.a.toNat
    useHandle h
    let base := (x.vec.scalar w.b.toNat).toNat
    let key := x.vec.scalar w.c.toNat
    let salt := (x.vec.scalar (w.c.toNat + 1)).setWidth 32
    let one (i : Nat) : Res (Option Nat) :=
      if x.vec.active w.k i then do
        let g ← s.shardGlobal x.own h (splitIndex h (base + i))
        check (coordsFit g) Flt.bounds
        let v := (krng key salt (nth g 0 0).toNat (nth g 1 0).toNat (nth g 2 0).toNat (nth g 3 0).toNat).toNat
        .ok (some (if w.fmt == Fm.z32 then v else fp32.ofVal 0 (.num false (v / 2 ^ 8) (-24))))
      else .ok none
    let vals ← (List.range (fmtElems w.fmt)).mapM one
    .ok (x.vec.merge w.d.toNat w.fmt vals))

/-! ### Reductions (R211) -/

/-- A node of the tree; an empty child gives the other. -/
def treeNode (op : Nat → Nat → Nat) : Option Nat → Option Nat → Option Nat
  | none, r => r
  | l, none => l
  | some l, some r => some (op l r)

/-- One level of the tree. -/
def treeLevel (op : Nat → Nat → Nat) : List (Option Nat) → List (Option Nat)
  | a :: b :: r => treeNode op a b :: treeLevel op r
  | l => l

/-- The fold of 2^k leaves. -/
def treeFold (op : Nat → Nat → Nat) : Nat → List (Option Nat) → Option Nat
  | 0, l => l.headD none
  | k + 1, l => treeFold op k (treeLevel op l)

/-- A reduction: what it accepts, its leaves, its operation, and the result of an empty segment. A float result that is
NaN is the canonical one (R61). -/
def State.reduceForm (s : State) (w : VWord) (accepts : Bool) (leaf : Nat → Nat) (op : Nat → Nat → Nat) (empty : Nat) : Out :=
  s.issueVec (fun x => do
    check accepts Flt.format
    let a ← x.vec.source w.a.toNat w.fmt
    let width := fmtWidth w.fmt
    let n := fmtElems w.fmt
    a.sound width (x.vec.activeList w.k w.fmt)
    let seg := min (2 ^ w.c.toNat) n
    let leaves := (List.range n).map (fun i => if x.vec.active w.k i then some (leaf (a.elem width i)) else none)
    let fix (v : Nat) : Nat := if fmtIsFloat w.fmt then (floatLayout w.fmt).ofVal 0 ((floatLayout w.fmt).value v) else v
    let out := (chunks seg n leaves).map (fun l => fix ((treeFold op (Nat.log2 seg) l).getD empty))
    .ok (x.vec.fill w.d.toNat w.fmt (out ++ List.replicate (n - out.length) 0)))

/-- The absolute value of a leaf, where FLG[1] asks for it; that of the lowest S value saturates. -/
def absLeaf (f : Fmt) (abs : Bool) (v : Nat) : Nat :=
  if !abs then v
  else if fmtIsFloat f then (floatLayout f).ofVal 0 ((floatLayout f).value v).abs
  else satLane f (intElem f v).natAbs

/-- vredsum: a float sum rounds at each node, with the zero sign of R73. FLG[0] has a meaning for integers alone, and a float sum ignores
it (R211; log 43). -/
def execVredsum (w : VWord) (s : State) : Out :=
  s.reduceForm w (acceptsFI w.fmt) id
    (fun a b =>
      if fmtIsFloat w.fmt then floatOp2 w.fmt w.rm.toNat Val.addFold a b
      else if w.flg.getLsbD 0 then satLane w.fmt (intElem w.fmt a + intElem w.fmt b)
      else codeOf (fmtWidth w.fmt) (intElem w.fmt a + intElem w.fmt b)) 0

/-- The extreme of a format: an infinity, or an integer bound. -/
def extreme (f : Fmt) (high : Bool) : Nat :=
  if fmtIsFloat f then (floatLayout f).ofVal 0 (.inf !high)
  else codeOf (fmtWidth f) (if high then (intBounds f).2 else (intBounds f).1)

def execVredmax (w : VWord) (s : State) : Out :=
  s.reduceForm w (acceptsFI w.fmt) (absLeaf w.fmt (w.flg.getLsbD 1)) (lane2 w.fmt 0 Val.max (fun a b => max a b)) (extreme w.fmt false)
def execVredmin (w : VWord) (s : State) : Out :=
  s.reduceForm w (acceptsFI w.fmt) (absLeaf w.fmt (w.flg.getLsbD 1)) (lane2 w.fmt 0 Val.min (fun a b => min a b)) (extreme w.fmt true)
def execVredand (w : VWord) (s : State) : Out :=
  s.reduceForm w (fmtIsInt w.fmt) id (fun a b => a &&& b) (2 ^ fmtWidth w.fmt - 1)
def execVredor (w : VWord) (s : State) : Out := s.reduceForm w (fmtIsInt w.fmt) id (fun a b => a ||| b) 0

end Sys2Proof.Machine
end

