-- ==== Sys2Proof/Machine/VectorMoves.lean ====
section
/-! DEFINITION. Permutes and broadcasts, partition, compression and expansion of the vector stream (11 R212, R213, R215). -/

namespace Sys2Proof.Machine
open Sys2Proof

/-! ### Permutes and broadcasts (R212) -/

/-- A permute: pick names, for an active element, the source register (true for the second) and the element of it; an
element past the end is out of range. -/
def State.permuteForm (s : State) (w : VWord) (two : Bool) (pre : Vec → Res (List VReg))
    (pick : Vec → List VReg → Nat → Res (Bool × Nat)) : Out :=
  s.issueVec (fun x => do
    check (movesFormat w.fmt) Flt.format
    let a ← x.vec.source w.a.toNat w.fmt
    let b ← if two then x.vec.source w.b.toNat w.fmt else .ok a
    let l ← pre x.vec
    let width := fmtWidth w.fmt
    let one (i : Nat) : Res (Option Nat) :=
      if x.vec.active w.k i then do
        let (second, j) ← pick x.vec l i
        check (j < fmtElems w.fmt) Flt.bounds
        let r := if second then b else a
        r.sound width [j]
        .ok (some (r.elem width j))
      else .ok none
    let vals ← (List.range (fmtElems w.fmt)).mapM one
    .ok (x.vec.merge w.d.toNat w.fmt vals))

/-- No index list. -/
def noList (_ : Vec) : Res (List VReg) := .ok []

/-- vbcast: the low bits of a[A], and with FLG[0] those of a[A] + i. -/
def execVbcast (w : VWord) (s : State) : Out :=
  s.issueVec (fun x => do
    let count := w.flg.getLsbD 0
    check (movesFormat w.fmt && (!count || fmtIsInt w.fmt)) Flt.format
    let v := (x.vec.scalar w.a.toNat).toNat
    .ok (x.vec.merge w.d.toNat w.fmt
      (x.vec.onActive w.k w.fmt (fun i => (if count then v + i else v) % 2 ^ fmtBits w.fmt))))

def execVperm (w : VWord) (s : State) : Out :=
  s.permuteForm w false (fun v => v.indexList w.b.toNat w.fmt) (fun _ l i => do .ok (false, ← listEntry l i))

/-- vslide by k of n elements. -/
def slidePick (n k i : Nat) : Bool × Nat := if i + k < n then (false, i + k) else (true, i + k - n)

def execVslide (w : VWord) (s : State) : Out :=
  s.permuteForm w true noList (fun v _ i => do
    let n := fmtElems w.fmt
    let k := (v.scalar w.c.toNat).toNat
    check (k ≤ n) Flt.bounds
    .ok (slidePick n k i))

def execVrot (w : VWord) (s : State) : Out :=
  s.permuteForm w false noList (fun v _ i => .ok (false, (i + (v.scalar w.b.toNat).toNat) % fmtElems w.fmt))

/-- The half, or the parity, that FLG[0] selects. -/
def zipHalf (w : VWord) : Nat := if w.flg.getLsbD 0 then 1 else 0

/-- The source and element of vzip and vunzip for an element. -/
def zipPick (w : VWord) (i : Nat) : Bool × Nat := (i % 2 == 1, zipHalf w * (fmtElems w.fmt / 2) + i / 2)
def unzipPick (w : VWord) (i : Nat) : Bool × Nat :=
  let half := fmtElems w.fmt / 2
  if i < half then (false, 2 * i + zipHalf w) else (true, 2 * (i - half) + zipHalf w)

def execVzip (w : VWord) (s : State) : Out := s.permuteForm w true noList (fun _ _ i => .ok (zipPick w i))

def execVunzip (w : VWord) (s : State) : Out := s.permuteForm w true noList (fun _ _ i => .ok (unzipPick w i))

def execVbcastel (w : VWord) (s : State) : Out :=
  s.permuteForm w false noList (fun v _ i => .ok (false, (v.scalar w.b.toNat).toNat + i / 2 ^ w.c.toNat))

/-! ### Partition (R213) -/

/-- The formats of outcome codes. -/
def partFormat (f : Fmt) : Bool := f == Fm.z8 || f == Fm.z16 || f == Fm.z32 || f == Fm.idx16

/-- Write an index list at registers from r on: the entries, then zeros. -/
def Vec.putList (v : Vec) (r g : Nat) (l : List Nat) : Vec :=
  ((List.range g).zip (chunks 1024 g (l ++ List.replicate (1024 * g - l.length) 0))).foldl
    (fun v p => v.fill (r + p.1) Fm.idx16 p.2) v

/-- vpart: an index list for every outcome below q, and its count. -/
def execVpart (w : VWord) (s : State) : Out :=
  s.issueVec (fun x => do
    check (partFormat w.fmt) Flt.format
    let a ← x.vec.source w.a.toNat w.fmt
    let width := fmtWidth w.fmt
    let on := x.vec.activeList w.k w.fmt
    a.sound width on
    let g := listRegs w.fmt
    let codes := on.map (fun i => (i, a.elem width i))
    .ok ((List.range w.c.toNat).foldl (fun v j =>
      let l := (codes.filter (fun p => p.2 == j)).map (fun p => p.1)
      (v.putList (w.d.toNat + j * g) g l).setScalar (w.b.toNat + j) (word l.length)) x.vec))

/-! ### Compression and expansion (R215) -/

def execVcompress (w : VWord) (s : State) : Out :=
  s.issueVec (fun x => do
    check (movesFormat w.fmt) Flt.format
    let a ← x.vec.source w.a.toNat w.fmt
    let width := fmtWidth w.fmt
    let on := x.vec.activeList w.k w.fmt
    a.sound width on
    let l := on.map (a.elem width)
    .ok ((x.vec.fill w.d.toNat w.fmt (l ++ List.replicate (fmtElems w.fmt - l.length) 0)).setScalar w.c.toNat (word l.length)))

/-- Elements in order at the places that are active: the value of element j goes to the j-th of them. -/
def spread (val : Nat → Nat) : Nat → List Bool → List (Option Nat)
  | _, [] => []
  | j, true :: r => some (val j) :: spread val (j + 1) r
  | j, false :: r => none :: spread val j r

def execVexpand (w : VWord) (s : State) : Out :=
  s.issueVec (fun x => do
    check (movesFormat w.fmt) Flt.format
    let a ← x.vec.source w.a.toNat w.fmt
    let width := fmtWidth w.fmt
    let bits := (List.range (fmtElems w.fmt)).map (x.vec.active w.k)
    a.sound width (List.range (bits.filter id).length)
    .ok (x.vec.merge w.d.toNat w.fmt (spread (a.elem width) 0 bits)))

end Sys2Proof.Machine
end

