-- ==== Sys2Proof/Machine/VectorMemory.lean ====
section
/-! DEFINITION. Loads, stores, gathers and scatters of the vector stream, and its accumulator-tile forms (11 R214, R216 to
R219). Instructions issue in program order; loads and stores perform later, in the orders that their classes leave (R85, R196; log 5). -/

namespace Sys2Proof.Machine
open Sys2Proof

/-! ### The box of a memory form (R214, R216) -/

/-- b[B] and a[I] of the memory form. -/
def memBox (x : Task) (w : VWord) : Handle := x.vec.box (w.a.toNat / 32)
def memBase (x : Task) (w : VWord) : Nat := (x.vec.scalar (w.a.toNat % 32)).toNat

/-- The checks of a memory form in the order of R216: mode, then format; the region. -/
def State.vectorBox (s : State) (x : Task) (w : VWord) (stores accepts : Bool) : Res Region := do
  let h := memBox x w
  useHandle h
  check (!(stores && readOnly h)) Flt.mode
  check (w.fmt != Fm.none && w.fmt == Handle.fmt h && accepts && (!stores || (x.vec.reg w.d.toNat).tag == w.fmt)) Flt.format
  s.regionOf x.own h

/-- The region coordinates of the box element at a linear index. -/
def vectorCoord (h : Handle) (lin : Nat) : Res (List Nat) := do
  check (lin < Handle.count h) Flt.bounds
  .ok (regionCoord h (splitIndex h lin))

/-- The elements that a memory form accesses: those whose block's first mask bit is 1 (R216). -/
def Vec.accessed (v : Vec) (k : BitVec 4) (f : Fmt) : List Nat :=
  (List.range (fmtElems f)).filter (fun i => v.active k (i / fmtBlock f * fmtBlock f))

/-- Elements with their region coordinates, each in bounds. -/
def coordsOf (h : Handle) (lin : Nat → Res Nat) (is : List Nat) : Res (List (Nat × List Nat)) :=
  is.mapM (fun i => do .ok (i, ← vectorCoord h (← lin i)))

/-- The first elements of the blocks among some elements. -/
def blockHeads (f : Fmt) (l : List (Nat × List Nat)) : List (Nat × List Nat) :=
  if headerBytes f == 0 then [] else l.filter (fun p => p.1 % fmtBlock f == 0)

/-- The bytes that a load form reads: of its elements and of the headers of their blocks. -/
def State.vectorRead (s : State) (x : Task) (w : VWord) (g : Region) (l : List (Nat × List Nat)) : Res VecLoad := do
  let t := x.own
  let els ← l.mapM (fun p => do let (cells, off) ← s.elemCells t g p.2 wantsRead; .ok (p.1, cells, off))
  let hdrs ← (blockHeads w.fmt l).mapM (fun p => do .ok (p.1 / fmtBlock w.fmt, ← s.headerCells t g p.2 wantsRead))
  .ok { reg := w.d.toNat, fmt := w.fmt, els := els, hdrs := hdrs }

/-- The writes of elements and of the headers of their blocks, in ascending order, by single-copy atomic parts (R84). -/
def State.vectorWrite (s : State) (x : Task) (w : VWord) (g : Region) (l : List (Nat × List Nat)) : Res (List (List ByteWrite)) := do
  let t := x.own
  let r := x.vec.reg w.d.toNat
  r.soundBlocks (l.map (fun p => p.1))
  let a ← l.mapM (fun p => s.writeElem t g p.2 (r.elem (fmtWidth w.fmt) p.1))
  let b ← (blockHeads w.fmt l).mapM (fun p => do
    let cells ← s.headerCells t g p.2 wantsWrite
    .ok (bitWrites cells 0 (8 * cells.length) (r.header (p.1 / fmtBlock w.fmt))))
  .ok (atomicParts w.fmt a ++ b)

/-- A load form completes: its access is in flight until the data returns. -/
def State.vectorLoad (s : State) (w : VWord) (accepts : Task → Bool) (lin : Task → Res (Nat → Res Nat)) : Out :=
  s.issueVector (fun x => do
    let g ← s.vectorBox x w false (accepts x)
    let f ← lin x
    let l ← coordsOf (memBox x w) f (x.vec.accessed w.k w.fmt)
    let v ← s.vectorRead x w g l
    s.vecDone (x.postVector w.cls v) x.vec)

/-- A store form completes: its writes are posted. -/
def State.vectorStore (s : State) (w : VWord) (accepts : Task → Bool) (lin : Task → Res (Nat → Res Nat)) : Out :=
  s.issueVector (fun x => do
    let g ← s.vectorBox x w true (accepts x)
    let f ← lin x
    let l ← coordsOf (memBox x w) f (x.vec.accessed w.k w.fmt)
    let ws ← s.vectorWrite x w g l
    s.vecDone (x.postWrites .vector w.cls 0 0 ws) x.vec)

/-- a[I] + i, for vld and vst: in whole blocks for a block format (R216). -/
def wholeBlocks (w : VWord) (x : Task) : Bool := memBase x w % fmtBlock w.fmt == 0
def linearIndex (w : VWord) (x : Task) : Res (Nat → Res Nat) := .ok (fun i => .ok (memBase x w + i))

/-- a[I] + idx_i, for vgather and vscatter: formats of 8 bits and more, no block formats (R214). -/
def indexedFormat (w : VWord) (_ : Task) : Bool := fmtIsScalar w.fmt
def listedIndex (w : VWord) (x : Task) : Res (Nat → Res Nat) := do
  let l ← x.vec.indexList w.c.toNat w.fmt
  .ok (fun i => do .ok (memBase x w + (← listEntry l i)))

def execVld (w : VWord) (s : State) : Out := s.vectorLoad w (wholeBlocks w) (linearIndex w)
def execVst (w : VWord) (s : State) : Out := s.vectorStore w (wholeBlocks w) (linearIndex w)
def execVgather (w : VWord) (s : State) : Out := s.vectorLoad w (indexedFormat w) (listedIndex w)
def execVscatter (w : VWord) (s : State) : Out := s.vectorStore w (indexedFormat w) (listedIndex w)

/-! ### Accumulator tiles (R217 to R219) -/

/-- The first element of a tile that an instruction of n elements reaches from row r: its last row is below 128. -/
def accRows (r n : Nat) : Res Nat := do
  check (r + n / 64 ≤ 128) Flt.bounds
  .ok (64 * r)

/-- What an accumulator form does to its tile (Table 3.8). -/
def vectorUses : Instr → TileUses
  | .vaccrd w => [(w.a.toNat, if w.flg.getLsbD 1 then .drain else .read)]
  | .vaccwr w => [(w.d.toNat, if w.flg.getLsbD 0 then .fill else .update)]
  | .acczero w => [(w.d.toNat, .fill)]
  | _ => []

/-- Complete an accumulator form: it sees its tile as it was before it started, and a fault puts it back (R55). -/
def State.issueTile (s : State) (us : TileUses) (body : Task → Res State) : Out :=
  match s.task? s.cur with
  | none => .next s
  | some x =>
    let y := if x.vec.opened then x.undoUses us else x
    let y := { y with vec := { y.vec with opened := false } }
    let r := body y
    let p := match r with
      | .error (.flt _ _) =>
        if x.pendFault.isSome || !x.vec.opened then (s, x)
        else s.putBack y (y.movedBy us)
      | _ => (s, x)
    p.1.deliverStream s.cur p.2 .vector r

/-- The start of an accumulator form on its tile (R53, R54). -/
def State.startTileForm (s : State) (t : Nat) (x : Task) (us : TileUses) : Out :=
  if !x.mayUse us || !x.startInOrder s.cycle 2 us then .next s
  else
    let y := (x.startUses us).noteStarts s.cycle 2 us
    .next (s.setTask t { y with vec := { y.vec with opened := true } })

/-- vaccrd: FLG[0] is wrap, FLG[1] is REL. -/
def execVaccrd (w : VWord) (s : State) : Out :=
  s.issueTile (vectorUses (.vaccrd w)) (fun x => do
    let wrap := w.flg.getLsbD 0
    let id := w.a.toNat
    check (!wrap || fmtIsInt w.fmt || w.fmt == Fm.idx16 || w.fmt == Fm.i40) Flt.illegal
    check (movesFormat w.fmt) Flt.format
    let base ← accRows (x.vec.scalar w.b.toNat).toNat (fmtElems w.fmt)
    x.needs id (if w.flg.getLsbD 1 then .drain else .read)
    let t := x.tile id
    let raw := w.fmt == Fm.a40 || w.fmt == Fm.i40
    check (!raw || (t.tag == w.fmt && !t.quarter)) Flt.format
    x.soundTile id (fun q => base ≤ q && q < base + fmtElems w.fmt && x.vec.active w.k (q - base))
    let one (i : Nat) : Nat :=
      let v := natBits t.data.toNat (40 * (base + i)) 40
      if raw then v else convert w.fmt w.rm.toNat wrap (accValue t.tag t.quarter v)
    let y := if w.flg.getLsbD 1 then x.drain id else x.setTile id { t with claimed := true }
    s.vecDone y (x.vec.merge w.d.toNat w.fmt (x.vec.onActive w.k w.fmt one)))

/-- The tile tag that a source tag makes (R218). -/
def accTagOf (f : Fmt) : Option Fmt :=
  if fmtIsFloat f || f == Fm.a40 then some Fm.a40 else if fmtIsInt f || f == Fm.i40 then some Fm.i40 else none

/-- An element converted exactly to A40, or to I40 with saturation; in a quarter-unit tile times 4 and saturated (R218). -/
def toAcc (f : Fmt) (quarter : Bool) (v : Nat) : Nat :=
  if fmtIsFloat f then convert Fm.a40 0 false (scalarValue f v)
  else if f == Fm.a40 then (if (scalarValue f v).isNan then a40.nanBits else v % 2 ^ 40)
  else
    let i : Int := if f == Fm.i40 then signedOf 40 v else intElem f v
    let j := clampInt (-(2 ^ 39)) (2 ^ 39 - 1) i
    codeOf 40 (clampInt (-(2 ^ 39)) (2 ^ 39 - 1) (if quarter then 4 * j else j))

/-- A sum in a tile: rounded to nearest even in A40 by R202, saturated in I40 (R218). -/
def accAdd (tag : Fmt) (a b : Nat) : Nat :=
  if tag == Fm.a40 then floatOp2 tag 0 (Val.add 0) a b
  else codeOf 40 (clampInt (-(2 ^ 39)) (2 ^ 39 - 1) (signedOf 40 a + signedOf 40 b))

/-- vaccwr: FLG[0] is CLR, FLG[1] is ADD. -/
def execVaccwr (w : VWord) (s : State) : Out :=
  s.issueTile (vectorUses (.vaccwr w)) (fun x => do
    noFormat w
    let clear := w.flg.getLsbD 0
    let id := w.d.toNat
    let a := x.vec.reg w.a.toNat
    match accTagOf a.tag with
    | none => fault Flt.format
    | some tag => do
      let n := fmtElems a.tag
      let base ← accRows (x.vec.scalar w.b.toNat).toNat n
      x.needs id (if clear then .fill else .update)
      let t := x.tile id
      check (clear || t.tag == tag) Flt.format
      a.sound (fmtWidth a.tag) (x.vec.activeList w.k a.tag)
      let written (q : Nat) : Bool := base ≤ q && q < base + n && x.vec.active w.k (q - base)
      x.soundTile id (fun q => w.flg.getLsbD 1 && written q)
      let quarter := !clear && t.quarter
      let old := if clear then 0 else t.data.toNat
      let one (i : Nat) : Nat :=
        let cur := natBits old (40 * i) 40
        if base ≤ i && i < base + n && x.vec.active w.k (i - base) then
          let v := toAcc a.tag quarter (a.elem (fmtWidth a.tag) (i - base))
          if w.flg.getLsbD 1 then accAdd tag cur v else v
        else cur
      s.vecDone (x.fillAcc id tag quarter ((List.range 8192).map one)
        (if clear then [] else t.bad.filter (fun q => !written q))) x.vec)

/-- acczero: an Empty tile becomes Ready with every element +0. -/
def execAcczero (w : VWord) (s : State) : Out :=
  s.issueTile (vectorUses (.acczero w)) (fun x => do
    check (w.fmt == Fm.a40 || w.fmt == Fm.i40) Flt.format
    x.needs w.d.toNat .fill
    s.vecDone (x.fillAcc w.d.toNat w.fmt false (List.replicate 8192 0) []) x.vec)

end Sys2Proof.Machine
end

