-- ==== Sys2Proof/Machine/VectorControl.lean ====
section
/-! DEFINITION. Stream scalars, counted loops, queues, flags, semaphores, the fence and the end of the vector stream (11 R220 to
R226). -/

namespace Sys2Proof.Machine
open Sys2Proof

/-! ### Stream scalars (R220) -/

/-- A stream-scalar form of two sources. -/
def State.scalarForm (s : State) (w : VWord) (f : Word → Word → Word) : Out :=
  s.issueVec (fun x => do
    noFormat w
    .ok (x.vec.setScalar w.d.toNat (f (x.vec.scalar w.a.toNat) (x.vec.scalar w.b.toNat))))

/-- The second operand: with FLG[0] the sign-extended VC immediate. -/
def scalarSecond (w : VWord) (b : Word) : Word := if w.flg.getLsbD 0 then sext64 w.c else b

def execAadd (w : VWord) (s : State) : Out := s.scalarForm w (fun a b => a + scalarSecond w b)
def execAsub (w : VWord) (s : State) : Out := s.scalarForm w (fun a b => a - scalarSecond w b)
def execAmul (w : VWord) (s : State) : Out := s.scalarForm w (fun a b => a * b)
def execAshl (w : VWord) (s : State) : Out :=
  s.scalarForm w (fun a b =>
    let n := b.toNat % 64
    if w.flg == 0 then a <<< n else if w.flg == 1 then a >>> n else a.sshiftRight n)
def execAmov (w : VWord) (s : State) : Out := s.scalarForm w (fun a _ => a)

/-- ali: bits [46:20], sign-extended. -/
def execAli (w : VWord) (s : State) : Out := s.scalarForm w (fun _ _ => sext64 (w.a ++ w.b ++ w.c))

/-! ### Counted loops (R221) -/

/-- The word vendl. -/
def vendlWord : Nat := 0x71 * 2 ^ 56

/-- The word that would end a body is vendl; one outside the image is not. -/
def State.endsInVendl (s : State) (x : Task) (off : Nat) : Res Unit :=
  match s.codeNat x.own off 8 with
  | .ok w => check (w == vendlWord) Flt.illegal
  | .error (.flt code v) => if code == Flt.bounds then fault Flt.illegal else .error (.flt code v)
  | .error e => .error e

/-- Write the register that receives the pass index. -/
def Vec.setIndex (v : Vec) (r : Option Nat) (i : Nat) : Vec :=
  match r with
  | some d => v.setScalar d (word i)
  | none => v

/-- A body that ends at a word lies inside the innermost enclosing one (R221). -/
def vloopFits (stop : Nat) (l : List VLoop) : Bool :=
  match l with
  | e :: _ => stop < e.stop
  | [] => true

def execVloop (w : VWord) (s : State) : Out :=
  s.issueVector (fun x => do
    let v := x.vec
    let stop := v.pc + 8 * w.b.toNat
    s.endsInVendl x stop
    check (vloopFits stop v.loops) Flt.illegal
    noFormat w
    check (v.loops.length < 4) Flt.capacity
    let count := if w.flg.getLsbD 0 then w.c.toNat else (v.scalar w.a.toNat).toNat
    let reg := if w.flg.getLsbD 1 then some w.d.toNat else none
    let entry : VLoop := { start := v.pc + 8, stop := stop, left := count - 1, index := 0, reg := reg }
    .ok (s.setTask s.cur { x with vec :=
      if count = 0 then { v with pc := stop + 8 } else { v.setIndex reg 0 with pc := v.pc + 8, loops := entry :: v.loops } }))

def execVendl (s : State) : Out :=
  s.issueVector (fun x =>
    let v := x.vec
    match v.loops with
    | e :: r =>
      if e.stop ≠ v.pc then fault Flt.illegal
      else .ok (s.setTask s.cur { x with vec :=
        if e.left = 0 then { v with pc := v.pc + 8, loops := r }
        else { v.setIndex e.reg (e.index + 1) with
               pc := e.start, loops := { e with left := e.left - 1, index := e.index + 1 } :: r } })
    | [] => fault Flt.illegal)

/-! ### Queues, flags, semaphores and timelines (R222 to R224) -/

/-- vpush: a release; it stalls while the queue is full. -/
def execVpush (w : VWord) (s : State) : Out :=
  s.issueVec (fun x => do
    noFormat w
    waitFor (vectorSettled x && x.vec.vq.length < queueSize)
    .ok { x.vec with vq := x.vec.vq ++ [x.vec.scalar w.a.toNat] })

/-- vpop: an acquire; it stalls while the queue is empty. -/
def execVpop (w : VWord) (s : State) : Out :=
  s.issueVec (fun x => do
    noFormat w
    match x.vec.cq with
    | [] => .error .stall
    | q :: r => .ok ({ x.vec with cq := r }.setScalar w.d.toNat q))

/-- vfset: a set is a release. -/
def execVfset (w : VWord) (s : State) : Out :=
  s.issueVec (fun x => do
    noFormat w
    let clear := w.flg.getLsbD 0
    let bit : BitVec 16 := 1 <<< w.c.toNat
    waitFor (clear || vectorSettled x)
    .ok { x.vec with flags := if clear then x.vec.flags &&& ~~~bit else x.vec.flags ||| bit })

def execVsig (w : VWord) (s : State) : Out :=
  s.issueVector (fun x => do
    noFormat w
    let i := w.c.toNat
    waitFor (vectorSettled x && x.semInOrder s.cycle vsigRank i)
    s.vecDone ((x.setSem i (semPlus (x.sem i) ((x.vec.scalar w.a.toNat).toNat % 2 ^ 32))).noteSem s.cycle vsigRank i) x.vec)

def execVswait (w : VWord) (s : State) : Out :=
  s.issueVec (fun x => do
    noFormat w
    waitFor ((x.vec.scalar w.a.toNat).toNat % 2 ^ 32 ≤ (x.sem w.c.toNat).toNat)
    .ok x.vec)

/-- vfwait: VC selects the timeline, 1 for M and 2 for C. -/
def execVfwait (w : VWord) (s : State) : Out :=
  s.issueVec (fun x => do
    noFormat w
    waitFor ((x.vec.scalar w.a.toNat).toNat ≤ (if w.c == 1 then x.mat.done else x.cpy.done))
    .ok x.vec)

/-! ### The fence, the hint and the end (R137, R225, R226) -/

/-- MASK of vfence, bits [46:31]. -/
def vfenceMask (w : VWord) : BitVec 16 := w.a ++ w.b.extractLsb' 2 7

def execVfence (w : VWord) (s : State) : Out :=
  s.issueVec (fun x => do
    waitFor (classesSettled x .vector (vfenceMask w))
    .ok x.vec)

/-- vnop and the rest of hint space, a descriptor reached in sequence among it (R137, R195). -/
def execVnop (s : State) : Out := s.issueVec (fun x => .ok x.vec)

/-- vend: every store of the stream has performed; the V timeline rises and the sequencer holds no stream. -/
def execVend (s : State) : Out :=
  s.issueVec (fun x => do
    waitFor (vectorSettled x)
    .ok { x.vec with on := false, done := x.vec.done + 1, loops := [] })

end Sys2Proof.Machine
end

