-- ==== Sys2Proof/Machine/Dispatch.lean ====
section
/-! DEFINITION. The dispatch of every instruction and device step to its meaning, one arm for each. -/

namespace Sys2Proof.Machine
open Sys2Proof

def exec (i : Instr) (s : State) : Host.Outcome State Fault Refusal :=
  match i with
  -- Integer ALU (R148).
  | .add d a b => Sys2Proof.Machine.execAdd d a b s
  | .sub d a b => Sys2Proof.Machine.execSub d a b s
  | .and d a b => Sys2Proof.Machine.execAnd d a b s
  | .or d a b => Sys2Proof.Machine.execOr d a b s
  | .xor d a b => Sys2Proof.Machine.execXor d a b s
  | .andn d a b => Sys2Proof.Machine.execAndn d a b s
  | .sll d a b => Sys2Proof.Machine.execSll d a b s
  | .srl d a b => Sys2Proof.Machine.execSrl d a b s
  | .sra d a b => Sys2Proof.Machine.execSra d a b s
  | .rotl d a b => Sys2Proof.Machine.execRotl d a b s
  | .slt d a b => Sys2Proof.Machine.execSlt d a b s
  | .sltu d a b => Sys2Proof.Machine.execSltu d a b s
  | .min d a b => Sys2Proof.Machine.execMin d a b s
  | .max d a b => Sys2Proof.Machine.execMax d a b s
  | .minu d a b => Sys2Proof.Machine.execMinu d a b s
  | .maxu d a b => Sys2Proof.Machine.execMaxu d a b s
  | .clz d a => Sys2Proof.Machine.execClz d a s
  | .popc d a => Sys2Proof.Machine.execPopc d a s
  -- Multiply and divide (R149).
  | .mul d a b => Sys2Proof.Machine.execMul d a b s
  | .mulh d a b => Sys2Proof.Machine.execMulh d a b s
  | .mulhu d a b => Sys2Proof.Machine.execMulhu d a b s
  | .mulhsu d a b => Sys2Proof.Machine.execMulhsu d a b s
  | .div d a b => Sys2Proof.Machine.execDiv d a b s
  | .divu d a b => Sys2Proof.Machine.execDivu d a b s
  | .rem d a b => Sys2Proof.Machine.execRem d a b s
  | .remu d a b => Sys2Proof.Machine.execRemu d a b s
  -- Immediate ALU (R150).
  | .addi d a imm => Sys2Proof.Machine.execAddi d a imm s
  | .andi d a imm => Sys2Proof.Machine.execAndi d a imm s
  | .ori d a imm => Sys2Proof.Machine.execOri d a imm s
  | .xori d a imm => Sys2Proof.Machine.execXori d a imm s
  | .slti d a imm => Sys2Proof.Machine.execSlti d a imm s
  | .sltiu d a imm => Sys2Proof.Machine.execSltiu d a imm s
  -- Immediate shifts (R151).
  | .slli d a n => Sys2Proof.Machine.execSlli d a n s
  | .srli d a n => Sys2Proof.Machine.execSrli d a n s
  | .srai d a n => Sys2Proof.Machine.execSrai d a n s
  | .rotli d a n => Sys2Proof.Machine.execRotli d a n s
  -- Wide immediates (R152).
  | .li d ext => Sys2Proof.Machine.execLi d ext s
  | .liu d ext => Sys2Proof.Machine.execLiu d ext s
  | .lih d a ext => Sys2Proof.Machine.execLih d a ext s
  -- Frame access (R158).
  | .ldf d a off => Sys2Proof.Machine.execLdf d a off s
  | .ldfHandle d a off => Sys2Proof.Machine.execLdfHandle d a off s
  | .stf d a off => Sys2Proof.Machine.execStf d a off s
  | .stfHandle d a off => Sys2Proof.Machine.execStfHandle d a off s
  -- Box loads and stores (R159).
  | .ldS m => Sys2Proof.Machine.execLdS m s
  | .ldZ m => Sys2Proof.Machine.execLdZ m s
  | .st m => Sys2Proof.Machine.execSt m s
  | .ldAcqS m => Sys2Proof.Machine.execLdAcqS m s
  | .ldAcqZ m => Sys2Proof.Machine.execLdAcqZ m s
  | .stRel m => Sys2Proof.Machine.execStRel m s
  -- Branches and the hardware loop (R153, R155).
  | .beq a b off => Sys2Proof.Machine.execBeq a b off s
  | .bne a b off => Sys2Proof.Machine.execBne a b off s
  | .blt a b off => Sys2Proof.Machine.execBlt a b off s
  | .bge a b off => Sys2Proof.Machine.execBge a b off s
  | .bltu a b off => Sys2Proof.Machine.execBltu a b off s
  | .bgeu a b off => Sys2Proof.Machine.execBgeu a b off s
  | .loop a b off => Sys2Proof.Machine.execLoop a b off s
  -- Jumps (R154).
  | .jal d off => Sys2Proof.Machine.execJal d off s
  | .jalr d a imm => Sys2Proof.Machine.execJalr d a imm s
  -- Shape read (R157).
  | .shpld d a shape entry => Sys2Proof.Machine.execShpld d a shape entry s
  -- Counters (R163).
  | .rdcyc d => Sys2Proof.Machine.execRdcyc d s
  | .rdtick d => Sys2Proof.Machine.execRdtick d s
  | .rdcore d => Sys2Proof.Machine.execRdcore d s
  -- Tasks (R170 to R173).
  | .jstat d sel => Sys2Proof.Machine.execJstat d sel s
  | .wid d sel => Sys2Proof.Machine.execWid d sel s
  | .dslice d sel => Sys2Proof.Machine.execDslice d sel s
  -- Box queries (R176, R177).
  | .boxext d a dim => Sys2Proof.Machine.execBoxext d a dim s
  | .boxorg d a dim => Sys2Proof.Machine.execBoxorg d a dim s
  | .boxrank d a => Sys2Proof.Machine.execBoxrank d a s
  | .boxfmt d a => Sys2Proof.Machine.execBoxfmt d a s
  | .boxmode d a => Sys2Proof.Machine.execBoxmode d a s
  | .boxmov d a => Sys2Proof.Machine.execBoxmov d a s
  | .boxclr d => Sys2Proof.Machine.execBoxclr d s
  | .boxroot d a => Sys2Proof.Machine.execBoxroot d a s
  -- Semaphores (R186).
  | .semset d a j ix => Sys2Proof.Machine.execSemset d a j ix s
  | .semadd d a j ix => Sys2Proof.Machine.execSemadd d a j ix s
  | .semsub d a j ix => Sys2Proof.Machine.execSemsub d a j ix s
  | .semrd d ix => Sys2Proof.Machine.execSemrd d ix s
  -- Fence (R187).
  | .fence mask sc => Sys2Proof.Machine.execFence mask sc s
  -- Engine forms (R182, R183, R373).
  | .claim a => Sys2Proof.Machine.execClaim a s
  | .release a => Sys2Proof.Machine.execRelease a s
  | .vqsend a => Sys2Proof.Machine.execVqsend a s
  | .vqrecv d => Sys2Proof.Machine.execVqrecv d s
  -- Sundial forms (R190).
  | .stopen d a b => Sys2Proof.Machine.execStopen d a b s
  | .stsrc d a b => Sys2Proof.Machine.execStsrc d a b s
  | .stbind d a b => Sys2Proof.Machine.execStbind d a b s
  | .strec d a b => Sys2Proof.Machine.execStrec d a b s
  | .stclose a => Sys2Proof.Machine.execStclose a s
  -- Group forms (R191).
  | .gopen d a b => Sys2Proof.Machine.execGopen d a b s
  | .gcommit a b => Sys2Proof.Machine.execGcommit a b s
  | .gabort a => Sys2Proof.Machine.execGabort a s
  | .gstat d a => Sys2Proof.Machine.execGstat d a s
  -- Shard coordinates (R193).
  | .shardcoord d a b dim => Sys2Proof.Machine.execShardcoord d a b dim s
  -- Traps and hints (R164, R165).
  | .trap code => Sys2Proof.Machine.execTrap code s
  | .brk code => Sys2Proof.Machine.execBrk code s
  | .hint bits => Sys2Proof.Machine.execHint bits s
  -- Waits (R184).
  | .waitAny d a ext => Sys2Proof.Machine.execWaitAny d a ext s
  | .waitAll d a ext => Sys2Proof.Machine.execWaitAll d a ext s
  -- Engines (R178 to R181).
  | .fork ext => Sys2Proof.Machine.execFork ext s
  | .xq d a f8 ext => Sys2Proof.Machine.execXq d a f8 ext s
  | .ecfg a eng slot ext => Sys2Proof.Machine.execEcfg a eng slot ext s
  | .enest d a eng lvl ext => Sys2Proof.Machine.execEnest d a eng lvl ext s
  -- Spawning and handles (R167 to R175).
  | .spawn d a ext => Sys2Proof.Machine.execSpawn d a ext s
  | .spawnDown d a ext => Sys2Proof.Machine.execSpawnDown d a ext s
  | .dspawn d a ext => Sys2Proof.Machine.execDspawn d a ext s
  | .boxsub d a dim reg ext => Sys2Proof.Machine.execBoxsub d a dim reg ext s
  | .boxnew d a mode policy => Sys2Proof.Machine.execBoxnew d a mode policy s
  -- Atomics (R188, R189).
  | .amoadd x => Sys2Proof.Machine.execAmoadd x s
  | .amoand x => Sys2Proof.Machine.execAmoand x s
  | .amoor x => Sys2Proof.Machine.execAmoor x s
  | .amoxor x => Sys2Proof.Machine.execAmoxor x s
  | .amomin x => Sys2Proof.Machine.execAmomin x s
  | .amomax x => Sys2Proof.Machine.execAmomax x s
  | .amominu x => Sys2Proof.Machine.execAmominu x s
  | .amomaxu x => Sys2Proof.Machine.execAmomaxu x s
  | .amoswap x => Sys2Proof.Machine.execAmoswap x s
  | .amocas x => Sys2Proof.Machine.execAmocas x s
  | .amofadd x => Sys2Proof.Machine.execAmofadd x s
  | .incw x => Sys2Proof.Machine.execIncw x s
  | .faddb x => Sys2Proof.Machine.execFaddb x s
  | .redadd x => Sys2Proof.Machine.execRedadd x s
  | .redand x => Sys2Proof.Machine.execRedand x s
  | .redor x => Sys2Proof.Machine.execRedor x s
  | .redxor x => Sys2Proof.Machine.execRedxor x s
  | .redmin x => Sys2Proof.Machine.execRedmin x s
  | .redmax x => Sys2Proof.Machine.execRedmax x s
  | .redminu x => Sys2Proof.Machine.execRedminu x s
  | .redmaxu x => Sys2Proof.Machine.execRedmaxu x s
  | .redfadd x => Sys2Proof.Machine.execRedfadd x s
  -- Group-tagged store (R192).
  | .stG x => Sys2Proof.Machine.execStG x s
  -- Privileged forms (R278 to R288).
  | .mfsr d sr => Sys2Proof.Machine.execMfsr d sr s
  | .mtsr d sr => Sys2Proof.Machine.execMtsr d sr s
  | .ctxsave d a => Sys2Proof.Machine.execCtxsave d a s
  | .ctxload d a => Sys2Proof.Machine.execCtxload d a s
  | .preempt d a => Sys2Proof.Machine.execPreempt d a s
  | .qadmit d a => Sys2Proof.Machine.execQadmit d a s
  | .qrelease a => Sys2Proof.Machine.execQrelease a s
  | .qcancel a => Sys2Proof.Machine.execQcancel a s
  | .partset d a b => Sys2Proof.Machine.execPartset d a b s
  | .tlbinv a b => Sys2Proof.Machine.execTlbinv a b s
  | .isend a b => Sys2Proof.Machine.execIsend a b s
  | .corefence a b => Sys2Proof.Machine.execCorefence a b s
  | .phyrd d a => Sys2Proof.Machine.execPhyrd d a s
  | .phywr a b => Sys2Proof.Machine.execPhywr a b s
  -- Vector words (R195 to R226).
  | .vadd w => Sys2Proof.Machine.execVadd w s
  | .vsub w => Sys2Proof.Machine.execVsub w s
  | .vmul w => Sys2Proof.Machine.execVmul w s
  | .vfma w => Sys2Proof.Machine.execVfma w s
  | .vfms w => Sys2Proof.Machine.execVfms w s
  | .vfnma w => Sys2Proof.Machine.execVfnma w s
  | .vdiv w => Sys2Proof.Machine.execVdiv w s
  | .vsqrt w => Sys2Proof.Machine.execVsqrt w s
  | .vmin w => Sys2Proof.Machine.execVmin w s
  | .vmax w => Sys2Proof.Machine.execVmax w s
  | .vabs w => Sys2Proof.Machine.execVabs w s
  | .vneg w => Sys2Proof.Machine.execVneg w s
  | .vadds w => Sys2Proof.Machine.execVadds w s
  | .vsubs w => Sys2Proof.Machine.execVsubs w s
  | .vmulh w => Sys2Proof.Machine.execVmulh w s
  | .vand w => Sys2Proof.Machine.execVand w s
  | .vor w => Sys2Proof.Machine.execVor w s
  | .vxor w => Sys2Proof.Machine.execVxor w s
  | .vnot w => Sys2Proof.Machine.execVnot w s
  | .vsll w => Sys2Proof.Machine.execVsll w s
  | .vsrl w => Sys2Proof.Machine.execVsrl w s
  | .vsra w => Sys2Proof.Machine.execVsra w s
  | .vexp w => Sys2Proof.Machine.execVexp w s
  | .vlog w => Sys2Proof.Machine.execVlog w s
  | .vrcp w => Sys2Proof.Machine.execVrcp w s
  | .vrsqrt w => Sys2Proof.Machine.execVrsqrt w s
  | .vtanh w => Sys2Proof.Machine.execVtanh w s
  | .vsigm w => Sys2Proof.Machine.execVsigm w s
  | .vsin w => Sys2Proof.Machine.execVsin w s
  | .vcos w => Sys2Proof.Machine.execVcos w s
  | .vcmp w => Sys2Proof.Machine.execVcmp w s
  | .vsel w => Sys2Proof.Machine.execVsel w s
  | .kand w => Sys2Proof.Machine.execKand w s
  | .kor w => Sys2Proof.Machine.execKor w s
  | .kxor w => Sys2Proof.Machine.execKxor w s
  | .kandn w => Sys2Proof.Machine.execKandn w s
  | .knot w => Sys2Proof.Machine.execKnot w s
  | .kpop w => Sys2Proof.Machine.execKpop w s
  | .kfirst w => Sys2Proof.Machine.execKfirst w s
  | .kmov w => Sys2Proof.Machine.execKmov w s
  | .kmovPfx w => Sys2Proof.Machine.execKmovPfx w s
  | .vcvt w => Sys2Proof.Machine.execVcvt w s
  | .vcvtb w => Sys2Proof.Machine.execVcvtb w s
  | .vrng w => Sys2Proof.Machine.execVrng w s
  | .vredsum w => Sys2Proof.Machine.execVredsum w s
  | .vredmax w => Sys2Proof.Machine.execVredmax w s
  | .vredmin w => Sys2Proof.Machine.execVredmin w s
  | .vredand w => Sys2Proof.Machine.execVredand w s
  | .vredor w => Sys2Proof.Machine.execVredor w s
  | .vbcast w => Sys2Proof.Machine.execVbcast w s
  | .vperm w => Sys2Proof.Machine.execVperm w s
  | .vslide w => Sys2Proof.Machine.execVslide w s
  | .vrot w => Sys2Proof.Machine.execVrot w s
  | .vzip w => Sys2Proof.Machine.execVzip w s
  | .vunzip w => Sys2Proof.Machine.execVunzip w s
  | .vbcastel w => Sys2Proof.Machine.execVbcastel w s
  | .vpart w => Sys2Proof.Machine.execVpart w s
  | .vgather w => Sys2Proof.Machine.execVgather w s
  | .vscatter w => Sys2Proof.Machine.execVscatter w s
  | .vcompress w => Sys2Proof.Machine.execVcompress w s
  | .vexpand w => Sys2Proof.Machine.execVexpand w s
  | .vld w => Sys2Proof.Machine.execVld w s
  | .vst w => Sys2Proof.Machine.execVst w s
  | .vaccrd w => Sys2Proof.Machine.execVaccrd w s
  | .vaccwr w => Sys2Proof.Machine.execVaccwr w s
  | .acczero w => Sys2Proof.Machine.execAcczero w s
  | .aadd w => Sys2Proof.Machine.execAadd w s
  | .asub w => Sys2Proof.Machine.execAsub w s
  | .amul w => Sys2Proof.Machine.execAmul w s
  | .ashl w => Sys2Proof.Machine.execAshl w s
  | .amov w => Sys2Proof.Machine.execAmov w s
  | .ali w => Sys2Proof.Machine.execAli w s
  | .vloop w => Sys2Proof.Machine.execVloop w s
  | .vpush w => Sys2Proof.Machine.execVpush w s
  | .vpop w => Sys2Proof.Machine.execVpop w s
  | .vfset w => Sys2Proof.Machine.execVfset w s
  | .vfwait w => Sys2Proof.Machine.execVfwait w s
  | .vsig w => Sys2Proof.Machine.execVsig w s
  | .vswait w => Sys2Proof.Machine.execVswait w s
  | .vfence w => Sys2Proof.Machine.execVfence w s
  -- Engine records (R228 to R254).
  | .mmul r => Sys2Proof.Machine.execMmul r s
  | .copy r => Sys2Proof.Machine.execCopy r s
  | .copyl r => Sys2Proof.Machine.execCopyl r s
  | .trans r => Sys2Proof.Machine.execTrans r s
  | .perm r => Sys2Proof.Machine.execPerm r s
  | .fill r => Sys2Proof.Machine.execFill r s
  | .gather r => Sys2Proof.Machine.execGather r s
  | .scatter r => Sys2Proof.Machine.execScatter r s
  | .edec r => Sys2Proof.Machine.execEdec r s
  | .vqx r => Sys2Proof.Machine.execVqx r s
  | .cbload r => Sys2Proof.Machine.execCbload r s
  | .shpf r => Sys2Proof.Machine.execShpf r s
  | .gcp r => Sys2Proof.Machine.execGcp r s
  | .rcp r => Sys2Proof.Machine.execRcp r s
  | .allred r => Sys2Proof.Machine.execAllred r s
  | .allgath r => Sys2Proof.Machine.execAllgath r s
  | .bcast r => Sys2Proof.Machine.execBcast r s
  | .rdscat r => Sys2Proof.Machine.execRdscat r s
  | .digest r => Sys2Proof.Machine.execDigest r s
  | .enc r => Sys2Proof.Machine.execEnc r s
  | .hintRecord kind r => Sys2Proof.Machine.execHintRecord kind r s
  -- The forms without operands (R171, R182, R221, R226, R274, R288).
  | .join => Sys2Proof.Machine.execJoin s
  | .endTask => Sys2Proof.Machine.execEndTask s
  | .yield => Sys2Proof.Machine.execYield s
  | .rdv => Sys2Proof.Machine.execRdv s
  | .tret => Sys2Proof.Machine.execTret s
  | .tretEnd => Sys2Proof.Machine.execTretEnd s
  | .halt => Sys2Proof.Machine.execHalt s
  | .vendl => Sys2Proof.Machine.execVendl s
  | .vend => Sys2Proof.Machine.execVend s
  | .vnop => Sys2Proof.Machine.execVnop s
  -- The device steps, which have no word (95).
  | .loadDataReturn t k ecc => Sys2Proof.Machine.execLoadDataReturn t k ecc s
  | .haltWake core => Sys2Proof.Machine.execHaltWake core s
  | .recordStart t e => Sys2Proof.Machine.execRecordStart t e s
  | .recordComplete t e => Sys2Proof.Machine.execRecordComplete t e s
  | .encoderFrameStart enc => Sys2Proof.Machine.execEncoderFrameStart enc s
  | .encoderFrameComplete enc => Sys2Proof.Machine.execEncoderFrameComplete enc s
  | .encoderFrameSwitch enc => Sys2Proof.Machine.execEncoderFrameSwitch enc s
  | .dispatch core => Sys2Proof.Machine.execDispatch core s
  | .preemption core => Sys2Proof.Machine.execPreemption core s
  | .storageUnitSave t unit => Sys2Proof.Machine.execStorageUnitSave t unit s
  | .sliceBudgetExhausted t => Sys2Proof.Machine.execSliceBudgetExhausted t s
  | .contractRelease part n => Sys2Proof.Machine.execContractRelease part n s
  | .periodicRelease launch => Sys2Proof.Machine.execPeriodicRelease launch s
  | .doorbell vf tail => Sys2Proof.Machine.execDoorbell vf tail s
  | .launch part => Sys2Proof.Machine.execLaunch part s
  | .childStorageAllocation t => Sys2Proof.Machine.execChildStorageAllocation t s
  | .copyInComplete t => Sys2Proof.Machine.execCopyInComplete t s
  | .taskReturn t => Sys2Proof.Machine.execTaskReturn t s
  | .waitTimeout t => Sys2Proof.Machine.execWaitTimeout t s
  | .waitConditionMet t => Sys2Proof.Machine.execWaitConditionMet t s
  | .faultDelivery t => Sys2Proof.Machine.execFaultDelivery t s
  | .interruptEntry core => Sys2Proof.Machine.execInterruptEntry core s
  | .belvedereMismatch t st => Sys2Proof.Machine.execBelvedereMismatch t st s
  | .scrubSweep addr ecc => Sys2Proof.Machine.execScrubSweep addr ecc s
  | .pageWalk t st => Sys2Proof.Machine.execPageWalk t st s
  | .streamRecordEntry source => Sys2Proof.Machine.execStreamRecordEntry source s
  | .sundialTick die => Sys2Proof.Machine.execSundialTick die s
  | .sourceIdle source => Sys2Proof.Machine.execSourceIdle source s
  | .windowPublication t => Sys2Proof.Machine.execWindowPublication t s
  | .orangeryStaging k => Sys2Proof.Machine.execOrangeryStaging k s
  | .withdrawal g t => Sys2Proof.Machine.execWithdrawal g t s
  | .prepareSend g => Sys2Proof.Machine.execPrepareSend g s
  | .prepared g dest => Sys2Proof.Machine.execPrepared g dest s
  | .groupDecision g => Sys2Proof.Machine.execGroupDecision g s
  | .publish g dest => Sys2Proof.Machine.execPublish g dest s
  | .groupFree g => Sys2Proof.Machine.execGroupFree g s
  | .groupTimeout g => Sys2Proof.Machine.execGroupTimeout g s
  | .abortDiscard g dest => Sys2Proof.Machine.execAbortDiscard g dest s
  | .replicaDigestCompare g => Sys2Proof.Machine.execReplicaDigestCompare g s
  | .flitReceive port flit => Sys2Proof.Machine.execFlitReceive port flit s
  | .portDown port => Sys2Proof.Machine.execPortDown port s
  | .routeRestored port => Sys2Proof.Machine.execRouteRestored port s
  | .rdly die ch lane v => Sys2Proof.Machine.execRdly die ch lane v s
  | .wdly die ch lane v => Sys2Proof.Machine.execWdly die ch lane v s
  | .trctl die ch v => Sys2Proof.Machine.execTrctl die ch v s
  | .trainingRunDone die ch => Sys2Proof.Machine.execTrainingRunDone die ch s
  | .lrep die ch v => Sys2Proof.Machine.execLrep die ch v s
  | .chctl die ch v => Sys2Proof.Machine.execChctl die ch v s
  | .channelDrained die ch => Sys2Proof.Machine.execChannelDrained die ch s
  | .grancmd die v => Sys2Proof.Machine.execGrancmd die v s
  | .granuleChangeDone die => Sys2Proof.Machine.execGranuleChangeDone die s
  | .repcmd die v => Sys2Proof.Machine.execRepcmd die v s
  | .rowRepairDone die => Sys2Proof.Machine.execRowRepairDone die s
  | .clsev die => Sys2Proof.Machine.execClsev die s
  | .pcerase die v => Sys2Proof.Machine.execPcerase die v s
  | .mbsend vf => Sys2Proof.Machine.execMbsend vf s
  | .submit vf v => Sys2Proof.Machine.execSubmit vf v s
  | .registerWrite blk reg v => Sys2Proof.Machine.execRegisterWrite blk reg v s
  | .supervisorLaunch x => Sys2Proof.Machine.execSupervisorLaunch x s
  | .privilegedLaunch part crec header => Sys2Proof.Machine.execPrivilegedLaunch part crec header s
  | .svcrun die v => Sys2Proof.Machine.execSvcrun die v s
  | .serviceTaskEnd die => Sys2Proof.Machine.execServiceTaskEnd die s
  | .deviceStart x => Sys2Proof.Machine.execDeviceStart x s
  | .bootok v => Sys2Proof.Machine.execBootok v s
  | .minver v => Sys2Proof.Machine.execMinver v s
  | .keyrev v => Sys2Proof.Machine.execKeyrev v s
  | .attestationRequest nonce => Sys2Proof.Machine.execAttestationRequest nonce s
  | .recoveryImage img => Sys2Proof.Machine.execRecoveryImage img s
  | .hostMemoryAccess part va x => Sys2Proof.Machine.execHostMemoryAccess part va x s
  | .powerLoss => Sys2Proof.Machine.execPowerLoss s
  | .serviceCoreReset die => Sys2Proof.Machine.execServiceCoreReset die s
  | .contractAccountExhausted part n cl => Sys2Proof.Machine.execContractAccountExhausted part n cl s
  | .postedStorePerform t k ecc => Sys2Proof.Machine.execPostedStorePerform t k ecc s

end Sys2Proof.Machine
end

