-- ==== Sys2Proof/Machine/Issue.lean ====
section
/-! DEFINITION. What a control instruction meets at issue before its own effect (08 R142; 21 R327, R332; 24 R361). -/

namespace Sys2Proof.Machine
open Sys2Proof

/-- What a form asks at issue (R134, R142, R278, R361); for an instruction that no control stream has, nothing. -/
def formOf : Instr → Form
  | .semset _ _ _ _ | .semadd _ _ _ _ | .semsub _ _ _ _ | .semrd _ _ | .fork _ | .xq _ _ _ _ | .ecfg _ _ _ _ | .enest _ _ _ _ _ | .rdv
  | .vqsend _ | .vqrecv _ | .claim _ | .release _ | .spawn _ _ _ | .spawnDown _ _ _ | .dspawn _ _ _ | .stopen _ _ _ | .stbind _ _ _
  | .stsrc _ _ _ | .strec _ _ _ | .stclose _ | .gopen _ _ _ | .gcommit _ _ | .gabort _ | .gstat _ _ | .stG _ | .boxsub _ _ _ _ _
  | .boxnew _ _ _ _ | .amoadd _ | .amoand _ | .amoor _ | .amoxor _ | .amomin _ | .amomax _ | .amominu _ | .amomaxu _ | .amoswap _
  | .amocas _ | .amofadd _ | .incw _ | .faddb _ | .redadd _ | .redand _ | .redor _ | .redxor _ | .redmin _ | .redmax _ | .redminu _
  | .redmaxu _ | .redfadd _ => taskForm
  | .waitAny _ _ _ | .waitAll _ _ _ => { transferForm with service := false }
  | .beq _ _ _ | .bne _ _ _ | .blt _ _ _ | .bge _ _ _ | .bltu _ _ _ | .bgeu _ _ _ | .jal _ _ | .jalr _ _ _ | .join | .yield | .endTask
  | .trap _ | .brk _ => transferForm
  | .tret | .tretEnd => { privForm 1 with transfer := true }
  | .mfsr _ _ | .mtsr _ _ | .ctxsave _ _ | .ctxload _ _ | .preempt _ _ | .qadmit _ _ | .qrelease _ | .qcancel _ | .tlbinv _ _ | .isend _ _
  | .halt => privForm 1
  | .partset _ _ _ | .corefence _ _ | .phyrd _ _ | .phywr _ _ => privForm 2
  | _ => plainForm

/-- What comes before the effect of a control instruction: a mismatch, where Belvedere compares its operation (R327); what its form asks
(R142); a poisoned operand (R327; log 17). -/
def Task.controlFlaw (x : Task) (i : Instr) (awaited : SReg → Bool) : Res Unit := do
  check (!(compared i && !x.agrees)) Flt.check
  (formOf i).checks x
  match consumes x i awaited with
  | some own => faultUe own
  | none => .ok ()

end Sys2Proof.Machine
end

