-- ==== Sys2Proof/Machine/Time.lean ====
section
/-! DEFINITION. The passage of time (19 R297, R299; 09 R163): the only step that advances the clock (log 2). -/

namespace Sys2Proof.Machine
open Sys2Proof

/-- Cycles that a task spends of its budget while it holds its control core: none at PL 1 or 2 (R271, R297), none on a
service core (R361). -/
def Task.charged (x : Task) : Bool :=
  x.r.core.isSome && (x.st == .running || x.st == .retiring) && x.ctl.pl == 0 && !x.service

/-- A slice spends some cycles on its core: its budget falls at PL 0 (R297), SUPCYC rises at PL 1 and 2 (R271). -/
def State.spend (s : State) (n : Nat) (p : Nat × Task) : State :=
  match p.2.r.core with
  | none => s
  | some c =>
    if !(p.2.st == .running || p.2.st == .retiring) then s
    else if 0 < p.2.ctl.pl then s.modCore c (fun k => { k with supcyc := k.supcyc + word n })
    else if p.2.charged && (s.core c).claim.isNone then s.setTask p.1 (p.2.mapRec (fun r => { r with budget := r.budget - n }))
    else s

/-- Every cycle that a contract's slice spends on a core draws on the contract's account there (R299). -/
def State.draw (s : State) (n : Nat) (x : Task) : State :=
  match if x.r.core.isSome && (x.st == .running || x.st == .retiring) then s.contractOf x else none with
  | some k =>
    if !k.clusters.contains x.r.cluster then s
    else
      let k := { k with accounts := SMap.put k.accounts x.r.cluster (SMap.get k.accounts x.r.cluster 0 - n) }
      { s with contracts := SMap.put s.contracts (contractKey (s.partOf x) x.r.contract) k }
  | none => s

/-- Cycles that may pass at once: to the last cycle of the tick, or over the end of it. -/
def cyclesTo (cycle n : Nat) : Nat := min n (if cycle % 16 = 15 then 1 else 15 - cycle % 16)

/-- What the clock has made due and no step has done yet: tasks that a tick's end lets go on (R185), the Sundial units' work (R105), the
timeouts of groups (R126), periodic releases (R292), accounts of contracts, spent or to be filled again (R299), and the scratchpad block that a
core keeps free (R303). It comes before the next cycle (log 2). -/
def State.clockHeld (s : State) : Bool :=
  s.waitsDue || (List.range 9).any s.sundialDue || s.groups.any (fun g => s.groupExpired g.1)
    || s.launches.any (fun l => s.releaseDue l.1 l.2) || s.contracts.any (fun k => k.2.owes || s.refillDue k.2) || s.blockDue

/-- Let cycles of the arithmetic clock pass: slice budgets and contract accounts fall, SUPCYC rises; at the end of a tick the waiting
tasks are looked at (R185). Writes of the device that waited are done as soon as they can be (R321, R323); what the clock has made due comes
first. -/
def State.elapse (s : State) (n : Nat) : State :=
  let s := s.flushHeld
  if s.clockHeld then s
  else
    let n := cyclesTo s.cycle n
    let spent := s.tasks.foldl (fun s p => (s.spend n p).draw n p.2) s
    let ended := if s.cycle % 16 == 15 && n != 0 then spent.latchWaits else spent
    { ended with cycle := s.cycle + n }

end Sys2Proof.Machine
end

