-- ==== Sys2Proof/Machine/VectorFlaws.lean ====
section
/-! DEFINITION. The vector-register words that a vector instruction consumes, which it meets before its other faults (21 R327, R335,
R337). -/

namespace Sys2Proof.Machine
open Sys2Proof

/-- Entries of the index list from register r on that some elements name, each with its register (R200). -/
def listReads (r : BitVec 9) (is : List Nat) : List (Nat × Nat × List Nat) := is.map (fun i => (r.toNat + i / 1024, 16, [i % 1024]))

/-- Elements that a permute takes, one for each active element (R212): of its second source or not, and the element. -/
def permuteTakes (x : Task) (w : VWord) (pick : Nat → Bool × Nat) : List (Nat × Nat × List Nat) :=
  ((x.vec.activeList w.k w.fmt).map pick).map (fun p => ((if p.1 then w.b else w.a).toNat, fmtWidth w.fmt, [p.2]))

/-- The registers whose elements an instruction reads, each with the width and the places of those elements. -/
def elementReads (x : Task) (i : Instr) : List (Nat × Nat × List Nat) :=
  let width (w : VWord) : Nat := fmtWidth w.fmt
  let on (w : VWord) : List Nat := x.vec.activeList w.k w.fmt
  let stored (w : VWord) : Nat × Nat × List Nat := (w.d.toNat, width w, x.vec.accessed w.k w.fmt)
  match i with
  | .vsll w | .vsrl w | .vsra w => (w.a.toNat, width w, on w) :: (if w.flg.getLsbD 0 then [] else [(w.b.toNat, width w, on w)])
  | .vsel w => [(w.a.toNat, width w, on w), (w.b.toNat, width w, (List.range (fmtElems w.fmt)).filter (fun i => !x.vec.active w.k i))]
  | .vperm w =>
    let entry (i : Nat) : Nat := (x.vec.reg (w.b.toNat + i / 1024)).elem 16 (i % 1024)
    listReads w.b (on w) ++ permuteTakes x w (fun i => (false, entry i))
  | .vslide w =>
    let k := (x.vec.scalar w.c.toNat).toNat
    permuteTakes x w (fun i => slidePick (fmtElems w.fmt) k i)
  | .vrot w => permuteTakes x w (fun i => (false, (i + (x.vec.scalar w.b.toNat).toNat) % fmtElems w.fmt))
  | .vzip w => permuteTakes x w (zipPick w)
  | .vunzip w => permuteTakes x w (unzipPick w)
  | .vbcastel w => permuteTakes x w (fun i => (false, (x.vec.scalar w.b.toNat).toNat + i / 2 ^ w.c.toNat))
  | .vpart w | .vcompress w => [(w.a.toNat, width w, on w)]
  | .vexpand w => [(w.a.toNat, width w, List.range (on w).length)]
  | .vcvt w =>
    let a := x.vec.reg w.a.toNat
    match convertSpan (fmtElems a.tag) (fmtElems w.fmt) w.c.toNat with
    | .ok (d0, s0, n) => [(w.a.toNat, fmtWidth a.tag, ((on w).filter (fun i => d0 ≤ i && i < d0 + n)).map (fun i => s0 + (i - d0)))]
    | .error _ => []
  | .vcvtb w =>
    let a := x.vec.reg w.a.toNat
    match convertSpan (fmtElems a.tag) (fmtElems w.fmt) w.c.toNat with
    | .ok (_, s0, n) => [(w.a.toNat, fmtWidth a.tag, (List.range n).map (fun i => s0 + i))]
    | .error _ => []
  | .vaccwr w => [(w.a.toNat, fmtWidth (x.vec.reg w.a.toNat).tag, x.vec.activeList w.k (x.vec.reg w.a.toNat).tag)]
  | .vst w => [stored w]
  | .vgather w => listReads w.c (x.vec.accessed w.k w.fmt)
  | .vscatter w => stored w :: listReads w.c (x.vec.accessed w.k w.fmt)
  | _ => match vectorWord i with
    | some w => (vectorSources i).map (fun r => (r.toNat, width w, on w))
    | none => []

/-- The words of a register that some elements lie in, and under a block tag those of their blocks' headers. -/
def VReg.wordsOf (r : VReg) (width : Nat) (is : List Nat) : List Nat :=
  is.flatMap (elemWords width) ++ (if fmtIsBlock r.tag then is.map r.scaleWord else [])

/-- Elements that an instruction reads hold an uncorrectable word, of the core's own storage or not. -/
def consumesElements (x : Task) (i : Instr) : Option Bool :=
  (elementReads x i).findSome? (fun q =>
    let r := x.vec.reg q.1
    if !r.bad.isEmpty && r.bad.any (fun b => (r.wordsOf q.2.1 q.2.2).contains b) then some r.own else none)

/-- What a vector instruction reads is uncorrectable: this comes before its other faults (R327; log 17). -/
def Task.vectorFlaw (x : Task) (i : Instr) : Res Unit :=
  if consumesStream x i then faultUe true
  else match consumesElements x i with
    | some own => faultUe own
    | none => .ok ()

end Sys2Proof.Machine
end

