-- ==== Sys2Proof/Machine/VectorQueues.lean ====
section
/-! DEFINITION. The three queues of the vector sequencer (11 R196, R197): which instruction may issue before an earlier one has. -/

namespace Sys2Proof.Machine
open Sys2Proof

/-- The queues of the sequencer. -/
inductive VQueue where
  | load
  | store
  | arith
  deriving DecidableEq, Repr

def queueOf : Instr → VQueue
  | .vld _ | .vgather _ | .vaccrd _ => .load
  | .vst _ | .vscatter _ | .vaccwr _ | .acczero _ => .store
  | _ => .arith

/-- The barriers (R196). -/
def isBarrier : Instr → Bool
  | .vsig _ | .vfset _ | .vpush _ | .vswait _ | .vfwait _ | .vpop _ | .vfence _ | .vend => true
  | _ => false

/-- An instruction that stays at the sequencer's pc until it issues: the barriers, the loops, which choose the next word, and those that
have no vector word. -/
def staysAtPc : Instr → Bool
  | .vloop _ | .vendl | .vnop => true
  | i => isBarrier i || (vectorWord i).isNone

/-- Names of what instructions depend on each other through: 0 to 511 the vector registers, from 512 the masks, from 528 the stream scalars,
from 560 the stream handles; and from 600 the tile entries, whose forms stay in order (log 5). -/
def maskName (k : Nat) : Nat := 512 + k
def scalarName (a : Nat) : Nat := 528 + a
def handleName (b : Nat) : Nat := 560 + b

/-- The names that an instruction writes; vendl writes the index register of its loop. -/
def writeNames (v : Vec) (i : Instr) : List Nat :=
  ((vectorUses i).map (fun u => 600 + u.1)) ++
  match i with
  | .vpart w => groupRegs w.d (w.c.toNat * listRegs w.fmt) ++ (List.range w.c.toNat).map (fun j => scalarName (w.b.toNat + j))
  | .vcompress w => [w.d.toNat, scalarName w.c.toNat]
  | .vcmp w | .kand w | .kor w | .kxor w | .kandn w | .knot w | .kmov w | .kmovPfx w => [maskName w.d.toNat]
  | .kpop w | .kfirst w | .aadd w | .asub w | .amul w | .ashl w | .amov w | .ali w | .vpop w => [scalarName w.d.toNat]
  | .vloop w => if w.flg.getLsbD 1 then [scalarName w.d.toNat] else []
  | .vendl => (v.loops.head?.bind (fun e => e.reg)).toList.map scalarName
  | .vst _ | .vscatter _ | .vaccwr _ | .acczero _ => []
  | _ => match vectorRegs i, vectorWord i with
    | _ :: _, some w => [w.d.toNat]
    | _, _ => []

/-- The names that it reads or writes. -/
def allNames (v : Vec) (i : Instr) : List Nat :=
  writeNames v i ++ vectorRegs i ++ (((vectorWord i).map (fun w => w.k.toNat)).toList ++ maskReads i).map maskName
    ++ (streamReads i).map scalarName ++ (boxReads i).map handleName

/-- The class of a form that accesses memory. -/
def memoryClass : Instr → Option (BitVec 4)
  | .vld w | .vst w | .vgather w | .vscatter w => some w.cls
  | _ => none

/-- An instruction may issue before an earlier one has, if it is no more than the slip depth after the oldest: other queue, no dependence,
another class (R85), and it writes no memory and no tile (R197). -/
def mayPass (v : Vec) (i earlier : Instr) : Bool :=
  !isBarrier i && queueOf i != queueOf earlier && queueOf i != .store && !(vectorUses i).any (fun u => u.2 == .drain)
    && !(writeNames v earlier).any (allNames v i).contains && !(writeNames v i).any (allNames v earlier).contains
    && !((memoryClass i).isSome && memoryClass i == memoryClass earlier)

/-- A vector instruction may issue (R196): no load in flight will write a register that it reads or writes; it may pass each earlier
instruction that has yet to issue; and it is no more than the slip depth after the oldest of them. -/
def Task.mayIssueAfter (x : Task) (i : Instr) (earlier : List Queued) (behind : Nat) : Bool :=
  x.pend.all (fun a => match a.vectorLoad with
    | some l => !(vectorRegs i).contains l.reg
    | none => true)
  && earlier.all (fun q => match decodeVector q.word with
    | .ok j => mayPass x.vec i j
    | .error _ => true)
  && (match earlier with
    | q :: _ => q.behind - behind ≤ x.vec.slip
    | [] => true)

/-- The instruction at the sequencer's pc may issue. -/
def Task.mayIssue (x : Task) (i : Instr) : Bool := x.mayIssueAfter i (x.vec.queued.map (fun q => { q with behind := q.behind + 1 })) 0

/-- Another instruction has come after those that wait. -/
def Vec.passed (v : Vec) : Vec := { v with queued := v.queued.map (fun q => { q with behind := q.behind + 1 }) }

/-- The instruction at pc goes into its queue. -/
def Vec.enqueue (v : Vec) (w : BitVec 64) : Vec :=
  { v.passed with queued := v.passed.queued ++ [{ word := w, pc := v.pc, opened := v.opened, behind := 0 }], pc := v.pc + 8, opened := false }

/-- The stream as a queued instruction issues in it. -/
def Vec.issuing (v : Vec) (q : Queued) : Vec := { v with pc := q.pc, opened := q.opened }

/-- The stream after its turn: it has issued, or waits on. -/
def Vec.after (v : Vec) (k : Nat) (q : Queued) (old : Vec) : Vec :=
  if !v.on then v
  else { v with pc := old.pc, opened := old.opened,
                queued := if v.pc == q.pc then v.queued.set k { q with opened := v.opened } else v.queued.eraseIdx k }

/-- Every earlier instruction completes before a fault is taken (R197): one that comes with earlier instructions yet to issue waits. -/
def State.faultsInOrder (s : State) (t : Nat) (x : Task) (earlier : List Queued) (o : Out) : Out :=
  match o with
  | .next s' => if !earlier.isEmpty && x.pendFault.isNone && (s'.task? t).any (fun y => y.pendFault.isSome) then .next s else o
  | _ => o

end Sys2Proof.Machine
end

