-- ==== Sys2Proof/Machine/Turns.lean ====
section
/-! DEFINITION. What each agent does in its turn (log 1): a control stream, a vector stream, an engine, the clock, or a device
step of its own. -/

namespace Sys2Proof.Machine
open Sys2Proof

/-- A child of a view spawn is created Runnable (R16). -/
def Task.fromView (x : Task) : Bool := match x.r.kind with | .child _ => !x.r.down | _ => false

/-- A task that took a core only for a trap of its inward copies goes back to where it was created once the trap is over (R313; log 42). -/
def State.backToCopying (s : State) (t : Nat) : State :=
  ((s.releaseCore t).modTask t (fun x => { x with
    st := if x.fromView then .runnable else .copyingIn, ctl := Ctl.empty, frame := [], r := { x.r with home := none, cregs := none } })).enqueue t true

/-- Belvedere follows a control stream's turn (R332). -/
def State.followed (t : Nat) (o : Out) : Out :=
  match o with
  | .next s => .next (s.modTask t Task.follow)
  | _ => o

/-- A turn that would hold more than 1,024 requests of its core in flight waits (R1). One that adds none goes on. -/
def State.admitted (s : State) (t : Nat) (o : Out) : Out :=
  match o with
  | .next s' => match s'.task? t with
    | some x => let c := coreOfTask x
      if s.requests c < s'.requests c && maxRequests < s'.requests c then .next s else o
    | none => o
  | _ => o

/-- A turn of a task's stream that uses some sections' storage units, each loaded from its slot first where it is still there (R304): it waits
for the slot's channels, for a unit that none is free for, and for a free request. -/
def State.using (s : State) (t : Nat) (sections : List Nat) (turn : State → Out) : Out :=
  match s.touch t sections with
  | none => .next s
  | some s' => s.admitted t (s.claimed t (turn s'))

/-- Those that wait in the sequencer's queues count the instruction that has completed after them. -/
def State.passed (t : Nat) (v : Vec) (o : Out) : Out :=
  match o with
  | .next s => match s.task? t with
    | some x => if (x.vec.pc = v.pc ∧ x.vec.loops = v.loops) ∨ x.vec.queued = [] then o else .next (s.setTask t { x with vec := x.vec.passed })
    | none => o
  | _ => o

/-- The sections of the storage units that a control instruction names: the tile entries of claim and release (R304). -/
def controlSections (x : Task) : Instr → List Nat
  | .claim a | .release a => (maskTiles (x.ctl.rd a)).map (fun i => if i < 40 then 24 + i else 4)
  | _ => []

/-- Those of a vector instruction: groups of 32 registers, and its tile. -/
def vectorSections (i : Instr) : List Nat := (vectorRegs i).map (fun r => 8 + r / 32) ++ (vectorUses i).map (fun u => 24 + u.1)

/-- Those of an engine's record: its tile entries and the codebook slots. -/
def recordSections (x : Task) (q : QRec) : List Nat :=
  match decodeRecord q.w with
  | .ok i => (q.uses x).map (fun u => if u.1 < 40 then 24 + u.1 else 4) ++ (if (allSlots i).isEmpty then [] else [6])
  | .error _ => []

/-- The turn of a control stream issues the next instruction. -/
def State.controlIssue (s : State) (t : Nat) (x : Task) : Out :=
  match s.fetch x with
  | .ok i => match x.controlFlaw i (awaited x) with
    | .ok _ => State.followed t (s.using t (controlSections x i) (fun s => exec i { s.settleLink t x with cur := t }))
    | .error e => s.deliver t x (.error e)
  | .error e => s.deliver t x (.error e)

/-- A turn in the cycle of a pre-emption request goes first (R307): its instruction ends the task, or takes a fault. -/
def State.goesFirst (s : State) (t : Nat) (x : Task) : Bool :=
  match s.task? t with
  | none => true
  | some y => (y.ctl.act && !x.ctl.act) || y.r.dead || y.r.ending || y.st == .copyingIn

/-- A pre-emption request at a boundary. One raised in this cycle leaves an END or a fault of the cycle's instruction first, once (R307). -/
def State.requestTurn (s : State) (t : Nat) (x : Task) (core : Nat) : Out :=
  if x.st == .running && (s.core core).asked == some s.cycle then
    match s.controlIssue t x with
    | .next s' => if s'.goesFirst t x then .next (s'.modCore core (fun k => { k with asked := none })) else s.preempt core
    | _ => s.preempt core
  else s.preempt core

/-- The turn of a control stream: what the boundary takes, or the next instruction. -/
def controlStep (s : State) (t : Nat) : Out :=
  match s.task? t with
  | none => .next s
  | some x =>
    if !controlRuns s x then .next s
    else if !x.placed && !x.ctl.act && x.pendFault.isNone then .next (s.backToCopying t)
    else match s.boundary x with
      | .faultDelivery => execFaultDelivery t s
      | .budget => execSliceBudgetExhausted t s
      | .preemption c => s.requestTurn t x c
      | .interrupt c => execInterruptEntry c s
      | .halted => .next s
      | .issue => s.controlIssue t x

/-- A vector instruction issues: what it reads is sound (R327), a tile form starts on its entry and completes in a later turn (R53, R54). -/
def State.vectorIssue (s : State) (t : Nat) (x : Task) (i : Instr) : Out :=
  match x.vectorFlaw i with
  | .error e => s.deliverStream t x .vector (.error e)
  | .ok _ =>
    let us := vectorUses i
    if !us.isEmpty && !x.vec.opened then s.using t (vectorSections i) (fun s => match s.task? t with
      | some x => s.startTileForm t x us
      | none => .next s)
    else if x.endInOrder s.cycle us then
      s.using t (vectorSections i) (fun s => exec i { s with cur := t })
    else .next s

/-- The turn of a vector stream: the instruction at its pc. -/
def vectorStep (s : State) (t : Nat) : Out :=
  match s.task? t with
  | none => .next s
  | some x =>
    if !(x.vec.on && streamRuns x .vector) then .next s
    else match s.fetchVector x with
      | .ok i => if !x.mayIssue i then .next s else State.passed t x.vec (s.faultsInOrder t x x.vec.queued (s.vectorIssue t x i))
      | .error e => s.faultsInOrder t x x.vec.queued (s.deliverStream t x .vector (.error e))

/-- The sequencer decodes the instruction at its pc into a queue (R196). -/
def decodeStep (s : State) (t : Nat) : Out :=
  match s.task? t with
  | none => .next s
  | some x =>
    if !(x.vec.on && streamRuns x .vector) then .next s
    else match s.codeNat x.own x.vec.pc 8 with
      | .ok w => match decodeVector (BitVec.ofNat 64 w) with
        | .ok i => if staysAtPc i then .next s else .next (s.setTask t { x with vec := x.vec.enqueue (BitVec.ofNat 64 w) })
        | .error _ => .next s
      | .error _ => .next s

/-- A queued instruction may issue in its turn (R196). -/
def queuedStep (s : State) (t k : Nat) : Out :=
  match s.task? t with
  | none => .next s
  | some x =>
    if !(x.vec.on && streamRuns x .vector) then .next s
    else match x.vec.queued[k]? with
      | none => .next s
      | some q => match decodeVector q.word with
        | .error _ => .next s
        | .ok i =>
          let earlier := x.vec.queued.take k
          if !x.mayIssueAfter i earlier q.behind then .next s
          else
            let y := { x with vec := x.vec.issuing q }
            let v := s.setTask t y
            match v.faultsInOrder t x earlier (v.vectorIssue t y i) with
            | .next s' => .next (s'.modTask t (fun z => { z with vec := z.vec.after k q x.vec }))
            | o => o

/-- The sections that an engine's next record uses. -/
def Task.workOn (x : Task) (e : Engine) : List Nat :=
  match activeRecord e (x.eng e).queue with
  | some (_, q) => recordSections x q
  | none => []

/-- The turn of an engine. -/
def engineStep (s : State) (t : Nat) (e : Engine) : Out :=
  match s.task? t with
  | none => .next s
  | some x =>
    if !streamRuns x (streamOf e) then .next s
    else match engineTurn x e with
      | .idle => .next s
      | .start => s.using t (x.workOn e) (fun s => execRecordStart t e s)
      | .pass i =>
        if x.passClosed e then s.using t (x.workOn e) (fun s => match s.task? t with
          | some x => s.startPass t x e
          | none => .next s)
        else if x.passMayEnd e s.cycle then s.using t (x.workOn e) (fun s => exec i { s with cur := t })
        else .next s
      | .complete => execRecordComplete t e s

/-- An agent acts. An instruction that has a word is no device step. -/
def act (s : State) : Pick → Out
  | .control t => controlStep s t
  | .vector t => vectorStep s t
  | .decode t => decodeStep s t
  | .queued t k => queuedStep s t k
  | .engine t e => engineStep s t e
  | .elapse n => .next (s.elapse n)
  | .ecc a e => .next (if isDram a then s.noteEcc e a else s)
  | .orangery die k e => .next (s.noteStaged die k e)
  | .event i => if isEvent i then exec i s else .next s

/-- The agent that acts next, and the state that has taken its turn off the agenda (log 1). -/
def State.nextTurn (s : State) : Pick × State :=
  match s.agenda with
  | p :: r => (p, { s with agenda := r })
  | [] => (Config.nextPick s.turns, { s with turns := s.turns + 1 })

end Sys2Proof.Machine
end

