-- ==== Sys2Proof/Machine/Placement.lean ====
section
/-! DEFINITION. How the host places one instruction (log 1): task 0 of launch 0 holds core 0; its code image is 64 bytes at
virtual address 0, which the core's translation cache maps to frame 0 of stack 0, whose channel is online. A control or
vector word stands in the image; a record is the started one of its engine. Launch 1 is the supervisor of the task's
partition. -/

namespace Sys2Proof.Machine
open Sys2Proof

/-- Where the instruction stands: in the image as a control word or a vector word, or as a record in an engine. -/
inductive Place where
  | control
  | vector
  | engine (e : Engine)
  deriving DecidableEq, Repr

/-- The place of an instruction of the table (R128, R135, R138). -/
def placeOf (nbits w : Nat) : Place :=
  if nbits ≤ 32 || (nbits ≤ 64 && isWide (BitVec.ofNat 32 w)) then .control
  else if nbits ≤ 64 then .vector
  else match decodeRecord (BitVec.ofNat 512 w) with
    | .ok (.mmul _) => .engine .matrix
    | _ => .engine .copy

/-- The launch of the placed image: 64 bytes of code at address 0, one device. -/
def placedLaunch (supervisor : Bool) : Launch :=
  { hdr := BitVec.ofNat 1024 (2 ^ 64 * 64), part := 0, clusters := [0], regions := [], crec := none, supervisor := supervisor,
    service := none, live := true, closing := false, start := 0, releases := 0, skipped := 0, fatal := 0, fatalWid := 0,
    fatalStatus := 0 }

/-- The placed record: started, one pass. -/
def placedRecord (w : Nat) : QRec :=
  { num := 1, off := none, w := BitVec.ofNat 512 w, hs := [], cfg := [], n5 := Nest.one, n6 := Nest.one, progEnd := true, xq := true,
    started := true, trips := [1, 1, 1, 1, 1, 1], pass := 0, cursor := 0, named := [], opened := true, moved := [] }

/-- A vector word of an accumulator form: it stands as one whose tile operation has started. -/
def tileForm (w : BitVec 64) : Bool :=
  match decodeVector w with
  | .ok i => !(vectorUses i).isEmpty
  | .error _ => false

/-- The placed task: a root task of launch 0 that runs on core 0 at the lowest privilege level that may issue the word. -/
def placedTask (p : Place) (w : Nat) : Task :=
  let r := { Rec.empty with budget := 1, core := some 0, home := some 0 }
  let x := { Task.empty with st := .running, r := r }
  match p with
  | .control => x.mapCtl (fun c => { c with pl := privilegeOf (BitVec.ofNat 32 w) })
  | .vector => { x with vec := { Vec.empty with on := true, issued := 1, opened := tileForm (BitVec.ofNat 64 w) } }
  | .engine e => x.setEng e { Eng.empty with issued := 1, queue := [placedRecord w] }

/-- The pick of a place. -/
def Place.pick : Place → Pick
  | .control => .control 0
  | .vector => .vector 0
  | .engine e => .engine 0 e

/-- The translation of the image's page: frame 0, readable, granule G64. -/
def placedPage : TlbEntry :=
  { core := 0, part := 0, page := 0, size := 65536, leaf := 1 + 2 ^ 1 + 2 ^ 2 + 2 ^ 4 }

/-- The state with an instruction placed. -/
def State.placeWord (s : State) (nbits w : Nat) : State :=
  let v := w % 2 ^ nbits
  let p := placeOf nbits v
  let k := s.stack 0
  let s := s.setStack 0
    { k with frames := SMap.put k.frames 0 { gran := 1, owner := 0 },
             chans := SMap.put k.chans 0 { Chan.reset with offline := false, drained := false },
             pcerase := k.pcerase &&& ~~~1 }
  let s := s.setCore 0 { Core.reset with task := some 0 }
  let s := s.setCluster 0 { s.cluster 0 with cpart := 0 }
  let s := (s.setLaunch 0 (placedLaunch false)).setLaunch 1 (placedLaunch true)
  let s := s.setTask 0 (placedTask p v)
  { s with
    mem := Memory.write s.mem 0 (natToBytes 64 v),
    poison := s.poison.filter (fun q => 8 ≤ q),
    svLaunches := SMap.put s.svLaunches 0 { launch := 1, frames := [], l1 := 0, part := some 0 },
    parts := SMap.put s.parts 0 { units := 1, svlaunch := 0, qos := 0, vf := 1, msix := 0, l1 := 0, resetting := false },
    tlb := placedPage :: s.tlb.filter (fun e => !(e.core == 0 && e.part == 0)),
    agenda := p.pick :: s.agenda }

end Sys2Proof.Machine
end

