-- ==== Sys2Proof/Machine/Step.lean ====
section
/-! DEFINITION. One step of the machine, and how the host places an instruction (log 1). -/

namespace Sys2Proof.Machine
open Sys2Proof

/-- One step: the agent that the agenda names acts, or, past its end, one that nothing fixes (log 1). -/
def step (s : State) : Host.Outcome State Fault Refusal := act s.nextTurn.2 s.nextTurn.1

/-- The state in which the next step runs the instruction whose bits the opcode table numbers (log 1). -/
def State.withFetchWord (s : State) (nbits w : Nat) : State := s.placeWord nbits w

end Sys2Proof.Machine
end

