-- ==== Sys2Proof/Safety.lean ====
section
/-! DEFINITION. What a safe run is, in the terms the statements use: no stop and no refusal, and the canonical form of
memory kept; and the words in which the statements speak of the acting task, its operands and its completion. -/

namespace Sys2Proof.Machine
open Sys2Proof

/-- The memories of a state are in their canonical form. -/
abbrev State.memOk (s : State) : Prop := Memory.wf s.mem = true ∧ Memory.wf s.dirty = true

/-- A step that completes. -/
def Completes (s : State) : Prop := ∃ s', step s = .next s'

/-- So many steps complete, and memory keeps its form. -/
def SafeRun : Nat → State → Prop
  | 0, s => s.memOk
  | n + 1, s => s.memOk ∧ ∃ s', step s = .next s' ∧ SafeRun n s'

/-! ### The acting task -/

/-- Task x is the one whose stream acts. -/
abbrev Acts (s : State) (x : Task) : Prop := s.task? s.cur = some x

/-- A scalar register that an instruction may read now: no load in flight will write it (R145), and its value is not poisoned
(R337). -/
abbrev Ready (x : Task) (r : SReg) : Prop := awaited x r = false ∧ (r = 0 ∨ x.ctl.bad.contains r.toNat = false)

/-- A scalar register that an instruction may write now (R145). -/
abbrev Free (x : Task) (r : SReg) : Prop := awaited x r = false

/-- The control instruction completes: the acting task is y, past an instruction of so many bytes; nothing else changes. -/
def State.completes (s : State) (y : Task) (len : Nat) : Out := .next (s.setTask s.cur (y.retire len))

/-- The same with a state that the effect has changed as well. -/
def State.completesFrom (s s' : State) (y : Task) (len : Nat) : Out := .next (s'.setTask s.cur (y.retire len))

/-- The vector instruction completes: the context of the acting task's stream is v, past one word; nothing else changes. -/
def State.vecCompletes (s : State) (x : Task) (v : Vec) : Out := .next (s.setTask s.cur { x with vec := { v with pc := v.pc + 8 } })

/-- The order of two words as signed numbers, and 1 or 0 for a condition. -/
def bit (p : Prop) [Decidable p] : Word := if p then 1 else 0

/-- The one bits of a word. -/
def onesOf (p : Word) : Nat := ((List.range 64).filter (fun i => p.getLsbD i)).length

/-! ### The pass of a record -/

/-- Record q, the i-th of its queue, is the one that an engine of the acting task works on; it has started and no write of its
earlier passes is in flight (R231, R232). -/
abbrev Works (s : State) (x : Task) (e : Engine) (i : Nat) (q : QRec) : Prop :=
  Acts s x ∧ activeRecord e (x.eng e).queue = some (i, q) ∧ q.started = true ∧ recordWrites x e q = false

/-- The turn of an engine ends in a state of the machine, with record i of its queue as given; its next pass has yet to start. -/
def State.turnEnds (s s' : State) (e : Engine) (i : Nat) (q : QRec) : Out :=
  .next (s'.modTask s.cur (fun y => y.setEng e { y.eng e with queue := (y.eng e).queue.set i { q with opened := false } }))

/-- The turn of an engine ends in a fault: the first one moves the tile entries of its record back and waits for the control
stream (R55, R261, R272). -/
def State.turnFaults (s : State) (x : Task) (e : Engine) (code : Nat) : Out :=
  let p := if x.pendFault.isSome then (s, x) else s.backOut x e
  p.1.deliverStream s.cur p.2 (streamOf e) (.error (.flt code 0))

/-- The task as the accumulator form at its stream's pc sees it: the form's own start is not yet on the tile (R53). -/
def Task.beforeForm (x : Task) (i : Instr) : Task := if x.vec.opened then x.undoUses (vectorUses i) else x

/-- The accumulator form ends: the acting task is y with the stream's context v, past one word. -/
def State.formEnds (s : State) (y : Task) (v : Vec) : Out := .next (s.setTask s.cur { y with vec := { v with pc := v.pc + 8, opened := false } })

/-- A window of a box operand read: its region and handle, and its data. -/
abbrev Reads (s : State) (x : Task) (q : QRec) (r : RecWord) (w : Nat → Nat) (g : Region) (h : Handle) (d : Data) : Prop :=
  s.boxWindow x q r 0 q.pass w = .ok (g, h) ∧ s.readWindow x g h = .ok d

/-- A window of operand 1 written with elements and headers: the writes that this takes, by single-copy atomic parts. -/
def Writes (s : State) (x : Task) (q : QRec) (r : RecWord) (w : Nat → Nat) (vals hdrs : List Nat) (ws : List (List ByteWrite)) : Prop :=
  ∃ (g : Region) (h : Handle), s.boxWindow x q r 1 q.pass w = .ok (g, h) ∧ s.writeWindow x g h vals hdrs = .ok ws

/-! ### Operands of a vector instruction -/

/-- A vector register that an instruction of a format reads whole: its tag is the format and no word of it is poisoned (R58, R198,
R337). -/
abbrev Sourced (x : Task) (r : BitVec 9) (f : Fmt) : Prop :=
  f ≠ Fm.none ∧ (x.vec.reg r.toNat).tag = f ∧ (x.vec.reg r.toNat).bad = []

/-- Element i of a vector register as an element of the word's format. -/
def lane (x : Task) (w : VWord) (r : BitVec 9) (i : Nat) : Nat := (x.vec.reg r.toNat).elem (fmtWidth w.fmt) i

/-- The vector instruction completes, and v[D] receives these values at the active elements by the merge rule. -/
def State.lanes (s : State) (x : Task) (w : VWord) (val : Nat → Nat) : Out :=
  s.vecCompletes x (x.vec.merge w.d.toNat w.fmt (x.vec.onActive w.k w.fmt val))

end Sys2Proof.Machine
end

