-- ==== Sys2Proof/Certificates/Slice0/Obligations.lean ====
section
/-! DEFINITION. The statements for the provers, from the numbered rules of the spec. -/

open Sys2Proof Sys2Proof.Machine

/-! ### Integer forms of the control stream -/

/-- R148, Table 9.2: the eighteen forms of major 0x01 have these words, and complete with these values, whatever state and operands;
nothing but s[D], the pc and the loop stack changes. clz and popc with a B field, and an FN that the table does not give, are
FLT_ILLEGAL. -/
def Obligations.IntegerAlu : Prop :=
  ∀ (s : State) (x : Task) (d a b : SReg), Acts s x → Ready x a → Free x d →
    let p := x.ctl.rd a
    let q := x.ctl.rd b
    let n := q.toNat % 64
    let gives (i : Instr) (v : Word) : Prop := exec i s = s.completes (x.wr d v) 4
    (Ready x b →
      gives (.add d a b) (BitVec.ofNat 64 (p.toNat + q.toNat)) ∧
      gives (.sub d a b) (BitVec.ofInt 64 (p.toInt - q.toInt)) ∧
      gives (.and d a b) (p &&& q) ∧
      gives (.or d a b) (p ||| q) ∧
      gives (.xor d a b) (p ^^^ q) ∧
      gives (.andn d a b) (p &&& ~~~q) ∧
      gives (.sll d a b) (BitVec.ofNat 64 (p.toNat * 2 ^ n)) ∧
      gives (.srl d a b) (BitVec.ofNat 64 (p.toNat / 2 ^ n)) ∧
      gives (.sra d a b) (BitVec.ofInt 64 (p.toInt / 2 ^ n)) ∧
      gives (.rotl d a b) (p <<< n ||| p >>> (64 - n)) ∧
      gives (.slt d a b) (bit (p.toInt < q.toInt)) ∧
      gives (.sltu d a b) (bit (p.toNat < q.toNat)) ∧
      gives (.min d a b) (if p.toInt ≤ q.toInt then p else q) ∧
      gives (.max d a b) (if p.toInt ≤ q.toInt then q else p) ∧
      gives (.minu d a b) (if p.toNat ≤ q.toNat then p else q) ∧
      gives (.maxu d a b) (if p.toNat ≤ q.toNat then q else p)) ∧
    gives (.clz d a) (BitVec.ofNat 64 (if p = 0 then 64 else 63 - Nat.log2 p.toNat)) ∧
    gives (.popc d a) (BitVec.ofNat 64 (onesOf p)) ∧
    ∀ ext : BitVec 32,
      let coded (b : SReg) (fn : BitVec 8) : Res Instr := controlInstr x.ctl.pl ((0x01 : BitVec 6) ++ d ++ a ++ b ++ fn) ext
      coded b 0x00 = .ok (.add d a b) ∧ coded b 0x01 = .ok (.sub d a b) ∧ coded b 0x02 = .ok (.and d a b) ∧
      coded b 0x03 = .ok (.or d a b) ∧ coded b 0x04 = .ok (.xor d a b) ∧ coded b 0x05 = .ok (.andn d a b) ∧
      coded b 0x06 = .ok (.sll d a b) ∧ coded b 0x07 = .ok (.srl d a b) ∧ coded b 0x08 = .ok (.sra d a b) ∧
      coded b 0x09 = .ok (.rotl d a b) ∧ coded b 0x0A = .ok (.slt d a b) ∧ coded b 0x0B = .ok (.sltu d a b) ∧
      coded b 0x0C = .ok (.min d a b) ∧ coded b 0x0D = .ok (.max d a b) ∧ coded b 0x0E = .ok (.minu d a b) ∧
      coded b 0x0F = .ok (.maxu d a b) ∧ coded 0 0x10 = .ok (.clz d a) ∧ coded 0 0x11 = .ok (.popc d a) ∧
      (b ≠ 0 → coded b 0x10 = .error (.flt Flt.illegal 0) ∧ coded b 0x11 = .error (.flt Flt.illegal 0)) ∧
      ∀ fn : BitVec 8, 0x12 ≤ fn.toNat → coded b fn = .error (.flt Flt.illegal 0)

/-- R149, Table 8.3: the eight forms of major 0x02 have these words and complete with these values; quotients are truncated toward
zero, and no form traps. -/
def Obligations.MultiplyDivide : Prop :=
  ∀ (s : State) (x : Task) (d a b : SReg), Acts s x → Ready x a → Ready x b → Free x d →
    let p := x.ctl.rd a
    let q := x.ctl.rd b
    let gives (i : Instr) (v : Word) : Prop := exec i s = s.completes (x.wr d v) 4
    gives (.mul d a b) (BitVec.ofNat 64 (p.toNat * q.toNat)) ∧
    gives (.mulh d a b) (BitVec.ofInt 64 (p.toInt * q.toInt / 2 ^ 64)) ∧
    gives (.mulhu d a b) (BitVec.ofNat 64 (p.toNat * q.toNat / 2 ^ 64)) ∧
    gives (.mulhsu d a b) (BitVec.ofInt 64 (p.toInt * q.toNat / 2 ^ 64)) ∧
    gives (.div d a b) (if q = 0 then BitVec.allOnes 64 else BitVec.ofInt 64 (p.toInt.tdiv q.toInt)) ∧
    gives (.divu d a b) (if q = 0 then BitVec.allOnes 64 else BitVec.ofNat 64 (p.toNat / q.toNat)) ∧
    gives (.rem d a b) (if q = 0 then p else BitVec.ofInt 64 (p.toInt - p.toInt.tdiv q.toInt * q.toInt)) ∧
    gives (.remu d a b) (if q = 0 then p else BitVec.ofNat 64 (p.toNat % q.toNat)) ∧
    ∀ ext : BitVec 32,
      let coded (fn : BitVec 8) : Res Instr := controlInstr x.ctl.pl ((0x02 : BitVec 6) ++ d ++ a ++ b ++ fn) ext
      coded 0x00 = .ok (.mul d a b) ∧ coded 0x01 = .ok (.mulh d a b) ∧ coded 0x02 = .ok (.mulhu d a b) ∧ coded 0x03 = .ok (.mulhsu d a b) ∧
      coded 0x04 = .ok (.div d a b) ∧ coded 0x05 = .ok (.divu d a b) ∧ coded 0x06 = .ok (.rem d a b) ∧ coded 0x07 = .ok (.remu d a b) ∧
      ∀ fn : BitVec 8, 0x08 ≤ fn.toNat → coded fn = .error (.flt Flt.illegal 0)

/-- R150, R151, R152: the immediate forms, the immediate shifts and the wide immediates have these words and complete with these
values. lih reads the low half before it writes s[D]. A field that must be zero and is not is FLT_ILLEGAL. -/
def Obligations.Immediates : Prop :=
  ∀ (s : State) (x : Task) (d a : SReg) (imm : BitVec 14) (n : BitVec 6) (ext : BitVec 32), Acts s x → Free x d →
    let p := x.ctl.rd a
    let gives (i : Instr) (v : Word) (len : Nat) : Prop := exec i s = s.completes (x.wr d v) len
    (Ready x a →
      gives (.addi d a imm) (BitVec.ofInt 64 (p.toInt + imm.toInt)) 4 ∧
      gives (.andi d a imm) (p &&& BitVec.ofInt 64 imm.toInt) 4 ∧
      gives (.ori d a imm) (p ||| BitVec.ofInt 64 imm.toInt) 4 ∧
      gives (.xori d a imm) (p ^^^ BitVec.ofInt 64 imm.toInt) 4 ∧
      gives (.slti d a imm) (bit (p.toInt < imm.toInt)) 4 ∧
      gives (.sltiu d a imm) (bit (p.toNat < (BitVec.ofInt 64 imm.toInt).toNat)) 4 ∧
      gives (.slli d a n) (BitVec.ofNat 64 (p.toNat * 2 ^ n.toNat)) 4 ∧
      gives (.srli d a n) (BitVec.ofNat 64 (p.toNat / 2 ^ n.toNat)) 4 ∧
      gives (.srai d a n) (BitVec.ofInt 64 (p.toInt / 2 ^ n.toNat)) 4 ∧
      gives (.rotli d a n) (p <<< n.toNat ||| p >>> (64 - n.toNat)) 4 ∧
      gives (.lih d a ext) (BitVec.ofNat 64 (ext.toNat * 2 ^ 32 + p.toNat % 2 ^ 32)) 8) ∧
    gives (.li d ext) (BitVec.ofInt 64 ext.toInt) 8 ∧
    gives (.liu d ext) (BitVec.ofNat 64 ext.toNat) 8 ∧
    (let coded (maj : BitVec 6) (low : BitVec 14) : Res Instr := controlInstr x.ctl.pl (maj ++ d ++ a ++ low) ext
     coded 0x03 imm = .ok (.addi d a imm) ∧ coded 0x04 imm = .ok (.andi d a imm) ∧ coded 0x05 imm = .ok (.ori d a imm) ∧
     coded 0x06 imm = .ok (.xori d a imm) ∧ coded 0x07 imm = .ok (.slti d a imm) ∧ coded 0x08 imm = .ok (.sltiu d a imm) ∧
     ∀ z : BitVec 6,
      let shifts (form : BitVec 2) (i : Instr) : Prop :=
        coded 0x09 (form ++ z ++ n) = if z = 0 then .ok i else .error (.flt Flt.illegal 0)
      shifts 0 (.slli d a n) ∧ shifts 1 (.srli d a n) ∧ shifts 2 (.srai d a n) ∧ shifts 3 (.rotli d a n)) ∧
    ∀ f8 : BitVec 8,
      let coded (wop : BitVec 6) : Res Instr := controlInstr x.ctl.pl ((0x3E : BitVec 6) ++ wop ++ d ++ a ++ f8) ext
      coded 0x00 = (if a = 0 ∧ f8 = 0 then .ok (.li d ext) else .error (.flt Flt.illegal 0)) ∧
      coded 0x01 = (if a = 0 ∧ f8 = 0 then .ok (.liu d ext) else .error (.flt Flt.illegal 0)) ∧
      coded 0x02 = (if f8 = 0 then .ok (.lih d a ext) else .error (.flt Flt.illegal 0))

/-- R153 with R133 and R142: a branch outside a delay slot is taken when its condition holds, and then the next word is its
slot and the target comes after it; otherwise it completes in sequence. Nothing but the pc, the pending target and the loop
stack changes.
R154 with R133: jal and jalr write the link at once and go on to their slot; the link is the address of the first instruction
after the slot. jalr reads s[A] before it writes s[D]; a target that is no multiple of 4 ends the task with FLT_ILLEGAL unless
TDELEG selects it, with the link unwritten. -/
def Obligations.BranchesAndJumps : Prop :=
  (∀ (s : State) (x : Task) (a b : SReg) (off : BitVec 14), Acts s x → x.ctl.delay = none → Ready x a → Ready x b →
     let p := x.ctl.rd a
     let q := x.ctl.rd b
     let target := (BitVec.ofInt 64 (x.ctl.pc + 4 * off.toInt)).toNat
     let taken : Task := { x with ctl := { x.ctl with pc := x.ctl.pc + 4, delay := some { branch := x.ctl.pc, target := target, link := none } } }
     let goes (i : Instr) (c : Prop) : Prop :=
       (c → exec i s = .next (s.setTask s.cur taken)) ∧ (¬ c → exec i s = s.completes x 4)
     goes (.beq a b off) (p = q) ∧
     goes (.bne a b off) (p ≠ q) ∧
     goes (.blt a b off) (p.toInt < q.toInt) ∧
     goes (.bge a b off) (q.toInt ≤ p.toInt) ∧
     goes (.bltu a b off) (p.toNat < q.toNat) ∧
     goes (.bgeu a b off) (q.toNat ≤ p.toNat)) ∧
  (∀ (s : State) (x : Task) (d a : SReg) (off : BitVec 20) (imm : BitVec 14), Acts s x → x.ctl.delay = none → Free x d →
     let link := BitVec.ofNat 64 (x.ctl.pc + 4 + s.lengthAt x (x.ctl.pc + 4))
     let after (target : Nat) : Task :=
       { x with ctl := { x.ctl with
           pc := x.ctl.pc + 4,
           delay := some { branch := x.ctl.pc, target := target, link := some (d, x.ctl.rd d) } }.wr d link }
     exec (.jal d off) s = .next (s.setTask s.cur (after (BitVec.ofInt 64 (x.ctl.pc + 4 * off.toInt)).toNat)) ∧
     (Ready x a →
       let target := BitVec.ofInt 64 ((x.ctl.rd a).toInt + 4 * imm.toInt)
       (target.toNat % 4 = 0 → exec (.jalr d a imm) s = .next (s.setTask s.cur (after target.toNat))) ∧
       (target.toNat % 4 ≠ 0 → exec (.jalr d a imm) s = s.raise s.cur x Flt.illegal 0)))

/-- R155, R156: loop outside a delay slot pushes its entry and starts the body with s[B] = 0, or skips the body of a zero count: it goes
on after the instruction at the body's last word, which is two words long if that word is a C-W one's first;
the rest of its body has to lie inside the enclosing one.
R133, R155: how an instruction completes. A slot's goes to its branch's target. Any other one goes to the next word,
unless the innermost loop ends at it: then the body starts again with its index in s[B] while passes are left, and otherwise
the entry is popped and the enclosing loop is tested at the same word. Sequential flow out of a body discards its entry. -/
def Obligations.LoopsAndCompletion : Prop :=
  (∀ (s : State) (x : Task) (a b : SReg) (off : BitVec 14), Acts s x → x.ctl.delay = none → 0 < off.toInt → Ready x a → Free x b →
     let stop := x.ctl.pc + 4 * off.toNat
     let n := x.ctl.rd a
     (x.ctl.loops.length < 4 → (∀ e ∈ x.ctl.loops.head?, stop ≤ e.stop) →
       (n ≠ 0 → exec (.loop a b off) s = s.completes
         { x with ctl := { x.ctl.wr b 0 with
             loops := { start := x.ctl.pc + 4, stop := stop, left := n.toNat - 1, index := 0, reg := b } :: x.ctl.loops } } 4) ∧
       (n = 0 →
         let skips (a : Nat) : Out := .next (s.setTask s.cur (x.mapCtl (fun c => c.goTo a)))
         (∀ w : BitVec 32, s.peek x stop = some w → exec (.loop a b off) s = skips (stop + if isWide w then 8 else 4)) ∧
         (∀ v : Word, s.peek x stop = none → s.codeNat x stop 4 = .error (.flt Flt.bounds v) → exec (.loop a b off) s = skips (stop + 4)))) ∧
     (4 ≤ x.ctl.loops.length → exec (.loop a b off) s = s.raise s.cur x Flt.capacity 0)) ∧
  (∀ (c : Ctl) (n : Nat),
     (∀ w : Delay, c.delay = some w → (c.retire n).pc = w.target ∧ (c.retire n).delay = none ∧ (c.retire n).s = c.s) ∧
     (c.delay = none → c.loops = [] → c.retire n = { c with pc := c.pc + n }) ∧
     (∀ (e : LoopEntry) (r : List LoopEntry), c.delay = none → c.loops = e :: r →
       ((∀ f ∈ c.loops, f.stop ≠ c.pc) → c.retire n = { c with pc := c.pc + n, loops := keepLoops (c.pc + n) c.loops }) ∧
       (e.stop ≠ c.pc → (∃ f ∈ r, f.stop = c.pc) → c.retire n = { c with loops := r }.retire n) ∧
       (e.stop = c.pc → 0 < e.left →
         c.retire n = { c with pc := e.start, loops := { e with left := e.left - 1, index := e.index + 1 } :: r }.wr e.reg
           (BitVec.ofNat 64 (e.index + 1))) ∧
       (e.stop = c.pc → e.left = 0 → c.retire n = { c with loops := r }.retire n)))

/-- R158, R271: the frame forms complete with the eight or 32 bytes at the address, little-endian, for an aligned address in
the frame: at PL 0 the task's own, of FSIZE + 1 blocks of 4 KiB, at PL 1 and 2 the core's supervisor frame of 4 KiB. A load from a poisoned
word of the frame poisons its register (R336, R337), and a store clears the poison of the words that it covers. -/
def Obligations.FrameAccesses : Prop :=
  ∀ (s : State) (x : Task) (d a : SReg) (h : HReg) (off : BitVec 11), Acts s x → Ready x a →
    let fa := (BitVec.ofInt 64 ((x.ctl.rd a).toInt + 8 * off.toInt)).toNat
    let size := if x.ctl.pl = 0 then (x.r.fsize + 1) * 4096 else 4096
    let frame := if x.ctl.pl = 0 then x.frame else (s.core (coreOfTask x)).sframe
    let stored (n v : Nat) : Out :=
      let keeps (bad : List Nat) : List Nat := bad.filter (fun w => !(fa ≤ 8 * w && 8 * w + 8 ≤ fa + n))
      if x.ctl.pl = 0 then s.completes { x with frame := Memory.write x.frame fa (natToBytes n v), frameBad := keeps x.frameBad } 4
      else s.completesFrom
        (s.setCore (coreOfTask x) { s.core (coreOfTask x) with
          sframe := Memory.write (s.core (coreOfTask x)).sframe fa (natToBytes n v), sframeBad := keeps (s.core (coreOfTask x)).sframeBad })
        x 4
    (fa % 8 = 0 → fa + 8 ≤ size →
      (Free x d →
        let y := x.wr d (BitVec.ofNat 64 (Memory.readNat frame fa 8))
        exec (.ldf d a off) s = s.completes (if s.frameFlawed x fa 8 then y.takeFlaw d else y) 4) ∧
      (Ready x d → exec (.stf d a off) s = stored 8 (x.ctl.rd d).toNat)) ∧
    (fa % 32 = 0 → fa + 32 ≤ size →
      (let y := { x with ctl := x.ctl.hw h (BitVec.ofNat 256 (Memory.readNat frame fa 32)) }
       exec (.ldfHandle h a off) s = s.completes (if s.frameFlawed x fa 32 then y.takeHandleFlaw h else y) 4) ∧
      exec (.stfHandle h a off) s = stored 32 (x.ctl.hd h).toNat)

/-! ### Traps -/

/-- R164, R271: trap and break outside a delay slot take the trap: the trap frame holds the registers and the loop stack, TSTATE,
TADDR, TRESUME, TVAL and TREC their values, PL is at least 1, IE is clear and the frame is occupied; s4 and s5 hold TSTATE and
TVAL, every other scalar register reads zero, the handles name root boxes 0 to 7, and the pc is SVEC. trap resumes at the next
word, break at its own address.
R273: a trap in a delay slot records the branch's address in TADDR and TRESUME, sets DS, and records the link register as it was
before the branch, so that the branch runs again. -/
def Obligations.TrapEntry : Prop :=
  (∀ (s : State) (x : Task) (sv : Nat) (l : Launch) (code : BitVec 14), Acts s x → x.ctl.delay = none → x.ctl.act = false → x.service = false →
     noLoads x = true → s.supervisorOf (s.partOf x) = some sv → s.launch? sv = some l → s.handlerFault l = none →
     x.agrees = true → s.rootBoxesReachable l = true →
     let saved : TrapFrame :=
       { s := x.ctl.s, h := x.ctl.h, loops := x.ctl.loops, bad := x.ctl.bad, hbad := x.ctl.hbad, own := x.ctl.own }
     let u := { s with misses := s.misses.filter (fun m => !(m.task == s.cur && m.stream == Stream.control)) }
     let takes (i : Instr) (flt resume : Nat) : Prop :=
       ∃ y : Task, exec i s = .next (u.setTask s.cur y) ∧ y = { x with ctl := y.ctl }.follow ∧
         y.ctl.tframe = saved ∧
         y.ctl.tstate = BitVec.ofNat 64 (flt + x.ctl.pl * 2 ^ 10 + (if x.ctl.ie then 2 ^ 12 else 0)) ∧
         y.ctl.taddr = BitVec.ofNat 64 x.ctl.pc ∧ y.ctl.tresume = BitVec.ofNat 64 resume ∧
         y.ctl.tval = BitVec.ofNat 64 code.toNat ∧ y.ctl.trec = BitVec.ofNat 64 x.r.pa ∧
         y.ctl.pl = max x.ctl.pl 1 ∧ y.ctl.ie = false ∧ y.ctl.act = true ∧
         y.ctl.pc = (s.core (coreOfTask x)).svec.toNat % 2 ^ 32 ∧ y.ctl.delay = none ∧ y.ctl.loops = [] ∧
         y.ctl.rd 4 = y.ctl.tstate ∧ y.ctl.rd 5 = y.ctl.tval ∧
         (∀ r : SReg, r ≠ 4 → r ≠ 5 → y.ctl.rd r = 0) ∧ y.ctl.h = s.rootBoxes l
     takes (.trap code) Flt.trap (x.ctl.pc + 4) ∧ takes (.brk code) Flt.brk x.ctl.pc) ∧
  (∀ (c : Ctl) (d : Delay) (link : SReg) (old : Word) (code addr resume : Nat) (val trec : Word) (roots : SMap Handle) (svec : Nat),
     code < 256 → c.delay = some d → d.link = some (link, old) → link ≠ 0 →
     let e := c.enter code false addr resume val trec roots svec
     e.taddr = BitVec.ofNat 64 d.branch ∧ e.tresume = BitVec.ofNat 64 d.branch ∧ e.tstate.getLsbD 8 = true ∧
     SMap.get e.tframe.s link.toNat 0 = old ∧ e.pc = svec ∧ e.delay = none)

/-- R274: tret restores what the trap recorded: registers, handles, loop stack, PL and IE, and goes to TRESUME; the trap frame is
free again. tret and tret.end fault with FLT_ILLEGAL while no trap is recorded.
R276: a trap while the trap frame is occupied writes DERR of the core's die; at PL 1 it ends the task with the trap's code,
at PL 2 it stops the service core. -/
def Obligations.TrapReturnAndDoubleTrap : Prop :=
  (∀ (s : State) (x : Task), Acts s x → x.ctl.delay = none → 1 ≤ x.ctl.pl →
     (x.ctl.act = true → noLoads x = true →
       ∃ y : Task, exec .tret s = .next (s.setTask s.cur y) ∧ y = { x with ctl := y.ctl, pend := x.kept ++ x.pend, kept := [] } ∧
         y.ctl.s = x.ctl.tframe.s ∧ y.ctl.h = x.ctl.tframe.h ∧ y.ctl.bad = x.ctl.tframe.bad ∧ y.ctl.hbad = x.ctl.tframe.hbad ∧
         y.ctl.pl = x.ctl.tstate.toNat / 2 ^ 10 % 4 ∧ y.ctl.ie = x.ctl.tstate.getLsbD 12 ∧ y.ctl.act = false ∧
         y.ctl.pc = x.ctl.tresume.toNat ∧ y.ctl.delay = none ∧
         ((∀ e ∈ x.ctl.tframe.loops, e.start ≤ x.ctl.tresume.toNat ∧ x.ctl.tresume.toNat ≤ e.stop) → y.ctl.loops = x.ctl.tframe.loops)) ∧
     (x.ctl.act = true → x.ctl.tstate.toNat / 2 ^ 10 % 4 ≠ 2 →
       exec .tretEnd s = .next (s.endTask s.cur (if x.ctl.tstate.getLsbD 9 then Flt.trap else x.ctl.tstate.toNat % 256))) ∧
     (x.ctl.act = false → exec .tret s = s.raise s.cur x Flt.illegal 0 ∧ exec .tretEnd s = s.raise s.cur x Flt.illegal 0)) ∧
  (∀ (s : State) (x : Task) (code : BitVec 14), Acts s x → x.ctl.delay = none → x.ctl.act = true →
     let d := dieOfCore (coreOfTask x)
     let marked := s.setDie d { s.die d with
       derr := BitVec.ofNat 64 (Flt.trap + coreInDie (coreOfTask x) * 2 ^ 8 + 2 ^ 63), svcStopped := (s.die d).svcStopped || x.ctl.pl == 2 }
     let told := marked.interruptManagement (coreOfTask x) Flt.trap
     exec (.trap code) s = .next (if x.ctl.pl = 2 then told else told.endTask s.cur Flt.trap))

/-! ### Box loads, stores and atomics -/

/-- R159 with R35 to R38: the element that a control form reaches. The linear index runs with dimension 0 fastest; the handle
must name a valid region of its own format, layout, rank and level that holds the box; SZ must be the format's width.
R159 to R162 with R88 and R146: a box load that reaches its element enters the access list with its class, scope and kind and
the element's bytes; a box store enters the posted store queue with the low bits of s[S]. Registers, memory and every other
task stay as they are.
R159, R161, R84: when an access in flight performs, a load writes its register with the element's bytes, sign- or
zero-extended, and a store replaces the masked bits of its bytes; every other byte of memory reads as before. -/
def Obligations.BoxAccesses : Prop :=
  (∀ (s : State) (x : Task) (h : Handle) (g : Region) (c0 c1 c2 c3 : Nat) (sz : BitVec 2) (stores : Bool),
     h ≠ 0 → handleFieldsOk h = true → (stores = true → Handle.mode h ≠ 0 ∧ Handle.mode h ≠ 4) →
     fmtIsBlock (Handle.fmt h) = false → fmtWidth (Handle.fmt h) = 8 * 2 ^ sz.toNat →
     c0 < Handle.ext h 0 → c1 < Handle.ext h 1 → c2 < Handle.ext h 2 → c3 < Handle.ext h 3 →
     SMap.find (s.regionTable x (Handle.level h)) (Handle.region h) = some g → g.valid = true →
     Handle.fmt h = g.fmt → Handle.layout h = g.layout.toNat → Handle.rank h = g.rank.toNat → Handle.level h = g.level.toNat →
     (∀ d ∈ dims, Handle.org h d + Handle.ext h d ≤ nth g.size d 1) →
     s.scalarElem x h (c0 + Handle.ext h 0 * (c1 + Handle.ext h 1 * (c2 + Handle.ext h 2 * c3))) sz stores
       = .ok (g, [Handle.org h 0 + c0, Handle.org h 1 + c1, Handle.org h 2 + c2, Handle.org h 3 + c3])) ∧
  (∀ (s : State) (x : Task) (m : CMem) (g : Region) (p : List Nat), Acts s x → Ready x m.idx →
     (s.scalarElem x (x.ctl.hd m.h) (x.ctl.rd m.idx).toNat m.sz false = .ok (g, p) → Free x m.r → loadsInFlight x < 16 →
       ∀ cells : List Nat, s.regionBytes x g (elemBytes g p).1 (elemBytes g p).2 wantsRead = .ok cells →
       let loads (i : Instr) (signed acq : Bool) : Prop := exec i s = s.completes
         { x with pend := x.pend ++ [{ stream := .control, cls := m.cls, scope := m.sc, acq := acq, rel := false,
                                       load := some { reg := m.r, signed := signed }, cells := cells, writes := [], num := 0 }] } 4
       loads (.ldS m) true false ∧ loads (.ldZ m) false false ∧ loads (.ldAcqS m) true true ∧ loads (.ldAcqZ m) false true) ∧
     (s.scalarElem x (x.ctl.hd m.h) (x.ctl.rd m.idx).toNat m.sz true = .ok (g, p) → Ready x m.r → storesPosted x < 32 →
       ∀ ws : List ByteWrite, s.writeElem x g p (x.ctl.rd m.r).toNat = .ok ws →
       let stores (i : Instr) (rel : Bool) : Prop := exec i s = s.completes
         { x with pend := x.pend ++ [{ stream := .control, cls := m.cls, scope := m.sc, acq := false, rel := rel, load := none,
                                       cells := [], writes := ws, num := 0 }] } 4
       stores (.st m) false ∧ stores (.stRel m) true)) ∧
  (∀ (s : State) (t k : Nat) (x : Task) (a : Access), s.task? t = some x → x.pend[k]? = some a →
     (∀ d : LoadDst, a.load = some d → d.vector = none → a.rmw = none → (∀ b ∈ a.cells, s.isBad b = false) →
       let v := bytesToNat (a.cells.map s.byteAt)
       s.performAccess t x k a = s.setTask t { x with
         pend := x.pend.eraseIdx k,
         ctl := x.ctl.wr d.reg (if d.signed then (BitVec.ofNat (8 * a.cells.length) v).signExtend 64 else BitVec.ofNat 64 v),
         bel := if d.reg = 0 then x.bel else { x.bel with loads := x.bel.loads ++
           [(d.reg.toNat, if d.signed then (BitVec.ofNat (8 * a.cells.length) v).signExtend 64 else BitVec.ofNat 64 v)] } }) ∧
     (a.load = none → a.rmw = none →
       (s.performAccess t x k a).task? t = some { x with pend := x.pend.eraseIdx k } ∧
       (∀ b : Nat, (∀ w ∈ a.writes, w.a ≠ b) → Memory.read (s.performAccess t x k a).mem b = Memory.read s.mem b) ∧
       (∀ w ∈ a.writes, (∀ v ∈ a.writes, v.a = w.a → v = w) →
         Memory.read (s.performAccess t x k a).mem w.a = (Memory.read s.mem w.a &&& ~~~w.mask) ||| (w.v &&& w.mask))))

/-- R188, R189: an atomic that reaches its element enters the accesses in flight with its class, scope and kind, its operands and the
element's bytes: registers, memory and every other task stay as they are.
R93, R94, R188, R189: when it performs, it reads and replaces its element in one step. A fetching form writes the old value to s[D], extended
as the format says; faddb also writes its refusal flag to s[D+1]; a reduction, whose D is 0, fetches nothing. Poison in the element is
consumed (R337): nothing is written, and FLT_UE goes to the next boundary. -/
def Obligations.Atomics : Prop :=
  (∀ (s : State) (x : Task) (m : Amo) (g : Region) (p : List Nat) (cells : List Nat) (float : Bool), Acts s x → x.service = false →
    s.amoElem x m float = .ok (g, p) →
    s.regionBytes x g (elemBytes g p).1 (elemBytes g p).2 wantsBoth = .ok cells →
    Free x m.d → Ready x m.a → Ready x m.b →
    let enters (i : Instr) (fn : AmoFn) (d2 : SReg) : Prop := exec i s = s.completes { x with pend := x.pend ++ [
      { stream := .control, cls := m.cls, scope := m.sc, acq := m.acq, rel := m.rel, load := some { reg := m.d, signed := false, reg2 := d2 },
        cells := cells, writes := [], num := 0, rmw := some { fn := fn, fmt := g.fmt, a := x.ctl.rd m.a, b := x.ctl.rd m.b } }] } 8
    (float = false →
      enters (.amoadd m) .add 0 ∧ enters (.amoand m) .and 0 ∧ enters (.amoor m) .or 0 ∧ enters (.amoxor m) .xor 0 ∧
      enters (.amomin m) .min 0 ∧ enters (.amomax m) .max 0 ∧ enters (.amominu m) .minu 0 ∧ enters (.amomaxu m) .maxu 0 ∧
      enters (.amoswap m) .swap 0 ∧ enters (.amocas m) .cas 0 ∧ enters (.incw m) .incw 0 ∧
      (Free x (m.d + 1) → enters (.faddb m) .faddb (m.d + 1)) ∧
      enters (.redadd m) .add 0 ∧ enters (.redand m) .and 0 ∧ enters (.redor m) .or 0 ∧ enters (.redxor m) .xor 0 ∧
      enters (.redmin m) .min 0 ∧ enters (.redmax m) .max 0 ∧ enters (.redminu m) .minu 0 ∧ enters (.redmaxu m) .maxu 0) ∧
    (float = true → enters (.amofadd m) .fadd 0 ∧ enters (.redfadd m) .fadd 0)) ∧
  (∀ (s : State) (t k : Nat) (x : Task) (e : Access) (d : LoadDst) (m : Rmw), s.task? t = some x → x.pend[k]? = some e →
    e.load = some d → d.vector = none → e.rmw = some m →
    let n := fmtWidth m.fmt
    let read := bytesToNat (e.cells.map s.byteAt)
    let old := BitVec.ofNat n read
    let a := BitVec.ofNat n m.a.toNat
    let b := BitVec.ofNat n m.b.toNat
    let takes (y : Task) (r : SReg) (v : Word) : Task :=
      if r = 0 then y else { y with ctl := y.ctl.wr r v, bel := { y.bel with loads := y.bel.loads ++ [(r.toNat, v)] } }
    let performs (v : Nat) (flag : Word) : Prop := s.performAccess t x k e =
      (s.store (bitWrites e.cells 0 n v)).setTask t (takes (takes { x with pend := x.pend.eraseIdx k } d.reg (extendElem m.fmt read)) d.reg2 flag)
    ((∀ c ∈ e.cells, s.isBad c = false) → read < 2 ^ n →
      (m.fn = .add → performs (old + a).toNat 0) ∧ (m.fn = .and → performs (old &&& a).toNat 0) ∧
      (m.fn = .or → performs (old ||| a).toNat 0) ∧ (m.fn = .xor → performs (old ^^^ a).toNat 0) ∧
      (m.fn = .min → performs (if old.toInt ≤ a.toInt then old else a).toNat 0) ∧
      (m.fn = .max → performs (if old.toInt ≤ a.toInt then a else old).toNat 0) ∧
      (m.fn = .minu → performs (if old.toNat ≤ a.toNat then old else a).toNat 0) ∧
      (m.fn = .maxu → performs (if old.toNat ≤ a.toNat then a else old).toNat 0) ∧
      (m.fn = .swap → performs a.toNat 0) ∧ (m.fn = .cas → performs (if old = b then a else old).toNat 0) ∧
      (m.fn = .incw → performs (if b.toNat ≤ old.toNat then 0 else old + 1).toNat 0) ∧
      (m.fn = .faddb → performs (if old.toNat + a.toNat ≤ b.toNat then old + a else old).toNat
        (if old.toNat + a.toNat ≤ b.toNat then 0 else 1)) ∧
      (m.fn = .fadd → performs (amoFsum m.fmt read m.a.toNat) 0)) ∧
    ((∃ c ∈ e.cells, s.isBad c = true) → x.pendFault = none →
      ∃ val : Word, s.performAccess t x k e =
        s.setTask t { x with pend := x.pend.eraseIdx k, pendFault := some { code := Flt.ue, val := val } }))

/-! ### Boxes and what a task reads -/

/-- R176: the box queries complete with the handle's fields, unchecked, for every handle, the empty one among them; boxmov copies
a handle and boxclr writes the empty one.
R174, R175, R177 with R35 and R40: boxsub narrows one dimension, by immediates or by registers; boxnew copies a handle with
other rights, where Table 3.4 allows them; boxroot writes the handle of a root box below NBOX. On a service core boxsub and boxnew are
FLT_ILLEGAL (R361). -/
def Obligations.BoxForms : Prop :=
  (∀ (s : State) (x : Task) (d : SReg) (e a : HReg) (dim : BitVec 2), Acts s x →
     let h := x.ctl.hd a
     let dimWord := h.toNat / 2 ^ (52 * dim.toNat)
     let asks (i : Instr) (v : Nat) : Prop := Free x d → exec i s = s.completes (x.wr d (BitVec.ofNat 64 v)) 4
     let writes (i : Instr) (v : Handle) : Prop := exec i s = s.completes { x with ctl := x.ctl.hw e v } 4
     asks (.boxext d a dim) (dimWord % 2 ^ 24) ∧
     asks (.boxorg d a dim) (dimWord / 2 ^ 24 % 2 ^ 28) ∧
     asks (.boxrank d a) (h.toNat / 2 ^ 244 % 4 + 1) ∧
     asks (.boxfmt d a) (h.toNat / 2 ^ 238 % 64) ∧
     asks (.boxmode d a) (h.toNat / 2 ^ 252 % 16 + h.toNat / 2 ^ 248 % 16 * 2 ^ 4 + h.toNat / 2 ^ 246 % 4 * 2 ^ 8 + h.toNat / 2 ^ 234 % 16 * 2 ^ 10) ∧
     writes (.boxmov e a) h ∧
     writes (.boxclr e) 0) ∧
  (∀ (s : State) (x : Task) (e a : HReg) (dim : BitVec 2) (mode policy : BitVec 4) (ext : BitVec 32) (n : SReg), Acts s x →
     let h := x.ctl.hd a
     let writes (i : Instr) (v : Handle) (len : Nat) : Prop := exec i s = s.completes { x with ctl := x.ctl.hw e v } len
     let narrowed (o w : Nat) : Handle :=
       Handle.withDims h (fun d => Handle.org h d + (if d = dim.toNat then o else 0)) (fun d => if d = dim.toNat then w else Handle.ext h d)
     let fits (o w : Nat) : Prop :=
       o + w ≤ Handle.ext h dim.toNat ∧ Handle.org h dim.toNat + o < 2 ^ 28 ∧
         ∀ d ∈ dims, Handle.rank h < d → (if d = dim.toNat then o = 0 ∧ w = 1 else Handle.ext h d = 1)
     (x.service = true → exec (.boxsub e a dim false ext) s = s.raise s.cur x Flt.illegal 0 ∧
       exec (.boxsub e a dim true ext) s = s.raise s.cur x Flt.illegal 0 ∧ exec (.boxnew e a mode policy) s = s.raise s.cur x Flt.illegal 0) ∧
     (h ≠ 0 → handleFieldsOk h = true → x.service = false →
       (fits (ext.toNat / 2 ^ 16) (ext.toNat % 2 ^ 16) →
         writes (.boxsub e a dim false ext) (narrowed (ext.toNat / 2 ^ 16) (ext.toNat % 2 ^ 16)) 8) ∧
       (Ready x (ext.extractLsb' 8 6) → Ready x (ext.extractLsb' 0 6) →
         fits (x.ctl.rd (ext.extractLsb' 8 6)).toNat (x.ctl.rd (ext.extractLsb' 0 6)).toNat →
         writes (.boxsub e a dim true ext)
           (narrowed (x.ctl.rd (ext.extractLsb' 8 6)).toNat (x.ctl.rd (ext.extractLsb' 0 6)).toNat) 8) ∧
       (modeAllowed (Handle.mode h) mode = true → policy.toNat < 5 →
         ((policy.toNat < 2 ∨ 4 < policy.toNat) ∨ (fmtKind (Handle.fmt h) ≠ .hs ∧ fmtIsBlock (Handle.fmt h) = false)) →
         writes (.boxnew e a mode policy) (mode ++ policy ++ h.extractLsb' 0 248 : BitVec 256) 8)) ∧
     (∀ (l : Launch) (v : Nat), s.launch? (s.activeLaunch x) = some l → Ready x n → (x.ctl.rd n).toNat < l.nbox →
       s.tableNat x l (l.boxtab + 128 * (x.ctl.rd n).toNat + 64) 32 = .ok v → writes (.boxroot e n) (BitVec.ofNat 256 v) 4))

/-- R157, R163, R170, R172, R173, R193: the forms that read the machine or the task complete with these values. -/
def Obligations.TaskReads : Prop :=
  ∀ (s : State) (x : Task) (d a : SReg) (h : HReg) (sel entry : BitVec 6) (shape : BitVec 8) (dim : BitVec 2), Acts s x → Free x d →
    let gives (i : Instr) (v : Word) : Prop := exec i s = s.completes (x.wr d v) 4
    gives (.rdcyc d) (BitVec.ofNat 64 (s.cycle - (s.die (dieOfTask x)).start)) ∧
    gives (.rdtick d) (BitVec.ofNat 64 (s.cycle / 16)) ∧
    gives (.rdcore d) (BitVec.ofNat 64 (coreOfTask x)) ∧
    (∀ l : Launch, s.launch? x.r.launch = some l →
      gives (.wid d sel) (if l.fields ≤ sel.toNat then 0
        else BitVec.ofNat 64 (x.r.wid / 2 ^ ((List.range sel.toNat).map l.width).sum % 2 ^ l.width sel.toNat))) ∧
    (sel = 0 → gives (.jstat d sel) x.r.js0) ∧ (sel = 1 → gives (.jstat d sel) x.r.js1) ∧
    (sel = 2 → gives (.jstat d sel) x.r.js2) ∧ (sel = 3 → gives (.jstat d sel) x.r.js3) ∧
    (∀ c : Slice, x.r.slice = some c →
      (sel = 0 → gives (.dslice d sel) (BitVec.ofNat 64 c.first)) ∧ (sel = 1 → gives (.dslice d sel) (BitVec.ofNat 64 c.last)) ∧
      (sel = 2 → gives (.dslice d sel) (BitVec.ofNat 64 c.n)) ∧ (sel = 3 → gives (.dslice d sel) (BitVec.ofNat 64 c.p)) ∧
      (∀ k < 4, sel.toNat = 4 + k → gives (.dslice d sel) (BitVec.ofNat 64 ((c.trips[k]?).getD 1)))) ∧
    (∀ v : Nat, Ready x a → s.shapeEntry x shape.toNat ((x.ctl.rd a).toNat + entry.toNat) = .ok v →
      gives (.shpld d a shape entry) (BitVec.ofNat 64 v)) ∧
    (∀ g : List Int, Ready x a → x.ctl.hd h ≠ 0 → handleFieldsOk (x.ctl.hd h) = true →
      (∀ k ∈ dims, Handle.ext (x.ctl.hd h) k ≠ 0) → s.shardGlobal x (x.ctl.hd h) (splitIndex (x.ctl.hd h) (x.ctl.rd a).toNat) = .ok g →
      gives (.shardcoord d h a dim) (BitVec.ofInt 64 ((g[dim.toNat]?).getD 0)))

/-! ### Synchronisation -/

/-- R186: the semaphore forms complete; s[D] receives the old value, and the sum and the difference saturate. A change comes after the
signals and tests of its cycle that R186 puts before it, and waits for the next cycle once a record has tested the semaphore.
R86, R182, R183, R187, R373: fence, rdv, vqsend, vqrecv, claim and release complete under these conditions and with these effects;
a fence, an rdv, a vqsend to a full queue and a vqrecv from an empty one wait at issue otherwise.
The model's choices: semset, semadd and vqsend, which R96 makes releases, wait at issue for the earlier accesses of the control stream (log
4); every scope is satisfied once an access has performed, and the clause on the writes of core scope follows R92 (log 3). -/
def Obligations.SemaphoresAndSynchronisation : Prop :=
  (∀ (s : State) (x : Task) (d a : SReg) (j : BitVec 4) (i : BitVec 8), Acts s x → x.service = false → Free x d →
     let old := (x.sem i.toNat).toNat
     let v := ((x.ctl.rd a).toNat + j.toNat) % 2 ^ 32
     let becomes (n : Nat) : Out :=
       s.completes (((x.setSem i.toNat (BitVec.ofNat 32 n)).noteSem s.cycle 3 i.toNat).wr d (BitVec.ofNat 64 old)) 4
     let turn := x.semInOrder s.cycle 3 i.toNat
     (Ready x a →
       (settled x = true → turn = true →
         exec (.semset d a j i) s = becomes v ∧ exec (.semadd d a j i) s = becomes (min (old + v) (2 ^ 32 - 1))) ∧
       (settled x = false ∨ turn = false → exec (.semset d a j i) s = .next s ∧ exec (.semadd d a j i) s = .next s) ∧
       (turn = true → exec (.semsub d a j i) s = becomes (old - v)) ∧ (turn = false → exec (.semsub d a j i) s = .next s)) ∧
     exec (.semrd d i) s = s.completes (x.wr d (BitVec.ofNat 64 old)) 4) ∧
  (∀ (s : State) (x : Task) (d a : SReg) (mask : BitVec 16) (sc : BitVec 3), Acts s x →
     let named := (List.range 64).filter (fun t => (x.ctl.rd a).getLsbD t)
     let held (p : Access) : Prop :=
       p.stream = .control ∧ (mask.getLsbD p.cls.toNat = true ∨ (3 ≤ sc.toNat ∧ (p.load = none ∨ p.rmw ≠ none) ∧ p.scope = 0))
     (mask = 0 ∨ (∀ p ∈ x.pend, ¬ held p) → exec (.fence mask sc) s = s.completes x 4) ∧
     (mask ≠ 0 → (∃ p ∈ x.pend, held p) → exec (.fence mask sc) s = .next s) ∧
     (x.service = false →
       (x.vec.on = false → x.mat.done = x.mat.issued → x.cpy.done = x.cpy.issued → exec .rdv s = s.completes x 4) ∧
       (x.vec.on = true ∨ x.mat.done ≠ x.mat.issued ∨ x.cpy.done ≠ x.cpy.issued → exec .rdv s = .next s) ∧
       (Ready x a → settled x = true → x.vec.cq.length < 64 →
         exec (.vqsend a) s = s.completes { x with vec := { x.vec with cq := x.vec.cq ++ [x.ctl.rd a] } } 4) ∧
       (Ready x a → settled x = false ∨ 64 ≤ x.vec.cq.length → exec (.vqsend a) s = .next s) ∧
       (∀ (v : Word) (r : List Word), Free x d → x.vec.vq = v :: r →
         exec (.vqrecv d) s = s.completes ({ x with vec := { x.vec with vq := r } }.wr d v) 4) ∧
       (Free x d → x.vec.vq = [] → exec (.vqrecv d) s = .next s) ∧
       (Ready x a → (∀ t ∈ named, x.declared t = true) →
         (∃ y : Task, exec (.claim a) s = s.completes y 4 ∧ y = { x with tiles := y.tiles } ∧
           ∀ t : Nat, y.tile t = (if t ∈ named then { x.tile t with claimed := true } else x.tile t)) ∧
         ((∀ t ∈ named, (x.tile t).readers = 0 ∧ ((x.tile t).st = .empty ∨ (x.tile t).st = .ready)) →
           ∃ y : Task, exec (.release a) s = s.completes y 4 ∧ y = { x with tiles := y.tiles } ∧
             ∀ t : Nat, y.tile t = (if t ∈ named then Tile.empty else x.tile t))) ∧
       (Ready x a → (∃ t ∈ named, x.declared t = false) →
         exec (.claim a) s = s.raise s.cur x Flt.illegal 0 ∧ exec (.release a) s = s.raise s.cur x Flt.illegal 0)))

/-- R180, R181: ecfg writes one configuration slot and enest one outer level of the engine that it names: of the matrix engine for 0, of
the copy engine for 1. The value is s[A], or the immediate when A is 0. -/
def Obligations.EngineConfiguration : Prop :=
  ∀ (s : State) (x : Task) (d a : SReg) (slot : BitVec 4) (ext : BitVec 32), Acts s x → x.service = false → Ready x a →
    let v : Word := if a = 0 then ext.signExtend 64 else x.ctl.rd a
    let trip := if a = 0 then ext.toNat else (x.ctl.rd a).toNat
    let steps := x.ctl.rd d
    let nest : Nest := { trip := trip, s0 := steps.extractLsb' 32 16, s1 := steps.extractLsb' 16 16, s2 := steps.extractLsb' 0 16 }
    exec (.ecfg a 0 slot ext) s = s.completes { x with mat := { x.mat with cfg := SMap.put x.mat.cfg slot.toNat v } } 8 ∧
    exec (.ecfg a 1 slot ext) s = s.completes { x with cpy := { x.cpy with cfg := SMap.put x.cpy.cfg slot.toNat v } } 8 ∧
    (Ready x d → steps.toNat < 2 ^ 48 → trip < 65536 →
      exec (.enest d a 0 0 ext) s = s.completes { x with mat := { x.mat with n5 := nest } } 8 ∧
      exec (.enest d a 0 1 ext) s = s.completes { x with mat := { x.mat with n6 := nest } } 8 ∧
      exec (.enest d a 1 0 ext) s = s.completes { x with cpy := { x.cpy with n5 := nest } } 8 ∧
      exec (.enest d a 1 1 ext) s = s.completes { x with cpy := { x.cpy with n6 := nest } } 8) ∧
    (Ready x d → steps.toNat < 2 ^ 48 → 65536 ≤ trip → exec (.enest d a 0 0 ext) s = s.raise s.cur x Flt.bounds 0)

/-! ### Waits, engine programs and tasks -/

/-- R12, R184, R185: WAIT over a block of conditions completes in place with the bits of the conditions that hold, when any one of
them, or all of them, hold, or the timeout is 0; otherwise the task enters Waiting until the tick that its timeout names, and
gives up its core. -/
def Obligations.Waits : Prop :=
  ∀ (s : State) (x : Task) (d a : SReg) (ext : BitVec 32) (head body : Nat) (cs : List WaitCond), Acts s x → x.service = false →
    x.ctl.delay = none → Free x d → Ready x a → s.block x ext.toNat 8 8 = .ok head →
    1 ≤ head % 2 ^ 4 → head % 2 ^ 4 ≤ 8 → head / 2 ^ 4 % 2 ^ 28 = 0 → s.codeNat x (ext.toNat + 8) (8 * (head % 2 ^ 4)) = .ok body →
    (List.range (head % 2 ^ 4)).mapM (fun i => x.waitCond (blockWord body i)) = .ok cs →
    (a ≠ 0 → (x.ctl.rd a).toNat < 2 ^ 32) →
    let timeout := if a = 0 then head / 2 ^ 32 % 2 ^ 32 else (x.ctl.rd a).toNat
    let bits := s.condBits x cs
    let waits (i : Instr) (all : Bool) (met : Prop) : Prop :=
      (met ∨ timeout = 0 → exec i s = s.completes (x.wr d (BitVec.ofNat 64 bits)) 8) ∧
      (¬ met → timeout ≠ 0 →
        exec i s = .next ((s.setTask s.cur { x with
          st := .waiting, wait := some { conds := cs, all := all, dst := d, timeoutAt := s.cycle / 16 + timeout, met := none } }).releaseCore s.cur))
    waits (.waitAny d a ext) false (∃ c ∈ cs, s.condHolds x c = true) ∧
    waits (.waitAll d a ext) true (∀ c ∈ cs, s.condHolds x c = true)

/-- R95, R140, R178, R195: FORK over a valid block appends its record programs to the engines' queues, with the handles,
configuration and outer levels copied at issue and the records numbered on from the issued count, and starts the vector
stream: flags, queues and loop stack are clear, nothing is decoded ahead, a0 to a7 hold s8 to s15 and b0 to b7 hold h0 to h7, the registers and masks
stay.
R179: XQ of a record without overrides appends the record itself to the queue of the engine that its kind names, with the
copies taken at issue, and s[D] receives its number; it waits while 64 of its records are pending there.
That both wait at issue for the earlier accesses of the control stream is the model's choice (log 4). -/
def Obligations.EnginePrograms : Prop :=
  (∀ (s : State) (x : Task) (ext : BitVec 32) (b : Nat) (slip : Option Nat), Acts s x → x.service = false →
     s.block x ext.toNat 64 64 = .ok b → forkBlockOk b = true → settled x = true →
     let v := blockWord b 0
     let vOn := v / 2 ^ 63 % 2 = 1
     let prog (w : Nat) (old new : Eng) : Prop :=
       if w / 2 ^ 63 % 2 = 1 then
         new = { old with queue := new.queue, issued := old.issued + w / 2 ^ 32 % 2 ^ 16 } ∧
         new.queue.length = old.queue.length + w / 2 ^ 32 % 2 ^ 16 ∧ new.queue.take old.queue.length = old.queue ∧
         ∀ i < w / 2 ^ 32 % 2 ^ 16, ∃ r : QRec, new.queue[old.queue.length + i]? = some r ∧ r.num = old.issued + 1 + i ∧
           r.off = some (w % 2 ^ 32 + 64 * i) ∧ r.hs = x.ctl.h ∧ r.cfg = old.cfg ∧ r.n5 = old.n5 ∧ r.n6 = old.n6 ∧ r.started = false
       else new = old
     (vOn → s.slipOf x (v % 2 ^ 32) = .ok slip ∧ (∀ n ∈ slip, 1 ≤ n ∧ n ≤ 64) ∧ x.vec.on = false ∧
       ∀ i < 8, Ready x (BitVec.ofNat 6 (8 + i))) →
     (blockWord b 1 / 2 ^ 63 % 2 = 1 → pendingPrograms x.mat < 4) → (blockWord b 2 / 2 ^ 63 % 2 = 1 → pendingPrograms x.cpy < 4) →
     ∃ y : Task, exec (.fork ext) s = s.completes y 8 ∧ y = { x with mat := y.mat, cpy := y.cpy, vec := y.vec } ∧
       prog (blockWord b 1) x.mat y.mat ∧ prog (blockWord b 2) x.cpy y.cpy ∧
       (¬ vOn → y.vec = x.vec) ∧
       (vOn → y.vec = { x.vec with
           on := true, pc := (if slip.isSome then v % 2 ^ 32 + 8 else v % 2 ^ 32), slip := slip.getD 16, a := y.vec.a, b := y.vec.b,
           flags := 0, vq := [], cq := [], loops := [], opened := false, abad := [], bbad := [], queued := [], issued := x.vec.issued + 1 } ∧
         ∀ i < 8, y.vec.scalar i = x.ctl.rd (BitVec.ofNat 6 (8 + i)) ∧ y.vec.box i = x.ctl.hd (BitVec.ofNat 5 i))) ∧
  (∀ (s : State) (x : Task) (d a : SReg) (f8 : BitVec 8) (ext : BitVec 32) (n : Nat) (e : Engine), Acts s x → x.service = false → Free x d →
     s.block x ext.toNat 64 64 = .ok n → f8.extractLsb' 0 3 = 0 → kindEngine (n / 2 ^ 56 % 2 ^ 8) f8 = some e → settled x = true →
     (pendingXq (x.eng e) < 64 →
       exec (.xq d a f8 ext) s = s.completes ((x.setEng e { x.eng e with
         queue := (x.eng e).queue ++ [{ num := (x.eng e).issued + 1, off := none, w := BitVec.ofNat 512 n, hs := x.ctl.h, cfg := (x.eng e).cfg,
                                        n5 := (x.eng e).n5, n6 := (x.eng e).n6, progEnd := true, xq := true, started := false, trips := [],
                                        pass := 0, cursor := 0, named := [], opened := false, moved := [] }],
         issued := (x.eng e).issued + 1 }).wr d (BitVec.ofNat 64 ((x.eng e).issued + 1))) 8) ∧
     (64 ≤ pendingXq (x.eng e) → exec (.xq d a f8 ext) s = .next s))

/-- R17 to R19, R166 to R168: SPAWN and SPAWN.DOWN of n children, 1 ≤ n, each with the boxes that the block builds for its index,
complete and create the children in ascending index: each belongs to the parent's launch and class, starts at the block's
entry, holds the parent's deadline, contract and work identifier, is at the parent's level or one below, and is Copying-In when
it is a down child and Runnable otherwise. JCOUNT rises by n. Zero children create nothing.
R31, R32, R169: DSPAWN in a launch that is deterministic splits the product N of its trip counts into slices of ceil(N / P)
iterations, one child for each slice that is not empty, on the fixed core of its logical core; N = 0 creates nothing. -/
def Obligations.Spawns : Prop :=
  (∀ (s : State) (x : Task) (down : Bool) (d a : SReg) (ext : BitVec 32) (h : Nat) (es : List SpawnEntry) (cl : Nat), Acts s x →
     x.service = false → s.spawnBlock x ext.toNat = .ok (h, es) → blockWord h 1 / 2 ^ 4 % 2 = 0 → blockWord h 2 = 0 → blockWord h 3 = 0 →
     x.soundRegs (es.flatMap SpawnEntry.regs) (es.map (fun e => e.hreg)) = .ok () →
     Ready x d → s.place x a = .ok cl → (down = true → x.r.level ≠ 2) →
     let i : Instr := if down then .spawnDown d a ext else .spawn d a ext
     let n := if d = 0 then blockWord h 0 % 2 ^ 32 else (x.ctl.rd d).toNat
     let entry := blockWord h 0 / 2 ^ 32 % 2 ^ 32
     (n = 0 → exec i s = s.completes x 8) ∧
     (65536 < n → exec i s = s.raise s.cur x Flt.capacity 0) ∧
     (∀ s' : State, 0 < n → n ≤ 65536 →
       s.spawnGroup x down h es ((List.range n).map (fun k =>
         { index := k, cluster := cl, bound := if !down && x.r.level == 2 then some (coreOfTask x) else none, fixed := none, slice := none })) = .ok s' →
       ∃ t : State, exec i s = .next t ∧ ∃ ids : List Nat, ids.length = n ∧
         (∃ y : Task, t.task? s.cur = some y ∧ y.r.jcount = x.r.jcount + n ∧ y.ctl = x.ctl.retire 8) ∧
         ∀ k < n, ∃ c ∈ ids[k]?, ∃ z : Task, s.task? c = none ∧ t.task? c = some z ∧ z.r.parent = some s.cur ∧ z.r.child = k ∧
           z.r.launch = x.r.launch ∧ z.r.cls = x.r.cls ∧ z.r.entry = entry ∧ z.r.deadline = x.r.deadline ∧ z.r.contract = x.r.contract ∧
           z.r.wid = x.r.wid ∧ z.r.cluster = cl ∧ z.r.level = x.r.level + (if down then 1 else 0) ∧
           z.st = (if down then .copyingIn else .runnable))) ∧
  (∀ (s : State) (x : Task) (d a : SReg) (ext : BitVec 32) (l : Launch) (h p set : Nat) (es : List SpawnEntry), Acts s x → x.service = false →
     s.launch? x.r.launch = some l → l.det = true → s.spawnBlock x ext.toNat = .ok (h, es) →
     x.soundRegs (es.flatMap SpawnEntry.regs) (es.map (fun e => e.hreg)) = .ok () →
     dspawnWordsOk (blockWord h 2) (blockWord h 3) = true → Ready x d → Ready x a →
     p = (if d = 0 then blockWord h 2 % 2 ^ 16 else (x.ctl.rd d).toNat) →
     set = (if a = 0 then x.r.cluster / 16 * 2 ^ 16 + 2 ^ (x.r.cluster % 16) else (x.ctl.rd a).toNat) → set < 2 ^ 20 →
     let w2 := blockWord h 2
     let dn := w2 / 2 ^ 62 % 4
     let cls := clusterSet (set / 2 ^ 16 % 2 ^ 4) (set % 2 ^ 16)
     let trips := (List.range (dn + 1)).map (fun k => blockWord h 3 / 2 ^ (48 - 16 * k) % 2 ^ 16)
     let n := trips.foldl (fun m t => m * t) 1
     let q := (n + p - 1) / p
     let down := blockWord h 1 / 2 ^ 4 % 2 = 1
     let kid (k : Nat) : Kid :=
       let c := nth cls (k / 8) x.r.cluster
       { index := k, cluster := c, bound := none, fixed := some (8 * c + k % 8),
         slice := some { first := k * q, last := min n ((k + 1) * q), n := n, p := p, trips := trips, logical := k } }
     (∀ k < dn + 1, (dspawnPerm w2).contains k = true) → cls ≠ [] → 1 ≤ p → p ≤ 8 * cls.length → x.r.level ≠ 2 →
     (x.r.level = 0 ∨ cls = [x.r.cluster]) → set / 2 ^ 16 % 2 ^ 4 < 9 → (∀ c ∈ cls, (s.partClusters (s.partOf x)).contains c = true) →
     w2 / 2 ^ 53 % 2 = 0 →
     (n = 0 → exec (.dspawn d a ext) s = s.completes x 8) ∧
     (2 ^ 32 < n → exec (.dspawn d a ext) s = s.raise s.cur x Flt.capacity 0) ∧
     (∀ s' : State, 0 < n → n ≤ 2 ^ 32 →
       s.spawnGroup x (decide down) h es ((List.range ((n + q - 1) / q)).map kid) = .ok s' →
       exec (.dspawn d a ext) s = .next (s'.modTask s.cur (fun y => y.retire 8))))

/-- R23 to R29, R171: with the task's work drained, join makes the task Joined and frees its core, and with no child left the task
goes on at once; yield makes it Runnable with RESUMED set. Both keep s0 to s31, h0 to h15, the frame and the timelines, and
clear the rest of the context, before the back-edge of a body that they end writes its index; neither executes before the work has
drained. A service core has both (R361). end makes the task Retiring at once. -/
def Obligations.JoinYieldEnd : Prop :=
  ∀ (s : State) (x : Task), Acts s x → x.ctl.delay = none →
    let kept (y : Task) : Prop :=
      (∃ c : Ctl, y.ctl = c.retire 4 ∧ (∀ r : SReg, c.rd r = if r.toNat < 32 then x.ctl.rd r else 0) ∧
        (∀ r : HReg, c.hd r = if r.toNat < 16 then x.ctl.hd r else 0) ∧
        c.pc = x.ctl.pc ∧ c.loops = x.ctl.loops ∧ c.delay = x.ctl.delay ∧ c.pl = x.ctl.pl) ∧ y.frame = x.frame ∧
      y.vec = { Vec.empty with done := x.vec.done, issued := x.vec.issued } ∧ y.mat.done = x.mat.done ∧ y.mat.issued = x.mat.issued ∧
      y.mat.cfg = [] ∧ y.cpy.done = x.cpy.done ∧ y.cpy.issued = x.cpy.issued ∧ y.cpy.cfg = [] ∧ y.tiles = [] ∧ y.cbs = [] ∧ y.sems = []
    (x.drained = true → ∃ y : Task, kept y ∧ y.st = .joined ∧
      exec .join s = .next (((s.setTask s.cur y).releaseCore s.cur).wakeJoin s.cur)) ∧
    (x.drained = true → ∃ y : Task, kept y ∧ y.r.resuming = true ∧
      exec .yield s = .next (((s.setTask s.cur y).releaseCore s.cur).makeRunnable s.cur false)) ∧
    (x.drained = false → exec .join s = .next s ∧ exec .yield s = .next s) ∧
    (x.holdsPoison = false → exec .endTask s = .next (s.setTask s.cur
      { x.retire 4 with st := .retiring, r := { x.r with ending := true } }))

/-! ### The Sundial unit and commit groups -/

/-- R104, R107, R190: stopen, stsrc, stbind and stclose complete under the checks of R190: a stream, a source and a binding take a free
number of their die or stream and s[D] receives it; closing a source closes it, and closing a stream has it close with the tick. Each answers a
next state there that changes neither memory nor another task.
R103, R105, R190: strec, once the earlier accesses have performed, enters the record of the box in the lowest ring slot that
the source's stream has free from its write position on, and answers that next state; without one it stalls.
The model's choices: a stream opens on the die of its task's cluster (log 43); the free number taken is the lowest, and a binding's reserved
bits are checked with its other fields (log 33); strec waits at issue for the earlier accesses (log 4), and strec and stclose wait once
the unit has acted on the tick (log 1). -/
def Obligations.SundialUnit : Prop :=
  (∀ (s : State) (x : Task) (d a : SReg) (h : HReg) (b : SReg), Acts s x → x.service = false → Ready x a → Free x d → h.toNat < 31 →
     let next := x.ctl.hd (BitVec.ofNat 5 (h.toNat + 1))
     let ring := x.ctl.hd h
     let rs := (x.ctl.rd b).toNat
     let v := (x.ctl.rd a).toNat
     (Ready x b → rs % 32 = 0 → 32 ≤ rs → rs ≤ 256 → sharedLevel0 ring = .ok () → sharedLevel0 next = .ok () →
       Handle.fmt ring = Fm.z8 → Handle.rank ring = 0 → Handle.fmt next = Fm.z8 → Handle.rank next = 0 →
       (∃ g, s.regionOf x ring = .ok g) → (∃ g, s.regionOf x next = .ok g) →
       Handle.ext ring 0 % rs = 0 → 2 ≤ Handle.ext ring 0 / rs → 64 + rs ≤ Handle.ext next 0 →
       ∀ k : Nat, SMap.freeIn s.streams (256 * dieOfTask x) 256 = some k →
       let e : EStream := {
         launch := x.r.launch, ring := ring, drop := next, recSize := rs, w := 0, h := 0, wpos := 0, slots := [],
         arrivals := [], dropped := 0, closing := false, closed := false, interrupted := false}
       exec (.stopen d h b) s = .next ({ s with streams := SMap.put s.streams k e }.setTask s.cur ((x.wr d (BitVec.ofNat 64 k)).retire 4))) ∧
     (Ready x b → v / 2 ^ 19 % 2 ^ 13 = 0 → v / 2 ^ 13 % 4 ≠ 3 → v / 2 ^ 32 ≠ 0 →
       ∀ (e : EStream) (k : Nat), SMap.find s.streams (v % 2 ^ 12) = some e → e.launch = x.r.launch → e.closed = false →
       SMap.freeIn s.sources (1024 * (v % 2 ^ 12 / 256)) 1024 = some k →
       let c : Source := {
         stream := v % 2 ^ 12, explicit := v / 2 ^ 12 % 2 == 1, kind := v / 2 ^ 13 % 4, port := v / 2 ^ 15 % 16,
         bound := rs, timeout := v / 2 ^ 32, st := .active, wm := e.w, last := s.cycle / 16, seq := 0, waiting := []}
       exec (.stsrc d a b) s = .next ({ s with sources := SMap.put s.sources k c }.setTask s.cur ((x.wr d (BitVec.ofNat 64 k)).retire 4))) ∧
     (v < 2 ^ 12 → ∀ (e : EStream) (bs : List Byte) (l : Launch) (r : Region) (k : Nat),
       SMap.find s.streams v = some e → e.launch = x.r.launch → e.closed = false → s.boxBytes x ring 0 64 [0, 1, 2] = .ok bs →
       sharedLevel0 next = .ok () → (∃ g, s.regionOf x next = .ok g) → s.launch? x.r.launch = some l → bindingOk (bytesToNat bs) l.csize = true →
       let w (i : Nat) := bytesToNat bs / 2 ^ (64 * i) % 2 ^ 64
       SMap.find l.regions (w 6 / 2 ^ 44) = some r → (r.fmt = Fm.s64 ∨ r.fmt = Fm.z64) → r.rank = 1 →
       8 + 8 * (w 6 / 2 ^ 28 % 2 ^ 16) ≤ nth r.size 0 0 → (w 0 + w 3 + w 1 - 1) / w 1 + 1 ≤ nth r.size 1 1 →
       SMap.freeIn s.bindings (4 * v) 4 = some k →
       let bound : Binding := {
         stream := v, launch := x.r.launch, size := w 0, slide := w 1, offset := w 2, lateness := w 3,
         entry := w 4 / 2 ^ 32, budget := w 4 % 2 ^ 32, contract := w 5 / 2 ^ 48, cls := w 5 / 2 ^ 46 % 4, cluster := w 5 / 2 ^ 42 % 16,
         emptyFires := w 5 / 2 ^ 41 % 2 == 1, maxrec := w 5 / 2 ^ 25 % 2 ^ 16, result := w 6 / 2 ^ 44, slotb := w 6 / 2 ^ 28 % 2 ^ 16,
         tdesc := w 7 % 2 ^ 32, pool := next, next := 0, fired := [], freed := []}
       exec (.stbind d a h) s = .next ({ s with bindings := SMap.put s.bindings k bound }.setTask s.cur ((x.wr d (BitVec.ofNat 64 k)).retire 4))) ∧
     (v < 2 ^ 14 → ∀ (c : Source) (e : EStream), SMap.find s.sources v = some c → c.st ≠ .closed → SMap.find s.streams c.stream = some e →
       e.launch = x.r.launch → e.closed = false → s.tickDone (c.stream / 256) = false →
       exec (.stclose a) s = .next ({ s with sources := SMap.put s.sources v { c with st := .closed } }.setTask s.cur (x.retire 4))) ∧
     (2 ^ 15 ≤ v → v < 2 ^ 15 + 2 ^ 12 → ∀ e : EStream, SMap.find s.streams (v % 2 ^ 12) = some e → e.launch = x.r.launch → e.closed = false →
       s.tickDone (v % 2 ^ 12 / 256) = false → exec (.stclose a) s = .next ({ s with streams := SMap.put s.streams (v % 2 ^ 12) { e with closing := true } }.setTask s.cur (x.retire 4)))) ∧
  (∀ (s : State) (x : Task) (d a : SReg) (h : HReg) (c : Source) (e : EStream) (bs : List Byte), Acts s x → x.service = false →
     Ready x d → Ready x a → SMap.find s.sources (x.ctl.rd d).toNat = some c → c.st ≠ .closed → c.kind = 0 →
     SMap.find s.streams c.stream = some e → e.launch = x.r.launch → e.closed = false → settled x = true →
     s.boxBytes x (x.ctl.hd h) (x.ctl.rd a).toNat e.recSize [0, 1, 2] = .ok bs →
     (e.freeSlot = none ∨ s.tickDone (c.stream / 256) = true → exec (.strec d a h) s = .next s) ∧
     (∀ i : Nat, e.freeSlot = some i → s.tickDone (c.stream / 256) = false →
       ∃ t : State, exec (.strec d a h) s = .next (t.setTask s.cur (x.retire 4)) ∧
         SMap.find t.streams c.stream = some { e with slots := SMap.put e.slots i 0, arrivals := e.arrivals ++ [((s.die (c.stream / 256)).arrived, i)],
                                                             wpos := (i + 1) % e.size } ∧
         SMap.find t.sources (x.ctl.rd d).toNat = some { c with seq := c.seq + 1 }))

/-- R120, R126, R191: gopen takes the group that it asks for, or the lowest Free one, and answers 64 where none is; gcommit of an open
group starts its commit once the earlier accesses have performed, and a replicated one stays at its gcommit until the digests have been
compared; gabort of a group of another launch or of a Free one does
nothing; gstat reports the group's state, cause and count to the launch that opened it last, and 0 to any other.
R121, R122, R192: a group-tagged store by a task of the launch that opened the group sends one packet with the element's bytes to
the device that it names, found by its place in the handle, while the group is Open, and counts as discarded in a later state; for any other group it
faults with FLT_GROUP. Each of the five forms answers a next state, .next, where the rules let it execute.
The model's choices: gopen with 64 takes the lowest Free group (log 45); a Free group keeps its discard count (log 34); gcommit waits at issue
for the earlier accesses (log 4), and a store of a task whose withdrawal has yet to go out waits (log 34). -/
def Obligations.CommitGroups : Prop :=
  (∀ (s : State) (x : Task) (d a b : SReg), Acts s x → x.service = false → Ready x a →
     let v := (x.ctl.rd a).toNat
     let n := (x.ctl.rd b).toNat
     (Ready x b → Free x d → 1 ≤ v → v < 2 ^ 32 → n ≤ 64 →
       let opens (g : Nat) : Out := .next ((s.setCGroup g { CGroup.reset with
         st := .opened, launch := x.r.launch, timeoutAt := s.cycle / 16 + v, opening := (s.cgroup g).opening + 1 }).setTask s.cur ((x.wr d (BitVec.ofNat 64 g)).retire 4))
       (n < 64 → (s.cgroup n).st = .free → exec (.gopen d a b) s = opens n) ∧
       (n < 64 → (s.cgroup n).st ≠ .free → exec (.gopen d a b) s = .next (s.setTask s.cur ((x.wr d 64).retire 4))) ∧
       (n = 64 → ∀ g < 64, (s.cgroup g).st = .free → (∀ k < g, (s.cgroup k).st ≠ .free) → exec (.gopen d a b) s = opens g) ∧
       (n = 64 → (∀ k < 64, (s.cgroup k).st ≠ .free) → exec (.gopen d a b) s = .next (s.setTask s.cur ((x.wr d 64).retire 4)))) ∧
     (v < 64 →
       let c := s.cgroup v
       ((x.r.comparing = none → c.st = .opened → c.launch = x.r.launch → settled x = true →
         exec (.gcommit a 0) s = .next ((s.setCGroup v { c with st := .preparing, committer := some s.cur }).setTask s.cur (x.retire 4))) ∧
       (x.r.comparing = none → c.st ≠ .opened ∨ c.launch ≠ x.r.launch → exec (.gcommit a 0) s = s.raise s.cur x Flt.group 0) ∧
       (c.st = .free ∨ c.launch ≠ x.r.launch → exec (.gabort a) s = .next (s.setTask s.cur (x.retire 4))) ∧
       (c.launch = x.r.launch → c.st ≠ .free →
         exec (.gabort a) s = .next ((s.abortGroup v 1).modTask s.cur (fun y => y.retire 4))) ∧
       (Free x d → c.launch = x.r.launch → (c.st ≠ .free ∨ c.done = true) → c.cause < 8 →
         exec (.gstat d a) s = .next (s.setTask s.cur ((x.wr d (BitVec.ofNat 64 (groupCode c.st + 8 + c.cause * 2 ^ 4 +
           (if c.done then 2 ^ 7 else 0) + c.discarded % 2 ^ 32 * 2 ^ 32))).retire 4))) ∧
       (Free x d → (c.launch ≠ x.r.launch ∨ (c.st = .free ∧ c.done = false)) → exec (.gstat d a) s = .next (s.setTask s.cur ((x.wr d 0).retire 4))))) ∧
     (256 ≤ v → v < 320 → ∀ h : HReg,
       let g := v - 256
       let c := s.cgroup g
       let me := s.deviceOf x.r.launch
       (x.r.comparing = none → c.st = .opened → c.launch = x.r.launch → settled x = true →
         ∀ (digest : List Byte) (devs : List Nat), s.replicaParams x (x.ctl.hd h) = .ok (digest, devs) →
         ∃ t : State, exec (.gcommit a h) s = .next t ∧ t.task? s.cur = some { x with r := { x.r with comparing := some (g, false) } } ∧
           t.cgroup g = { c with st := .preparing, committer := some s.cur, replicas := devs, digests := (me, digest) :: c.digests }) ∧
       (x.r.comparing = some (g, false) → exec (.gcommit a h) s = .next s) ∧
       (x.r.comparing = some (g, true) → exec (.gcommit a h) s = .next (s.setTask s.cur ({ x with r := { x.r with comparing := none } }.retire 4))))) ∧
  (∀ (s : State) (x : Task) (m : StG), Acts s x → x.service = false → Ready x m.s → Ready x m.a → Ready x m.idx →
     let t := (x.ctl.rd m.a).toNat
     let g := t % 64
     let dev := t / 2 ^ 16
     let c := s.cgroup g
     t % 2 ^ 16 < 64 → dev < 2 ^ 16 →
     (c.st = .free ∨ c.launch ≠ x.r.launch → exec (.stG m) s = s.raise s.cur x Flt.group 0) ∧
     (c.st ≠ .free → c.launch = x.r.launch → sharedLevel0 (x.ctl.hd m.h) = .ok () →
       ∀ (p : List Nat) (l : Launch), handleElem (x.ctl.hd m.h) (x.ctl.rd m.idx).toNat m.sz = .ok p →
       s.launch? x.r.launch = some l → dev < l.meshDevices → s.withdrawing g s.cur = false →
       (c.st = .opened → exec (.stG m) s =
         .next ((s.sendPacket g s.cur dev x.r.launch (s.activeLaunch x) .control m.cls (x.ctl.hd m.h)
           [{ coord := regionCoord (x.ctl.hd m.h) p, hdr := false, v := (x.ctl.rd m.s).toNat }]).setTask s.cur (x.retire 8))) ∧
       (c.st ≠ .opened → exec (.stG m) s = .next ((s.setCGroup g { c with discarded := c.discarded + 1 }).setTask s.cur (x.retire 8)))))

/-! ### System registers and privileged forms -/

/-- R268, R269, R279: mfsr of a register that the privilege level may read writes its value: PSTATE, SVEC, the trap registers, TDELEG,
IPEND, SUPCYC, the trap frame's copies, CPART, CRES, CBOUND, DIEID, DCTX and DERR; a number without a register faults with
FLT_ILLEGAL, one above the privilege level with FLT_PRIV.
R268, R269, R275: mtsr writes the writable fields of a register: IE of PSTATE, SVEC and TDELEG under their masks, TRESUME, the trap
frame's copies, CRES at most 8, CBOUND, DCTX and DERR; IPEND clears the bits that are written as 1. A read-only register
faults with FLT_ILLEGAL. Both answer a next state, .next, where the rules let them execute. -/
def Obligations.SystemRegisters : Prop :=
  (∀ (s : State) (x : Task) (d : SReg) (sr : BitVec 12), Acts s x → 1 ≤ x.ctl.pl → Free x d →
     let core := coreOfTask x
     let k := s.core core
     let n := sr.toNat
     let reads (v : Word) : Prop := exec (.mfsr d sr) s = .next (s.setTask s.cur ((x.wr d v).retire 4))
     (n = 0x000 → reads (s.pstate x)) ∧ (n = 0x001 → reads k.svec) ∧ (n = 0x002 → reads x.ctl.tstate) ∧ (n = 0x003 → reads x.ctl.taddr) ∧
     (n = 0x004 → reads x.ctl.tresume) ∧ (n = 0x005 → reads x.ctl.tval) ∧ (n = 0x006 → reads k.tdeleg) ∧ (n = 0x007 → reads x.ctl.trec) ∧
     (∀ j < 4, n = 0x008 + j → reads (k.ipend.extractLsb' (64 * j) 64)) ∧ (n = 0x00C → reads k.supcyc) ∧
     (∀ r < 64, n = 0x040 + r → x.ctl.tframe.bad = [] → reads (if r = 0 then 0 else SMap.get x.ctl.tframe.s r 0)) ∧
     (core < 1152 →
       (n = 0x100 → reads (BitVec.ofNat 64 (s.cluster (core / 8)).cpart)) ∧ (n = 0x101 → reads (BitVec.ofNat 64 (s.cluster (core / 8)).cres)) ∧
       (n = 0x102 → reads (BitVec.ofNat 64 (s.cluster (core / 8)).cbound))) ∧
     (n = 0x200 → reads (BitVec.ofNat 64 (dieOfCore core))) ∧
     (2 ≤ x.ctl.pl → (n = 0x201 → reads (s.die (dieOfCore core)).dctx) ∧ (n = 0x202 → reads (s.die (dieOfCore core)).derr)) ∧
     (x.ctl.pl = 1 → n = 0x201 ∨ n = 0x202 → exec (.mfsr d sr) s = s.raise s.cur x Flt.priv 0) ∧
     ((0x00D ≤ n ∧ n < 0x040) ∨ (0x080 ≤ n ∧ n < 0x100) ∨ (0x103 ≤ n ∧ n < 0x200) ∨ 0x203 ≤ n →
       exec (.mfsr d sr) s = s.raise s.cur x Flt.illegal 0)) ∧
  (∀ (s : State) (x : Task) (a : SReg) (sr : BitVec 12), Acts s x → 1 ≤ x.ctl.pl → Ready x a →
     let core := coreOfTask x
     let k := s.core core
     let die := s.die (dieOfCore core)
     let v := x.ctl.rd a
     let n := sr.toNat
     let own (c : Ctl) : Prop := exec (.mtsr a sr) s = .next (s.setTask s.cur ({ x with ctl := c }.retire 4))
     let machine (t : State) : Prop := exec (.mtsr a sr) s = .next (t.setTask s.cur (x.retire 4))
     (n = 0x000 → own { x.ctl with ie := v.getLsbD 2 }) ∧
     (n = 0x001 → machine (s.setCore core { k with svec := v &&& 0xFFFFFFFC })) ∧
     (n = 0x004 → own { x.ctl with tresume := v }) ∧
     (n = 0x006 → machine (s.setCore core { k with tdeleg := v &&& 0x63DFE })) ∧
     (∀ j < 4, n = 0x008 + j → machine (s.setCore core { k with ipend := k.ipend &&& ~~~((v.setWidth 256) <<< (64 * j)) })) ∧
     (n = 0x040 → own x.ctl) ∧
     (∀ r < 64, 1 ≤ r → n = 0x040 + r → own { x.ctl with tframe := { x.ctl.tframe with
       s := SMap.put x.ctl.tframe.s r v, bad := x.ctl.tframe.bad.filter (fun q => q != r) } }) ∧
     (2 ≤ x.ctl.pl →
       (core < 1152 → n = 0x101 → machine (s.setCluster (core / 8) { s.cluster (core / 8) with cres := min 8 (v.toNat % 16) })) ∧
       (core < 1152 → n = 0x102 → machine (s.setCluster (core / 8) { s.cluster (core / 8) with cbound := v.toNat % 2 ^ 16 })) ∧
       (n = 0x201 → machine (s.setDie (dieOfCore core) { die with dctx := v &&& 0xFFFF3FFFFFFF0000 })) ∧
       (n = 0x202 → machine (s.setDie (dieOfCore core) { die with derr := die.derr &&& ~~~v }))) ∧
     (x.ctl.pl = 1 → n = 0x101 ∨ n = 0x102 ∨ n = 0x201 ∨ n = 0x202 → exec (.mtsr a sr) s = s.raise s.cur x Flt.priv 0) ∧
     (n = 0x002 ∨ n = 0x003 ∨ n = 0x005 ∨ n = 0x007 ∨ n = 0x00C ∨ n = 0x100 ∨ n = 0x200 →
       exec (.mtsr a sr) s = s.raise s.cur x Flt.illegal 0))

/-- R142, R278: below the privilege level that the word of a control instruction needs, the instruction raises FLT_PRIV before any
other check and has no effect of its own.
R134, R142: a control transfer in the delay slot of another one raises FLT_DSLOT, and the branch and its link stay as they are. -/
def Obligations.PrivilegeAndDelaySlot : Prop :=
  (∀ (s : State) (x : Task) (i : Instr) (w : BitVec 32), Acts s x → encode i = .word w → x.ctl.pl < privilegeOf w →
     exec i s = s.raise s.cur x Flt.priv 0) ∧
  (∀ (s : State) (x : Task) (i : Instr), Acts s x → isTransfer i = true → x.ctl.delay.isSome = true → x.service = false →
     (i = .tret ∨ i = .tretEnd → 1 ≤ x.ctl.pl) → exec i s = s.raise s.cur x Flt.dslot 0)

/-- R281, R284 to R286, R288: halt stops the control stream; preempt requests a pre-emption of a core of the partition and answers
whether a context ran there; tlbinv drops the named translations of the partition from the caches and the walkers; isend sets a vector of a core, sends an
MSI-X vector or a message to the management cores; corefence fences a core, waits until it holds no context, and unfences
it again. Each answers a next state, .next, where the rules let it execute. -/
def Obligations.SupervisorForms : Prop :=
  ∀ (s : State) (x : Task) (d a b : SReg), Acts s x → 1 ≤ x.ctl.pl →
    let v := (x.ctl.rd a).toNat
    let w := (x.ctl.rd b).toNat
    let part := s.partOf x
    exec .halt s = .next (s.setTask s.cur ({ x with ctl := { x.ctl with halted := true } }.retire 4)) ∧
    (Ready x a → Free x d → v < 2 ^ 11 → (coresOf (s.partClusters part)).contains v = true →
      let k := s.core v
      exec (.preempt d a) s = .next ((s.setCore v { k with
          request := k.request || k.task.isSome, asked := if k.task.isSome && !k.request then some s.cycle else k.asked }).setTask s.cur
        ((x.wr d (if k.task.isSome then 0 else 1)).retire 4))) ∧
    (Ready x a → Ready x b → settled x = true → v < 2 →
      (∀ e ∈ s.tlb ++ s.ctlb, tlbHit part v w e = true → s.usesEntry part e = false) →
      ∃ t : State, exec (.tlbinv a b) s = .next (t.setTask s.cur (x.retire 4)) ∧ t = { s with tlb := t.tlb, ctlb := t.ctlb, dies := t.dies } ∧
        t.tlb = s.tlb.filter (fun e => !tlbHit part v w e) ∧ t.ctlb = s.ctlb.filter (fun e => !tlbHit part v w e) ∧
        ∀ d : Nat, t.die d = { s.die d with nonleaf := (s.die d).nonleaf.filter (fun n =>
          !(n.part == part && (v == 1 || n.top == w / 2 ^ n.shift))) }) ∧
    (Ready x a → Ready x b → settled x = true → w < 256 →
      (∀ core < 2 ^ 11, v = core * 2 ^ 16 → (coresOf (s.partClusters part)).contains core = true → s.partResetting part = false →
        exec (.isend a b) s = .next ((s.setCore core { s.core core with ipend := (s.core core).ipend ||| (1 <<< w) }).setTask s.cur (x.retire 4))) ∧
      (∀ p : Part, s.part? part = some p → v = 1 → w < p.msix / 256 % 256 →
        exec (.isend a b) s = .next ((s.send (.msix p.vf ((p.msix % 256 + w) % 256))).setTask s.cur (x.retire 4))) ∧
      (v = 2 → exec (.isend a b) s = .next ((s.send (.management part w)).setTask s.cur (x.retire 4)))) ∧
    (2 ≤ x.ctl.pl → Ready x a → Ready x b → v < 1152 →
      (w = 0 → exec (.corefence a b) s = .next ((s.setCore v { s.core v with fenced := false }).setTask s.cur (x.retire 4))) ∧
      (w = 1 → (s.core v).fenced = false → exec (.corefence a b) s = .next (s.fenceCore v)) ∧
      (w = 1 → (s.core v).fenced = true → (s.core v).task = none → exec (.corefence a b) s = .next (s.setTask s.cur (x.retire 4))) ∧
      (w = 1 → (s.core v).fenced = true → (s.core v).task ≠ none → exec (.corefence a b) s = .next s))

/-- R280, R302: ctxsave and ctxload name a task of the partition by its record's address and answer 1 when it is not pre-empted; ctxsave
writes its sections into its slot and answers 0; ctxload takes a slot whose check word is right and answers 0, and answers 3
for one that is not.
R282, R299, R300: qadmit of a well-formed contract on clusters of the partition admits it when every cluster's reserved density
stays within its bound and a number is free, and answers the code of what stopped it otherwise; qrelease makes the Held tasks of a contract Runnable and
qcancel ends them and the contract; the number 0xFFFF names the Held tasks without one. Each answers a next state, .next, where the rules let
it execute.
The model's choices: the number taken is the lowest free one, and a density that does not fit is answered before a number that is not free
(log 17, 30); the check word is over sections 4 and 6 (log 22); ctxload waits at issue for the earlier accesses (log 4). -/
def Obligations.ContextsAndContracts : Prop :=
  (∀ (s : State) (x : Task) (d a : SReg) (t : Nat) (y : Task), Acts s x → 1 ≤ x.ctl.pl → Ready x a → Free x d →
     s.recordOf x (x.ctl.rd a) = .ok (t, y) →
     let base := s.slotBase (ctxDie y) y.r.ctx
     let answers (u : State) (v : Nat) : Out := .next (u.setTask s.cur ((x.wr d (BitVec.ofNat 64 v)).retire 4))
     (y.r.preempted = false → exec (.ctxsave d a) s = answers s 1 ∧ (settled x = true → exec (.ctxload d a) s = answers s 1)) ∧
     (y.r.preempted = true → s.slotOnline base = true → s.slotOk base (List.range 64) = true →
       exec (.ctxsave d a) s = answers ((s.saveSections t (List.range 64)).stopStreams t [.vector, .matrix, .copy]) 0) ∧
     (y.r.preempted = true → s.slotOnline base = true → settled x = true →
       let good := Memory.readNat s.mem base 4 =
         (crc32c (Memory.readList s.mem (base + 0x2000) 0x2000 ++ Memory.readList s.mem (base + 0x6000) 0x4000)).toNat
       (good → exec (.ctxload d a) s =
         answers ((s.modTask t (fun z => z.mapRec (fun r => { r with saved := BitVec.allOnes 64 }))).stopStreams t [.vector, .matrix, .copy]) 0) ∧
       (¬ good → exec (.ctxload d a) s = .next ((s.saveFails t).setTask (s.saveFails t).cur ((x.wr d 3).retire 4))))) ∧
  (∀ (s : State) (x : Task) (d a : SReg) (h : HReg), Acts s x → 1 ≤ x.ctl.pl →
     let part := s.partOf x
     (Free x d → ∀ bs : List Byte, s.boxBytes x (x.ctl.hd h) 0 32 [0] = .ok bs →
       let n := bytesToNat bs
       let period := n % 2 ^ 64
       let budget := n / 2 ^ 64 % 2 ^ 32
       let rdead := n / 2 ^ 128 % 2 ^ 64
       let die := n / 2 ^ 208 % 16
       let set := ((List.range 16).filter (fun c => n / 2 ^ (192 + c) % 2 == 1)).map (fun c => die * 16 + c)
       1 ≤ period → period < 2 ^ 32 → 1 ≤ budget → 1 ≤ rdead → rdead ≤ period → n / 2 ^ 96 % 2 ^ 32 = 0 → n / 2 ^ 212 % 2 ^ 44 = 0 →
       n / 2 ^ 192 % 2 ^ 16 ≠ 0 → die < 9 → (∀ c ∈ set, (s.partClusters part).contains c = true) →
       let u := (budget * 2 ^ 12 + rdead - 1) / rdead
       let admitted : Contract := {
         part := part, period := period, budget := budget, rdead := rdead, clusters := set,
         q := s.cycle / 16, refills := 0, accounts := set.map (fun c => (c, budget)), spent := [], suspended := false}
       ((∀ c ∈ set, s.admits u c = true) →
         (∀ k < 1024, SMap.find s.contracts (part * 1024 + k) = none → (∀ j < k, SMap.find s.contracts (part * 1024 + j) ≠ none) →
           exec (.qadmit d h) s = .next ({ s with contracts := SMap.put s.contracts (part * 1024 + k) admitted }.setTask s.cur ((x.wr d (BitVec.ofNat 64 k)).retire 4))) ∧
         ((∀ k < 1024, SMap.find s.contracts (part * 1024 + k) ≠ none) →
           exec (.qadmit d h) s = .next (s.setTask s.cur ((x.wr d (BitVec.ofNat 64 (0xFFFFFFFF00000000 + 2))).retire 4)))) ∧
       ((∃ c ∈ set, s.admits u c = false) →
         exec (.qadmit d h) s = .next (s.setTask s.cur ((x.wr d (BitVec.ofNat 64 (0xFFFFFFFF00000000 + 1))).retire 4)))) ∧
     (Ready x a → ∀ n : Nat, (x.ctl.rd a).toNat = n → n < 1024 → ∀ k : Contract, SMap.find s.contracts (part * 1024 + n) = some k →
       exec (.qrelease a) s = .next (((s.heldTasks part n).foldl (fun (t : State) i => t.makeRunnable i false)
         { s with contracts := SMap.put s.contracts (part * 1024 + n) { k with suspended := false }, fencedTraffic := false }.routesChanged).modTask s.cur
           (fun y => y.retire 4)) ∧
       exec (.qcancel a) s = .next ((((s.heldTasks part n).foldl (fun (t : State) i => t.endTask i Flt.trap) s).cancelContract part n).modTask s.cur
         (fun y => y.retire 4))) ∧
     (Ready x a → (x.ctl.rd a).toNat = 0xFFFF →
       exec (.qrelease a) s = .next (((s.heldTasks part 0xFFFF).foldl (fun (t : State) i => t.makeRunnable i false)
         { s with fencedTraffic := false }.routesChanged).modTask s.cur (fun y => y.retire 4)) ∧
       exec (.qcancel a) s = .next (((s.heldTasks part 0xFFFF).foldl (fun (t : State) i => t.endTask i Flt.trap) s).modTask s.cur
         (fun y => y.retire 4))))

/-- R283, R287, R315 to R325, R348, R349: partset creates a partition from a well-formed descriptor, or answers why not; it resets and dissolves a
partition that exists and answers 2 for one that does not. phyrd reads and phywr writes a PHY or stack register of the
die. Each answers a next state, .next, where the rules let it execute.
The model's choices: a task of a service core may name a box of its own scratchpad, at level 2, as its descriptor (log 37). -/
def Obligations.ServiceCoreForms : Prop :=
  ∀ (s : State) (x : Task) (d a b : SReg) (h : HReg), Acts s x → 2 ≤ x.ctl.pl → Ready x a →
    let v := (x.ctl.rd a).toNat
    (Free x d → v < 36 →
      ∀ bs : List Byte, s.boxBytes x (x.ctl.hd h) 0 64 (descriptorLevels x) = .ok bs → partDescOk (bytesToNat bs) = true →
      (∀ code : Nat, s.createRefused v (bytesToNat bs) = some code → exec (.partset d a h) s = .next (s.setTask s.cur ((x.wr d (BitVec.ofNat 64 code)).retire 4))) ∧
      (∀ sv : SvLaunch, s.createRefused v (bytesToNat bs) = none → SMap.find s.svLaunches (bytesToNat bs / 2 ^ 64 % 2 ^ 32) = some sv →
        let u := s.createPart v (bytesToNat bs) sv
        exec (.partset d a h) s = .next (u.setTask u.cur ((x.wr d 0).retire 4)))) ∧
    (Free x d → ∀ id < 36, (v = id + 256 ∨ v = id + 512) →
      (s.part? id = none → exec (.partset d a 0) s = .next (s.setTask s.cur ((x.wr d 2).retire 4))) ∧
      (∀ p : Part, s.part? id = some p → s.holdsPrepared id = false → p.resetting = false →
        let u := ((s.abortOwnGroups id).abortPeerGroups id).finishReset id p
        let u' := if v = id + 512 then u.dissolve id p else u
        exec (.partset d a 0) s = .next (u'.setTask u'.cur ((x.wr d 0).retire 4)))) ∧
    (∀ (die ch : Nat) (r : PhyReg), phyAddress x (x.ctl.rd a) = .ok (die, ch, r) →
      (Free x d →
        exec (.phyrd d a) s = .next ((s.phyRead die ch r).2.setTask (s.phyRead die ch r).2.cur ((x.wr d (s.phyRead die ch r).1).retire 4))) ∧
      (Ready x b → ∀ u : State, s.phyWrite die ch r (x.ctl.rd b) = .ok u →
        exec (.phywr a b) s = .next (u.setTask u.cur (x.retire 4))))

/-! ### The vector stream -/

/-- R67, R136, R199: the merge rule. An active element of v[D] holds the low bits of the new value; an inactive one keeps its bits when the
register had the result's tag and reads as 0 otherwise; the bits above the last element are 0, the tag is the format,
and no other register changes. k0 reads as ones whatever is written to it. -/
def Obligations.VectorMerge : Prop :=
  (∀ (v : Vec) (k : BitVec 4) (d : Nat) (f : Fmt) (val : Nat → Nat), fmtReserved f = false → f ≠ Fm.none →
    let r := (v.merge d f (v.onActive k f val)).reg d
    r.tag = f ∧ r.data.toNat < 2 ^ (fmtWidth f * fmtElems f) ∧
    (∀ i < fmtElems f, r.elem (fmtWidth f) i =
      if (v.mask k.toNat).getLsbD i then val i % 2 ^ fmtWidth f
      else if (v.reg d).tag = f then (v.reg d).elem (fmtWidth f) i else 0) ∧
    (∀ j : Nat, j ≠ d → (v.merge d f (v.onActive k f val)).reg j = v.reg j)) ∧
  (∀ (v : Vec) (m : BitVec 4096), v.setMask 0 m = v ∧ v.mask 0 = BitVec.allOnes 4096) ∧
  (∀ (v : Vec) (n : Nat) (m : BitVec 4096), n ≠ 0 → (v.setMask n m).mask n = m)

/-- R201 to R203: the arithmetic forms on float formats round each element once under RM; the exact product of a fused form enters the sum
unrounded.
R204: the eight transcendental forms write F.fn of each element, whose value, within the error that the rule allows, is the model's free one
(log 14). -/
def Obligations.VectorFloat : Prop :=
  ∀ (s : State) (x : Task) (w : VWord), Acts s x → fmtIsFloat w.fmt = true → Sourced x w.a w.fmt →
    let F := floatLayout w.fmt
    let rm := w.rm.toNat
    let A (i : Nat) := F.value (lane x w w.a i)
    let B (i : Nat) := F.value (lane x w w.b i)
    let C (i : Nat) := F.value (lane x w w.c i)
    (Sourced x w.b w.fmt →
      exec (.vadd w) s = s.lanes x w (fun i => F.ofVal rm ((A i).add rm (B i))) ∧
      exec (.vsub w) s = s.lanes x w (fun i => F.ofVal rm ((A i).add rm (B i).neg)) ∧
      exec (.vmul w) s = s.lanes x w (fun i => F.ofVal rm ((A i).mul (B i))) ∧
      exec (.vdiv w) s = s.lanes x w (fun i => F.div rm (A i) (B i)) ∧
      exec (.vmin w) s = s.lanes x w (fun i => F.ofVal 0 ((A i).min (B i))) ∧
      exec (.vmax w) s = s.lanes x w (fun i => F.ofVal 0 ((A i).max (B i))) ∧
      (Sourced x w.c w.fmt →
        exec (.vfma w) s = s.lanes x w (fun i => F.ofVal rm (((A i).mul (B i)).add rm (C i))) ∧
        exec (.vfms w) s = s.lanes x w (fun i => F.ofVal rm (((A i).mul (B i)).add rm (C i).neg)) ∧
        exec (.vfnma w) s = s.lanes x w (fun i => F.ofVal rm (((A i).mul (B i)).neg.add rm (C i))))) ∧
    exec (.vsqrt w) s = s.lanes x w (fun i => F.sqrt rm (A i)) ∧
    exec (.vabs w) s = s.lanes x w (fun i => F.ofVal 0 (A i).abs) ∧
    exec (.vneg w) s = s.lanes x w (fun i => F.ofVal 0 (A i).neg) ∧
    (let fn (k : Fn) : Out := s.lanes x w (fun i => F.fn rm k (lane x w w.a i))
     exec (.vexp w) s = fn .exp ∧ exec (.vlog w) s = fn .log ∧ exec (.vrcp w) s = fn .rcp ∧ exec (.vrsqrt w) s = fn .rsqrt ∧
     exec (.vtanh w) s = fn .tanh ∧ exec (.vsigm w) s = fn .sigm ∧ exec (.vsin w) s = fn .sin ∧ exec (.vcos w) s = fn .cos)

/-- R201, R203: the arithmetic, saturating, logic and shift forms on integer formats. That vsra brings the top bit in on Z formats too is the
model's reading (log 15). -/
def Obligations.VectorInteger : Prop :=
  ∀ (s : State) (x : Task) (w : VWord), Acts s x → fmtIsInt w.fmt = true → Sourced x w.a w.fmt →
    let f := fmtWidth w.fmt
    let a (i : Nat) := lane x w w.a i
    let b (i : Nat) := lane x w w.b i
    let A (i : Nat) : Int := intElem w.fmt (a i)
    let B (i : Nat) : Int := intElem w.fmt (b i)
    let wraps (v : Nat → Int) : Out := s.lanes x w (fun i => (v i % 2 ^ f).toNat)
    let clamps (v : Nat → Int) : Out := s.lanes x w (fun i => codeOf f (max (intBounds w.fmt).1 (min (intBounds w.fmt).2 (v i))))
    (Sourced x w.b w.fmt →
      exec (.vadd w) s = wraps (fun i => A i + B i) ∧
      exec (.vsub w) s = wraps (fun i => A i - B i) ∧
      exec (.vmul w) s = wraps (fun i => A i * B i) ∧
      exec (.vmulh w) s = wraps (fun i => A i * B i / 2 ^ f) ∧
      exec (.vmin w) s = wraps (fun i => min (A i) (B i)) ∧
      exec (.vmax w) s = wraps (fun i => max (A i) (B i)) ∧
      exec (.vadds w) s = clamps (fun i => A i + B i) ∧
      exec (.vsubs w) s = clamps (fun i => A i - B i) ∧
      exec (.vand w) s = s.lanes x w (fun i => a i &&& b i) ∧
      exec (.vor w) s = s.lanes x w (fun i => a i ||| b i) ∧
      exec (.vxor w) s = s.lanes x w (fun i => a i ^^^ b i)) ∧
    exec (.vabs w) s = wraps (fun i => (A i).natAbs) ∧
    exec (.vneg w) s = wraps (fun i => -A i) ∧
    exec (.vnot w) s = s.lanes x w (fun i => 2 ^ f - 1 - a i) ∧
    (∀ n : Nat → Nat, ((w.flg = 0 ∧ Sourced x w.b w.fmt ∧ ∀ i, n i = b i % f) ∨ (w.flg = 1 ∧ ∀ i, n i = w.c.toNat)) →
      exec (.vsll w) s = s.lanes x w (fun i => a i * 2 ^ n i % 2 ^ f) ∧
      exec (.vsrl w) s = s.lanes x w (fun i => a i / 2 ^ n i) ∧
      exec (.vsra w) s = wraps (fun i => signedOf f (a i) / 2 ^ n i))

/-- R205, R207: compares write a mask, and the mask forms work on all 4,096 bits; kpop
and kfirst look at the elements of FMT. -/
def Obligations.VectorMasks : Prop :=
  ∀ (s : State) (x : Task) (w : VWord), Acts s x →
    let M (r : BitVec 9) := x.vec.mask r.toNat
    let masks (m : BitVec 4096) : Out := s.vecCompletes x (x.vec.setMask w.d.toNat m)
    let n := if w.fmt = Fm.none then 4096 else fmtElems w.fmt
    (w.fmt = Fm.none →
      exec (.kand w) s = masks (M w.a &&& M w.b) ∧ exec (.kor w) s = masks (M w.a ||| M w.b) ∧ exec (.kxor w) s = masks (M w.a ^^^ M w.b) ∧
      exec (.kandn w) s = masks (M w.a &&& ~~~M w.b) ∧ exec (.knot w) s = masks (~~~M w.a) ∧ exec (.kmov w) s = masks (M w.a) ∧
      (∀ m : BitVec 4096, (∀ i < 4096, m.getLsbD i = decide (i < (x.vec.scalar w.a.toNat).toNat)) → exec (.kmovPfx w) s = masks m)) ∧
    exec (.kpop w) s = s.vecCompletes x (x.vec.setScalar w.d.toNat
      (BitVec.ofNat 64 ((List.range n).filter (fun i => (M w.a).getLsbD i)).length)) ∧
    (∀ i ≤ n, (∀ j < i, (M w.a).getLsbD j = false) → (i = n ∨ (M w.a).getLsbD i = true) →
      exec (.kfirst w) s = s.vecCompletes x (x.vec.setScalar w.d.toNat (BitVec.ofNat 64 i))) ∧
    (Sourced x w.a w.fmt → Sourced x w.b w.fmt → fmtIsInt w.fmt = true ∨ fmtIsFloat w.fmt = true ∨ w.fmt = Fm.idx16 →
      ∀ m : BitVec 4096,
        (∀ i < 4096, m.getLsbD i = (decide (i < fmtElems w.fmt) && x.vec.active w.k i &&
          compareHolds w.flg (compareElems w.fmt (lane x w w.a i) (lane x w w.b i)))) → exec (.vcmp w) s = masks m)

/-- R208 to R211: vcvt converts the part that VC names; vcvtb converts whole blocks, each with its own header; vrng writes the number of
each element's global coordinate; the reductions fold each segment as a balanced tree into the elements 0 upward.
R211: the integer sum of a segment that does not saturate is the sum of its active elements modulo 2^w. That FLG[0] of vredsum does nothing in
a float format is the model's choice (log 43). -/
def Obligations.VectorConversionsAndReductions : Prop :=
  (∀ (s : State) (x : Task) (w : VWord), Acts s x →
     let a := x.vec.reg w.a.toNat
     let wrap := w.flg.getLsbD 0
     let ns := fmtElems a.tag
     let nd := fmtElems w.fmt
     let p := w.c.toNat
     let width := fmtWidth w.fmt
     (a.tag ≠ Fm.none → a.bad = [] → vcvtTarget w.fmt = true → (wrap = true → fmtIsInt w.fmt = true ∨ w.fmt = Fm.idx16) →
       let part (d0 s0 n : Nat) : Out := s.vecCompletes x (x.vec.merge w.d.toNat w.fmt ((List.range nd).map (fun i =>
         if d0 ≤ i ∧ i < d0 + n ∧ x.vec.active w.k i = true then some (convert w.fmt w.rm.toNat wrap (a.value (s0 + (i - d0)))) else none)))
       (ns ≤ nd → nd % ns = 0 → p < nd / ns → exec (.vcvt w) s = part (p * ns) 0 ns) ∧
       (nd < ns → ns % nd = 0 → p < ns / nd → exec (.vcvt w) s = part 0 (p * nd) nd)) ∧
     (fmtIsFloat a.tag = true → a.bad = [] → fmtIsBlock w.fmt = true → nd % ns = 0 → p < nd / ns →
       let bs := (chunks (fmtBlock w.fmt) ns ((List.range ns).map a.value)).map (convertBlock w.fmt w.rm.toNat)
       exec (.vcvtb w) s = s.vecCompletes x (x.vec.setReg w.d.toNat ((((x.vec.reg w.d.toNat).merge w.fmt
         (List.replicate (p * ns) none ++ bs.flatMap (fun b => b.2.map some) ++ List.replicate (nd - p * ns - ns) none)).putHeaders
           (p * ns / fmtBlock w.fmt) (bs.map (fun b => b.1))).clearHeaders ((List.range bs.length).map (fun i => p * ns / fmtBlock w.fmt + i))))) ∧
     (∀ g : Nat → List Int, w.fmt = Fm.z32 ∨ w.fmt = Fm.fp32 → useHandle (x.vec.box w.a.toNat) = .ok () →
       (∀ i < nd, x.vec.active w.k i = true → s.shardGlobal x.own (x.vec.box w.a.toNat)
         (splitIndex (x.vec.box w.a.toNat) ((x.vec.scalar w.b.toNat).toNat + i)) = .ok (g i) ∧ coordsFit (g i) = true) →
       let number (i : Nat) : Nat := (krng (x.vec.scalar w.c.toNat) ((x.vec.scalar (w.c.toNat + 1)).setWidth 32)
         (nth (g i) 0 0).toNat (nth (g i) 1 0).toNat (nth (g i) 2 0).toNat (nth (g i) 3 0).toNat).toNat
       exec (.vrng w) s = s.lanes x w (fun i => if w.fmt = Fm.z32 then number i else fp32.ofVal 0 (.num false (number i / 2 ^ 8) (-24)))) ∧
     (Sourced x w.a w.fmt →
       let seg := min (2 ^ p) nd
       let F := floatLayout w.fmt
       let sat (v : Int) : Nat := codeOf width (max (intBounds w.fmt).1 (min (intBounds w.fmt).2 v))
       let I (v : Nat) : Int := intElem w.fmt v
       let leaf (f : Nat → Nat) (i : Nat) : Option Nat := if x.vec.active w.k i = true then some (f (lane x w w.a i)) else none
       let folds (f : Nat → Nat) (op : Nat → Nat → Nat) (empty : Nat) (j : Nat) : Nat :=
         (treeFold op (Nat.log2 seg) ((List.range seg).map (fun i => leaf f (seg * j + i)))).getD empty
       let gives (out : Nat → Nat) : Out := s.vecCompletes x (x.vec.fill w.d.toNat w.fmt
         ((List.range nd).map (fun j => if j < nd / seg then out j else 0)))
       (fmtIsFloat w.fmt = true →
         let abs (v : Nat) : Nat := if w.flg.getLsbD 1 then F.ofVal 0 (F.value v).abs else v
         let canon (v : Nat) : Nat := F.ofVal 0 (F.value v)
         exec (.vredsum w) s = gives (fun j => canon (folds id (fun u v => F.ofVal w.rm.toNat ((F.value u).addFold (F.value v))) 0 j)) ∧
         exec (.vredmax w) s = gives (fun j => canon (folds abs (fun u v => F.ofVal 0 ((F.value u).max (F.value v))) (F.ofVal 0 (.inf true)) j)) ∧
         exec (.vredmin w) s = gives (fun j => canon (folds abs (fun u v => F.ofVal 0 ((F.value u).min (F.value v))) (F.ofVal 0 (.inf false)) j))) ∧
       (fmtIsInt w.fmt = true →
         let abs (v : Nat) : Nat := if w.flg.getLsbD 1 then sat (I v).natAbs else v
         exec (.vredsum w) s = gives (folds id (fun u v => if w.flg.getLsbD 0 then sat (I u + I v) else codeOf width (I u + I v)) 0) ∧
         exec (.vredmax w) s = gives (folds abs (fun u v => codeOf width (max (I u) (I v))) (codeOf width (intBounds w.fmt).1)) ∧
         exec (.vredmin w) s = gives (folds abs (fun u v => codeOf width (min (I u) (I v))) (codeOf width (intBounds w.fmt).2)) ∧
         exec (.vredand w) s = gives (folds id (fun u v => u &&& v) (2 ^ width - 1)) ∧
         exec (.vredor w) s = gives (folds id (fun u v => u ||| v) 0)))) ∧
  (∀ (s : State) (x : Task) (w : VWord), Acts s x → fmtIsInt w.fmt = true → Sourced x w.a w.fmt → w.flg.getLsbD 0 = false →
     let seg := min (2 ^ w.c.toNat) (fmtElems w.fmt)
     ∃ y : Task, exec (.vredsum w) s = .next (s.setTask s.cur y) ∧ y.vec.pc = x.vec.pc + 8 ∧ (y.vec.reg w.d.toNat).tag = w.fmt ∧
       (∀ j < fmtElems w.fmt / seg, lane y w w.d j =
         (((List.range seg).map (fun i => if x.vec.active w.k (seg * j + i) = true then intElem w.fmt (lane x w w.a (seg * j + i)) else 0)).sum
           % 2 ^ fmtWidth w.fmt).toNat) ∧
       (∀ j < fmtElems w.fmt, fmtElems w.fmt / seg ≤ j → lane y w w.d j = 0))

/-- R212, R213, R215: the broadcasts, permutes, slides, rotations and interleavings take each active element from the place that their rule
names; partition writes an index list and a count for every outcome; compression and expansion keep the order. -/
def Obligations.VectorMoves : Prop :=
  ∀ (s : State) (x : Task) (w : VWord), Acts s x → fmtIsBlock w.fmt = false →
    let n := fmtElems w.fmt
    let A (r : BitVec 9) : Nat := (x.vec.scalar r.toNat).toNat
    let a (i : Nat) := lane x w w.a i
    let b (i : Nat) := lane x w w.b i
    let half := if w.flg.getLsbD 0 then 1 else 0
    let on := (List.range n).filter (x.vec.active w.k)
    (w.fmt ≠ Fm.none → (w.flg.getLsbD 0 = true → fmtIsInt w.fmt = true) →
      exec (.vbcast w) s = s.lanes x w (fun i => (A w.a + (if w.flg.getLsbD 0 then i else 0)) % 2 ^ fmtBits w.fmt)) ∧
    (Sourced x w.a w.fmt →
      (∀ list : Nat → Nat, (∀ j < listRegs w.fmt, (x.vec.reg (w.b.toNat + j)).tag = Fm.idx16 ∧ (x.vec.reg (w.b.toNat + j)).bad = []) →
        (∀ i < n, list i = (x.vec.reg (w.b.toNat + i / 1024)).elem 16 (i % 1024) ∧ list i < n) →
        exec (.vperm w) s = s.lanes x w (fun i => a (list i))) ∧
      exec (.vrot w) s = s.lanes x w (fun i => a ((i + A w.b) % n)) ∧
      ((∀ i < n, x.vec.active w.k i = true → A w.b + i / 2 ^ w.c.toNat < n) →
        exec (.vbcastel w) s = s.lanes x w (fun i => a (A w.b + i / 2 ^ w.c.toNat))) ∧
      (Sourced x w.b w.fmt →
        (A w.c ≤ n → exec (.vslide w) s = s.lanes x w (fun i => if i + A w.c < n then a (i + A w.c) else b (i + A w.c - n))) ∧
        exec (.vzip w) s = s.lanes x w (fun i => if i % 2 = 0 then a (half * (n / 2) + i / 2) else b (half * (n / 2) + i / 2)) ∧
        exec (.vunzip w) s = s.lanes x w (fun i => if i < n / 2 then a (2 * i + half) else b (2 * (i - n / 2) + half))) ∧
      (partFormat w.fmt = true →
        exec (.vpart w) s = s.vecCompletes x ((List.range w.c.toNat).foldl (fun v j =>
          (v.putList (w.d.toNat + j * listRegs w.fmt) (listRegs w.fmt) (on.filter (fun i => a i == j))).setScalar (w.b.toNat + j)
            (BitVec.ofNat 64 (on.filter (fun i => a i == j)).length)) x.vec)) ∧
      exec (.vcompress w) s = s.vecCompletes x ((x.vec.fill w.d.toNat w.fmt
        ((List.range n).map (fun j => if j < on.length then a (nth on j 0) else 0))).setScalar w.c.toNat (BitVec.ofNat 64 on.length)) ∧
      exec (.vexpand w) s = s.lanes x w (fun i => a ((List.range i).filter (x.vec.active w.k)).length))

/-- R214, R216: a load form puts the bytes of each active element of the box at its linear index in flight, and a store form posts the
bytes of each; one element outside the box faults with FLT_BOUNDS and nothing is read or written. Data that returns enters v[D]
by the merge rule, and no other register changes.
R196, R197: an instruction issues while no load in flight has a register in common with it, and before each earlier one that has yet to issue
it may only if the two are in different queues, neither writes what the other names, it is no barrier and writes no memory and no tile, their
classes differ (R85), and it is at most the slip depth after the oldest. The queues, that a queue issues in its order, and how
the depth is counted are the model's choices (log 5).
R214, R216: vld and vst of a block format move the elements and the headers of the blocks whose first mask bit is 1. -/
def Obligations.VectorLoadsAndStores : Prop :=
  (∀ (s : State) (x : Task) (w : VWord) (g : Region), Acts s x → fmtIsBlock w.fmt = false → w.fmt ≠ Fm.none → w.fmt = Handle.fmt (memBox x w) →
     useHandle (memBox x w) = .ok () → s.regionOf x.own (memBox x w) = .ok g →
     let h := memBox x w
     let coord (i : Nat) := regionCoord h (splitIndex h (memBase x w + i))
     let on (i : Nat) : Prop := i < fmtElems w.fmt ∧ x.vec.active w.k i = true
     let listed (list : Nat → Nat) : Prop := fmtIsScalar w.fmt = true ∧
       (∀ j < listRegs w.fmt, (x.vec.reg (w.c.toNat + j)).tag = Fm.idx16 ∧ (x.vec.reg (w.c.toNat + j)).bad = []) ∧
       ∀ i < fmtElems w.fmt, list i = (x.vec.reg (w.c.toNat + i / 1024)).elem 16 (i % 1024)
     let reads (i : Instr) (place : Nat → Nat) : Prop :=
       (∀ (cells : Nat → List Nat) (off : Nat → Nat),
         (∀ i, on i → memBase x w + place i < Handle.count h ∧ s.elemCells x.own g (coord (place i)) wantsRead = .ok (cells i, off i)) →
         exec i s = .next (s.setTask s.cur { x.postVector w.cls {
           reg := w.d.toNat, fmt := w.fmt, hdrs := [],
           els := ((List.range (fmtElems w.fmt)).filter (x.vec.active w.k)).map (fun i => (i, cells i, off i)) }
             with vec := { x.vec with pc := x.vec.pc + 8 } })) ∧
       ((∃ i, on i ∧ Handle.count h ≤ memBase x w + place i) → exec i s = s.deliverStream s.cur x .vector (.error (.flt Flt.bounds 0)))
     let writes (i : Instr) (place : Nat → Nat) : Prop :=
       (∀ ws : Nat → List ByteWrite, readOnly h = false → Sourced x w.d w.fmt →
         (∀ i, on i → memBase x w + place i < Handle.count h ∧ s.writeElem x.own g (coord (place i)) (lane x w w.d i) = .ok (ws i)) →
         exec i s = .next (s.setTask s.cur { x.postWrites .vector w.cls 0 0 (atomicParts w.fmt
           (((List.range (fmtElems w.fmt)).filter (x.vec.active w.k)).map ws)) with vec := { x.vec with pc := x.vec.pc + 8 } })) ∧
       (readOnly h = false → Sourced x w.d w.fmt → (∃ i, on i ∧ Handle.count h ≤ memBase x w + place i) →
         exec i s = s.deliverStream s.cur x .vector (.error (.flt Flt.bounds 0)))
     reads (.vld w) id ∧ writes (.vst w) id ∧
     (∀ list : Nat → Nat, listed list → reads (.vgather w) list ∧ writes (.vscatter w) list)) ∧
  (∀ (s : State) (x : Task) (w : VWord) (g : Region) (l : List (Nat × List Nat)), Acts s x → w.fmt = Handle.fmt (memBox x w) →
     fmtIsBlock w.fmt = true → useHandle (memBox x w) = .ok () → s.regionOf x.own (memBox x w) = .ok g → memBase x w % fmtBlock w.fmt = 0 →
     l = (x.vec.accessed w.k w.fmt).map (fun i => (i, regionCoord (memBox x w) (splitIndex (memBox x w) (memBase x w + i)))) →
     (∀ i ∈ x.vec.accessed w.k w.fmt, memBase x w + i < Handle.count (memBox x w)) →
     (∀ v : VecLoad, s.vectorRead x w g l = .ok v →
       exec (.vld w) s = .next (s.setTask s.cur { x.postVector w.cls v with vec := { x.vec with pc := x.vec.pc + 8 } })) ∧
     (∀ ws : List (List ByteWrite), readOnly (memBox x w) = false → (x.vec.reg w.d.toNat).tag = w.fmt → s.vectorWrite x w g l = .ok ws →
       exec (.vst w) s = .next (s.setTask s.cur { x.postWrites .vector w.cls 0 0 ws with vec := { x.vec with pc := x.vec.pc + 8 } }))) ∧
  (∀ (s : State) (t k : Nat) (x : Task) (a : Access) (l : VecLoad), s.task? t = some x → x.pend[k]? = some a → a.vectorLoad = some l →
     ∃ v : Vec, s.performAccess t x k a = s.setTask t { x with pend := x.pend.eraseIdx k, vec := v } ∧ v = { x.vec with v := v.v } ∧
       (v.reg l.reg).tag = l.fmt ∧ (∀ r : Nat, r ≠ l.reg → v.reg r = x.vec.reg r) ∧
       (∀ val : Nat → Nat, fmtIsBlock l.fmt = false → l.hdrs = [] → l.got = [] → l.bad = [] → l.own = false → (∀ b ∈ l.cells, s.isBad b = false) →
         l.els.Pairwise (fun d e => d.1 < e.1) → (∀ e ∈ l.els, e.1 < fmtElems l.fmt ∧
           val e.1 = bytesToNat (e.2.1.map s.byteAt) / 2 ^ e.2.2 % 2 ^ fmtWidth l.fmt) →
         v.reg l.reg = (x.vec.reg l.reg).merge l.fmt
           ((List.range (fmtElems l.fmt)).map (fun i => if l.els.any (fun e => e.1 == i) then some (val i) else none)))) ∧
  (∀ (x : Task) (i : Instr), x.mayIssue i = true ↔
     (∀ a ∈ x.pend, ∀ l : VecLoad, a.vectorLoad = some l → l.reg ∉ vectorRegs i) ∧
     (∀ q ∈ x.vec.queued, ∀ j : Instr, decodeVector q.word = .ok j →
       isBarrier i = false ∧ queueOf i ≠ queueOf j ∧ queueOf i ≠ .store ∧ (∀ u ∈ vectorUses i, u.2 ≠ .drain) ∧
       (∀ n ∈ writeNames x.vec j, n ∉ allNames x.vec i) ∧ (∀ n ∈ writeNames x.vec i, n ∉ allNames x.vec j) ∧
       (∀ c : BitVec 4, memoryClass i = some c → memoryClass j ≠ some c)) ∧
     (∀ q ∈ x.vec.queued.head?, q.behind + 1 ≤ x.vec.slip))

/-- R53, R217 to R219: vaccrd reads a Ready tile's rows into v[D], and drains it with REL; vaccwr writes a Ready tile, or an Empty one as a
fill; acczero fills an Empty tile with zeros. Each stalls until the tile is in the state that it needs. The tile's state is the one
before the form has started on it. -/
def Obligations.AccumulatorForms : Prop :=
  ∀ (s : State) (x : Task) (w : VWord), Acts s x →
    let row := (x.vec.scalar w.b.toNat).toNat
    let xr := x.beforeForm (.vaccrd w)
    let xw := x.beforeForm (.vaccwr w)
    let xz := x.beforeForm (.acczero w)
    let t := xr.tile w.a.toNat
    let u := xw.tile w.d.toNat
    let cell (d i : Nat) : Nat := natBits d (40 * i) 40
    (w.fmt ≠ Fm.none → fmtIsBlock w.fmt = false → row + fmtElems w.fmt / 64 ≤ 128 →
      (w.flg.getLsbD 0 = true → fmtIsInt w.fmt = true ∨ w.fmt = Fm.idx16 ∨ w.fmt = Fm.i40) →
      (t.st ≠ .ready ∨ (w.flg.getLsbD 1 = true ∧ t.readers ≠ 0) → exec (.vaccrd w) s = .next s) ∧
      (t.st = .ready → (w.flg.getLsbD 1 = true → t.readers = 0) →
        (∀ i < fmtElems w.fmt, x.vec.active w.k i = true → 64 * row + i ∉ t.bad) → ((w.fmt = Fm.a40 ∨ w.fmt = Fm.i40) → t.tag = w.fmt ∧ t.quarter = false) →
        let value (i : Nat) : Nat := if w.fmt = Fm.a40 ∨ w.fmt = Fm.i40 then cell t.data.toNat (64 * row + i)
          else convert w.fmt w.rm.toNat (w.flg.getLsbD 0) (accValue t.tag t.quarter (cell t.data.toNat (64 * row + i)))
        let y := if w.flg.getLsbD 1 then xr.drain w.a.toNat else xr.setTile w.a.toNat { t with claimed := true }
        exec (.vaccrd w) s = s.formEnds y (x.vec.merge w.d.toNat w.fmt (x.vec.onActive w.k w.fmt value)))) ∧
    (∀ tag : Fmt, w.fmt = Fm.none → accTagOf (x.vec.reg w.a.toNat).tag = some tag → (x.vec.reg w.a.toNat).bad = [] →
      let a := x.vec.reg w.a.toNat
      let n := fmtElems a.tag
      let clear := w.flg.getLsbD 0
      row + n / 64 ≤ 128 →
      let written (q : Nat) : Prop := 64 * row ≤ q ∧ q < 64 * row + n ∧ x.vec.active w.k (q - 64 * row) = true
      (u.st ≠ (if clear then .empty else .ready) ∨ (clear = false ∧ u.readers ≠ 0) → exec (.vaccwr w) s = .next s) ∧
      (u.st = (if clear then .empty else .ready) → (clear = false → u.readers = 0 ∧ u.tag = tag) →
        (w.flg.getLsbD 1 = true → ∀ q ∈ u.bad, ¬ written q) →
        let old (i : Nat) : Nat := if clear then 0 else cell u.data.toNat i
        let value (i : Nat) : Nat :=
          if written i then
            let v := toAcc a.tag (!clear && u.quarter) (a.elem (fmtWidth a.tag) (i - 64 * row))
            if w.flg.getLsbD 1 then accAdd tag (old i) v else v
          else old i
        exec (.vaccwr w) s = s.formEnds (xw.fillAcc w.d.toNat tag (!clear && u.quarter) ((List.range 8192).map value)
          (if clear then [] else u.bad.filter (fun q => ¬ written q))) x.vec)) ∧
    (w.fmt = Fm.a40 ∨ w.fmt = Fm.i40 →
      ((xz.tile w.d.toNat).st ≠ .empty → exec (.acczero w) s = .next s) ∧
      ((xz.tile w.d.toNat).st = .empty → ∃ y : Task, exec (.acczero w) s = s.formEnds y x.vec ∧
        let v := y.tile w.d.toNat
        v.st = .ready ∧ v.tag = w.fmt ∧ v.data = 0 ∧ v.readers = 0 ∧ (v.e0, v.e1, v.e2, v.e3) = (64, 128, 1, 1)))

/-- R137, R220, R222 to R226: the stream scalars, the queues, flags, semaphores, timelines, the fence, vnop and vend of the vector stream;
the waits change nothing until their condition holds. A signal of the vector stream comes, within its cycle, before those of the control
stream and the tests (R186).
R221: vloop enters its body with the pass index 0, or skips it where the count is 0; vendl at the end of the innermost body starts
the next pass or leaves the loop.
That a signal, a push and a set wait at issue for the earlier stores of the stream is the model's choice (log 4). -/
def Obligations.VectorControlAndLoops : Prop :=
  (∀ (s : State) (x : Task) (w : VWord), Acts s x →
     let A (r : BitVec 9) : Word := x.vec.scalar r.toNat
     let scalar (i : Instr) (v : Word) : Prop := exec i s = s.vecCompletes x (x.vec.setScalar w.d.toNat v)
     let settled := ∀ a ∈ x.pend, a.stream ≠ .vector
     let imm : Word := BitVec.ofInt 64 w.c.toInt
     let low := (A w.a).toNat % 2 ^ 32
     (w.fmt = Fm.none →
       (w.flg = 0 → scalar (.aadd w) (A w.a + A w.b) ∧ scalar (.asub w) (A w.a - A w.b) ∧
         scalar (.ashl w) (BitVec.ofNat 64 ((A w.a).toNat * 2 ^ ((A w.b).toNat % 64)))) ∧
       (w.flg = 1 → scalar (.aadd w) (A w.a + imm) ∧ scalar (.asub w) (A w.a - imm) ∧
         scalar (.ashl w) (BitVec.ofNat 64 ((A w.a).toNat / 2 ^ ((A w.b).toNat % 64)))) ∧
       (w.flg = 2 → scalar (.ashl w) (BitVec.ofInt 64 ((A w.a).toInt / 2 ^ ((A w.b).toNat % 64)))) ∧
       scalar (.amul w) (BitVec.ofNat 64 ((A w.a).toNat * (A w.b).toNat)) ∧ scalar (.amov w) (A w.a) ∧
       scalar (.ali w) (BitVec.ofInt 64 (w.a ++ w.b ++ w.c).toInt) ∧
       (settled → x.vec.vq.length < 64 → exec (.vpush w) s = s.vecCompletes x { x.vec with vq := x.vec.vq ++ [A w.a] }) ∧
       (¬ settled ∨ 64 ≤ x.vec.vq.length → exec (.vpush w) s = .next s) ∧
       (∀ (q : Word) (r : List Word), x.vec.cq = q :: r →
         exec (.vpop w) s = s.vecCompletes x ({ x.vec with cq := r }.setScalar w.d.toNat q)) ∧
       (x.vec.cq = [] → exec (.vpop w) s = .next s) ∧
       (w.flg = 1 → exec (.vfset w) s = s.vecCompletes x { x.vec with flags := x.vec.flags &&& ~~~((1 : BitVec 16) <<< w.c.toNat) }) ∧
       (w.flg = 0 → settled → exec (.vfset w) s = s.vecCompletes x { x.vec with flags := x.vec.flags ||| (1 : BitVec 16) <<< w.c.toNat }) ∧
       (settled → x.semInOrder s.cycle 2 w.c.toNat = true → exec (.vsig w) s = s.vecCompletes
         ((x.setSem w.c.toNat (BitVec.ofNat 32 (min ((x.sem w.c.toNat).toNat + low) (2 ^ 32 - 1)))).noteSem s.cycle 2 w.c.toNat) x.vec) ∧
       (¬ settled ∨ x.semInOrder s.cycle 2 w.c.toNat = false → exec (.vsig w) s = .next s) ∧
       (exec (.vswait w) s = if low ≤ (x.sem w.c.toNat).toNat then s.vecCompletes x x.vec else .next s) ∧
       (∀ done : Nat, (w.c = 1 ∧ done = x.mat.done) ∨ (w.c = 2 ∧ done = x.cpy.done) →
         exec (.vfwait w) s = if (A w.a).toNat ≤ done then s.vecCompletes x x.vec else .next s)) ∧
     ((∀ a ∈ x.pend, a.stream = .vector → (w.a ++ w.b.extractLsb' 2 7).getLsbD a.cls.toNat = false) →
       exec (.vfence w) s = s.vecCompletes x x.vec) ∧
     exec .vnop s = s.vecCompletes x x.vec ∧
     (settled → exec .vend s = s.vecCompletes x { x.vec with on := false, done := x.vec.done + 1, loops := [] }) ∧
     (¬ settled → exec .vend s = .next s)) ∧
  (∀ (s : State) (x : Task) (w : VWord), Acts s x →
     let v := x.vec
     let stop := v.pc + 8 * w.b.toNat
     let count := if w.flg.getLsbD 0 then w.c.toNat else (v.scalar w.a.toNat).toNat
     (w.fmt = Fm.none → s.codeNat x.own stop 8 = .ok (0x71 * 2 ^ 56) → vloopFits stop v.loops = true →
       (v.loops.length < 4 →
         (count = 0 → exec (.vloop w) s = .next (s.setTask s.cur { x with vec := { v with pc := stop + 8 } })) ∧
         (0 < count → ∃ y : Vec, exec (.vloop w) s = .next (s.setTask s.cur { x with vec := y }) ∧ y.pc = v.pc + 8 ∧
           y.loops = { start := v.pc + 8, stop := stop, left := count - 1, index := 0,
                       reg := if w.flg.getLsbD 1 then some w.d.toNat else none } :: v.loops ∧
           y.a = if w.flg.getLsbD 1 then SMap.put v.a w.d.toNat 0 else v.a)) ∧
       (4 ≤ v.loops.length → exec (.vloop w) s = s.deliverStream s.cur x .vector (.error (.flt Flt.capacity 0)))) ∧
     (∀ (e : VLoop) (r : List VLoop), v.loops = e :: r → e.stop = v.pc →
       (e.left = 0 → exec .vendl s = s.vecCompletes x { v with loops := r }) ∧
       (0 < e.left → ∃ y : Vec, exec .vendl s = .next (s.setTask s.cur { x with vec := y }) ∧ y.pc = e.start ∧
         y.loops = { e with left := e.left - 1, index := e.index + 1 } :: r ∧
         (∀ d : Nat, e.reg = some d → y.a = SMap.put v.a d (BitVec.ofNat 64 (e.index + 1))) ∧ (e.reg = none → y.a = v.a))) ∧
     ((∀ (e : VLoop) (r : List VLoop), v.loops = e :: r → e.stop ≠ v.pc) →
       exec .vendl s = s.deliverStream s.cur x .vector (.error (.flt Flt.illegal 0))))

/-! ### Engine records -/

/-- R139, R228: the loop indices of a pass are the digits of its number, the innermost fastest: each is below its trip count, and together
with the products of the inner counts they give the number back. The offset of a box operand is the sum of index times
step over the levels that name the dimension. -/
def Obligations.RecordLoops : Prop :=
  (∀ (ts : List Nat) (p : Nat), (∀ t ∈ ts, 0 < t) → p < ts.prod →
    (∀ j < ts.length, nth (loopIndices p ts) j 0 < nth ts j 0) ∧
    ((List.range ts.length).map (fun j => nth (loopIndices p ts) j 0 * (ts.take j).prod)).sum = p) ∧
  (∀ (q : QRec) (r : RecWord) (k p d : Nat), q.offset r k p d =
    ((List.range 6).map (fun l => if recDsel r k l = d then (q.loopIndex p l : Int) * q.step r k l else 0)).sum)

/-- R235, R74 to R79: a pass of mmul whose tiles are in the states that it needs, whose formats pair under the profile and whose geometry
is that of the shape fills or updates its accumulator tile with the rows' new values, and drains each slot that REL
selects and no later pass reads. A tile in another state stalls it. The tiles' states are those before the pass has started on
them.
R78: with WRAP, an element of an I40 tile after a pass is, modulo 2^40, its old value plus the dot product of a row of A and a column of
B. -/
def Obligations.MatrixPass : Prop :=
  (∀ (s : State) (x : Task) (i : Nat) (q : QRec) (r : RecWord) (ia ib it : Nat), Works s x .matrix i q →
     let x := q.view x
     q.tileId x r 0 q.pass = .ok ia → q.tileId x r 1 q.pass = .ok ib → q.tileId x r 2 q.pass = .ok it →
     let fill := r.clr && !q.named.contains it
     let isRead (id : Nat) : Prop := (x.tile id).st = .ready ∧ (q.lastRead x r q.pass id = true → (x.tile id).readers = 0)
     let takes : Prop := if fill then (x.tile it).st = .empty else (x.tile it).st = .ready ∧ (x.tile it).readers = 0
     (¬ (isRead ia ∧ isRead ib ∧ takes) → exec (.mmul r) s = .next s) ∧
     (isRead ia → isRead ib → takes → (x.tile ia).bad = [] → (x.tile ib).bad = [] → (fill = false → (x.tile it).bad = []) →
       let a := x.tileData ia
       let b := x.tileData ib
       let bt := r.kflags.getLsbD 0
       let m := shapeRows r.shape
       let prof := s.profileOf x r
       ∀ (kk : Nat) (kind : MatKind), matPair a.tag b.tag = some (kk, kind) → (bt = false → fmtIsBlock b.tag = false) →
         1 ≤ prof → prof ≤ 4 → (prof = 3 ↔ kind = .int) → nth a.ext 1 0 = m → nth a.ext 0 0 = kk →
         (bt = true → nth b.ext 1 0 = 64 ∧ nth b.ext 0 0 = kk) → (bt = false → nth b.ext 1 0 = kk ∧ nth b.ext 0 0 = 64) →
         let tag := if kind = .int then Fm.i40 else Fm.a40
         let quarter := kind == .int && (fmtKind a.tag == .hs || fmtKind b.tag == .hs)
         (fill = false → (x.tile it).tag = tag ∧ (x.tile it).quarter = quarter) →
         let old := if fill then List.replicate 8192 0 else (x.tileData it).vals
         let y := x.fillAcc it tag quarter (mmulTile prof r.wrap bt m kk kind a b old) []
         let y1 := if q.lastRead x r q.pass ia then y.drain ia else y
         let y2 := if ib ≠ ia ∧ q.lastRead x r q.pass ib = true then y1.drain ib else y1
         exec (.mmul r) s = s.turnEnds (s.setTask s.cur y2) .matrix i { q with named := it :: q.named, pass := q.pass + 1 })) ∧
  (∀ (bt : Bool) (kk : Nat) (a b : Data) (av bv : List Val) (i j old : Nat), fmtKind a.tag ≠ .hs → fmtKind b.tag ≠ .hs →
     let A (k : Nat) : Int := intFactor false a.tag (nth a.vals (i * kk + k) 0)
     let B (k : Nat) : Int := intFactor false b.tag (nth b.vals (if bt then j * kk + k else k * 64 + j) 0)
     mmulElement 3 true bt kk .int a b av bv i j old =
       ((signedOf 40 old + ((List.range kk).map (fun k => A k * B k)).sum) % 2 ^ 40).toNat)

/-- R236, R237: a pass of copy moves the window of its box to the window of another box, to an Empty tile as its fill, or from a Ready tile to a
box; a tile in another state stalls it.
R236, R239, R247, R251: a pass of the other copying kinds writes what its kind computes from the windows that it reads: the converted
elements, the elements in the permuted order, the pattern, the listed blocks, the entries of a shape and the digest of the
canonical bytes. -/
def Obligations.CopyPasses : Prop :=
  (∀ (s : State) (x : Task) (i : Nat) (q : QRec) (r : RecWord), Works s x .copy i q →
     let x := q.view x
     let w := q.sourceExt r
     let ends (s' : State) : Out := s.turnEnds s' .copy i { q with pass := q.pass + 1 }
     (∀ (g : Region) (h : Handle) (d : Data), isBox r 0 = true → Reads s x q r w g h d →
       (∀ ws : List (List ByteWrite), isBox r 1 = true → Writes s x q r w d.vals d.hdrs ws → exec (.copy r) s = ends (s.postRecord x q r ws)) ∧
       (∀ id : Nat, isBox r 1 = false → q.tileId x r 1 q.pass = .ok id →
         ((x.tile id).st ≠ .empty → exec (.copy r) s = .next s) ∧
         ((x.tile id).st = .empty → x.fillFits id d.tag (fun k => nth d.ext k 1) = .ok () →
           exec (.copy r) s =
             ends (s.setTask s.cur (if tileGroup id = 1 then x.fillAcc id d.tag false (accFromBox d) [] else x.fillTile id d))))) ∧
     (∀ id : Nat, isBox r 0 = false → q.tileId x r 0 q.pass = .ok id →
       ((x.tile id).st ≠ .ready ∨ (r.rel = true ∧ (x.tile id).readers ≠ 0) → exec (.copy r) s = .next s) ∧
       ((x.tile id).st = .ready → (r.rel = true → (x.tile id).readers = 0) → (x.tile id).bad = [] →
         let d := x.tileData id
         let e (k : Nat) : Nat := q.extent (fun j => nth d.ext j 1) k
         ∀ (g : Region) (h : Handle) (p : Data) (v : List Nat × List Nat) (ws : List (List ByteWrite)),
           s.boxWindow x q r 1 q.pass e = .ok (g, h) → d.part e = .ok p → x.fromTile id g.fmt r.wrap p = .ok v →
           s.writeWindow x g h v.1 v.2 = .ok ws →
           exec (.copy r) s = ends (s.postRecord (if r.rel then x.drain id else x) q r ws)))) ∧
  (∀ (s : State) (x : Task) (i : Nat) (q : QRec) (r : RecWord), Works s x .copy i q →
     let x := q.view x
     let w := q.sourceExt r
     let ends (s' : State) : Out := s.turnEnds s' .copy i { q with pass := q.pass + 1 }
     let posts (ws : List (List ByteWrite)) : Out := ends (s.postRecord x q r ws)
     (∀ (g g1 : Region) (h h1 : Handle) (d : Data) (ws : List (List ByteWrite)), Reads s x q r w g h d →
       s.boxWindow x q r 1 q.pass w = .ok (g1, h1) →
       s.writeWindow x g1 h1 (convertAll g1.fmt r.wrap d.values).1 (convertAll g1.fmt r.wrap d.values).2 = .ok ws →
       exec (.copyl r) s = posts ws) ∧
     (∀ (pi : Nat → Nat) (g : Region) (h : Handle) (d : Data) (ws : List (List ByteWrite)), Reads s x q r w g h d →
       let blocks (k : Nat) : Nat := if k = 0 then w 0 / fmtBlock g.fmt else w k
       Writes s x q r (fun k => w (pi k)) (permuteList w pi d.vals) (if d.hdrs.isEmpty then [] else permuteList blocks pi d.hdrs) ws →
       ((∀ k, pi k = w7 r (2 * k) 2) → exec (.perm r) s = posts ws) ∧
       ((∀ k, pi k = if k = w7 r 0 2 then w7 r 2 2 else if k = w7 r 2 2 then w7 r 0 2 else k) → exec (.trans r) s = posts ws)) ∧
     (let e := q.fillExt x r q.pass
      let n := e 0 * e 1 * e 2 * e 3
      (∀ (g : Region) (h : Handle) (ws : List (List ByteWrite)), isBox r 1 = true → s.boxWindow x q r 1 q.pass e = .ok (g, h) →
        s.writeWindow x g h (List.replicate n (q.pattern % 2 ^ fmtBits g.fmt)) [] = .ok ws → exec (.fill r) s = posts ws) ∧
      (∀ id : Nat, isBox r 1 = false → q.tileId x r 1 q.pass = .ok id →
        let f : Fmt := BitVec.ofNat 6 (w7 r 0 6)
        ((x.tile id).st ≠ .empty → exec (.fill r) s = .next s) ∧
        ((x.tile id).st = .empty → x.fillFits id f e = .ok () →
          exec (.fill r) s = ends (s.setTask s.cur (x.fillTile id
            { tag := f, ext := [e 0, e 1, e 2, e 3], vals := List.replicate n (q.pattern % 2 ^ fmtBits f), hdrs := [] }))))) ∧
     (∀ (gather : Bool) (bs : List ((Region × Handle) × (Region × Handle))) (ds : List Data) (ws : List (List (List ByteWrite))),
       s.allBlocks x q r gather q.named = .ok bs → bs.mapM (fun b => s.readWindow x b.1.1 b.1.2) = .ok ds →
       (bs.zip ds).mapM (fun p => s.writeWindow x p.1.2.1 p.1.2.2 p.2.vals p.2.hdrs) = .ok ws →
       exec (if gather then .gather r else .scatter r) s = posts ws.flatten) ∧
     (∀ (l : List Nat) (g : Region) (h : Handle) (ws : List (List ByteWrite)), s.checkShpf x q r = .ok l →
       s.window2 x (q.handle r 1) (fun _ => 0) (fun d => if d = 0 then l.length else 1) = .ok (g, h) →
       s.writeWindow x g h l [] = .ok ws → exec (.shpf r) s = posts ws) ∧
     (∀ (ks : List Nat) (rd : Nat → Region × Data) (g : Region) (h : Handle) (ws : List (List ByteWrite)), ks = [0, 1, 2].filter (isBox r) →
       (∀ k ∈ ks, s.regionOf x.own (q.handle r k) = .ok (rd k).1 ∧ s.readWindow x (rd k).1 (q.handle r k) = .ok (rd k).2) →
       s.window2 x (q.handle r 3) (fun _ => 0) (fun d => if d = 0 then 48 else 1) = .ok (g, h) →
       s.writeWindow x g h ((sha384 (ks.flatMap (fun k => canonicalBytes (q.handle r k) (rd k).2))).map (fun b => b.toNat)) [] = .ok ws →
       exec (.digest r) s = posts ws))

/-- R240 to R246: a pass of cbload fills its codebook slot once no earlier record uses it; a pass of edec decodes one block whose header
and check are right; a pass of vqx expands its indices; each first has its destination tile Empty. An index past the codebook or a check that fails writes nothing. -/
def Obligations.DecodeRecords : Prop :=
  ∀ (s : State) (x0 : Task) (i : Nat) (q : QRec) (r : RecWord), Works s x0 .copy i q →
    let x := q.view x0
    let ends (s' : State) (q' : QRec) : Out := s.turnEnds s' .copy i { q' with pass := q.pass + 1 }
    let h0 := q.handle r 0
    let cb := x.codebook (w7 r 8 3)
    (((x.codebook (w7 r 0 3)).busy ≠ 0 → exec (.cbload r) s = .next s) ∧
      (∀ bs : List Byte, (x.codebook (w7 r 0 3)).busy = 0 → s.recordBytes x h0 0 (Handle.ext h0 0) = .ok bs →
        (w7 r 8 2 = 1 → lengthsOk (prefixLengths bs) = true) →
        exec (.cbload r) s = ends (s.setTask s.cur (x.setCodebook (w7 r 0 3)
          { ty := w7 r 8 2, gen := w7 r 4 4, busy := 0, fmt := BitVec.ofNat 6 (w7 r 10 6), elems := w7 r 16 8, bytes := bs, bad := false })) q)) ∧
    (∀ dest : Option Nat, q.decodedTile x r (w7 r 16 5) = .ok dest →
     ∀ (hdr pay out : List Byte) (usize csize sum : Nat) (raw : Bool), s.recordBytes x h0 q.cursor 16 = .ok hdr →
      blockHeader (bytesToNat hdr) = some (usize, csize, sum, raw) → s.recordBytes x h0 (q.cursor + 16) csize = .ok pay →
      (raw = true → out = pay) →
      (raw = false → x.slotMatches (w7 r 0 3, 1, w7 r 4 4) = true ∧ (x.codebook (w7 r 0 3)).bad = false ∧
        ∃ l : List Nat, decodeSymbols (canonicalCode (prefixLengths (x.codebook (w7 r 0 3)).bytes)) usize (bitsOf pay) = some l ∧
          out = l.map (fun v => BitVec.ofNat 8 v)) →
      ((crc32c out).toNat ≠ sum → exec (.edec r) s = s.turnFaults x0 .copy Flt.checksum) ∧
      ((crc32c out).toNat = sum → ∀ (tag : Fmt) (vals : List Nat) (s' : State),
        (r.kflags.getLsbD 0 = true → tag = cb.fmt ∧ cb.bad = false ∧ cb.expand (indicesOf (r.kflags.getLsbD 1) out) = .ok vals) →
        (r.kflags.getLsbD 0 = false → tag = edecTag r ∧ 8 * usize % fmtWidth tag = 0 ∧
          vals = unpackBits (fmtWidth tag) (8 * usize / fmtWidth tag) (bytesToNat out)) →
        s.fillDecoded x q r dest (w7 r 32 16) tag vals = .ok s' →
        exec (.edec r) s = ends s' { q with cursor := q.cursor + 16 + (csize + 15) / 16 * 16 })) ∧
    (∀ (dest : Option Nat) (d : Data) (y : Task), q.decodedTile x r 0 = .ok dest → cb.bad = false → (∀ id : Nat, isBox r 0 = false → q.tileId x r 0 q.pass = .ok id →
        (x.tile id).st = .ready ∧ (r.rel = true → (x.tile id).readers = 0) ∧ (x.tile id).bad = [] ∧ d = x.tileData id ∧ y = if r.rel then x.drain id else x) →
      (isBox r 0 = false → ∃ id : Nat, q.tileId x r 0 q.pass = .ok id) →
      (isBox r 0 = true → y = x ∧ ∃ (g : Region) (h : Handle), Reads s x q r (Handle.ext h0) g h d) →
      d.tag = Fm.z8 → (r.kflags.getLsbD 0 = true → d.vals.length % 2 = 0) →
      let indices := indicesOf (r.kflags.getLsbD 0) (d.vals.map (fun v => BitVec.ofNat 8 v))
      (∀ (vals : List Nat) (s' : State), cb.expand indices = .ok vals → s.fillDecoded y q r dest (w7 r 32 16) cb.fmt vals = .ok s' →
        exec (.vqx r) s = ends s' q) ∧
      ((∃ k ∈ indices, cb.bytes.length < entryBytes cb.fmt cb.elems * (k + 1)) →
        exec (.vqx r) s = s.turnFaults x0 .copy Flt.bounds))

/-- R122, R248 to R250, R253, R141: a pass of rcp within the device stores its window; one of gcp sends a packet for every line while its group is
Open, and counts them as discarded otherwise; a collective sends its source to every participant, and once it has theirs
writes its result; enc forwards a frame to an encoder of its die and writes the frame's number; a hint performs nothing.
The layout of the messages, the key of a collective's instance and what its participants compare are the model's choices (log 25), and so is
the place of a record among those of its kind (log 35). -/
def Obligations.RemoteRecords : Prop :=
  ∀ (s : State) (x : Task) (i : Nat) (q : QRec) (r : RecWord), Works s x .copy i q →
    let x := q.view x
    let w := q.sourceExt r
    let ends (s' : State) (q' : QRec) : Out := s.turnEnds s' .copy i q'
    let next : QRec := { q with pass := q.pass + 1 }
    (∀ (g : Region) (h h1 : Handle) (d : Data), Reads s x q r w g h d → q.remoteWindow r q.pass = .ok h1 →
      let es := windowElems h1 d
      (w7 r 0 16 = s.deviceOf x.r.launch → ∀ (g1 : Region) (ws : List (List ByteWrite)), s.regionOf x.own h1 = .ok g1 →
        s.writeWindow x g1 h1 d.vals d.hdrs = .ok ws →
        exec (.rcp r) s = ends (s.postRecord x q r ws) next) ∧
      (w7 r 0 16 ≠ s.deviceOf x.r.launch → s.routeUp (s.partOf x) (w7 r 0 16) = true → q.cursor ≤ q.pass →
        exec (.rcp r) s = ends (s.sendOn (s.partOf x) (.remoteStore (w7 r 0 16)
          (remoteMessage (s.partOf x) s.cur q.num (s.meshWord x.r.launch) (q.handle r 1) es))) { q with cursor := q.pass + 1 }) ∧
      (w7 r 0 16 ≠ s.deviceOf x.r.launch → s.routeUp (s.partOf x) (w7 r 0 16) = true → q.pass < q.cursor →
        ∀ p : PeerData × State, s.takePeer (w7 r 0 16) ackKey (some (s.cur * 2 ^ 32 + q.num)) = some p → exec (.rcp r) s = ends p.2 next) ∧
      (∀ c : CGroup, s.ownGroup x (w7 r 16 6) = some c → s.withdrawing (w7 r 16 6) s.cur = false →
        let lines := s.remotePackets x h1 es
        (c.st = .opened → exec (.gcp r) s =
          ends (lines.foldl (fun u es => u.sendPacket (w7 r 16 6) s.cur (w7 r 0 16) x.r.launch x.r.launch .copy 0 (q.handle r 1) es) s) next) ∧
        (c.st ≠ .opened → exec (.gcp r) s =
          ends (s.setCGroup (w7 r 16 6) { c with discarded := c.discarded + lines.length }) next))) ∧
    (∀ (k : CollKind) (g : Region) (h : Handle), s.boxWindow x q r 0 q.pass w = .ok (g, h) →
      let me := s.deviceOf x.r.launch
      let devs := s.participants x r
      let f := Handle.fmt (q.handle r 0)
      let key := collKey k r (nth q.named 0 0) q.pass x.r.wid (s.partOf x)
      let params := collParams f r w
      let record : Instr := match k with | .allred => .allred r | .allgath => .allgath r | .bcast => .bcast r | .rdscat => .rdscat r
      (∀ dev ∈ devs, dev ≠ me → s.routeUp (s.partOf x) dev = true) →
      (∀ d : Data, q.cursor ≤ q.pass → s.readWindow x g h = .ok d →
        exec record s = ends (devs.foldl (fun (u : State) dev =>
          if dev = me then u.keepPeer me key params (dataBytes d) else u.sendOn (s.partOf x) (.peer dev key params (dataBytes d))) s)
          { q with cursor := q.pass + 1 }) ∧
      (q.pass < q.cursor → (∃ dev ∈ devs, ∀ p ∈ s.inbox, p.dev = dev → p.key ≠ key) → exec record s = .next s) ∧
      (∀ (got : List PeerData) (ws : List (List ByteWrite)), q.pass < q.cursor →
        devs.map (fun dev => s.inbox.find? (fun p => p.dev == dev && p.key == key)) = got.map some → (∀ p ∈ got, p.params = params) →
        let out := k.result r f w (s.collCoord x r) (got.map (fun p => dataOf f w p.bytes))
        Writes s x q r (k.destExt devs.length (collDim r) w) out.1 out.2 ws →
        exec record s = ends ({ s with inbox := s.inbox.filter (fun p => !(p.key == key && devs.contains p.dev)) }.postRecord x q r ws) next)) ∧
    (∀ (g0 g1 g2 g : Region) (h : Handle) (ws : List (List ByteWrite)), s.regionOf x.own (q.handle r 0) = .ok g0 →
      s.regionOf x.own (q.handle r 1) = .ok g1 → s.regionOf x.own (q.handle r 2) = .ok g2 →
      let e := dieOfTask x * 4 + w7 r 0 2
      let c := s.encoder e
      s.window2 x (q.handle r 1) (fun d => if d = 0 then 16 else 0) (fun d => if d = 0 then 8 else 1) = .ok (g, h) →
      s.writeWindow x g h ((natToBytes 8 (c.issued + 1)).map (fun b => b.toNat)) [] = .ok ws →
      (16 ≤ c.frames.length → exec (.enc r) s = .next s) ∧
      (c.frames.length < 16 →
        let f : EncFrame := ⟨s.cur, s.partOf x, r, q.handle r 0, q.handle r 1, q.handle r 2, g0, g1, g2, c.issued + 1, x.r.cls, x.r.deadline,
          false, false, [], [], false, false⟩
        exec (.enc r) s = ends ((s.setEncoder e { c with frames := c.frames ++ [f], issued := c.issued + 1 }).postRecord x q r ws) next)) ∧
    (∀ kind : BitVec 4, exec (.hintRecord kind r) s = .next s)

/-! ### Device steps -/

/-- R146, R161, R310, R333, R336, R338: data returns to its load and a posted store performs once the orders that bind it hold, after what
the error-correcting code found has been noted; the scrubber counts a corrected word and poisons an uncorrectable one, in
memories, in register files, in the frames and in the buffers (the numbering of the words is the model's, log 32); a mismatch of an operation
that Belvedere compares rolls the node back, and of another one stays until the next that it compares; a walk that the die's walker makes
serves the miss, or faults its stream. -/
def Obligations.MemoryEvents : Prop :=
  (∀ (s : State) (t k : Nat) (ecc : Ecc) (x y : Task) (a : Access), s.task? t = some x → x.pend[k]? = some a → s.ready x k a = true →
    (∀ (c : Nat) (r : List Nat), a.load.isSome = true → a.cells = c :: r → (s.noteEcc ecc c).task? t = some y →
      exec (.loadDataReturn t k ecc) s = .next ((s.noteEcc ecc c).performAccess t y k a)) ∧
    (∀ (w : ByteWrite) (r : List ByteWrite), a.load = none → a.writes = w :: r → (s.noteEcc ecc w.a).task? t = some y →
      exec (.postedStorePerform t k ecc) s = .next ((s.noteEcc ecc w.a).performAccess t y k a))) ∧
  (∀ (s : State) (a : Nat), 2 ^ 46 ≤ a → a < 2 ^ 48 →
    exec (.scrubSweep a .clean) s = .next s ∧
    (scratchOwner a = none → exec (.scrubSweep a .uncorrectable) s = .next (s.poisonUnit a)) ∧
    (∀ c : Nat, scratchOwner a = some c →
      exec (.scrubSweep a .corrected) s = .next (s.countEvent c Flt.ce 0) ∧
      (∀ u : State, s.poisonScratch c ((a - scratchpad 0) % 2 ^ 21) = some u → exec (.scrubSweep a .uncorrectable) s = .next u) ∧
      (s.poisonScratch c ((a - scratchpad 0) % 2 ^ 21) = none → exec (.scrubSweep a .uncorrectable) s = .next (s.poisonUnit a)))) ∧
  (∀ (s : State) (holder c w : Nat), c < 2 ^ 11 → w < 2 ^ 20 →
    let word := 2 ^ 48 + holder * 2 ^ 31 + c * 2 ^ 20 + w
    exec (.scrubSweep word .corrected) s = .next (s.countEvent c Flt.ce 0) ∧
    (∀ (t : Nat) (x : Task), (w < 8192 ∨ 12800 ≤ w) → s.scrubbed c holder = some (t, x) →
      exec (.scrubSweep word .uncorrectable) s = .next (s.setTask t (poisonRegister x w))) ∧
    (8192 ≤ w → w < 12288 → exec (.scrubSweep word .uncorrectable) s = .next (s.poisonBuffer c w)) ∧
    (12288 ≤ w → w < 12800 → exec (.scrubSweep word .uncorrectable) s =
      .next (s.setCore c { s.core c with sframeBad := mark (s.core c).sframeBad (w - 12288) }))) ∧
  (∀ (s : State) (t : Nat) (x : Task), s.task? t = some x →
    (controlRuns s x = true → s.compares x = true → x.ctl.act = false →
      exec (.belvedereMismatch t .control) s = .next ((s.rollback t Flt.check true 0).countEvent (coreOfTask x) Flt.check 0)) ∧
    (controlRuns s x = true → s.compares x = true → x.ctl.act = true →
      exec (.belvedereMismatch t .control) s = .next ((s.doubleTrap t x Flt.check).countEvent (coreOfTask x) Flt.check 0)) ∧
    (controlRuns s x = true → s.compares x = false →
      exec (.belvedereMismatch t .control) s = .next (s.setTask t { x with bel := { x.bel with struck := true } })) ∧
    (controlRuns s x = false → exec (.belvedereMismatch t .control) s = .next s) ∧
    (∀ st : Stream, st ≠ .control → exec (.belvedereMismatch t st) s = .next s)) ∧
  (∀ (s : State) (t : Nat) (st : Stream) (x : Task) (m : Miss), s.task? t = some x →
    s.misses.find? (fun m => m.task == t && m.stream == st) = some m →
    let die := dieOfTask x
    let v := s.startWalks die 64
    let kept := (v.die die).nonleaf
    let walks : Prop := (s.partOf x, m.va / 65536) ∈ (v.die die).walks ∧ v.walkable kept (s.partOf x) m.va = true
    (¬ walks → exec (.pageWalk t st) s = .next v) ∧
    (∀ code : Nat, walks → v.walkBy kept (s.partOf x) m.va m.wants = .error code → exec (.pageWalk t st) s = v.walkFault m x code) ∧
    (∀ w : Walked, walks → v.walkBy kept (s.partOf x) m.va m.wants = .ok w →
      ∃ u : State, exec (.pageWalk t st) s = .next u ∧ m ∉ u.misses ∧ u.tasks = s.tasks ∧ u.mem = s.mem ∧
        ⟨coreOfTask x, s.partOf x, m.va / 2 ^ w.shift * 2 ^ w.shift, 2 ^ w.shift, BitVec.ofNat 64 w.leaf⟩ ∈ u.tlb))

/-- R231, R240, R253, R254: a record starts once its semaphore has reached its threshold and its checks pass, and then takes its trips; it
completes when its passes and their writes have, and the timeline rises and the semaphore signals, in its place among the signals and tests
of its cycle (R186). An encoder starts its next frame, stops it for one of a higher class with its state saved in its context, and completes it
with the bitstream, the header and the context written.
The model's choices: a frame's picture and context are read when it starts (log 36), and a switch writes free bytes to the context (log 11,
36). -/
def Obligations.EngineEvents : Prop :=
  (∀ (s : State) (t : Nat) (e : Engine) (x : Task) (k : Nat) (q : QRec) (w : BitVec 512), s.task? t = some x →
    streamRuns x (streamOf e) = true → activeRecord e (x.eng e).queue = some (k, q) → q.started = false → s.recordWords x q = .ok w →
    ((w.extractLsb' 56 8).toNat ≠ 0x30 → x.thresholdMet (recOf w) = false → exec (.recordStart t e) s = .next s) ∧
    ((w.extractLsb' 56 8).toNat = 0x30 ∨ x.thresholdMet (recOf w) = true →
      x.soundThreshold (recOf w) ((w.extractLsb' 56 8).toNat == 0x30) = .ok () →
      (∀ f, decodeRecord w = .error f → exec (.recordStart t e) s = s.deliverStream t x (streamOf e) (.error (.flt Flt.illegal 0))) ∧
      (∀ (i : Instr) (trips : List Nat) (q' : QRec) (cpy : Eng), decodeRecord w = .ok i → (∀ g, recEngine i = some g → g = e) →
        s.recordLegal x { q with w := w } i = true →
        (∀ n ∈ allSlots i, ∀ p ∈ (x.eng e).queue.take k, loadedSlot p.w ≠ some n) → isHint i = false → s.recordTrips x q (recOf w) = .ok trips →
        ({ q with w := w, trips := trips } : QRec).buffersOk x i = true → s.kindChecks x { q with w := w, trips := trips } i = .ok (q', cpy) →
        let y : Task := match e with | .copy => { x with cpy := cpy } | .matrix => x
        let z := (y.setEng e { y.eng e with queue := (y.eng e).queue.set k { q' with started := true } }).mapBusy i (fun n => n + 1)
        exec (.recordStart t e) s = .next (s.setTask t (if (recOf w).wthr = 0 then z else z.noteSem s.cycle 4 (recOf w).wsem.toNat))))) ∧
  (∀ (s : State) (t : Nat) (e : Engine) (x : Task) (q : QRec) (rest : List QRec) (i : Instr), s.task? t = some x →
    streamRuns x (streamOf e) = true → (x.eng e).queue = q :: rest → decodeRecord q.w = .ok i → isEnc i = false →
    (mayComplete x e = false ∨ x.signalInOrder e s.cycle = false → exec (.recordComplete t e) s = .next s) ∧
    (mayComplete x e = true → x.signalInOrder e s.cycle = true → ∃ y : Task, exec (.recordComplete t e) s = .next (s.setTask t y) ∧ (y.eng e).queue = rest ∧
      (y.eng e).done = (x.eng e).done + 1 ∧
      (∀ n : Nat, y.sem n = if (recOf q.w).sig = true ∧ n = (recOf q.w).ssem.toNat
        then BitVec.ofNat 32 (min ((x.sem n).toNat + 1) (2 ^ 32 - 1)) else x.sem n))) ∧
  (∀ (s : State) (enc : Nat) (f : EncFrame),
    let c := s.encoder enc
    ((∀ g ∈ c.frames, g.running = false) → s.nextFrame c = some f →
      (f.stopped = true → exec (.encoderFrameStart enc) s = .next (s.setEncoder enc (c.replace { f with running := true, stopped := false }))) ∧
      (∀ p k : List Nat, f.stopped = false → s.frameCells f.part f.g0 f.h0 wantsRead = some p → s.frameCells f.part f.g2 f.h2 wantsRead = some k →
        (p ++ k).all s.readable = true → exec (.encoderFrameStart enc) s = .next (s.setEncoder enc (c.replace { f with
          running := true, bad := (p ++ k).any s.isBad, picture := f.samples (p.map s.byteAt), context := k.map s.byteAt })))) ∧
    (∀ g : EncFrame, c.frames.find? (fun f => f.running) = some f → s.nextFrame c = some g →
      (∀ k : List Nat, g.cls < f.cls → s.freshFree.2.frameCells f.part f.g2 f.h2 wantsWrite = some k →
        exec (.encoderFrameSwitch enc) s = .next ((s.freshFree.2.store
          ((k.zip (natToBytes f.context.length s.freshFree.1)).map (fun p => { a := p.1, mask := 0xFF, v := p.2 }))).setEncoder enc
            (c.replace { f with running := false, stopped := true, spilled := true }))) ∧
      (f.cls ≤ g.cls → exec (.encoderFrameSwitch enc) s = .next s)) ∧
    (∀ (a b : List ByteWrite) (k : List Nat), c.frames.find? (fun f => f.running) = some f →
      let o := f.outcome
      s.outputWrites f 64 o.2.1 = some a → s.outputWrites f 0 (natToBytes 8 o.2.1.length ++ natToBytes 4 o.1 ++ natToBytes 4 o.2.2.2) = some b →
      s.frameCells f.part f.g2 f.h2 wantsWrite = some k →
      let ctx : List ByteWrite := if o.1 = 0 ∨ o.1 = 2 ∨ f.spilled = true then (k.zip o.2.2.1).map (fun p => { a := p.1, mask := 0xFF, v := p.2 }) else []
      (a ++ b ++ ctx).all (fun w => s.online w.a) = true →
      exec (.encoderFrameComplete enc) s = .next (((s.store (a ++ b ++ ctx)).setEncoder enc (c.finish f.number)).frameSignal f)))

/-- R12, R14, R28, R261, R275, R295, R298 to R305: the steps of the hardware scheduler and of trap delivery, under the conditions that let
them act. Inward copies that are complete make their task Runnable; the allocator gives a task its storage and return staging; a free core takes
the record that R295 picks and starts its slice; a request at a boundary suspends the slice, which goes to the head of its queue; a claimed
unit is saved to its task's slot; a budget that is gone ends the task, extends it or defers it, by OVR; a task that has ended and drained applies
its outward copies and returns; a WAIT is met or times out with a tick's end; a halted core wakes; the lowest pending vector and
the fault of a record or vector instruction reach the control stream's boundary.
The model's choices: a view child with a SCRATCH box stands Runnable until its storage is there (log 21); the frame slot is the highest free
one, and a record is materialised before its first dispatch (log 10); what a WAIT sees is latched at a tick's end (log 2); the storage unit that
a claim takes, and the layout of a slot (log 22). -/
def Obligations.SchedulerEvents : Prop :=
  ∀ (s : State) (t : Nat) (x : Task), s.task? t = some x →
    let enters (z : Task) (o : Out) (code : Nat) (int : Bool) (val : Word) (l : Launch) : Prop :=
      ∃ y : Task, o = .next ({ s with misses := s.misses.filter (fun m => !(m.task == t && m.stream == Stream.control)) }.setTask t y) ∧
        y = { z with ctl := y.ctl }.follow ∧
        y.ctl.tframe = { s := x.ctl.s, h := x.ctl.h, loops := x.ctl.loops, bad := x.ctl.bad, hbad := x.ctl.hbad, own := x.ctl.own } ∧
        y.ctl.tstate = BitVec.ofNat 64 (code + (if int then 2 ^ 9 else 0) + x.ctl.pl * 2 ^ 10 + (if x.ctl.ie then 2 ^ 12 else 0)) ∧
        y.ctl.taddr = BitVec.ofNat 64 x.ctl.pc ∧ y.ctl.tresume = BitVec.ofNat 64 x.ctl.pc ∧ y.ctl.tval = val ∧
        y.ctl.pl = max x.ctl.pl 1 ∧ y.ctl.ie = false ∧ y.ctl.act = true ∧ y.ctl.pc = (s.core (coreOfTask x)).svec.toNat % 2 ^ 32 ∧
        y.ctl.h = s.rootBoxes l
    let handled (l : Launch) : Prop := ∃ sv : Nat, s.supervisorOf (s.partOf x) = some sv ∧ s.launch? sv = some l ∧
      s.handlerFault l = none ∧ s.rootBoxesReachable l = true ∧ x.service = false ∧ x.agrees = true ∧ noLoads x = true ∧ x.ctl.act = false
    (x.st = .copyingIn → x.placed = true → (∀ d : Nat, x.r.kind ≠ .service d) → exec (.copyInComplete t) s = .next (s.copiesDone t)) ∧
    (∀ (core : Nat) (args : List Arg) (p : State × List Arg), x.st = .copyingIn ∨ x.st = .runnable → x.placed = false → x.pendFault = none →
      x.r.home = none →
      x.r.args.mapM (fun (a : Arg) => if a.fresh && a.stale then s.snapshot (s.argParent x) a else Except.ok a) = .ok args →
      (∀ a ∈ args, a.fresh = true → a.bad = none) → (if x.r.level = 2 then s.storageCore x else some 0) = some core →
      (s.reserveStaging x).bind (fun u => u.placeBoxes x (s.argParent x) t core (args.map (fun a => { a with stale := false }))) = some p →
      exec (.childStorageAllocation t) s = .next (p.1.setTask t { x with r := { x.r with
        args := p.2, boxes := p.2.map (fun a => a.child), bound := if x.r.level = 2 then some core else x.r.bound } })) ∧
    (∀ core : Nat, core < 1152 → (s.core core).task = none → (s.core core).fenced = false → s.pickRecord core = some t →
      x.r.preempted = false → x.st = .runnable → s.queueReachable (s.partOf x) = true →
      (∀ (slot : Nat) (u : State) (y : Task), s.frameSlot t core x = some slot → (s.dequeue t).materialise t = some u → u.task? t = some y →
        exec (.dispatch core) s = .next ((u.setTask t (u.startSlice core y slot)).modCore core
          (fun k => { k.takeRegs y.r.cregs with
            task := some t, request := false, claimant := none, claim := none, buffer := k.buffer.filter (fun i => i != t) }))) ∧
      (s.frameSlot t core x = none → exec (.dispatch core) s = .next (s.modCore core (fun k => { k with claim := some .scratch })))) ∧
    (∀ core : Nat, (s.core core).task = some t → (s.core core).request = true → s.yields x = true → s.maySuspend x = true →
      ((s.core core).fenced = false ∨ x.r.level ≠ 2) → ((s.core core).asked ≠ some s.cycle ∨ x.st ≠ .running) →
      let u := s.modCore core (fun k => { k with request := false })
      exec (.preemption core) s = .next (match u.suspend t with | some v => v.makeRunnable t true | none => u.saveFails t)) ∧
    (∀ (unit : StorageUnit) (core : Nat), x.r.home = some core → x.r.core = none →
      let c := unitClass unit
      let wanted : Prop := (s.core core).claim = some c ∨ (c = .scratch ∧ s.scratchFull core = true)
      (¬ wanted ∨ s.unitVictim core c ≠ some t → exec (.storageUnitSave t unit) s = .next s) ∧
      (∀ u : State, wanted → s.unitVictim core c = some t → s.canGive t x = true → s.slotFor t x = some u →
        exec (.storageUnitSave t unit) s = .next ((u.stopForClaim t (unitStreams c)).trySave t (unitSections unit)))) ∧
    (∀ l : Launch, s.launch? x.r.launch = some l → budgetGone x = true → s.queueReachable (s.partOf x) = true →
      (l.ovr = 0 → exec (.sliceBudgetExhausted t) s = .next ((s.endTask t Flt.budget).interruptSupervisor (s.partOf x))) ∧
      (l.ovr = 1 → x.r.granted = false →
        exec (.sliceBudgetExhausted t) s = .next (s.setTask t { x with r := { x.r with budget := l.ovrc, granted := true } })) ∧
      (∀ u : State, l.ovr = 2 → s.contractOf x = none → s.maySuspend x = true → s.suspend t = some u → exec (.sliceBudgetExhausted t) s =
        .next ((u.modTask t (fun y => { y with r := { y.r with budget := s.sliceBudget x } })).makeRunnable t false)) ∧
      (∀ u : State, l.ovr = 2 → s.contractOf x ≠ none → s.maySuspend x = true → s.suspend t = some u →
        exec (.sliceBudgetExhausted t) s = .next (u.modTask t (fun y => { y with st := .deferred })))) ∧
    (x.r.dead = false → x.st = .retiring → x.r.ending = true → x.drained = true → x.ctl.act = false → x.pendFault = none → x.holdsPoison = false →
      let u := s.releaseCore t
      ∀ y : Task, u.task? t = some y →
      (x.r.jcount ≠ 0 ∨ u.framesForwarded t = true ∨ u.overtaken x = true → exec (.taskReturn t) s = .next u) ∧
      (∀ v w : State, x.r.jcount = 0 → u.framesForwarded t = false → u.overtaken x = false → (u.setTask t { y with st := .returning }).returnAll y = .ok v →
        v.finishReturn t 0 = .ok w → exec (.taskReturn t) s = .next (w.reapDead (w.tasks.length + 1)))) ∧
    (∀ w : Wait, x.st = .waiting → x.wait = some w →
      (w.met = none →
        let bits := s.condBits x w.conds
        exec (.waitConditionMet t) s = .next s ∧ exec (.waitTimeout t) s = .next s ∧
        (let met : Option Nat := if condsMet w.conds.length bits w.all = true ∨ w.timeoutAt ≤ s.cycle / 16 then some bits else none
         s.latchWaits.task? t = some { x with wait := some { w with met := met } })) ∧
      (∀ bits : Nat, w.met = some bits →
        (condsMet w.conds.length bits w.all = true →
          exec (.waitConditionMet t) s = .next (s.resumeWait t x w bits) ∧ exec (.waitTimeout t) s = .next s) ∧
        (condsMet w.conds.length bits w.all = false →
          exec (.waitTimeout t) s = .next (s.resumeWait t x w bits) ∧ exec (.waitConditionMet t) s = .next s))) ∧
    (∀ core v : Nat, (s.core core).task = some t → lowestPending (s.core core) = some v →
      (x.ctl.halted = true → exec (.haltWake core) s = .next (s.setTask t { x with ctl := { x.ctl with halted := false } })) ∧
      (∀ (n : Nat) (l : Launch), controlRuns s x = true → s.boundary x = .interrupt n → handled l → x.ctl.delay = none →
        enters x (exec (.interruptEntry core) s) v true 0 l)) ∧
    (∀ f : PendFault, x.pendFault = some f → x.ctl.act = false →
      let z := { x with pendFault := none }
      let traps : Prop := f.code = Flt.page ∨ f.code = Flt.trap ∨ f.code = Flt.brk ∨ s.delegates x f.code = true
      let present : Prop := f.code = Flt.page ∧ ∃ w, s.walk (s.partOf x) f.val.toNat ⟨false, false⟩ = .ok w
      (present → exec (.faultDelivery t) s = .next (s.setTask t z)) ∧
      (¬ present → rerunCode f.code = true → controlRuns s x = true ∨ (x.st = .waiting ∧ ¬ traps) →
        exec (.faultDelivery t) s = .next (s.requeue t z f.code f.val)) ∧
      (¬ present → rerunCode f.code = false → ¬ traps → controlRuns s x = true ∨ x.st = .waiting →
        exec (.faultDelivery t) s = .next (s.endTask t f.code)) ∧
      (¬ present → traps → controlRuns s x = false → x.st = .waiting →
        exec (.faultDelivery t) s = .next ((s.setTask t { x with wait := none }).makeRunnable t true)) ∧
      (∀ l : Launch, ¬ present → rerunCode f.code = false → traps → controlRuns s x = true → handled l → x.ctl.delay = none →
        enters z (exec (.faultDelivery t) s) f.code false f.val l))

/-- R282, R292, R295, R299: a contract's account that reaches 0 ends the budgets of its running slices on the cluster; at a release tick every
account is full again, once one that is at 0 has raised its fault, and the Deferred tasks go on in ascending WID; a periodic launch releases
its root tasks, or skips while one of the release before lives. -/
def Obligations.ContractEvents : Prop :=
  (∀ (s : State) (part n : Nat) (k : Contract), SMap.find s.contracts (contractKey part n) = some k → k.part = part →
    (∀ cl : Nat, cl ∈ k.clusters → SMap.get k.accounts cl 0 = 0 → cl ∉ k.spent →
      ∃ u : State, exec (.contractAccountExhausted part n cl) s = .next u ∧ u.mem = s.mem ∧
        SMap.find u.contracts (contractKey part n) = some { k with spent := cl :: k.spent } ∧
        (∀ t, (∀ x, (t, x) ∈ s.tasks → x.r.core = none ∨ x.r.cluster ≠ cl ∨ x.r.contract ≠ n) → u.task? t = s.task? t) ∧
        (∀ t x, (t, x) ∈ s.tasks → s.task? t = some x → x.r.core ≠ none → x.r.cluster = cl → x.r.contract = n → s.partOf x = part →
          u.task? t = some { x with r := { x.r with budget := 0 } })) ∧
    (k.q + (k.refills + 1) * k.period ≤ s.cycle / 16 → (∀ a ∈ k.accounts, a.2 = 0 → a.1 ∈ k.spent) → s.queueReachable part = true →
      let full : Contract := { k with refills := k.refills + 1, accounts := k.clusters.map (fun c => (c, k.budget)), spent := [] }
      let u := { s with contracts := SMap.put s.contracts (contractKey part n) full }
      exec (.contractRelease part n) s = .next ((sortBy (fun (a b : Nat × Task) => a.2.r.wid < b.2.r.wid)
        (s.tasks.filter (fun p => p.2.st == .deferred && p.2.r.contract == n && s.partOf p.2 == part))).foldl
        (fun (v : State) p => (v.modTask p.1 (fun x => { x with r := { x.r with budget := v.sliceBudget x, granted := false } })).makeRunnable p.1 false) u)) ∧
    (s.cycle / 16 < k.q + (k.refills + 1) * k.period ∨ (∃ a ∈ k.accounts, a.2 = 0 ∧ a.1 ∉ k.spent) →
      exec (.contractRelease part n) s = .next s)) ∧
  (∀ (s : State) (launch : Nat) (l : Launch) (k : Contract), s.launch? launch = some l → SMap.find s.contracts (contractKey l.part l.contract) = some k →
    l.periodic = true → l.live = true → l.closing = false →
    let due := l.start + (l.releases + l.skipped) * k.period
    (s.cycle / 16 < due → exec (.periodicRelease launch) s = .next s) ∧
    (due ≤ s.cycle / 16 → 0 < s.liveRoots launch → exec (.periodicRelease launch) s = .next (s.setLaunch launch { l with skipped := l.skipped + 1 })) ∧
    (due ≤ s.cycle / 16 → s.liveRoots launch = 0 → s.releaseRoom l = false → exec (.periodicRelease launch) s = .next s) ∧
    (due ≤ s.cycle / 16 → s.liveRoots launch = 0 → s.releaseRoom l = true → exec (.periodicRelease launch) s =
      .next ((s.setLaunch launch { l with releases := l.releases + 1 }).createRoots launch l (due + k.rdead))))

/-- R102, R105, R112 to R114: a record that waits at a source takes the next free slot of the ring with the source's next sequence number; a
source that has been silent for its timeout is Idle at the tick's end; the unit of a die with streams does its work once for each tick, at the
tick's last cycle; a returned firing or amendment is published. That the unit and the entries behind it wait for a staged line, and
that what comes after the unit's work belongs to the next tick, is log 33's and 44's reading. -/
def Obligations.SundialEvents : Prop :=
  (∀ (s : State) (source : Nat) (c : Source) (e : EStream) (bs : List Byte) (r : List (List Byte)), SMap.find s.sources source = some c →
    c.waiting = bs :: r → SMap.find s.streams c.stream = some e →
    (∀ i : Nat, e.freeSlot = some i → s.tickDone (c.stream / 256) = false → ∃ u : State, exec (.streamRecordEntry source) s = .next u ∧
      SMap.find u.sources source = some { c with seq := c.seq + 1, waiting := r } ∧
      (∃ n : Nat, SMap.find u.streams c.stream =
        some { e with slots := SMap.put e.slots i 0, arrivals := e.arrivals ++ [(n, i)], wpos := (i + 1) % e.size }) ∧
      u.mem = (s.unitWrite e.launch e.ring (i * e.recSize) (recMark (bs.take e.recSize) (source % 1024) 0 c.seq)).mem) ∧
    (e.freeSlot = none ∨ s.tickDone (c.stream / 256) = true → exec (.streamRecordEntry source) s = .next s)) ∧
  (∀ (s : State) (source : Nat) (c : Source) (e : EStream), SMap.find s.sources source = some c → SMap.find s.streams c.stream = some e → e.arrivals = [] →
    s.cycle % 16 = 15 →
    (c.st = .active → c.last + c.timeout ≤ s.cycle / 16 →
      exec (.sourceIdle source) s = .next { s with sources := SMap.put s.sources source { c with st := .idle } }) ∧
    (c.st ≠ .active ∨ s.cycle / 16 < c.last + c.timeout → exec (.sourceIdle source) s = .next { s with sources := SMap.put s.sources source c })) ∧
  (∀ (s : State) (die : Nat),
    let u := s.sundialTick die
    let due : Prop := s.cycle % 16 = 15 ∧ (s.die die).ticked ≠ s.cycle / 16 + 1 ∧ (∃ p ∈ s.streams, p.1 / 256 = die) ∧ s.tickStalled die = false
    (due → exec (.sundialTick die) s = .next (u.setDie die { u.die die with ticked := s.cycle / 16 + 1 })) ∧
    (¬ due → exec (.sundialTick die) s = .next s)) ∧
  (∀ (s : State) (t b k : Nat) (x : Task), s.task? t = some x → x.st = .returned → s.headerStalled b k = false →
    (x.r.kind = .firing b k → exec (.windowPublication t) s =
      .next (((s.delTask t).publishWindow b k false x.r.status).tryFinishLaunch x.r.launch)) ∧
    (x.r.kind = .amendment b k → x.r.status = 0 ∨ s.tickStalled (b / 4 / 256) = false → exec (.windowPublication t) s =
      .next (((s.delTask t).publishWindow b k true x.r.status).tryFinishLaunch x.r.launch)))

/-- R121 to R127: the steps of the commit sequence. A packet is staged at its destination or poisons its group; PREPARE counts the
packets; PREPARED or REFUSED answers; the decision is Publish when every destination is PREPARED and Abort when one
refuses; publishing writes the staged bytes whose frames still have the granule and owner, discarding drops them; the group is Free when all have acknowledged. A group
that is undecided at its timeout aborts with cause 2, and a withdrawal takes a contributor's packets back. The model's own
choices in it: a withdrawal from a group Preparing or Deciding leaves its state and the group commits without the contributor,
the openings by which late packets and messages are told apart, the task runs that withdrawals name (log 34); the routes and the kinds of control messages (log 25); an
expired replicated group tells the other replicas (log 34). -/
def Obligations.GroupEvents : Prop :=
  (∀ (s : State) (k : Nat) (p : Packet), s.packets[k]? = some p → firstOfStream s.packets k = true → s.packetReachable p = true →
    let key := p.dev * 64 + p.group
    let u := { s with packets := s.packets.eraseIdx k }
    let d := { s.dest key with opening := p.opening, part := p.part, received := (s.dest key).received ++ [p.who] }
    let poisoned := { d with poisonedBy := d.poisonedBy ++ [p.who] }
    let d' : DestGroup := if p.bad = true then poisoned else d
    let late : Prop := (s.dest key).decision = some false ∨ s.endedHere key p.opening = true ∨ p.who ∈ (s.dest key).withdrawn
    (late → exec (.orangeryStaging k) s = .next u) ∧
    (¬ late →
      (u.packetCells p true = none → exec (.orangeryStaging k) s = .next (u.setDest key poisoned)) ∧
      (∀ ws : List ByteWrite, u.packetCells p true = some ws →
        (byLine ws).foldlM (fun (v : State) l => v.stageLine p l) (u.setDest key d') = none →
        exec (.orangeryStaging k) s = .next ((u.setDest key d').reportFull p)) ∧
      (∀ (w : ByteWrite) (r : List ByteWrite), u.packetCells p true = some (w :: r) → (∀ v ∈ r, v.a / 64 = w.a / 64) →
        s.linesUsed (stackDie w.a) < 131072 →
        let die := stackDie w.a
        let e : Staged := { dev := p.dev, group := p.group, who := p.who, writes := w :: r, gran := match s.frameAt w.a with | some f => f.gran | none => 0 }
        exec (.orangeryStaging k) s =
          .next { u.setDest key d' with staged := SMap.put s.staged die (SMap.get s.staged die [] ++ [e]) }))) ∧
  (∀ (s : State) (g : Nat),
    let c := s.cgroup g
    let me := s.deviceOf c.launch
    let part := s.launchPart c.launch
    let inTime : Prop := s.cycle < 16 * c.timeoutAt + 15
    (c.st = .preparing → inTime → (c.replicas = [] ∨ c.compared = true) → (∀ p ∈ s.withdrawals, p.1 ≠ g) → c.unsent = [] →
      (∀ d ∈ c.dests, d = me ∨ s.groupRoute part d = true) →
      (∀ t ∈ c.contributors, c.committer = some t ∨ s.task? t = none ∨ ∃ y, s.task? t = some y ∧ y.st = .returned) →
      (c.dests = [] → exec (.prepareSend g) s = .next (s.setCGroup g { c with st := .free, done := true })) ∧
      (c.dests ≠ [] → exec (.prepareSend g) s = .next (c.dests.foldl (fun (u : State) d =>
        if d = me then u.setDest (me * 64 + g) { u.dest (me * 64 + g) with expected := some (c.sentTo d), opening := c.opening }
        else u.sendControl (u.launchPart c.launch) d kindPrepare g c.opening (c.sentTo d))
        (s.setCGroup g { c with st := .deciding })))) ∧
    (c.st = .deciding → (∀ p ∈ s.withdrawals, p.1 ≠ g) →
      (inTime → c.refused = true → exec (.groupDecision g) s = .next (s.abortGroup g 6)) ∧
      (inTime → c.refused = false → (∀ d ∈ c.dests, d ∈ c.prepared) →
        exec (.groupDecision g) s = .next ((s.setCGroup g { c with st := .publishing }).tellDests g true)) ∧
      (¬ inTime ∨ c.refused = false ∧ (∃ d ∈ c.dests, d ∉ c.prepared) → exec (.groupDecision g) s = .next s)) ∧
    ((c.st = .publishing ∨ c.st = .aborting) →
      ((∀ d ∈ c.dests, d ∈ c.acked) → exec (.groupFree g) s = .next (s.setCGroup g { c with st := .free, done := true })) ∧
      ((∃ d ∈ c.dests, d ∉ c.acked) → exec (.groupFree g) s = .next s)) ∧
    (c.undecided = true → ¬ inTime → exec (.groupTimeout g) s = .next ((s.tellReplicas g).abortGroup g 2)) ∧
    (c.compared = true ∨ c.replicas = [] → s.tellReplicas g = s) ∧
    (c.undecided = false ∨ inTime → exec (.groupTimeout g) s = .next s) ∧
    (∀ (t : Nat) (w : Nat × Nat), s.withdrawals.find? (fun w => w.1 == g && w.2 / 256 == t) = some w →
      let u := { s with withdrawals := s.withdrawals.filter (fun p => p != w) }
      let c1 := { c with sent := c.sent.filter (fun p => p.2 != t), unsent := c.unsent.filter (fun w => w != t) }
      (c.undecided = false → exec (.withdrawal g t) s = .next u) ∧
      (c.undecided = true → exec (.withdrawal g t) s =
        .next ({ c with sent := c.sent.filter (fun p => p.2 == t) }.dests.foldl (fun (v : State) d => v.tellWithdrawal g w.2 c1 d)
          (u.setCGroup g c1)))) ∧
    (c.st = .preparing → inTime → c.replicas.head? = some me → c.compared = false → (∀ d ∈ c.replicas, ∃ p ∈ c.digests, p.1 = d) →
      ∀ u : State, u = (c.replicas.filter (fun d => d != me)).foldl (fun (v : State) d => v.sendControl part d kindVerdict g c.opening
        (match verdict c.digests c.replicas.length d with | .publish => 0 | .minority => 1 | .split => 2)) s →
      verdict c.digests c.replicas.length me ≠ .split →
      exec (.replicaDigestCompare g) s = .next (u.applyVerdict g (verdict c.digests c.replicas.length me)))) ∧
  (∀ (s : State) (key dest : Nat),
    let d := s.dest key
    (∀ n : Nat, d.expected = some n → d.prepared = false → d.decision = none → d.received.length = n →
      let yes := s.setDest key { d with prepared := true }
      let no := s.setDest key { d with expected := none }
      let own := s.groups.find? (fun q => s.groupKey q.1 == key && q.2.st != .free)
      (own = none →
        (d.poisonedBy = [] → exec (.prepared key dest) s = .next (yes.sendControl d.part (key / 64) kindPrepared (key % 64) d.opening dest)) ∧
        (d.poisonedBy ≠ [] → exec (.prepared key dest) s = .next (no.sendControl d.part (key / 64) kindRefused (key % 64) d.opening dest))) ∧
      (∀ q : Nat × CGroup, own = some q →
        (d.poisonedBy = [] → exec (.prepared key dest) s = .next (yes.replyPrepared q.1 dest false)) ∧
        (d.poisonedBy ≠ [] → exec (.prepared key dest) s = .next (no.replyPrepared q.1 dest true)))) ∧
    (let reachable : Prop := ∀ e ∈ s.stagedOf key, ∀ w ∈ e.writes, s.online w.a = true
     (d.decision = some true → reachable →
       let u := ((s.stagedOf key).foldl (fun (u : State) e => u.store (e.writes.filter (fun w => u.frameOk w.a d.part e.gran))) s).unstage
         (fun e => e.dev * 64 + e.group == key)
       exec (.publish key dest) s = .next ((u.endDest key).sendAck key dest d.part d.opening)) ∧
     (d.decision ≠ some true ∨ ¬ reachable → exec (.publish key dest) s = .next s)) ∧
    (d.decision = some false → ∃ u : State, exec (.abortDiscard key dest) s = .next (u.sendAck key dest d.part d.opening) ∧ u.mem = s.mem ∧
      u.stagedOf key = [] ∧ SMap.find u.dests key = none ∧ u.endedHere key d.opening = true ∧ (∀ p ∈ u.packets, p.dev * 64 + p.group ≠ key)))

/-- R349, R353, R354: a flit enters only over a port that is up, whole, addressed to this device's node and the next of its kind from its
source; a message that fits one flit is taken, a part of a longer one is kept; a stream record whose ring is full and another
device's stores whose channels are away wait; a port that goes down carries no traffic, and one that comes back sends the pending decisions
again. The layout of a flit's header and of the messages in it is the model's (log 25). -/
def Obligations.LinkEvents : Prop :=
  ∀ (s : State) (port : Nat),
    (∀ flit : List Byte,
      let kind := msgNat flit 0 1
      let src := msgNat flit 4 2
      let seq := msgNat flit 8 8
      let due : Prop := s.portUp port = true ∧ flitOk flit = true ∧ msgNat flit 2 2 = s.node ∧ seq = SMap.get s.seqIn (flitKey kind src) 0
      let here (p : PeerData) : Bool := p.dev == src && p.key == partKey kind
      let b := (s.inbox.filter here).flatMap (fun p => p.bytes) ++ (flit.drop 16).take (min 216 (msgNat flit 6 2))
      let u := { s with inbox := s.inbox.filter (fun p => !here p), seqIn := SMap.put s.seqIn (flitKey kind src) (seq + 1) }
      let waits : Prop := (kind = 1 ∧ s.withheld b = true) ∨ (kind = 6 ∧ s.storeWaits (remoteStore src b false) = true)
      (¬ due → exec (.flitReceive port flit) s = .next s) ∧
      (due → msgNat flit 1 1 % 2 = 1 → exec (.flitReceive port flit) s = .next (u.keepPeer src (partKey kind) 0 b)) ∧
      (due → msgNat flit 1 1 % 2 = 0 → waits → exec (.flitReceive port flit) s = .next s) ∧
      (due → msgNat flit 1 1 % 2 = 0 → ¬ waits →
        exec (.flitReceive port flit) s = .next (u.takeMessage kind src b (msgNat flit 1 1 / 2 % 2 = 1)))) ∧
    (s.portUp port = true → exec (.portDown port) s = .next { s with downPorts := port :: s.downPorts }) ∧
    (∀ t : State, exec (.portDown port) s = .next t → t.portUp port = false) ∧
    (port ∈ s.downPorts → exec (.routeRestored port) s =
      let u := { s with downPorts := s.downPorts.filter (fun p => p != port) }
      .next u.routesChanged)

/-- R318 to R325, R342 to R345: the steps of the controllers and PHYs. A lane delay, a training run, a lane repair are taken on a channel
that is drained and has no run under way; a channel goes offline and drains; a granule change and a row repair do what their commands
say; a pseudo-channel is erased once no access to its stack is in flight. In whose logs a lane repair (action 6), an erased pseudo-channel (7), a row repair
(4) and a row to retire (5) stand, and in what words, is log 24's reading of R344. -/
def Obligations.PhyEvents : Prop :=
  ∀ (s : State) (die ch : Nat) (v : Word), die < 9 → die ≠ 4 → ch < 32 →
    let k := s.stack die
    let c := k.chan ch
    let chan (n : Chan) : Out := .next (s.setStack die { k with chans := SMap.put k.chans ch n })
    (c.drained = true → c.busy = false →
      (∀ lane ≤ 73, exec (.rdly die ch lane v) s = chan { c with rdly := SMap.put c.rdly lane (v.setWidth 6) } ∧
        exec (.wdly die ch lane v) s = chan { c with wdly := SMap.put c.wdly lane (v.setWidth 6) }) ∧
      (v.getLsbD 0 = true →
        exec (.trctl die ch v) s = chan { c with busy := true, done := false, pass0 := 0, pass1 := 0, run := v.setWidth 32 }) ∧
      (v.getLsbD 0 = false → exec (.trctl die ch v) s = .next s) ∧
      (lrepOk v = true →
        let u := s.setStack die { k with chans := SMap.put k.chans ch { c with lrep := v.setWidth 16 } }
        let low := if v.getLsbD 7 = true ∧ c.lrep.getLsbD 7 = false then u.logStack die 6 (clsevWord 5 (2 * ch) 0 0 0 (v.extractLsb' 0 7).toNat) else u
        exec (.lrep die ch v) s = .next (if v.getLsbD 15 = true ∧ c.lrep.getLsbD 15 = false then
          low.logStack die 6 (clsevWord 5 (2 * ch + 1) 0 0 0 (v.extractLsb' 8 7).toNat) else low)) ∧
      (lrepOk v = false → exec (.lrep die ch v) s = .next s)) ∧
    (c.drained = true → c.busy = true → exec (.trctl die ch v) s = .next s ∧ exec (.lrep die ch v) s = .next s ∧
      (∀ lane : Nat, exec (.rdly die ch lane v) s = .next s ∧ exec (.wdly die ch lane v) s = .next s)) ∧
    (c.drained = false →
      exec (.trctl die ch v) s = .next s ∧ exec (.lrep die ch v) s = .next s ∧
      (∀ lane : Nat, exec (.rdly die ch lane v) s = .next s ∧ exec (.wdly die ch lane v) s = .next s)) ∧
    (c.busy = true → ∃ (m n : Word) (u : State), exec (.trainingRunDone die ch) s = .next u ∧
      (u.stack die).chan ch = { c with busy := false, done := true, pass0 := m, pass1 := n } ∧ n.toNat < 2 ^ 10 ∧ u.mem = s.mem ∧ u.tasks = s.tasks) ∧
    (v.getLsbD 0 = true → c.offline = false → exec (.chctl die ch v) s = chan { c with offline := true, drained := false }) ∧
    (v.getLsbD 0 = true → c.offline = true → exec (.chctl die ch v) s = .next s) ∧
    (v.getLsbD 0 = false → exec (.chctl die ch v) s = chan { c with offline := false, drained := false }) ∧
    (c.offline = true → s.inFlight (s.usesChannel die ch) = false → exec (.channelDrained die ch) s = chan { c with drained := true }) ∧
    (c.offline = false ∨ s.inFlight (s.usesChannel die ch) = true → exec (.channelDrained die ch) s = .next s) ∧
    (k.granCmd = none → exec (.grancmd die v) s = .next (s.setStack die { k with granCmd := some v })) ∧
    (k.repCmd = none → exec (.repcmd die v) s = .next (s.setStack die { k with repCmd := some v })) ∧
    (∀ w : Word, k.granCmd = some w →
      let f := w.toNat % 2 ^ 20
      let st := w.toNat / 2 ^ 20 % 2 ^ 3
      let owner := w.toNat / 2 ^ 23 % 2 ^ 6
      let base := frameBase die f
      let old := match SMap.find k.frames f with | some e => granCells e.gran | none => 0
      s.frameBusy base = false →
      ((w.toNat / 2 ^ 29 ≠ 0 ∨ (4 ≤ st ∧ st ≤ 6) ∨ (st < 4 ∧ 36 ≤ owner)) →
        exec (.granuleChangeDone die) s = .next (s.setStack die { k with granCmd := none, granResult := 3 })) ∧
      (w.toNat / 2 ^ 29 = 0 → st < 4 → owner < 36 →
        (k.freeCells + old < granCells st → exec (.granuleChangeDone die) s = .next (s.setStack die { k with granCmd := none, granResult := 2 })) ∧
        (granCells st ≤ k.freeCells + old → ∃ u : State, exec (.granuleChangeDone die) s = .next u ∧
          u.stack die = { k with granCmd := none, granResult := 0, freeCells := k.freeCells + old - granCells st,
                                 frames := SMap.put k.frames f { gran := st, owner := owner } } ∧
          (∀ a : Nat, base ≤ a → a < base + 65536 → Memory.read u.mem a = 0 ∧ u.poison.contains (a / 8) = false) ∧
          (∀ a : Nat, (a < base ∨ base + 65536 ≤ a) → Memory.read u.mem a = Memory.read s.mem a))) ∧
      (w.toNat / 2 ^ 29 = 0 → st = 7 → exec (.granuleChangeDone die) s = .next (s.setStack die
        { k with granCmd := none, granResult := 0, freeCells := k.freeCells + old, frames := SMap.del k.frames f }))) ∧
    (∀ w : Word, k.repCmd = some w →
      let pc := w.toNat / 2 ^ 54 % 2 ^ 6
      let bank := w.toNat / 2 ^ 48 % 2 ^ 6
      let row := w.toNat / 2 ^ 30 % 2 ^ 18
      let used := SMap.get k.sparesUsed (pc * 64 + bank) 0
      (used < Config.spareRows die (pc * 64 + bank) → exec (.rowRepairDone die) s =
        .next ((s.setStack die { k with repCmd := none, repResult := 0, sparesUsed := SMap.put k.sparesUsed (pc * 64 + bank) (used + 1) }).logStack
          die 4 (clsevWord 2 pc bank row 0 0))) ∧
      (Config.spareRows die (pc * 64 + bank) ≤ used → exec (.rowRepairDone die) s =
        .next ((s.setStack die { k with repCmd := none, repResult := 2 }).logRow die pc bank row))) ∧
    (exec (.clsev die) s = .next (s.setStack die { k with events := k.events.drop 1, ovf := false })) ∧
    (s.stackBusy die = false → exec (.pcerase die v) s =
      .next (((List.range 64).filter (fun p => v.getLsbD p && !k.pcerase.getLsbD p)).foldl
        (fun (u : State) p => u.logStack die 7 (clsevWord 5 p 0 0 0 0)) (s.setStack die { k with pcerase := v }))) ∧
    (s.stackBusy die = true → exec (.pcerase die v) s = .next s)

/-- R265 to R267, R276, R289 to R294, R350 to R352, R361: the host port, the launch unit and the service cores. A DOORBELL moves TAIL when the value
lies in the ring; one in a reset sets DBLOST, one outside the ring BADDB. SUBMIT puts RECWIN into the source that it names, or sets NOCRED. The
launch unit reads the entry at HEAD, moves HEAD and accepts or rejects the header; the management cores submit privileged and supervisor
launches. SVCRUN starts a service core, whose task's end sets SVCSTAT and DONE; a reset starts a stopped one anew. A host access
acts on all its bytes. The model's own choices in it: the layout of a mailbox reply, and a record that waits behind others or for the next
tick (log 25, 33); the lowest free number of a launch and a supervisor launch (log 10); corners of the launch checks (log 27). -/
def Obligations.HostEvents : Prop :=
  (∀ (s : State) (vf id : Nat) (p : Part) (v : Word), s.functionPart vf = some (id, p) → vf ≠ 0 →
    let n := v.toNat % 4096
    let size := s.queueDescriptor id / 2 ^ 52 % 2 ^ 12
    (p.resetting = false → n < size → exec (.doorbell vf v) s = .next (s.setHostFn vf { s.hostFn vf with tail := n }) ∧
      exec (.registerWrite (.host vf) 0 v) s = .next (s.setHostFn vf { s.hostFn vf with tail := n })) ∧
    (p.resetting = false → size ≤ n → exec (.doorbell vf v) s = .next (s.raiseIstat vf istatBadTail)) ∧
    (p.resetting = true → exec (.doorbell vf v) s = .next (s.raiseIstat vf istatDbLost)) ∧
    exec (.mbsend vf) s = .next (s.send (.mailbox vf (natToBytes 64 (s.hostFn vf).mbox.toNat))) ∧
    (let src := v.toNat % 2 ^ 14
     let r := natToBytes 256 (s.hostFn vf).recwin.toNat
     (∀ (c : Source) (e : EStream), p.resetting = false → s.sourceOf src 1 (some id) = some (c, e) → s.credit src ≠ 0 →
       (∀ u : State, c.waiting = [] → s.enterRecord src r = some u → exec (.submit vf v) s = .next u) ∧
       (c.waiting ≠ [] ∨ s.enterRecord src r = none → exec (.submit vf v) s =
         .next { s with sources := SMap.put s.sources src { c with waiting := c.waiting ++ [r.take e.recSize] } })) ∧
     (p.resetting = true ∨ s.sourceOf src 1 (some id) = none ∨ s.credit src = 0 →
       exec (.submit vf v) s = .next (s.raiseIstat vf istatNoCred)))) ∧
  (∀ (s : State) (part : Nat) (p : Part), s.part? part = some p → p.resetting = false → s.queueReachable part = true →
    let f := s.hostFn p.vf
    let d := s.queueDescriptor part
    let size := d / 2 ^ 52 % 2 ^ 12
    let moved := s.setHostFn p.vf { f with head := (f.head + 1) % size }
    (f.head = f.tail → exec (.launch part) s = .next s) ∧
    (∀ bs hs : List Byte, f.head ≠ f.tail → size ≠ 0 → s.pinned part (d % 2 ^ 52 + 64 * f.head) = true →
      s.readVirtual part (d % 2 ^ 52 + 64 * f.head) 64 = .ok bs → s.reachable part (d % 2 ^ 52 + 64 * f.head) 64 = true →
      let e := bytesToNat bs
      s.readVirtual part (e % 2 ^ 52) 128 = .ok hs → s.reachable part (e % 2 ^ 52) 128 = true →
      s.tablesReachable part (newLaunch (bytesToNat hs) part [] none false none) = true →
      exec (.launch part) s = .next ((moved.submitLaunch part p.vf (e / 2 ^ 64 % 2 ^ 52) (bytesToNat hs) true
        (e / 2 ^ 52 % 2 ^ 12 == 0 && e / 2 ^ 116 % 2 ^ 396 == 0)).getD s)) ∧
    (∀ (crec : Nat) (hdr : List Byte), s.boot.started = true →
      s.tablesReachable part (newLaunch (bytesToNat (hdr.take 128)) part [] none false none) = true →
      (newLaunch (bytesToNat (hdr.take 128)) part [] none false none).priv = true → exec (.privilegedLaunch part crec hdr) s =
      .next ((s.submitLaunch part p.vf crec (bytesToNat (hdr.take 128)) false true).getD s))) ∧
  (∀ (s s1 : State) (img : LoadImage) (n : Nat), loadOk img = true → s.boot.started = true →
    img.frames.foldlM (fun (u : State) f => u.takeFrame f.1 f.2) s = some s1 →
    let s2 := img.writes.foldl (fun (u : State) w => u.storeBytes w.1 w.2) s1
    let l := newLaunch (bytesToNat img.header) 63 [] none true none
    let reply (number code : Nat) (u : State) : State :=
      let bytes := natToBytes 4 number ++ natToBytes 4 code ++ natToBytes 56 0
      let v := u.send (.mailbox 0 bytes)
      (v.setHostFn 0 { v.hostFn 0 with mbox := BitVec.ofNat 512 (bytesToNat (bytes.take 64)) }).raiseIstat 0 istatReply
    let code := s2.rejectReason (.table img.l1) l false true true
    (code ≠ 0 → exec (.supervisorLaunch img) s = .next (reply 0 code s)) ∧
    (code = 0 → s2.supervisorTables img.l1 l = true → n < 4096 → SMap.find s2.svLaunches n = none → (∀ m < n, SMap.find s2.svLaunches m ≠ none) →
      let k := SMap.lowestFree s2.launches
      let s3 := s2.setLaunch k (s2.withRegions (.table img.l1) l)
      exec (.supervisorLaunch img) s = .next (reply n 0 { s3 with
        svLaunches := SMap.put s3.svLaunches n { launch := k, frames := img.frames.map (fun f => f.1), l1 := img.l1, part := none } }))) ∧
  (∀ (s : State) (die : Nat) (v : Word), die < 9 →
    let d := s.die die
    let u := s.setDie die { d with svcHdr := v.toNat % 2 ^ 21, svcDone := d.svcDone && !v.getLsbD 61 }
    (v.getLsbD 63 = true → d.svcBusy = false → d.up = true → exec (.svcrun die v) s = .next (u.startService die)) ∧
    (v.getLsbD 63 = false ∨ d.svcBusy = true ∨ d.up = false → exec (.svcrun die v) s = .next u) ∧
    (d.svcStopped = true → ∃ w : State, exec (.serviceCoreReset die) s = .next w ∧ w.core (serviceCore die) = Core.reset ∧
      (∀ t x, w.task? t = some x → x.r.kind ≠ .service die) ∧ (w.die die) = { d with svcStopped := false, svcBusy := false }) ∧
    (d.svcStopped = false → exec (.serviceCoreReset die) s = .next s) ∧
    (∀ (t : Nat) (x : Task) (l : Launch), s.tasks.find? (fun p => p.2.r.kind == .service die && p.2.st == .returned) = some (t, x) →
      s.launch? x.r.launch = some l → exec (.serviceTaskEnd die) s =
        .next ((((s.setDie die { d with svcStatus := x.r.status % 256, svcDone := true, svcBusy := false }).setLaunch x.r.launch
          { l with live := false }).delTask t).interruptManagement (serviceCore die) (x.r.status % 256)))) ∧
  (∀ (s : State) (part va : Nat),
    (∀ (n : Nat) (cells : List Nat), (List.range n).mapM (fun i => s.physical part (va + i) wantsRead) = .ok cells →
      cells.all s.readable = true →
      exec (.hostMemoryAccess part va (.read n)) s = .next (s.send (.hostData (cells.map s.byteAt) (cells.any s.isBad)))) ∧
    (∀ (bs : List Byte) (cells : List Nat), (List.range bs.length).mapM (fun i => s.physical part (va + i) wantsWrite) = .ok cells →
      cells.all s.online = true → exec (.hostMemoryAccess part va (.write bs)) s =
        .next (s.store ((cells.zip bs).map (fun p => { a := p.1, mask := 0xFF, v := p.2 })))))

/-- R344, R356 to R360: a start whose ROM self-test passes counts itself before its steps, verifies the images in their order and brings the dies
up; three failures lead to minimal mode; the write of BOOTOK that ends a start makes it succeed and clears the count, MINVER never falls and
KEYREV never loses a bit; a power loss leaves only what is durable; reports and recovery images are answered. The model's own choices in it: a
failed self-test counts as a start that did not succeed, the order of an image's checks, what a device reset keeps of the model's own fields, and the byte order of
keys and signatures (log 38); the layout of the log records, of the report's first bytes in MBOX and of a recovery image's reply (log 25). -/
def Obligations.BootEvents : Prop :=
  ∀ (s : State),
    let b := s.boot
    let off (b : Boot) : Boot := { b with minimal := false, reason := 0, measured := [], starting := false, started := false, sram := [] }
    let replied (m : Message) (bytes : List Byte) : State :=
      let v := s.send m
      (v.setHostFn 0 { v.hostFn 0 with mbox := BitVec.ofNat 512 (bytesToNat (bytes.take 64)) }).raiseIstat 0 istatReply
    (∀ (x : StartInput),
      (x.romOk = false → exec (.deviceStart x) s = .next (s.deviceReset { b with fails := min 3 (b.fails + 1), lastReason := 1 })) ∧
      (x.romOk = true → b.fails = 3 →
        let u := { s.deviceReset b with boot := { off b with minimal := true, reason := b.lastReason } }
        exec (.deviceStart x) s = .next (if x.logDevice = true then u.send (logRecord b (s.cycle / 16)) else u)) ∧
      (x.romOk = true → b.fails ≠ 3 →
        let b' := { b with fails := b.fails + 1, lastReason := 8 }
        let r := startSteps b' x
        (r.1 ≠ 0 →
          let u := s.deviceReset { b' with lastReason := r.1 }
          exec (.deviceStart x) s = .next (if r.1 = 6 ∧ x.logDevice = true then u.send (trainingRecord x.untrained) else u)) ∧
        (r.1 = 0 → exec (.deviceStart x) s =
          .next { (s.deviceReset b').bringUp with boot := { off b' with measured := r.2, starting := true } }))) ∧
    (∀ v : Word, b.minimal = false → b.starting = true ∨ b.started = true →
      (v.getLsbD 0 = true → exec (.bootok v) s =
        .next { s with boot := { b with fails := 0, lastReason := 0, starting := false, started := true } }) ∧
      (v.getLsbD 0 = false → exec (.bootok v) s = .next s) ∧
      (b.started = true → exec (.minver v) s = .next { s with boot := { b with minver := max b.minver (v.toNat % 2 ^ 32) } }) ∧
      (b.started = false → exec (.minver v) s = .next s) ∧
      exec (.keyrev v) s = .next { s with boot := { b with keyrev := b.keyrev ||| v.setWidth 4 } }) ∧
    (∀ v : Word, b.minimal = true ∨ (b.starting = false ∧ b.started = false) →
      exec (.bootok v) s = .next s ∧ exec (.minver v) s = .next s ∧ exec (.keyrev v) s = .next s) ∧
    (∃ u : State, exec .powerLoss s = .next u ∧ u.mem = [] ∧ u.tasks = [] ∧ u.launches = [] ∧ u.cycle = 0 ∧ u.boot = off b) ∧
    (∀ nonce : List Byte, nonce.length = 32 → b.minimal = true ∨ b.started = true →
      let r := reportBytes b nonce
      exec (.attestationRequest nonce) s = .next (replied (.report (r ++ Config.signatureOf 0 r ++ Config.signatureOf 1 r)) r)) ∧
    (∀ img : List Byte, b.minimal = true →
      (recoveryReason b img ≠ 0 →
        let bytes := natToBytes 4 0 ++ natToBytes 4 (recoveryReason b img) ++ natToBytes 56 0
        exec (.recoveryImage img) s = .next (replied (.mailbox 0 bytes) bytes)) ∧
      (recoveryReason b img = 0 → exec (.recoveryImage img) s =
        .next ((s.send (.log ((img.drop 512).take (payloadSize img)))).deviceReset { b with fails := 0, lastReason := 0 })))

/-! ### Encodings, the step and the machine as a whole -/

/-- R165: every word of major 0x3C is a hint; it completes past its own word, changes nothing and is no control transfer. nop is the word
0xF0000000. -/
def Obligations.Hints : Prop :=
  (∀ w ext : BitVec 32, w.extractLsb' 26 6 = 0x3C → isWide w = false ∧ ∃ n : BitVec 26, decodeControl w ext = .ok (.hint n)) ∧
  (∀ ext : BitVec 32, decodeControl 0xF0000000 ext = .ok (.hint 0)) ∧
  (∀ (n : BitVec 26) (s : State) (x : Task), isTransfer (.hint n) = false ∧ (Acts s x → exec (.hint n) s = s.completes x 4))

/-- R206: vsel writes every element, from v[A] where the bit of k[K] is 1 and from v[B] elsewhere, whatever the tag of v[D] was; K = 0
selects v[A] everywhere. NONE and the block formats fault with FLT_FORMAT; VC, RM and FLG must be zero. -/
def Obligations.Select : Prop :=
  ∀ (s : State) (x : Task) (w : VWord), Acts s x →
    (w.fmt = Fm.none ∨ fmtIsBlock w.fmt = true →
      exec (.vsel w) s = s.deliverStream s.cur x .vector (.error (.flt Flt.format 0))) ∧
    (fmtIsBlock w.fmt = false → Sourced x w.a w.fmt → Sourced x w.b w.fmt →
      ∃ y : Task, exec (.vsel w) s = .next (s.setTask s.cur y) ∧ y = { x with vec := y.vec } ∧ y.vec.pc = x.vec.pc + 8 ∧
        (y.vec.reg w.d.toNat).tag = w.fmt ∧ (∀ j : Nat, j ≠ w.d.toNat → y.vec.reg j = x.vec.reg j) ∧
        (∀ i < fmtElems w.fmt, lane y w w.d i = if (x.vec.mask w.k.toNat).getLsbD i then lane x w w.a i else lane x w w.b i) ∧
        (w.k = 0 → ∀ i < fmtElems w.fmt, lane y w w.d i = lane x w w.a i)) ∧
    ((w.c ≠ 0 ∨ w.rm ≠ 0 ∨ w.flg ≠ 0) → (Instr.vsel w).wellFormed = false) ∧
    (∀ v : BitVec 64, v.extractLsb' 56 8 = 0x29 → v.extractLsb' 20 9 ≠ 0 ∨ v.extractLsb' 0 6 ≠ 0 → ∃ e, decodeVector v = .error e)

/-- R145, R148 to R152, R163, R176: the frame of the forms that write one scalar register. Every register but s[D], and but the index
registers of the loops that the task is in, keeps its value; so do s0, the handles, the privilege and trap registers, the
frame, the streams, the engines, the semaphores and tiles; so do the accesses in flight, but that a load into such an index register
leaves nothing there; no byte of memory and no other task changes. -/
def Obligations.RegisterFrame : Prop :=
  ∀ (s : State) (x : Task) (d a b : SReg) (h : HReg) (imm : BitVec 14) (n : BitVec 6) (ext : BitVec 32) (dim : BitVec 2),
    Acts s x → Ready x a → Ready x b → Free x d →
    ∀ i ∈ ([.add d a b, .sub d a b, .and d a b, .or d a b, .xor d a b, .andn d a b, .sll d a b, .srl d a b, .sra d a b, .rotl d a b,
        .slt d a b, .sltu d a b, .min d a b, .max d a b, .minu d a b, .maxu d a b, .clz d a, .popc d a] ++
      [.mul d a b, .mulh d a b, .mulhu d a b, .mulhsu d a b, .div d a b, .divu d a b, .rem d a b, .remu d a b] ++
      [.addi d a imm, .andi d a imm, .ori d a imm, .xori d a imm, .slti d a imm, .sltiu d a imm, .slli d a n, .srli d a n, .srai d a n,
        .rotli d a n, .li d ext, .liu d ext, .lih d a ext] ++
      [.rdcyc d, .rdtick d, .rdcore d, .boxext d h dim, .boxorg d h dim, .boxrank d h, .boxfmt d h, .boxmode d h] : List Instr),
      ∃ y : Task, exec i s = .next (s.setTask s.cur y) ∧
        y = { x with ctl := { x.ctl with s := y.ctl.s, bad := y.ctl.bad, own := y.ctl.own, pc := y.ctl.pc, delay := y.ctl.delay, loops := y.ctl.loops }, pend := y.pend } ∧
        (y.pend = x.pend ∨ ∃ e ∈ x.ctl.loops, y.pend = (x.overtake e.reg).pend) ∧ y.ctl.rd 0 = 0 ∧
        (∀ r : SReg, r ≠ d → (∀ e ∈ x.ctl.loops, e.reg ≠ r) →
          y.ctl.rd r = x.ctl.rd r ∧ (r.toNat ∈ y.ctl.bad ↔ r.toNat ∈ x.ctl.bad)) ∧
        (∀ p : Nat, Memory.read (s.setTask s.cur y).mem p = Memory.read s.mem p) ∧
        (∀ k : Nat, k ≠ s.cur → (s.setTask s.cur y).task? k = s.task? k)

/-- R158, R159, R188, R189: the frame of the forms that store. A posted store changes no byte before it performs, and the bytes that it will
write are those of its element; an atomic changes no byte before it performs, and then none but its element's; a frame store changes no byte of
the frame but the eight or 32 at its address, and none of memory. -/
def Obligations.StoreFrame : Prop :=
  ∀ (s : State) (x : Task), Acts s x →
    (∀ (m : CMem) (g : Region) (p : List Nat) (cells : List Nat) (rel : Bool), Ready x m.r → Ready x m.idx → storesPosted x < 32 →
      s.scalarElem x (x.ctl.hd m.h) (x.ctl.rd m.idx).toNat m.sz true = .ok (g, p) →
      s.regionBytes x g (elemBytes g p).1 (elemBytes g p).2 wantsWrite = .ok cells →
      ∃ (y : Task) (a : Access), exec (if rel then .stRel m else .st m) s = .next (s.setTask s.cur y) ∧
        y = { x with pend := x.pend ++ [a] }.retire 4 ∧ a.load = none ∧ (∀ w ∈ a.writes, w.a ∈ cells) ∧
        ∀ b : Nat, Memory.read (s.setTask s.cur y).mem b = Memory.read s.mem b) ∧
    (∀ (m : Amo) (g : Region) (p : List Nat) (cells : List Nat), x.service = false → s.amoElem x m false = .ok (g, p) →
      s.regionBytes x g (elemBytes g p).1 (elemBytes g p).2 wantsBoth = .ok cells →
      Free x m.d → Ready x m.a → Ready x m.b → Free x (m.d + 1) →
      ∀ i ∈ ([.amoadd m, .amoand m, .amoor m, .amoxor m, .amomin m, .amomax m, .amominu m, .amomaxu m, .amoswap m, .amocas m, .incw m,
          .faddb m, .redadd m, .redand m, .redor m, .redxor m, .redmin m, .redmax m, .redminu m, .redmaxu m] : List Instr),
        ∃ (y : Task) (a : Access), exec i s = .next (s.setTask s.cur y) ∧ y = { x with pend := x.pend ++ [a] }.retire 8 ∧ a.cells = cells ∧
          a.writes = [] ∧ ∀ b : Nat, Memory.read (s.setTask s.cur y).mem b = Memory.read s.mem b) ∧
    (∀ (t k : Nat) (z : Task) (a : Access), a.rmw ≠ none → a.load ≠ none →
      (∀ b : Nat, b ∉ a.cells → Memory.read (s.performAccess t z k a).mem b = Memory.read s.mem b) ∧
      (∀ j : Nat, j ≠ t → (s.performAccess t z k a).task? j = s.task? j)) ∧
    (∀ (d a : SReg) (h : HReg) (off : BitVec 11) (wide : Bool), x.ctl.pl = 0 → Ready x d → Ready x a →
      let fa := (BitVec.ofInt 64 ((x.ctl.rd a).toInt + 8 * off.toInt)).toNat
      let n := if wide then 32 else 8
      fa % n = 0 → fa + n ≤ (x.r.fsize + 1) * 4096 →
      ∃ y : Task, exec (if wide then .stfHandle h a off else .stf d a off) s = .next (s.setTask s.cur y) ∧
        y = { x.retire 4 with frame := y.frame, frameBad := y.frameBad } ∧
        (∀ b : Nat, b < fa ∨ fa + n ≤ b → Memory.read y.frame b = Memory.read x.frame b))

/-- R128 to R142: the turn of an agent. When a control stream takes its turn at a boundary that nothing else takes, and the word at its pc,
with its second word if it is wide, decodes to an instruction, the step is that instruction's; a word that gives none
raises FLT_PRIV or FLT_ILLEGAL. A vector stream runs the word at its own pc or one that waits in a queue, an engine the record that it works
on. The instruction itself moves the pc. A step adds to it only this: what comes before the effect faults first (R142, R327,
R332), a saved section that it uses is loaded (R304), a use that no unit is free for claims one (R304), the link of a slot's branch is settled
(R154), Belvedere's copy follows the core, no more than 1,024 requests of a core are in flight (R1). The model's own choices in it: which agent
acts is an agenda, and past its end nothing fixes it (log 1); how far the queues of the sequencer run ahead, and that a fault waits for the
earlier instructions (log 5); an operation on a tile entry starts in one turn and ends in a later one (log 6). -/
def Obligations.StepRunsDecoded : Prop :=
  ∀ (s : State) (r : List Pick) (t : Nat) (x : Task),
    let u := { s with agenda := r }
    let taken (o : Out) : Out := u.admitted t (u.claimed t o)
    let runs (i : Instr) : Prop :=
      (x.controlFlaw i (awaited x) = .ok () →
        (∀ v : State, u.touch t (controlSections x i) = some v →
          step s = State.followed t (taken (exec i { v.settleLink t x with cur := t }))) ∧
        (u.touch t (controlSections x i) = none → step s = State.followed t (.next u))) ∧
      (∀ (code : Nat) (v : Word), x.controlFlaw i (awaited x) = .error (.flt code v) → step s = u.raise t x code v)
    (s.agenda = .control t :: r → s.task? t = some x → controlRuns u x = true → x.placed = true ∨ x.ctl.act = true →
      u.boundary x = .issue → x.ctl.pc % 4 = 0 →
      ∀ n : Nat, u.codeNat x x.ctl.pc 4 = .ok n →
        let w := BitVec.ofNat 32 n
        (∀ i : Instr, isWide w = false → decodeControl w 0 = .ok i → runs i) ∧
        (∀ e : DecodeError, isWide w = false → decodeControl w 0 = .error e →
          step s = u.raise t x (if privilegeOf w ≤ x.ctl.pl then Flt.illegal else Flt.priv) 0) ∧
        (∀ m : Nat, isWide w = true → u.codeNat x (x.ctl.pc + 4) 4 = .ok m →
          (∀ i : Instr, decodeControl w (BitVec.ofNat 32 m) = .ok i → runs i) ∧
          (∀ e : DecodeError, decodeControl w (BitVec.ofNat 32 m) = .error e → step s = u.raise t x Flt.illegal 0))) ∧
    (∀ (v : State) (y : Task), v.task? t = some y →
      (∀ core : Nat, y.r.core = some core → v.unitShort core y = none ∧ (v.core core).claim = none) →
      v.requests (coreOfTask y) ≤ 1024 ∨ v.requests (coreOfTask y) ≤ u.requests (coreOfTask y) →
      taken (.next v) = .next v ∧ State.followed t (taken (.next v)) = .next (v.modTask t Task.follow)) ∧
    (s.task? t = some x → x.r.lazy = 0 → ∀ l : List Nat, u.touch t l = some u) ∧
    (x.ctl.delay = none → ∀ v : State, v.settleLink t x = v) ∧
    (s.agenda = .vector t :: r → s.task? t = some x → x.vec.on = true → streamRuns x .vector = true →
      let turn (o : Out) : Out := State.passed t x.vec (u.faultsInOrder t x x.vec.queued o)
      ∀ n : Nat, u.codeNat x.own x.vec.pc 8 = .ok n →
        (∀ i : Instr, decodeVector (BitVec.ofNat 64 n) = .ok i →
          (x.mayIssue i = false → step s = .next u) ∧
          (x.mayIssue i = true →
            (∀ (code : Nat) (v : Word), x.vectorFlaw i = .error (.flt code v) →
              step s = turn (u.deliverStream t x .vector (.error (.flt code v)))) ∧
            (x.vectorFlaw i = .ok () → ∀ v : State, u.touch t (vectorSections i) = some v →
              (∀ y : Task, vectorUses i ≠ [] → x.vec.opened = false → v.task? t = some y →
                step s = turn (taken (v.startTileForm t y (vectorUses i)))) ∧
              (vectorUses i = [] ∨ x.vec.opened = true → x.endInOrder u.cycle (vectorUses i) = true →
                step s = turn (taken (exec i { v with cur := t })))) ∧
            (vectorUses i = [] ∨ x.vec.opened = true → x.vectorFlaw i = .ok () → x.endInOrder u.cycle (vectorUses i) = false →
              step s = .next u))) ∧
        (∀ e : DecodeError, decodeVector (BitVec.ofNat 64 n) = .error e →
          step s = u.faultsInOrder t x x.vec.queued (u.deliverStream t x .vector (.error (.flt Flt.illegal 0)))) ∧
        (∀ (v : State) (y : Task), v.task? t = some y → x.vec.queued = [] → y.vec.queued = [] → turn (.next v) = .next v)) ∧
    (s.agenda = .decode t :: r → s.task? t = some x → x.vec.on = true → streamRuns x .vector = true →
      ∀ n : Nat, u.codeNat x.own x.vec.pc 8 = .ok n →
        let w := BitVec.ofNat 64 n
        (∀ i : Instr, decodeVector w = .ok i →
          (staysAtPc i = true → step s = .next u) ∧
          (staysAtPc i = false → step s = .next (u.setTask t { x with vec := x.vec.enqueue w }))) ∧
        (∀ e : DecodeError, decodeVector w = .error e → step s = .next u)) ∧
    (∀ (k : Nat) (q : Queued) (i : Instr), s.agenda = .queued t k :: r → s.task? t = some x → x.vec.on = true → streamRuns x .vector = true →
      x.vec.queued[k]? = some q → decodeVector q.word = .ok i →
      let y := { x with vec := x.vec.issuing q }
      let v := u.setTask t y
      (x.mayIssueAfter i (x.vec.queued.take k) q.behind = false → step s = .next u) ∧
      (x.mayIssueAfter i (x.vec.queued.take k) q.behind = true → y.vectorFlaw i = .ok () → vectorUses i = [] ∨ q.opened = true →
        y.endInOrder u.cycle (vectorUses i) = true → ∀ p w : State, v.touch t (vectorSections i) = some p →
        v.admitted t (v.claimed t (exec i { p with cur := t })) = .next w →
        (k = 0 ∨ x.pendFault.isSome = true ∨ ∀ z : Task, w.task? t = some z → z.pendFault = none) →
        step s = .next (w.modTask t (fun z => { z with vec := z.vec.after k q x.vec })))) ∧
    (∀ (e : Engine) (k : Nat) (q : QRec) (i : Instr), s.agenda = .engine t e :: r → s.task? t = some x →
      streamRuns x (streamOf e) = true → mayComplete x e = false → activeRecord e (x.eng e).queue = some (k, q) → q.started = true →
      decodeRecord q.w = .ok i →
      (∀ v : State, u.touch t (x.workOn e) = some v →
        (∀ y : Task, q.opened = false → q.uses x ≠ [] → v.task? t = some y → step s = taken (v.startPass t y e)) ∧
        (q.opened = true ∨ q.uses x = [] → x.endInOrder u.cycle (q.uses x) = true → step s = taken (exec i { v with cur := t }))) ∧
      (q.opened = true ∨ q.uses x = [] → x.endInOrder u.cycle (q.uses x) = false → step s = .next u) ∧
      (u.touch t (x.workOn e) = none → step s = .next u)) ∧
    (∀ i : Instr, s.agenda = .event i :: r → step s = if encode i = .event then exec i u else .next u) ∧
    (∀ n : Nat, s.agenda = .elapse n :: r → step s = .next (u.elapse n)) ∧
    (∀ (a : Nat) (e : Ecc), s.agenda = .ecc a e :: r → step s = .next (if isDram a then u.noteEcc e a else u)) ∧
    (∀ (die k : Nat) (e : Ecc), s.agenda = .orangery die k e :: r → step s = .next (u.noteStaged die k e)) ∧
    (s.agenda = [] → step s = act { s with turns := s.turns + 1 } (Config.nextPick s.turns))

/-- R128 to R141: words that the spec writes out, or that its encoding tables give, decode to the instructions that they stand for. -/
def Obligations.DecodedWords : Prop :=
  decodeTableWord 32 0x04618700 = some (.add 6 6 7) ∧
  decodeTableWord 32 0x0C71C001 = some (.addi 7 7 1) ∧
  decodeTableWord 32 0x2451A003 = some (.srai 5 6 3) ∧
  decodeTableWord 64 0x40400000F8020000 = some (.li 8 0x40400000) ∧
  decodeTableWord 32 0x94700000 = some (.boxext 7 0 0) ∧
  decodeTableWord 32 0x90500003 = some (.jstat 5 0) ∧
  decodeTableWord 32 0x90500104 = some (.wid 5 1) ∧
  decodeTableWord 32 0xA0000002 = some .rdv ∧
  decodeTableWord 32 0xE0000002 = some .tret ∧
  decodeTableWord 32 0xE0000102 = some .tretEnd ∧
  decodeTableWord 32 0xE8000002 = some .halt ∧
  decodeTableWord 32 0xF0000000 = some (.hint 0) ∧
  decodeTableWord 32 0x6C51FFFE = some (.bge 5 7 0x3FFE) ∧
  decodeTableWord 32 0x48600003 = some (.st ⟨6, 0, 0, 0, 0, 3⟩) ∧
  decodeTableWord 32 0x54518C0E = some (.stRel ⟨5, 3, 6, 0, 3, 2⟩) ∧
  decodeTableWord 32 0xA4500600 = some (.stopen 5 0 6) ∧
  decodeTableWord 64 0x0401000020200240 = some (.vfma ⟨2, 0, 1, 2, 0, 0, 0x09, 0, 0⟩) ∧
  decodeTableWord 64 0x5800004000000240 = some (.vld ⟨0, 1, 0, 0, 0, 0, 0x09, 0, 0⟩) ∧
  decodeTableWord 64 0xF000000000000000 = some .vnop ∧
  decodeTableWord 64 0x7900000000000000 = some .vend ∧
  decodeTableWord 32 0x00000000 = none ∧ decodeTableWord 32 0xFFFFFFFF = none ∧ decodeTableWord 64 0x0000000000000000 = none

/-- R128 to R141: every well-formed instruction that has a word is what its words decode to. -/
def Obligations.DecodeEncode : Prop :=
  ∀ i : Instr, i.wellFormed = true → encode i ≠ .event → decode (encode i) = some i

/-- R128 to R132: no bit of a control word is dropped: a word that decodes is the word that the instruction is encoded
as, with the extension word where the form has one. -/
def Obligations.EncodeDecode : Prop :=
  ∀ (w ext : BitVec 32) (i : Instr), decodeControl w ext = .ok i → encode i = if isWide w then .wide w ext else .word w

/-- R103, R120, R268, R315, R357: the reset values that the spec gives. Every cluster has CPART 63, CRES 0 and CBOUND 0xE000, every frame is
Unused and every cell free, every channel is offline, every group is Free, and no task, launch, partition or contract exists; the
cycle count is 0. -/
def Obligations.ResetValues : Prop :=
  let s := State.reset
  (∀ c : Nat, (s.cluster c).cpart = 63 ∧ (s.cluster c).cres = 0 ∧ (s.cluster c).cbound = 0xE000) ∧
  (∀ k : Nat, (s.stack k).frames = [] ∧ (s.stack k).freeCells = 8388608 ∧ ∀ ch : Nat, ((s.stack k).chan ch).offline = true) ∧
  (∀ g : Nat, (s.cgroup g).st = .free) ∧ (∀ d : Nat, (s.die d).up = false ∧ (s.die d).dctx = 0 ∧ (s.die d).derr = 0) ∧
  (∀ t : Nat, s.task? t = none) ∧ (∀ l : Nat, s.launch? l = none) ∧ (∀ p : Nat, s.part? p = none) ∧ s.cycle = 0 ∧
  (∀ vf : Nat, (s.hostFn vf).head = 0 ∧ (s.hostFn vf).tail = 0 ∧ (s.hostFn vf).imask = 0xFF)

/-- Log 7: the memories of the reset state are in their canonical form, with nothing listed. -/
def Obligations.ResetMemory : Prop :=
  State.reset.memOk ∧ ∀ a : Nat, Memory.read State.reset.mem a = 0

/-- Log 7: every step keeps the canonical form of memory and of the dirty bits, whichever agent acts. -/
def Obligations.MemoryInvariant : Prop :=
  ∀ s t : State, s.memOk → step s = .next t → t.memOk
end

