-- ==== Sys2Proof/Laws/Memory.lean ====
section
/-! SUPPORT. The laws of byte memory: every operation keeps the canonical form, a byte reads as what was written to it,
and every other byte reads as before. -/

namespace Sys2Proof.Machine
open Sys2Proof

/-! ### The canonical form -/

/-- The canonical form in the words of lists: addresses rise, and no listed byte is the unlisted one. -/
theorem Memory.wf_iff (m : Memory) :
    Memory.wf m = true ↔ m.Pairwise (fun c d => c.1 < d.1) ∧ ∀ c ∈ m, c.2 ≠ unlistedByte := by
  induction m with
  | nil => simp [Memory.wf]
  | cons c r ih =>
    cases r with
    | nil => simp [Memory.wf]
    | cons d q =>
      simp only [Memory.wf, Bool.and_eq_true, bne_iff_ne, decide_eq_true_eq, ih]
      constructor
      · rintro ⟨⟨h1, h2⟩, h3, h4⟩
        refine ⟨List.pairwise_cons.2 ⟨?_, h3⟩, ?_⟩
        · intro e he
          rcases List.mem_cons.1 he with rfl | he
          · exact h2
          · exact Nat.lt_trans h2 ((List.pairwise_cons.1 h3).1 e he)
        · intro e he
          rcases List.mem_cons.1 he with rfl | he
          · exact h1
          · exact h4 e he
      · rintro ⟨h1, h2⟩
        have hp := List.pairwise_cons.1 h1
        exact ⟨⟨h2 c (by simp), hp.1 d (by simp)⟩, hp.2, fun e he => h2 e (by simp [he])⟩

/-- The cells of a run of bytes lie in its range. -/
theorem mem_cellsOf {a : Nat} {bs : List Byte} {c : Host.Cell} (h : c ∈ cellsOf a bs) :
    a ≤ c.1 ∧ c.1 < a + bs.length ∧ c.2 ≠ unlistedByte := by
  induction bs generalizing a with
  | nil => simp [cellsOf] at h
  | cons b r ih =>
    have step (h : c ∈ cellsOf (a + 1) r) : a ≤ c.1 ∧ c.1 < a + (b :: r).length ∧ c.2 ≠ unlistedByte := by
      have := ih h
      simp only [List.length_cons]
      exact ⟨by omega, by omega, this.2.2⟩
    unfold cellsOf at h
    split at h
    · exact step h
    · rename_i hb
      rcases List.mem_cons.1 h with rfl | h
      · exact ⟨Nat.le_refl _, by simp, hb⟩
      · exact step h

theorem cellsOf_pairwise (a : Nat) (bs : List Byte) : (cellsOf a bs).Pairwise (fun c d => c.1 < d.1) := by
  induction bs generalizing a with
  | nil => simp [cellsOf]
  | cons b r ih =>
    unfold cellsOf
    split
    · exact ih (a + 1)
    · exact List.pairwise_cons.2 ⟨fun d hd => (mem_cellsOf hd).1, ih (a + 1)⟩

/-- A write keeps the canonical form. -/
theorem Memory.wf_write {m : Memory} (h : Memory.wf m = true) (a : Nat) (bs : List Byte) :
    Memory.wf (Memory.write m a bs) = true := by
  rw [Memory.wf_iff] at h ⊢
  obtain ⟨hp, hz⟩ := h
  unfold Memory.write
  refine ⟨?_, ?_⟩
  · rw [List.pairwise_append, List.pairwise_append]
    refine ⟨⟨hp.filter _, cellsOf_pairwise a bs, ?_⟩, hp.filter _, ?_⟩
    · intro c hc d hd
      have h1 : c.1 < a := by simpa using (List.mem_filter.1 hc).2
      have h2 := mem_cellsOf hd
      omega
    · intro c hc d hd
      have h2 : a + bs.length ≤ d.1 := by simpa using (List.mem_filter.1 hd).2
      rcases List.mem_append.1 hc with hc | hc
      · have h1 : c.1 < a := by simpa using (List.mem_filter.1 hc).2
        omega
      · have h1 := mem_cellsOf hc
        omega
  · intro c hc
    rcases List.mem_append.1 hc with hc | hc
    · rcases List.mem_append.1 hc with hc | hc
      · exact hz c (List.mem_filter.1 hc).1
      · exact (mem_cellsOf hc).2.2
    · exact hz c (List.mem_filter.1 hc).1

/-- Clearing a range keeps the canonical form. -/
theorem Memory.wf_clear {m : Memory} (h : Memory.wf m = true) (a n : Nat) : Memory.wf (Memory.clear m a n) = true := by
  rw [Memory.wf_iff] at h ⊢
  exact ⟨h.1.filter _, fun c hc => h.2 c (List.mem_filter.1 hc).1⟩

/-- Any selection of cells is in the canonical form. -/
theorem Memory.wf_filter {m : Memory} (h : Memory.wf m = true) (p : Host.Cell → Bool) : Memory.wf (m.filter p) = true := by
  rw [Memory.wf_iff] at h ⊢
  exact ⟨h.1.filter _, fun c hc => h.2 c (List.mem_filter.1 hc).1⟩

/-- One byte of a write, and all of them, keep the canonical form. -/
theorem Memory.wf_apply {m : Memory} (h : Memory.wf m = true) (w : ByteWrite) : Memory.wf (Memory.apply m w) = true :=
  Memory.wf_write h _ _

theorem Memory.wf_applyAll {m : Memory} (h : Memory.wf m = true) (ws : List ByteWrite) :
    Memory.wf (Memory.applyAll m ws) = true := by
  induction ws generalizing m with
  | nil => exact h
  | cons w r ih => exact ih (Memory.wf_apply h w)

/-- So does marking bytes as dirty. -/
theorem wf_markDirty {d : Memory} (h : Memory.wf d = true) (ws : List ByteWrite) : Memory.wf (markDirty d ws) = true := by
  unfold markDirty
  induction ws generalizing d with
  | nil => exact h
  | cons w r ih =>
    simp only [List.foldl_cons]
    apply ih
    split
    · exact Memory.wf_write h _ _
    · exact h

/-! ### Reading -/

theorem Memory.read_append (l r : Memory) (a : Nat) :
    Memory.read (l ++ r) a = if l.any (fun c => c.1 == a) then Memory.read l a else Memory.read r a := by
  induction l with
  | nil => simp
  | cons c q ih => by_cases hc : c.1 = a <;> simp [Memory.read, hc, ih]

theorem Memory.read_of_not_any {l : Memory} {a : Nat} (h : l.any (fun c => c.1 == a) = false) : Memory.read l a = unlistedByte := by
  induction l with
  | nil => rfl
  | cons c q ih =>
    simp only [List.any_cons, Bool.or_eq_false_iff, beq_eq_false_iff_ne] at h
    simp [Memory.read, h.1, ih h.2]

theorem Memory.read_filter (m : Memory) (a : Nat) (f : Nat → Bool) :
    Memory.read (m.filter (fun c => f c.1)) a = if f a then Memory.read m a else unlistedByte := by
  induction m with
  | nil => simp [Memory.read]
  | cons c q ih =>
    by_cases hc : c.1 = a
    · subst hc
      by_cases hf : f c.1 = true <;> simp_all [Memory.read]
    · by_cases hf : f c.1 = true <;> simp [Memory.read, hf, hc, ih]

theorem read_cellsOf (a b : Nat) (bs : List Byte) :
    Memory.read (cellsOf a bs) b = if a ≤ b ∧ b < a + bs.length then nth bs (b - a) unlistedByte else unlistedByte := by
  induction bs generalizing a with
  | nil => simp [cellsOf, Memory.read] <;> omega
  | cons c r ih =>
    have tail : Memory.read (cellsOf (a + 1) r) b
        = if a + 1 ≤ b ∧ b < a + (c :: r).length then nth (c :: r) (b - a) unlistedByte else unlistedByte := by
      rw [ih]
      by_cases h : a + 1 ≤ b
      · have e : b - a = (b - (a + 1)) + 1 := by omega
        by_cases h2 : b < a + 1 + r.length
        · have h3 : b < a + (c :: r).length := by simp only [List.length_cons]; omega
          rw [if_pos ⟨h, h2⟩, if_pos ⟨h, h3⟩, e]; simp [nth]
        · have h3 : ¬ b < a + (c :: r).length := by simp only [List.length_cons]; omega
          rw [if_neg (fun x => h2 x.2), if_neg (fun x => h3 x.2)]
      · rw [if_neg (fun x => h x.1), if_neg (fun x => h x.1)]
    by_cases hab : b = a
    · subst hab
      have ht : Memory.read (cellsOf (b + 1) r) b = unlistedByte := by
        rw [tail, if_neg (by omega)]
      unfold cellsOf
      split
      · rename_i hc
        rw [ht]; simp [nth, hc]
      · simp [Memory.read, nth]
    · have key : Memory.read (cellsOf a (c :: r)) b = Memory.read (cellsOf (a + 1) r) b := by
        rw [cellsOf]
        split
        · rfl
        · simp [Memory.read, Ne.symm hab]
      rw [key, tail]
      by_cases h : a + 1 ≤ b
      · have h' : a ≤ b := by omega
        simp [h, h']
      · have h' : ¬ a ≤ b := by omega
        simp [h, h']

/-- A byte reads as what was written to it; every other byte reads as before. -/
theorem Memory.read_write (m : Memory) (a b : Nat) (bs : List Byte) :
    Memory.read (Memory.write m a bs) b
      = if a ≤ b ∧ b < a + bs.length then nth bs (b - a) unlistedByte else Memory.read m b := by
  have any_filter (f : Nat → Bool) (h : f b = false) : (m.filter (fun c => f c.1)).any (fun c => c.1 == b) = false := by
    rw [List.any_eq_false]
    intro c hc
    have := (List.mem_filter.1 hc).2
    simp only [beq_iff_eq]
    rintro rfl
    simp [h] at this
  have hl := Memory.read_filter m b (fun i => decide (i < a))
  have hr := Memory.read_filter m b (fun i => decide (a + bs.length ≤ i))
  have hc := read_cellsOf a b bs
  have hn (h : b < a ∨ a + bs.length ≤ b) : (cellsOf a bs).any (fun c => c.1 == b) = false := by
    rw [List.any_eq_false]; intro c hc; have := mem_cellsOf hc; simp only [beq_iff_eq]; omega
  unfold Memory.write
  rw [List.append_assoc, Memory.read_append]
  rcases Nat.lt_or_ge b a with hb | hb
  · have e1 : ¬ (a ≤ b ∧ b < a + bs.length) := by omega
    have e2 : ¬ a + bs.length ≤ b := by omega
    rw [if_neg e1, Memory.read_append, hn (.inl hb)]
    simp only [hb, decide_true, if_true] at hl
    simp only [e2, decide_false, Bool.false_eq_true, if_false] at hr
    simp only [Bool.false_eq_true, if_false]
    by_cases ha : (m.filter (fun c => decide (c.1 < a))).any (fun c => c.1 == b) = true
    · rw [if_pos ha]; exact hl
    · rw [if_neg ha, hr, ← hl]
      exact (Memory.read_of_not_any (Bool.eq_false_iff.2 ha)).symm
  · have e0 : ¬ b < a := by omega
    rw [any_filter (fun i => decide (i < a)) (by simpa using hb)]
    simp only [Bool.false_eq_true, if_false]
    rw [Memory.read_append]
    rcases Nat.lt_or_ge b (a + bs.length) with h2 | h2
    · have e2 : ¬ a + bs.length ≤ b := by omega
      have e3 : a ≤ b ∧ b < a + bs.length := ⟨hb, h2⟩
      rw [if_pos e3] at hc
      rw [if_pos (c := a ≤ b ∧ b < a + bs.length) e3]
      simp only [e2, decide_false, Bool.false_eq_true, if_false] at hr
      by_cases ha : (cellsOf a bs).any (fun c => c.1 == b) = true
      · rw [if_pos ha]; exact hc
      · rw [if_neg ha, hr, ← hc]
        exact (Memory.read_of_not_any (Bool.eq_false_iff.2 ha)).symm
    · have e3 : ¬ (a ≤ b ∧ b < a + bs.length) := by omega
      rw [if_neg (c := a ≤ b ∧ b < a + bs.length) e3, hn (.inr h2)]
      simp only [h2, decide_true, if_true] at hr
      simp only [Bool.false_eq_true, if_false]
      exact hr

/-- A byte outside a written range reads as before. -/
theorem Memory.read_write_other (m : Memory) (a b : Nat) (bs : List Byte) (h : b < a ∨ a + bs.length ≤ b) :
    Memory.read (Memory.write m a bs) b = Memory.read m b := by
  rw [Memory.read_write, if_neg (by omega)]

/-- One byte of a write: the masked bits are new, the others stay. -/
theorem Memory.read_apply (m : Memory) (w : ByteWrite) (b : Nat) :
    Memory.read (Memory.apply m w) b
      = if b = w.a then (Memory.read m w.a &&& ~~~w.mask) ||| (w.v &&& w.mask) else Memory.read m b := by
  unfold Memory.apply
  rw [Memory.read_write]
  by_cases h : b = w.a
  · subst h; simp [nth]
  · rw [if_neg h, if_neg (by simp only [List.length_singleton]; omega)]

/-- A byte that no part of a write names reads as before. -/
theorem Memory.read_applyAll_other (m : Memory) (ws : List ByteWrite) (b : Nat) (h : ∀ w ∈ ws, w.a ≠ b) :
    Memory.read (Memory.applyAll m ws) b = Memory.read m b := by
  induction ws generalizing m with
  | nil => rfl
  | cons w r ih =>
    have hw : b ≠ w.a := fun e => h w (by simp) e.symm
    simp only [Memory.applyAll]
    rw [ih _ (fun v hv => h v (by simp [hv])), Memory.read_apply, if_neg hw]

/-! ### The storage -/

/-- A store on the storage keeps the canonical form. -/
theorem State.memOk_store {s : State} (h : s.memOk) (ws : List ByteWrite) : (s.store ws).memOk := by
  unfold State.store
  split
  · exact h
  · exact ⟨Memory.wf_applyAll h.1 ws, wf_markDirty h.2 ws⟩

theorem State.memOk_storeBytes {s : State} (h : s.memOk) (a : Nat) (bs : List Byte) : (s.storeBytes a bs).memOk :=
  State.memOk_store h _

/-- A byte that no part of a store names reads as before. -/
theorem State.read_store_other (s : State) (ws : List ByteWrite) (b : Nat) (h : ∀ w ∈ ws, w.a ≠ b) :
    Memory.read (s.store ws).mem b = Memory.read s.mem b := by
  unfold State.store
  split
  · rfl
  · exact Memory.read_applyAll_other _ _ _ h

end Sys2Proof.Machine
end

