-- ==== Sys2Proof/Laws/State.lean ====
section
/-! SUPPORT. What each update of the state leaves of each field, and what an accessor gives after an update. -/

namespace Sys2Proof.Machine
open Sys2Proof

/-! ### setCore -/

@[simp] theorem State.setCore_mem (s : State) (c : Nat) (x : Core) : (s.setCore c x).mem = s.mem := rfl
@[simp] theorem State.setCore_dirty (s : State) (c : Nat) (x : Core) : (s.setCore c x).dirty = s.dirty := rfl
@[simp] theorem State.setCore_poison (s : State) (c : Nat) (x : Core) : (s.setCore c x).poison = s.poison := rfl
@[simp] theorem State.setCore_cycle (s : State) (c : Nat) (x : Core) : (s.setCore c x).cycle = s.cycle := rfl
@[simp] theorem State.setCore_tasks (s : State) (c : Nat) (x : Core) : (s.setCore c x).tasks = s.tasks := rfl
@[simp] theorem State.setCore_clusters (s : State) (c : Nat) (x : Core) : (s.setCore c x).clusters = s.clusters := rfl
@[simp] theorem State.setCore_dies (s : State) (c : Nat) (x : Core) : (s.setCore c x).dies = s.dies := rfl
@[simp] theorem State.setCore_dram (s : State) (c : Nat) (x : Core) : (s.setCore c x).dram = s.dram := rfl
@[simp] theorem State.setCore_launches (s : State) (c : Nat) (x : Core) : (s.setCore c x).launches = s.launches := rfl
@[simp] theorem State.setCore_svLaunches (s : State) (c : Nat) (x : Core) : (s.setCore c x).svLaunches = s.svLaunches := rfl
@[simp] theorem State.setCore_contracts (s : State) (c : Nat) (x : Core) : (s.setCore c x).contracts = s.contracts := rfl
@[simp] theorem State.setCore_parts (s : State) (c : Nat) (x : Core) : (s.setCore c x).parts = s.parts := rfl
@[simp] theorem State.setCore_spawns (s : State) (c : Nat) (x : Core) : (s.setCore c x).spawns = s.spawns := rfl
@[simp] theorem State.setCore_streams (s : State) (c : Nat) (x : Core) : (s.setCore c x).streams = s.streams := rfl
@[simp] theorem State.setCore_sources (s : State) (c : Nat) (x : Core) : (s.setCore c x).sources = s.sources := rfl
@[simp] theorem State.setCore_bindings (s : State) (c : Nat) (x : Core) : (s.setCore c x).bindings = s.bindings := rfl
@[simp] theorem State.setCore_windows (s : State) (c : Nat) (x : Core) : (s.setCore c x).windows = s.windows := rfl
@[simp] theorem State.setCore_groups (s : State) (c : Nat) (x : Core) : (s.setCore c x).groups = s.groups := rfl
@[simp] theorem State.setCore_packets (s : State) (c : Nat) (x : Core) : (s.setCore c x).packets = s.packets := rfl
@[simp] theorem State.setCore_staged (s : State) (c : Nat) (x : Core) : (s.setCore c x).staged = s.staged := rfl
@[simp] theorem State.setCore_dests (s : State) (c : Nat) (x : Core) : (s.setCore c x).dests = s.dests := rfl
@[simp] theorem State.setCore_fencedTraffic (s : State) (c : Nat) (x : Core) : (s.setCore c x).fencedTraffic = s.fencedTraffic := rfl
@[simp] theorem State.setCore_withdrawals (s : State) (c : Nat) (x : Core) : (s.setCore c x).withdrawals = s.withdrawals := rfl
@[simp] theorem State.setCore_encoders (s : State) (c : Nat) (x : Core) : (s.setCore c x).encoders = s.encoders := rfl
@[simp] theorem State.setCore_hostFns (s : State) (c : Nat) (x : Core) : (s.setCore c x).hostFns = s.hostFns := rfl
@[simp] theorem State.setCore_boot (s : State) (c : Nat) (x : Core) : (s.setCore c x).boot = s.boot := rfl
@[simp] theorem State.setCore_out (s : State) (c : Nat) (x : Core) : (s.setCore c x).out = s.out := rfl
@[simp] theorem State.setCore_downPorts (s : State) (c : Nat) (x : Core) : (s.setCore c x).downPorts = s.downPorts := rfl
@[simp] theorem State.setCore_routes (s : State) (c : Nat) (x : Core) : (s.setCore c x).routes = s.routes := rfl
@[simp] theorem State.setCore_inbox (s : State) (c : Nat) (x : Core) : (s.setCore c x).inbox = s.inbox := rfl
@[simp] theorem State.setCore_tlb (s : State) (c : Nat) (x : Core) : (s.setCore c x).tlb = s.tlb := rfl
@[simp] theorem State.setCore_ended (s : State) (c : Nat) (x : Core) : (s.setCore c x).ended = s.ended := rfl
@[simp] theorem State.setCore_wire (s : State) (c : Nat) (x : Core) : (s.setCore c x).wire = s.wire := rfl
@[simp] theorem State.setCore_node (s : State) (c : Nat) (x : Core) : (s.setCore c x).node = s.node := rfl
@[simp] theorem State.setCore_seqOut (s : State) (c : Nat) (x : Core) : (s.setCore c x).seqOut = s.seqOut := rfl
@[simp] theorem State.setCore_seqIn (s : State) (c : Nat) (x : Core) : (s.setCore c x).seqIn = s.seqIn := rfl
@[simp] theorem State.setCore_held (s : State) (c : Nat) (x : Core) : (s.setCore c x).held = s.held := rfl
@[simp] theorem State.setCore_ctlb (s : State) (c : Nat) (x : Core) : (s.setCore c x).ctlb = s.ctlb := rfl
@[simp] theorem State.setCore_waitingControl (s : State) (c : Nat) (x : Core) : (s.setCore c x).waitingControl = s.waitingControl := rfl
@[simp] theorem State.setCore_misses (s : State) (c : Nat) (x : Core) : (s.setCore c x).misses = s.misses := rfl
@[simp] theorem State.setCore_cur (s : State) (c : Nat) (x : Core) : (s.setCore c x).cur = s.cur := rfl
@[simp] theorem State.setCore_agenda (s : State) (c : Nat) (x : Core) : (s.setCore c x).agenda = s.agenda := rfl
@[simp] theorem State.setCore_turns (s : State) (c : Nat) (x : Core) : (s.setCore c x).turns = s.turns := rfl
@[simp] theorem State.setCore_born (s : State) (c : Nat) (x : Core) : (s.setCore c x).born = s.born := rfl
@[simp] theorem State.setCore_free (s : State) (c : Nat) (x : Core) : (s.setCore c x).free = s.free := rfl

/-! ### setCluster -/

@[simp] theorem State.setCluster_mem (s : State) (c : Nat) (x : Cluster) : (s.setCluster c x).mem = s.mem := rfl
@[simp] theorem State.setCluster_dirty (s : State) (c : Nat) (x : Cluster) : (s.setCluster c x).dirty = s.dirty := rfl
@[simp] theorem State.setCluster_poison (s : State) (c : Nat) (x : Cluster) : (s.setCluster c x).poison = s.poison := rfl
@[simp] theorem State.setCluster_cycle (s : State) (c : Nat) (x : Cluster) : (s.setCluster c x).cycle = s.cycle := rfl
@[simp] theorem State.setCluster_tasks (s : State) (c : Nat) (x : Cluster) : (s.setCluster c x).tasks = s.tasks := rfl
@[simp] theorem State.setCluster_cores (s : State) (c : Nat) (x : Cluster) : (s.setCluster c x).cores = s.cores := rfl
@[simp] theorem State.setCluster_dies (s : State) (c : Nat) (x : Cluster) : (s.setCluster c x).dies = s.dies := rfl
@[simp] theorem State.setCluster_dram (s : State) (c : Nat) (x : Cluster) : (s.setCluster c x).dram = s.dram := rfl
@[simp] theorem State.setCluster_launches (s : State) (c : Nat) (x : Cluster) : (s.setCluster c x).launches = s.launches := rfl
@[simp] theorem State.setCluster_svLaunches (s : State) (c : Nat) (x : Cluster) : (s.setCluster c x).svLaunches = s.svLaunches := rfl
@[simp] theorem State.setCluster_contracts (s : State) (c : Nat) (x : Cluster) : (s.setCluster c x).contracts = s.contracts := rfl
@[simp] theorem State.setCluster_parts (s : State) (c : Nat) (x : Cluster) : (s.setCluster c x).parts = s.parts := rfl
@[simp] theorem State.setCluster_spawns (s : State) (c : Nat) (x : Cluster) : (s.setCluster c x).spawns = s.spawns := rfl
@[simp] theorem State.setCluster_streams (s : State) (c : Nat) (x : Cluster) : (s.setCluster c x).streams = s.streams := rfl
@[simp] theorem State.setCluster_sources (s : State) (c : Nat) (x : Cluster) : (s.setCluster c x).sources = s.sources := rfl
@[simp] theorem State.setCluster_bindings (s : State) (c : Nat) (x : Cluster) : (s.setCluster c x).bindings = s.bindings := rfl
@[simp] theorem State.setCluster_windows (s : State) (c : Nat) (x : Cluster) : (s.setCluster c x).windows = s.windows := rfl
@[simp] theorem State.setCluster_groups (s : State) (c : Nat) (x : Cluster) : (s.setCluster c x).groups = s.groups := rfl
@[simp] theorem State.setCluster_packets (s : State) (c : Nat) (x : Cluster) : (s.setCluster c x).packets = s.packets := rfl
@[simp] theorem State.setCluster_staged (s : State) (c : Nat) (x : Cluster) : (s.setCluster c x).staged = s.staged := rfl
@[simp] theorem State.setCluster_dests (s : State) (c : Nat) (x : Cluster) : (s.setCluster c x).dests = s.dests := rfl
@[simp] theorem State.setCluster_fencedTraffic (s : State) (c : Nat) (x : Cluster) : (s.setCluster c x).fencedTraffic = s.fencedTraffic := rfl
@[simp] theorem State.setCluster_withdrawals (s : State) (c : Nat) (x : Cluster) : (s.setCluster c x).withdrawals = s.withdrawals := rfl
@[simp] theorem State.setCluster_encoders (s : State) (c : Nat) (x : Cluster) : (s.setCluster c x).encoders = s.encoders := rfl
@[simp] theorem State.setCluster_hostFns (s : State) (c : Nat) (x : Cluster) : (s.setCluster c x).hostFns = s.hostFns := rfl
@[simp] theorem State.setCluster_boot (s : State) (c : Nat) (x : Cluster) : (s.setCluster c x).boot = s.boot := rfl
@[simp] theorem State.setCluster_out (s : State) (c : Nat) (x : Cluster) : (s.setCluster c x).out = s.out := rfl
@[simp] theorem State.setCluster_downPorts (s : State) (c : Nat) (x : Cluster) : (s.setCluster c x).downPorts = s.downPorts := rfl
@[simp] theorem State.setCluster_routes (s : State) (c : Nat) (x : Cluster) : (s.setCluster c x).routes = s.routes := rfl
@[simp] theorem State.setCluster_inbox (s : State) (c : Nat) (x : Cluster) : (s.setCluster c x).inbox = s.inbox := rfl
@[simp] theorem State.setCluster_tlb (s : State) (c : Nat) (x : Cluster) : (s.setCluster c x).tlb = s.tlb := rfl
@[simp] theorem State.setCluster_ended (s : State) (c : Nat) (x : Cluster) : (s.setCluster c x).ended = s.ended := rfl
@[simp] theorem State.setCluster_wire (s : State) (c : Nat) (x : Cluster) : (s.setCluster c x).wire = s.wire := rfl
@[simp] theorem State.setCluster_node (s : State) (c : Nat) (x : Cluster) : (s.setCluster c x).node = s.node := rfl
@[simp] theorem State.setCluster_seqOut (s : State) (c : Nat) (x : Cluster) : (s.setCluster c x).seqOut = s.seqOut := rfl
@[simp] theorem State.setCluster_seqIn (s : State) (c : Nat) (x : Cluster) : (s.setCluster c x).seqIn = s.seqIn := rfl
@[simp] theorem State.setCluster_held (s : State) (c : Nat) (x : Cluster) : (s.setCluster c x).held = s.held := rfl
@[simp] theorem State.setCluster_ctlb (s : State) (c : Nat) (x : Cluster) : (s.setCluster c x).ctlb = s.ctlb := rfl
@[simp] theorem State.setCluster_waitingControl (s : State) (c : Nat) (x : Cluster) : (s.setCluster c x).waitingControl = s.waitingControl := rfl
@[simp] theorem State.setCluster_misses (s : State) (c : Nat) (x : Cluster) : (s.setCluster c x).misses = s.misses := rfl
@[simp] theorem State.setCluster_cur (s : State) (c : Nat) (x : Cluster) : (s.setCluster c x).cur = s.cur := rfl
@[simp] theorem State.setCluster_agenda (s : State) (c : Nat) (x : Cluster) : (s.setCluster c x).agenda = s.agenda := rfl
@[simp] theorem State.setCluster_turns (s : State) (c : Nat) (x : Cluster) : (s.setCluster c x).turns = s.turns := rfl
@[simp] theorem State.setCluster_born (s : State) (c : Nat) (x : Cluster) : (s.setCluster c x).born = s.born := rfl
@[simp] theorem State.setCluster_free (s : State) (c : Nat) (x : Cluster) : (s.setCluster c x).free = s.free := rfl

/-! ### setDie -/

@[simp] theorem State.setDie_mem (s : State) (d : Nat) (x : Die) : (s.setDie d x).mem = s.mem := rfl
@[simp] theorem State.setDie_dirty (s : State) (d : Nat) (x : Die) : (s.setDie d x).dirty = s.dirty := rfl
@[simp] theorem State.setDie_poison (s : State) (d : Nat) (x : Die) : (s.setDie d x).poison = s.poison := rfl
@[simp] theorem State.setDie_cycle (s : State) (d : Nat) (x : Die) : (s.setDie d x).cycle = s.cycle := rfl
@[simp] theorem State.setDie_tasks (s : State) (d : Nat) (x : Die) : (s.setDie d x).tasks = s.tasks := rfl
@[simp] theorem State.setDie_cores (s : State) (d : Nat) (x : Die) : (s.setDie d x).cores = s.cores := rfl
@[simp] theorem State.setDie_clusters (s : State) (d : Nat) (x : Die) : (s.setDie d x).clusters = s.clusters := rfl
@[simp] theorem State.setDie_dram (s : State) (d : Nat) (x : Die) : (s.setDie d x).dram = s.dram := rfl
@[simp] theorem State.setDie_launches (s : State) (d : Nat) (x : Die) : (s.setDie d x).launches = s.launches := rfl
@[simp] theorem State.setDie_svLaunches (s : State) (d : Nat) (x : Die) : (s.setDie d x).svLaunches = s.svLaunches := rfl
@[simp] theorem State.setDie_contracts (s : State) (d : Nat) (x : Die) : (s.setDie d x).contracts = s.contracts := rfl
@[simp] theorem State.setDie_parts (s : State) (d : Nat) (x : Die) : (s.setDie d x).parts = s.parts := rfl
@[simp] theorem State.setDie_spawns (s : State) (d : Nat) (x : Die) : (s.setDie d x).spawns = s.spawns := rfl
@[simp] theorem State.setDie_streams (s : State) (d : Nat) (x : Die) : (s.setDie d x).streams = s.streams := rfl
@[simp] theorem State.setDie_sources (s : State) (d : Nat) (x : Die) : (s.setDie d x).sources = s.sources := rfl
@[simp] theorem State.setDie_bindings (s : State) (d : Nat) (x : Die) : (s.setDie d x).bindings = s.bindings := rfl
@[simp] theorem State.setDie_windows (s : State) (d : Nat) (x : Die) : (s.setDie d x).windows = s.windows := rfl
@[simp] theorem State.setDie_groups (s : State) (d : Nat) (x : Die) : (s.setDie d x).groups = s.groups := rfl
@[simp] theorem State.setDie_packets (s : State) (d : Nat) (x : Die) : (s.setDie d x).packets = s.packets := rfl
@[simp] theorem State.setDie_staged (s : State) (d : Nat) (x : Die) : (s.setDie d x).staged = s.staged := rfl
@[simp] theorem State.setDie_dests (s : State) (d : Nat) (x : Die) : (s.setDie d x).dests = s.dests := rfl
@[simp] theorem State.setDie_fencedTraffic (s : State) (d : Nat) (x : Die) : (s.setDie d x).fencedTraffic = s.fencedTraffic := rfl
@[simp] theorem State.setDie_withdrawals (s : State) (d : Nat) (x : Die) : (s.setDie d x).withdrawals = s.withdrawals := rfl
@[simp] theorem State.setDie_encoders (s : State) (d : Nat) (x : Die) : (s.setDie d x).encoders = s.encoders := rfl
@[simp] theorem State.setDie_hostFns (s : State) (d : Nat) (x : Die) : (s.setDie d x).hostFns = s.hostFns := rfl
@[simp] theorem State.setDie_boot (s : State) (d : Nat) (x : Die) : (s.setDie d x).boot = s.boot := rfl
@[simp] theorem State.setDie_out (s : State) (d : Nat) (x : Die) : (s.setDie d x).out = s.out := rfl
@[simp] theorem State.setDie_downPorts (s : State) (d : Nat) (x : Die) : (s.setDie d x).downPorts = s.downPorts := rfl
@[simp] theorem State.setDie_routes (s : State) (d : Nat) (x : Die) : (s.setDie d x).routes = s.routes := rfl
@[simp] theorem State.setDie_inbox (s : State) (d : Nat) (x : Die) : (s.setDie d x).inbox = s.inbox := rfl
@[simp] theorem State.setDie_tlb (s : State) (d : Nat) (x : Die) : (s.setDie d x).tlb = s.tlb := rfl
@[simp] theorem State.setDie_ended (s : State) (d : Nat) (x : Die) : (s.setDie d x).ended = s.ended := rfl
@[simp] theorem State.setDie_wire (s : State) (d : Nat) (x : Die) : (s.setDie d x).wire = s.wire := rfl
@[simp] theorem State.setDie_node (s : State) (d : Nat) (x : Die) : (s.setDie d x).node = s.node := rfl
@[simp] theorem State.setDie_seqOut (s : State) (d : Nat) (x : Die) : (s.setDie d x).seqOut = s.seqOut := rfl
@[simp] theorem State.setDie_seqIn (s : State) (d : Nat) (x : Die) : (s.setDie d x).seqIn = s.seqIn := rfl
@[simp] theorem State.setDie_held (s : State) (d : Nat) (x : Die) : (s.setDie d x).held = s.held := rfl
@[simp] theorem State.setDie_ctlb (s : State) (d : Nat) (x : Die) : (s.setDie d x).ctlb = s.ctlb := rfl
@[simp] theorem State.setDie_waitingControl (s : State) (d : Nat) (x : Die) : (s.setDie d x).waitingControl = s.waitingControl := rfl
@[simp] theorem State.setDie_misses (s : State) (d : Nat) (x : Die) : (s.setDie d x).misses = s.misses := rfl
@[simp] theorem State.setDie_cur (s : State) (d : Nat) (x : Die) : (s.setDie d x).cur = s.cur := rfl
@[simp] theorem State.setDie_agenda (s : State) (d : Nat) (x : Die) : (s.setDie d x).agenda = s.agenda := rfl
@[simp] theorem State.setDie_turns (s : State) (d : Nat) (x : Die) : (s.setDie d x).turns = s.turns := rfl
@[simp] theorem State.setDie_born (s : State) (d : Nat) (x : Die) : (s.setDie d x).born = s.born := rfl
@[simp] theorem State.setDie_free (s : State) (d : Nat) (x : Die) : (s.setDie d x).free = s.free := rfl

/-! ### setStack -/

@[simp] theorem State.setStack_mem (s : State) (d : Nat) (x : Stack) : (s.setStack d x).mem = s.mem := rfl
@[simp] theorem State.setStack_dirty (s : State) (d : Nat) (x : Stack) : (s.setStack d x).dirty = s.dirty := rfl
@[simp] theorem State.setStack_poison (s : State) (d : Nat) (x : Stack) : (s.setStack d x).poison = s.poison := rfl
@[simp] theorem State.setStack_cycle (s : State) (d : Nat) (x : Stack) : (s.setStack d x).cycle = s.cycle := rfl
@[simp] theorem State.setStack_tasks (s : State) (d : Nat) (x : Stack) : (s.setStack d x).tasks = s.tasks := rfl
@[simp] theorem State.setStack_cores (s : State) (d : Nat) (x : Stack) : (s.setStack d x).cores = s.cores := rfl
@[simp] theorem State.setStack_clusters (s : State) (d : Nat) (x : Stack) : (s.setStack d x).clusters = s.clusters := rfl
@[simp] theorem State.setStack_dies (s : State) (d : Nat) (x : Stack) : (s.setStack d x).dies = s.dies := rfl
@[simp] theorem State.setStack_launches (s : State) (d : Nat) (x : Stack) : (s.setStack d x).launches = s.launches := rfl
@[simp] theorem State.setStack_svLaunches (s : State) (d : Nat) (x : Stack) : (s.setStack d x).svLaunches = s.svLaunches := rfl
@[simp] theorem State.setStack_contracts (s : State) (d : Nat) (x : Stack) : (s.setStack d x).contracts = s.contracts := rfl
@[simp] theorem State.setStack_parts (s : State) (d : Nat) (x : Stack) : (s.setStack d x).parts = s.parts := rfl
@[simp] theorem State.setStack_spawns (s : State) (d : Nat) (x : Stack) : (s.setStack d x).spawns = s.spawns := rfl
@[simp] theorem State.setStack_streams (s : State) (d : Nat) (x : Stack) : (s.setStack d x).streams = s.streams := rfl
@[simp] theorem State.setStack_sources (s : State) (d : Nat) (x : Stack) : (s.setStack d x).sources = s.sources := rfl
@[simp] theorem State.setStack_bindings (s : State) (d : Nat) (x : Stack) : (s.setStack d x).bindings = s.bindings := rfl
@[simp] theorem State.setStack_windows (s : State) (d : Nat) (x : Stack) : (s.setStack d x).windows = s.windows := rfl
@[simp] theorem State.setStack_groups (s : State) (d : Nat) (x : Stack) : (s.setStack d x).groups = s.groups := rfl
@[simp] theorem State.setStack_packets (s : State) (d : Nat) (x : Stack) : (s.setStack d x).packets = s.packets := rfl
@[simp] theorem State.setStack_staged (s : State) (d : Nat) (x : Stack) : (s.setStack d x).staged = s.staged := rfl
@[simp] theorem State.setStack_dests (s : State) (d : Nat) (x : Stack) : (s.setStack d x).dests = s.dests := rfl
@[simp] theorem State.setStack_fencedTraffic (s : State) (d : Nat) (x : Stack) : (s.setStack d x).fencedTraffic = s.fencedTraffic := rfl
@[simp] theorem State.setStack_withdrawals (s : State) (d : Nat) (x : Stack) : (s.setStack d x).withdrawals = s.withdrawals := rfl
@[simp] theorem State.setStack_encoders (s : State) (d : Nat) (x : Stack) : (s.setStack d x).encoders = s.encoders := rfl
@[simp] theorem State.setStack_hostFns (s : State) (d : Nat) (x : Stack) : (s.setStack d x).hostFns = s.hostFns := rfl
@[simp] theorem State.setStack_boot (s : State) (d : Nat) (x : Stack) : (s.setStack d x).boot = s.boot := rfl
@[simp] theorem State.setStack_out (s : State) (d : Nat) (x : Stack) : (s.setStack d x).out = s.out := rfl
@[simp] theorem State.setStack_downPorts (s : State) (d : Nat) (x : Stack) : (s.setStack d x).downPorts = s.downPorts := rfl
@[simp] theorem State.setStack_routes (s : State) (d : Nat) (x : Stack) : (s.setStack d x).routes = s.routes := rfl
@[simp] theorem State.setStack_inbox (s : State) (d : Nat) (x : Stack) : (s.setStack d x).inbox = s.inbox := rfl
@[simp] theorem State.setStack_tlb (s : State) (d : Nat) (x : Stack) : (s.setStack d x).tlb = s.tlb := rfl
@[simp] theorem State.setStack_ended (s : State) (d : Nat) (x : Stack) : (s.setStack d x).ended = s.ended := rfl
@[simp] theorem State.setStack_wire (s : State) (d : Nat) (x : Stack) : (s.setStack d x).wire = s.wire := rfl
@[simp] theorem State.setStack_node (s : State) (d : Nat) (x : Stack) : (s.setStack d x).node = s.node := rfl
@[simp] theorem State.setStack_seqOut (s : State) (d : Nat) (x : Stack) : (s.setStack d x).seqOut = s.seqOut := rfl
@[simp] theorem State.setStack_seqIn (s : State) (d : Nat) (x : Stack) : (s.setStack d x).seqIn = s.seqIn := rfl
@[simp] theorem State.setStack_held (s : State) (d : Nat) (x : Stack) : (s.setStack d x).held = s.held := rfl
@[simp] theorem State.setStack_ctlb (s : State) (d : Nat) (x : Stack) : (s.setStack d x).ctlb = s.ctlb := rfl
@[simp] theorem State.setStack_waitingControl (s : State) (d : Nat) (x : Stack) : (s.setStack d x).waitingControl = s.waitingControl := rfl
@[simp] theorem State.setStack_misses (s : State) (d : Nat) (x : Stack) : (s.setStack d x).misses = s.misses := rfl
@[simp] theorem State.setStack_cur (s : State) (d : Nat) (x : Stack) : (s.setStack d x).cur = s.cur := rfl
@[simp] theorem State.setStack_agenda (s : State) (d : Nat) (x : Stack) : (s.setStack d x).agenda = s.agenda := rfl
@[simp] theorem State.setStack_turns (s : State) (d : Nat) (x : Stack) : (s.setStack d x).turns = s.turns := rfl
@[simp] theorem State.setStack_born (s : State) (d : Nat) (x : Stack) : (s.setStack d x).born = s.born := rfl
@[simp] theorem State.setStack_free (s : State) (d : Nat) (x : Stack) : (s.setStack d x).free = s.free := rfl

/-! ### setTask -/

@[simp] theorem State.setTask_mem (s : State) (t : Nat) (x : Task) : (s.setTask t x).mem = s.mem := rfl
@[simp] theorem State.setTask_dirty (s : State) (t : Nat) (x : Task) : (s.setTask t x).dirty = s.dirty := rfl
@[simp] theorem State.setTask_poison (s : State) (t : Nat) (x : Task) : (s.setTask t x).poison = s.poison := rfl
@[simp] theorem State.setTask_cycle (s : State) (t : Nat) (x : Task) : (s.setTask t x).cycle = s.cycle := rfl
@[simp] theorem State.setTask_cores (s : State) (t : Nat) (x : Task) : (s.setTask t x).cores = s.cores := rfl
@[simp] theorem State.setTask_clusters (s : State) (t : Nat) (x : Task) : (s.setTask t x).clusters = s.clusters := rfl
@[simp] theorem State.setTask_dies (s : State) (t : Nat) (x : Task) : (s.setTask t x).dies = s.dies := rfl
@[simp] theorem State.setTask_dram (s : State) (t : Nat) (x : Task) : (s.setTask t x).dram = s.dram := rfl
@[simp] theorem State.setTask_launches (s : State) (t : Nat) (x : Task) : (s.setTask t x).launches = s.launches := rfl
@[simp] theorem State.setTask_svLaunches (s : State) (t : Nat) (x : Task) : (s.setTask t x).svLaunches = s.svLaunches := rfl
@[simp] theorem State.setTask_contracts (s : State) (t : Nat) (x : Task) : (s.setTask t x).contracts = s.contracts := rfl
@[simp] theorem State.setTask_parts (s : State) (t : Nat) (x : Task) : (s.setTask t x).parts = s.parts := rfl
@[simp] theorem State.setTask_spawns (s : State) (t : Nat) (x : Task) : (s.setTask t x).spawns = s.spawns := rfl
@[simp] theorem State.setTask_streams (s : State) (t : Nat) (x : Task) : (s.setTask t x).streams = s.streams := rfl
@[simp] theorem State.setTask_sources (s : State) (t : Nat) (x : Task) : (s.setTask t x).sources = s.sources := rfl
@[simp] theorem State.setTask_bindings (s : State) (t : Nat) (x : Task) : (s.setTask t x).bindings = s.bindings := rfl
@[simp] theorem State.setTask_windows (s : State) (t : Nat) (x : Task) : (s.setTask t x).windows = s.windows := rfl
@[simp] theorem State.setTask_groups (s : State) (t : Nat) (x : Task) : (s.setTask t x).groups = s.groups := rfl
@[simp] theorem State.setTask_packets (s : State) (t : Nat) (x : Task) : (s.setTask t x).packets = s.packets := rfl
@[simp] theorem State.setTask_staged (s : State) (t : Nat) (x : Task) : (s.setTask t x).staged = s.staged := rfl
@[simp] theorem State.setTask_dests (s : State) (t : Nat) (x : Task) : (s.setTask t x).dests = s.dests := rfl
@[simp] theorem State.setTask_fencedTraffic (s : State) (t : Nat) (x : Task) : (s.setTask t x).fencedTraffic = s.fencedTraffic := rfl
@[simp] theorem State.setTask_withdrawals (s : State) (t : Nat) (x : Task) : (s.setTask t x).withdrawals = s.withdrawals := rfl
@[simp] theorem State.setTask_encoders (s : State) (t : Nat) (x : Task) : (s.setTask t x).encoders = s.encoders := rfl
@[simp] theorem State.setTask_hostFns (s : State) (t : Nat) (x : Task) : (s.setTask t x).hostFns = s.hostFns := rfl
@[simp] theorem State.setTask_boot (s : State) (t : Nat) (x : Task) : (s.setTask t x).boot = s.boot := rfl
@[simp] theorem State.setTask_out (s : State) (t : Nat) (x : Task) : (s.setTask t x).out = s.out := rfl
@[simp] theorem State.setTask_downPorts (s : State) (t : Nat) (x : Task) : (s.setTask t x).downPorts = s.downPorts := rfl
@[simp] theorem State.setTask_routes (s : State) (t : Nat) (x : Task) : (s.setTask t x).routes = s.routes := rfl
@[simp] theorem State.setTask_inbox (s : State) (t : Nat) (x : Task) : (s.setTask t x).inbox = s.inbox := rfl
@[simp] theorem State.setTask_tlb (s : State) (t : Nat) (x : Task) : (s.setTask t x).tlb = s.tlb := rfl
@[simp] theorem State.setTask_ended (s : State) (t : Nat) (x : Task) : (s.setTask t x).ended = s.ended := rfl
@[simp] theorem State.setTask_wire (s : State) (t : Nat) (x : Task) : (s.setTask t x).wire = s.wire := rfl
@[simp] theorem State.setTask_node (s : State) (t : Nat) (x : Task) : (s.setTask t x).node = s.node := rfl
@[simp] theorem State.setTask_seqOut (s : State) (t : Nat) (x : Task) : (s.setTask t x).seqOut = s.seqOut := rfl
@[simp] theorem State.setTask_seqIn (s : State) (t : Nat) (x : Task) : (s.setTask t x).seqIn = s.seqIn := rfl
@[simp] theorem State.setTask_held (s : State) (t : Nat) (x : Task) : (s.setTask t x).held = s.held := rfl
@[simp] theorem State.setTask_ctlb (s : State) (t : Nat) (x : Task) : (s.setTask t x).ctlb = s.ctlb := rfl
@[simp] theorem State.setTask_waitingControl (s : State) (t : Nat) (x : Task) : (s.setTask t x).waitingControl = s.waitingControl := rfl
@[simp] theorem State.setTask_misses (s : State) (t : Nat) (x : Task) : (s.setTask t x).misses = s.misses := rfl
@[simp] theorem State.setTask_cur (s : State) (t : Nat) (x : Task) : (s.setTask t x).cur = s.cur := rfl
@[simp] theorem State.setTask_agenda (s : State) (t : Nat) (x : Task) : (s.setTask t x).agenda = s.agenda := rfl
@[simp] theorem State.setTask_turns (s : State) (t : Nat) (x : Task) : (s.setTask t x).turns = s.turns := rfl
@[simp] theorem State.setTask_born (s : State) (t : Nat) (x : Task) : (s.setTask t x).born = s.born := rfl
@[simp] theorem State.setTask_free (s : State) (t : Nat) (x : Task) : (s.setTask t x).free = s.free := rfl

/-! ### delTask -/

@[simp] theorem State.delTask_mem (s : State) (t : Nat) : (s.delTask t).mem = s.mem := rfl
@[simp] theorem State.delTask_dirty (s : State) (t : Nat) : (s.delTask t).dirty = s.dirty := rfl
@[simp] theorem State.delTask_poison (s : State) (t : Nat) : (s.delTask t).poison = s.poison := rfl
@[simp] theorem State.delTask_cycle (s : State) (t : Nat) : (s.delTask t).cycle = s.cycle := rfl
@[simp] theorem State.delTask_cores (s : State) (t : Nat) : (s.delTask t).cores = s.cores := rfl
@[simp] theorem State.delTask_clusters (s : State) (t : Nat) : (s.delTask t).clusters = s.clusters := rfl
@[simp] theorem State.delTask_dies (s : State) (t : Nat) : (s.delTask t).dies = s.dies := rfl
@[simp] theorem State.delTask_dram (s : State) (t : Nat) : (s.delTask t).dram = s.dram := rfl
@[simp] theorem State.delTask_launches (s : State) (t : Nat) : (s.delTask t).launches = s.launches := rfl
@[simp] theorem State.delTask_svLaunches (s : State) (t : Nat) : (s.delTask t).svLaunches = s.svLaunches := rfl
@[simp] theorem State.delTask_contracts (s : State) (t : Nat) : (s.delTask t).contracts = s.contracts := rfl
@[simp] theorem State.delTask_parts (s : State) (t : Nat) : (s.delTask t).parts = s.parts := rfl
@[simp] theorem State.delTask_spawns (s : State) (t : Nat) : (s.delTask t).spawns = s.spawns := rfl
@[simp] theorem State.delTask_streams (s : State) (t : Nat) : (s.delTask t).streams = s.streams := rfl
@[simp] theorem State.delTask_sources (s : State) (t : Nat) : (s.delTask t).sources = s.sources := rfl
@[simp] theorem State.delTask_bindings (s : State) (t : Nat) : (s.delTask t).bindings = s.bindings := rfl
@[simp] theorem State.delTask_windows (s : State) (t : Nat) : (s.delTask t).windows = s.windows := rfl
@[simp] theorem State.delTask_groups (s : State) (t : Nat) : (s.delTask t).groups = s.groups := rfl
@[simp] theorem State.delTask_packets (s : State) (t : Nat) : (s.delTask t).packets = s.packets := rfl
@[simp] theorem State.delTask_staged (s : State) (t : Nat) : (s.delTask t).staged = s.staged := rfl
@[simp] theorem State.delTask_dests (s : State) (t : Nat) : (s.delTask t).dests = s.dests := rfl
@[simp] theorem State.delTask_fencedTraffic (s : State) (t : Nat) : (s.delTask t).fencedTraffic = s.fencedTraffic := rfl
@[simp] theorem State.delTask_withdrawals (s : State) (t : Nat) : (s.delTask t).withdrawals = s.withdrawals := rfl
@[simp] theorem State.delTask_encoders (s : State) (t : Nat) : (s.delTask t).encoders = s.encoders := rfl
@[simp] theorem State.delTask_hostFns (s : State) (t : Nat) : (s.delTask t).hostFns = s.hostFns := rfl
@[simp] theorem State.delTask_boot (s : State) (t : Nat) : (s.delTask t).boot = s.boot := rfl
@[simp] theorem State.delTask_out (s : State) (t : Nat) : (s.delTask t).out = s.out := rfl
@[simp] theorem State.delTask_downPorts (s : State) (t : Nat) : (s.delTask t).downPorts = s.downPorts := rfl
@[simp] theorem State.delTask_routes (s : State) (t : Nat) : (s.delTask t).routes = s.routes := rfl
@[simp] theorem State.delTask_inbox (s : State) (t : Nat) : (s.delTask t).inbox = s.inbox := rfl
@[simp] theorem State.delTask_tlb (s : State) (t : Nat) : (s.delTask t).tlb = s.tlb := rfl
@[simp] theorem State.delTask_ended (s : State) (t : Nat) : (s.delTask t).ended = s.ended := rfl
@[simp] theorem State.delTask_wire (s : State) (t : Nat) : (s.delTask t).wire = s.wire := rfl
@[simp] theorem State.delTask_node (s : State) (t : Nat) : (s.delTask t).node = s.node := rfl
@[simp] theorem State.delTask_seqOut (s : State) (t : Nat) : (s.delTask t).seqOut = s.seqOut := rfl
@[simp] theorem State.delTask_seqIn (s : State) (t : Nat) : (s.delTask t).seqIn = s.seqIn := rfl
@[simp] theorem State.delTask_held (s : State) (t : Nat) : (s.delTask t).held = s.held := rfl
@[simp] theorem State.delTask_ctlb (s : State) (t : Nat) : (s.delTask t).ctlb = s.ctlb := rfl
@[simp] theorem State.delTask_waitingControl (s : State) (t : Nat) : (s.delTask t).waitingControl = s.waitingControl := rfl
@[simp] theorem State.delTask_misses (s : State) (t : Nat) : (s.delTask t).misses = s.misses := rfl
@[simp] theorem State.delTask_cur (s : State) (t : Nat) : (s.delTask t).cur = s.cur := rfl
@[simp] theorem State.delTask_agenda (s : State) (t : Nat) : (s.delTask t).agenda = s.agenda := rfl
@[simp] theorem State.delTask_turns (s : State) (t : Nat) : (s.delTask t).turns = s.turns := rfl
@[simp] theorem State.delTask_born (s : State) (t : Nat) : (s.delTask t).born = s.born := rfl
@[simp] theorem State.delTask_free (s : State) (t : Nat) : (s.delTask t).free = s.free := rfl

/-! ### setLaunch -/

@[simp] theorem State.setLaunch_mem (s : State) (l : Nat) (x : Launch) : (s.setLaunch l x).mem = s.mem := rfl
@[simp] theorem State.setLaunch_dirty (s : State) (l : Nat) (x : Launch) : (s.setLaunch l x).dirty = s.dirty := rfl
@[simp] theorem State.setLaunch_poison (s : State) (l : Nat) (x : Launch) : (s.setLaunch l x).poison = s.poison := rfl
@[simp] theorem State.setLaunch_cycle (s : State) (l : Nat) (x : Launch) : (s.setLaunch l x).cycle = s.cycle := rfl
@[simp] theorem State.setLaunch_tasks (s : State) (l : Nat) (x : Launch) : (s.setLaunch l x).tasks = s.tasks := rfl
@[simp] theorem State.setLaunch_cores (s : State) (l : Nat) (x : Launch) : (s.setLaunch l x).cores = s.cores := rfl
@[simp] theorem State.setLaunch_clusters (s : State) (l : Nat) (x : Launch) : (s.setLaunch l x).clusters = s.clusters := rfl
@[simp] theorem State.setLaunch_dies (s : State) (l : Nat) (x : Launch) : (s.setLaunch l x).dies = s.dies := rfl
@[simp] theorem State.setLaunch_dram (s : State) (l : Nat) (x : Launch) : (s.setLaunch l x).dram = s.dram := rfl
@[simp] theorem State.setLaunch_svLaunches (s : State) (l : Nat) (x : Launch) : (s.setLaunch l x).svLaunches = s.svLaunches := rfl
@[simp] theorem State.setLaunch_contracts (s : State) (l : Nat) (x : Launch) : (s.setLaunch l x).contracts = s.contracts := rfl
@[simp] theorem State.setLaunch_parts (s : State) (l : Nat) (x : Launch) : (s.setLaunch l x).parts = s.parts := rfl
@[simp] theorem State.setLaunch_spawns (s : State) (l : Nat) (x : Launch) : (s.setLaunch l x).spawns = s.spawns := rfl
@[simp] theorem State.setLaunch_streams (s : State) (l : Nat) (x : Launch) : (s.setLaunch l x).streams = s.streams := rfl
@[simp] theorem State.setLaunch_sources (s : State) (l : Nat) (x : Launch) : (s.setLaunch l x).sources = s.sources := rfl
@[simp] theorem State.setLaunch_bindings (s : State) (l : Nat) (x : Launch) : (s.setLaunch l x).bindings = s.bindings := rfl
@[simp] theorem State.setLaunch_windows (s : State) (l : Nat) (x : Launch) : (s.setLaunch l x).windows = s.windows := rfl
@[simp] theorem State.setLaunch_groups (s : State) (l : Nat) (x : Launch) : (s.setLaunch l x).groups = s.groups := rfl
@[simp] theorem State.setLaunch_packets (s : State) (l : Nat) (x : Launch) : (s.setLaunch l x).packets = s.packets := rfl
@[simp] theorem State.setLaunch_staged (s : State) (l : Nat) (x : Launch) : (s.setLaunch l x).staged = s.staged := rfl
@[simp] theorem State.setLaunch_dests (s : State) (l : Nat) (x : Launch) : (s.setLaunch l x).dests = s.dests := rfl
@[simp] theorem State.setLaunch_fencedTraffic (s : State) (l : Nat) (x : Launch) : (s.setLaunch l x).fencedTraffic = s.fencedTraffic := rfl
@[simp] theorem State.setLaunch_withdrawals (s : State) (l : Nat) (x : Launch) : (s.setLaunch l x).withdrawals = s.withdrawals := rfl
@[simp] theorem State.setLaunch_encoders (s : State) (l : Nat) (x : Launch) : (s.setLaunch l x).encoders = s.encoders := rfl
@[simp] theorem State.setLaunch_hostFns (s : State) (l : Nat) (x : Launch) : (s.setLaunch l x).hostFns = s.hostFns := rfl
@[simp] theorem State.setLaunch_boot (s : State) (l : Nat) (x : Launch) : (s.setLaunch l x).boot = s.boot := rfl
@[simp] theorem State.setLaunch_out (s : State) (l : Nat) (x : Launch) : (s.setLaunch l x).out = s.out := rfl
@[simp] theorem State.setLaunch_downPorts (s : State) (l : Nat) (x : Launch) : (s.setLaunch l x).downPorts = s.downPorts := rfl
@[simp] theorem State.setLaunch_routes (s : State) (l : Nat) (x : Launch) : (s.setLaunch l x).routes = s.routes := rfl
@[simp] theorem State.setLaunch_inbox (s : State) (l : Nat) (x : Launch) : (s.setLaunch l x).inbox = s.inbox := rfl
@[simp] theorem State.setLaunch_tlb (s : State) (l : Nat) (x : Launch) : (s.setLaunch l x).tlb = s.tlb := rfl
@[simp] theorem State.setLaunch_ended (s : State) (l : Nat) (x : Launch) : (s.setLaunch l x).ended = s.ended := rfl
@[simp] theorem State.setLaunch_wire (s : State) (l : Nat) (x : Launch) : (s.setLaunch l x).wire = s.wire := rfl
@[simp] theorem State.setLaunch_node (s : State) (l : Nat) (x : Launch) : (s.setLaunch l x).node = s.node := rfl
@[simp] theorem State.setLaunch_seqOut (s : State) (l : Nat) (x : Launch) : (s.setLaunch l x).seqOut = s.seqOut := rfl
@[simp] theorem State.setLaunch_seqIn (s : State) (l : Nat) (x : Launch) : (s.setLaunch l x).seqIn = s.seqIn := rfl
@[simp] theorem State.setLaunch_held (s : State) (l : Nat) (x : Launch) : (s.setLaunch l x).held = s.held := rfl
@[simp] theorem State.setLaunch_ctlb (s : State) (l : Nat) (x : Launch) : (s.setLaunch l x).ctlb = s.ctlb := rfl
@[simp] theorem State.setLaunch_waitingControl (s : State) (l : Nat) (x : Launch) : (s.setLaunch l x).waitingControl = s.waitingControl := rfl
@[simp] theorem State.setLaunch_misses (s : State) (l : Nat) (x : Launch) : (s.setLaunch l x).misses = s.misses := rfl
@[simp] theorem State.setLaunch_cur (s : State) (l : Nat) (x : Launch) : (s.setLaunch l x).cur = s.cur := rfl
@[simp] theorem State.setLaunch_agenda (s : State) (l : Nat) (x : Launch) : (s.setLaunch l x).agenda = s.agenda := rfl
@[simp] theorem State.setLaunch_turns (s : State) (l : Nat) (x : Launch) : (s.setLaunch l x).turns = s.turns := rfl
@[simp] theorem State.setLaunch_born (s : State) (l : Nat) (x : Launch) : (s.setLaunch l x).born = s.born := rfl
@[simp] theorem State.setLaunch_free (s : State) (l : Nat) (x : Launch) : (s.setLaunch l x).free = s.free := rfl

/-! ### setHostFn -/

@[simp] theorem State.setHostFn_mem (s : State) (v : Nat) (x : HostFn) : (s.setHostFn v x).mem = s.mem := rfl
@[simp] theorem State.setHostFn_dirty (s : State) (v : Nat) (x : HostFn) : (s.setHostFn v x).dirty = s.dirty := rfl
@[simp] theorem State.setHostFn_poison (s : State) (v : Nat) (x : HostFn) : (s.setHostFn v x).poison = s.poison := rfl
@[simp] theorem State.setHostFn_cycle (s : State) (v : Nat) (x : HostFn) : (s.setHostFn v x).cycle = s.cycle := rfl
@[simp] theorem State.setHostFn_tasks (s : State) (v : Nat) (x : HostFn) : (s.setHostFn v x).tasks = s.tasks := rfl
@[simp] theorem State.setHostFn_cores (s : State) (v : Nat) (x : HostFn) : (s.setHostFn v x).cores = s.cores := rfl
@[simp] theorem State.setHostFn_clusters (s : State) (v : Nat) (x : HostFn) : (s.setHostFn v x).clusters = s.clusters := rfl
@[simp] theorem State.setHostFn_dies (s : State) (v : Nat) (x : HostFn) : (s.setHostFn v x).dies = s.dies := rfl
@[simp] theorem State.setHostFn_dram (s : State) (v : Nat) (x : HostFn) : (s.setHostFn v x).dram = s.dram := rfl
@[simp] theorem State.setHostFn_launches (s : State) (v : Nat) (x : HostFn) : (s.setHostFn v x).launches = s.launches := rfl
@[simp] theorem State.setHostFn_svLaunches (s : State) (v : Nat) (x : HostFn) : (s.setHostFn v x).svLaunches = s.svLaunches := rfl
@[simp] theorem State.setHostFn_contracts (s : State) (v : Nat) (x : HostFn) : (s.setHostFn v x).contracts = s.contracts := rfl
@[simp] theorem State.setHostFn_parts (s : State) (v : Nat) (x : HostFn) : (s.setHostFn v x).parts = s.parts := rfl
@[simp] theorem State.setHostFn_spawns (s : State) (v : Nat) (x : HostFn) : (s.setHostFn v x).spawns = s.spawns := rfl
@[simp] theorem State.setHostFn_streams (s : State) (v : Nat) (x : HostFn) : (s.setHostFn v x).streams = s.streams := rfl
@[simp] theorem State.setHostFn_sources (s : State) (v : Nat) (x : HostFn) : (s.setHostFn v x).sources = s.sources := rfl
@[simp] theorem State.setHostFn_bindings (s : State) (v : Nat) (x : HostFn) : (s.setHostFn v x).bindings = s.bindings := rfl
@[simp] theorem State.setHostFn_windows (s : State) (v : Nat) (x : HostFn) : (s.setHostFn v x).windows = s.windows := rfl
@[simp] theorem State.setHostFn_groups (s : State) (v : Nat) (x : HostFn) : (s.setHostFn v x).groups = s.groups := rfl
@[simp] theorem State.setHostFn_packets (s : State) (v : Nat) (x : HostFn) : (s.setHostFn v x).packets = s.packets := rfl
@[simp] theorem State.setHostFn_staged (s : State) (v : Nat) (x : HostFn) : (s.setHostFn v x).staged = s.staged := rfl
@[simp] theorem State.setHostFn_dests (s : State) (v : Nat) (x : HostFn) : (s.setHostFn v x).dests = s.dests := rfl
@[simp] theorem State.setHostFn_fencedTraffic (s : State) (v : Nat) (x : HostFn) : (s.setHostFn v x).fencedTraffic = s.fencedTraffic := rfl
@[simp] theorem State.setHostFn_withdrawals (s : State) (v : Nat) (x : HostFn) : (s.setHostFn v x).withdrawals = s.withdrawals := rfl
@[simp] theorem State.setHostFn_encoders (s : State) (v : Nat) (x : HostFn) : (s.setHostFn v x).encoders = s.encoders := rfl
@[simp] theorem State.setHostFn_boot (s : State) (v : Nat) (x : HostFn) : (s.setHostFn v x).boot = s.boot := rfl
@[simp] theorem State.setHostFn_out (s : State) (v : Nat) (x : HostFn) : (s.setHostFn v x).out = s.out := rfl
@[simp] theorem State.setHostFn_downPorts (s : State) (v : Nat) (x : HostFn) : (s.setHostFn v x).downPorts = s.downPorts := rfl
@[simp] theorem State.setHostFn_routes (s : State) (v : Nat) (x : HostFn) : (s.setHostFn v x).routes = s.routes := rfl
@[simp] theorem State.setHostFn_inbox (s : State) (v : Nat) (x : HostFn) : (s.setHostFn v x).inbox = s.inbox := rfl
@[simp] theorem State.setHostFn_tlb (s : State) (v : Nat) (x : HostFn) : (s.setHostFn v x).tlb = s.tlb := rfl
@[simp] theorem State.setHostFn_ended (s : State) (v : Nat) (x : HostFn) : (s.setHostFn v x).ended = s.ended := rfl
@[simp] theorem State.setHostFn_wire (s : State) (v : Nat) (x : HostFn) : (s.setHostFn v x).wire = s.wire := rfl
@[simp] theorem State.setHostFn_node (s : State) (v : Nat) (x : HostFn) : (s.setHostFn v x).node = s.node := rfl
@[simp] theorem State.setHostFn_seqOut (s : State) (v : Nat) (x : HostFn) : (s.setHostFn v x).seqOut = s.seqOut := rfl
@[simp] theorem State.setHostFn_seqIn (s : State) (v : Nat) (x : HostFn) : (s.setHostFn v x).seqIn = s.seqIn := rfl
@[simp] theorem State.setHostFn_held (s : State) (v : Nat) (x : HostFn) : (s.setHostFn v x).held = s.held := rfl
@[simp] theorem State.setHostFn_ctlb (s : State) (v : Nat) (x : HostFn) : (s.setHostFn v x).ctlb = s.ctlb := rfl
@[simp] theorem State.setHostFn_waitingControl (s : State) (v : Nat) (x : HostFn) : (s.setHostFn v x).waitingControl = s.waitingControl := rfl
@[simp] theorem State.setHostFn_misses (s : State) (v : Nat) (x : HostFn) : (s.setHostFn v x).misses = s.misses := rfl
@[simp] theorem State.setHostFn_cur (s : State) (v : Nat) (x : HostFn) : (s.setHostFn v x).cur = s.cur := rfl
@[simp] theorem State.setHostFn_agenda (s : State) (v : Nat) (x : HostFn) : (s.setHostFn v x).agenda = s.agenda := rfl
@[simp] theorem State.setHostFn_turns (s : State) (v : Nat) (x : HostFn) : (s.setHostFn v x).turns = s.turns := rfl
@[simp] theorem State.setHostFn_born (s : State) (v : Nat) (x : HostFn) : (s.setHostFn v x).born = s.born := rfl
@[simp] theorem State.setHostFn_free (s : State) (v : Nat) (x : HostFn) : (s.setHostFn v x).free = s.free := rfl

/-! ### setCGroup -/

@[simp] theorem State.setCGroup_mem (s : State) (g : Nat) (x : CGroup) : (s.setCGroup g x).mem = s.mem := rfl
@[simp] theorem State.setCGroup_dirty (s : State) (g : Nat) (x : CGroup) : (s.setCGroup g x).dirty = s.dirty := rfl
@[simp] theorem State.setCGroup_poison (s : State) (g : Nat) (x : CGroup) : (s.setCGroup g x).poison = s.poison := rfl
@[simp] theorem State.setCGroup_cycle (s : State) (g : Nat) (x : CGroup) : (s.setCGroup g x).cycle = s.cycle := rfl
@[simp] theorem State.setCGroup_tasks (s : State) (g : Nat) (x : CGroup) : (s.setCGroup g x).tasks = s.tasks := rfl
@[simp] theorem State.setCGroup_cores (s : State) (g : Nat) (x : CGroup) : (s.setCGroup g x).cores = s.cores := rfl
@[simp] theorem State.setCGroup_clusters (s : State) (g : Nat) (x : CGroup) : (s.setCGroup g x).clusters = s.clusters := rfl
@[simp] theorem State.setCGroup_dies (s : State) (g : Nat) (x : CGroup) : (s.setCGroup g x).dies = s.dies := rfl
@[simp] theorem State.setCGroup_dram (s : State) (g : Nat) (x : CGroup) : (s.setCGroup g x).dram = s.dram := rfl
@[simp] theorem State.setCGroup_launches (s : State) (g : Nat) (x : CGroup) : (s.setCGroup g x).launches = s.launches := rfl
@[simp] theorem State.setCGroup_svLaunches (s : State) (g : Nat) (x : CGroup) : (s.setCGroup g x).svLaunches = s.svLaunches := rfl
@[simp] theorem State.setCGroup_contracts (s : State) (g : Nat) (x : CGroup) : (s.setCGroup g x).contracts = s.contracts := rfl
@[simp] theorem State.setCGroup_parts (s : State) (g : Nat) (x : CGroup) : (s.setCGroup g x).parts = s.parts := rfl
@[simp] theorem State.setCGroup_spawns (s : State) (g : Nat) (x : CGroup) : (s.setCGroup g x).spawns = s.spawns := rfl
@[simp] theorem State.setCGroup_streams (s : State) (g : Nat) (x : CGroup) : (s.setCGroup g x).streams = s.streams := rfl
@[simp] theorem State.setCGroup_sources (s : State) (g : Nat) (x : CGroup) : (s.setCGroup g x).sources = s.sources := rfl
@[simp] theorem State.setCGroup_bindings (s : State) (g : Nat) (x : CGroup) : (s.setCGroup g x).bindings = s.bindings := rfl
@[simp] theorem State.setCGroup_windows (s : State) (g : Nat) (x : CGroup) : (s.setCGroup g x).windows = s.windows := rfl
@[simp] theorem State.setCGroup_packets (s : State) (g : Nat) (x : CGroup) : (s.setCGroup g x).packets = s.packets := rfl
@[simp] theorem State.setCGroup_staged (s : State) (g : Nat) (x : CGroup) : (s.setCGroup g x).staged = s.staged := rfl
@[simp] theorem State.setCGroup_dests (s : State) (g : Nat) (x : CGroup) : (s.setCGroup g x).dests = s.dests := rfl
@[simp] theorem State.setCGroup_fencedTraffic (s : State) (g : Nat) (x : CGroup) : (s.setCGroup g x).fencedTraffic = s.fencedTraffic := rfl
@[simp] theorem State.setCGroup_withdrawals (s : State) (g : Nat) (x : CGroup) : (s.setCGroup g x).withdrawals = s.withdrawals := rfl
@[simp] theorem State.setCGroup_encoders (s : State) (g : Nat) (x : CGroup) : (s.setCGroup g x).encoders = s.encoders := rfl
@[simp] theorem State.setCGroup_hostFns (s : State) (g : Nat) (x : CGroup) : (s.setCGroup g x).hostFns = s.hostFns := rfl
@[simp] theorem State.setCGroup_boot (s : State) (g : Nat) (x : CGroup) : (s.setCGroup g x).boot = s.boot := rfl
@[simp] theorem State.setCGroup_out (s : State) (g : Nat) (x : CGroup) : (s.setCGroup g x).out = s.out := rfl
@[simp] theorem State.setCGroup_downPorts (s : State) (g : Nat) (x : CGroup) : (s.setCGroup g x).downPorts = s.downPorts := rfl
@[simp] theorem State.setCGroup_routes (s : State) (g : Nat) (x : CGroup) : (s.setCGroup g x).routes = s.routes := rfl
@[simp] theorem State.setCGroup_inbox (s : State) (g : Nat) (x : CGroup) : (s.setCGroup g x).inbox = s.inbox := rfl
@[simp] theorem State.setCGroup_tlb (s : State) (g : Nat) (x : CGroup) : (s.setCGroup g x).tlb = s.tlb := rfl
@[simp] theorem State.setCGroup_ended (s : State) (g : Nat) (x : CGroup) : (s.setCGroup g x).ended = s.ended := rfl
@[simp] theorem State.setCGroup_wire (s : State) (g : Nat) (x : CGroup) : (s.setCGroup g x).wire = s.wire := rfl
@[simp] theorem State.setCGroup_node (s : State) (g : Nat) (x : CGroup) : (s.setCGroup g x).node = s.node := rfl
@[simp] theorem State.setCGroup_seqOut (s : State) (g : Nat) (x : CGroup) : (s.setCGroup g x).seqOut = s.seqOut := rfl
@[simp] theorem State.setCGroup_seqIn (s : State) (g : Nat) (x : CGroup) : (s.setCGroup g x).seqIn = s.seqIn := rfl
@[simp] theorem State.setCGroup_held (s : State) (g : Nat) (x : CGroup) : (s.setCGroup g x).held = s.held := rfl
@[simp] theorem State.setCGroup_ctlb (s : State) (g : Nat) (x : CGroup) : (s.setCGroup g x).ctlb = s.ctlb := rfl
@[simp] theorem State.setCGroup_waitingControl (s : State) (g : Nat) (x : CGroup) : (s.setCGroup g x).waitingControl = s.waitingControl := rfl
@[simp] theorem State.setCGroup_misses (s : State) (g : Nat) (x : CGroup) : (s.setCGroup g x).misses = s.misses := rfl
@[simp] theorem State.setCGroup_cur (s : State) (g : Nat) (x : CGroup) : (s.setCGroup g x).cur = s.cur := rfl
@[simp] theorem State.setCGroup_agenda (s : State) (g : Nat) (x : CGroup) : (s.setCGroup g x).agenda = s.agenda := rfl
@[simp] theorem State.setCGroup_turns (s : State) (g : Nat) (x : CGroup) : (s.setCGroup g x).turns = s.turns := rfl
@[simp] theorem State.setCGroup_born (s : State) (g : Nat) (x : CGroup) : (s.setCGroup g x).born = s.born := rfl
@[simp] theorem State.setCGroup_free (s : State) (g : Nat) (x : CGroup) : (s.setCGroup g x).free = s.free := rfl

/-! ### setEncoder -/

@[simp] theorem State.setEncoder_mem (s : State) (e : Nat) (x : Encoder) : (s.setEncoder e x).mem = s.mem := rfl
@[simp] theorem State.setEncoder_dirty (s : State) (e : Nat) (x : Encoder) : (s.setEncoder e x).dirty = s.dirty := rfl
@[simp] theorem State.setEncoder_poison (s : State) (e : Nat) (x : Encoder) : (s.setEncoder e x).poison = s.poison := rfl
@[simp] theorem State.setEncoder_cycle (s : State) (e : Nat) (x : Encoder) : (s.setEncoder e x).cycle = s.cycle := rfl
@[simp] theorem State.setEncoder_tasks (s : State) (e : Nat) (x : Encoder) : (s.setEncoder e x).tasks = s.tasks := rfl
@[simp] theorem State.setEncoder_cores (s : State) (e : Nat) (x : Encoder) : (s.setEncoder e x).cores = s.cores := rfl
@[simp] theorem State.setEncoder_clusters (s : State) (e : Nat) (x : Encoder) : (s.setEncoder e x).clusters = s.clusters := rfl
@[simp] theorem State.setEncoder_dies (s : State) (e : Nat) (x : Encoder) : (s.setEncoder e x).dies = s.dies := rfl
@[simp] theorem State.setEncoder_dram (s : State) (e : Nat) (x : Encoder) : (s.setEncoder e x).dram = s.dram := rfl
@[simp] theorem State.setEncoder_launches (s : State) (e : Nat) (x : Encoder) : (s.setEncoder e x).launches = s.launches := rfl
@[simp] theorem State.setEncoder_svLaunches (s : State) (e : Nat) (x : Encoder) : (s.setEncoder e x).svLaunches = s.svLaunches := rfl
@[simp] theorem State.setEncoder_contracts (s : State) (e : Nat) (x : Encoder) : (s.setEncoder e x).contracts = s.contracts := rfl
@[simp] theorem State.setEncoder_parts (s : State) (e : Nat) (x : Encoder) : (s.setEncoder e x).parts = s.parts := rfl
@[simp] theorem State.setEncoder_spawns (s : State) (e : Nat) (x : Encoder) : (s.setEncoder e x).spawns = s.spawns := rfl
@[simp] theorem State.setEncoder_streams (s : State) (e : Nat) (x : Encoder) : (s.setEncoder e x).streams = s.streams := rfl
@[simp] theorem State.setEncoder_sources (s : State) (e : Nat) (x : Encoder) : (s.setEncoder e x).sources = s.sources := rfl
@[simp] theorem State.setEncoder_bindings (s : State) (e : Nat) (x : Encoder) : (s.setEncoder e x).bindings = s.bindings := rfl
@[simp] theorem State.setEncoder_windows (s : State) (e : Nat) (x : Encoder) : (s.setEncoder e x).windows = s.windows := rfl
@[simp] theorem State.setEncoder_groups (s : State) (e : Nat) (x : Encoder) : (s.setEncoder e x).groups = s.groups := rfl
@[simp] theorem State.setEncoder_packets (s : State) (e : Nat) (x : Encoder) : (s.setEncoder e x).packets = s.packets := rfl
@[simp] theorem State.setEncoder_staged (s : State) (e : Nat) (x : Encoder) : (s.setEncoder e x).staged = s.staged := rfl
@[simp] theorem State.setEncoder_dests (s : State) (e : Nat) (x : Encoder) : (s.setEncoder e x).dests = s.dests := rfl
@[simp] theorem State.setEncoder_fencedTraffic (s : State) (e : Nat) (x : Encoder) : (s.setEncoder e x).fencedTraffic = s.fencedTraffic := rfl
@[simp] theorem State.setEncoder_withdrawals (s : State) (e : Nat) (x : Encoder) : (s.setEncoder e x).withdrawals = s.withdrawals := rfl
@[simp] theorem State.setEncoder_hostFns (s : State) (e : Nat) (x : Encoder) : (s.setEncoder e x).hostFns = s.hostFns := rfl
@[simp] theorem State.setEncoder_boot (s : State) (e : Nat) (x : Encoder) : (s.setEncoder e x).boot = s.boot := rfl
@[simp] theorem State.setEncoder_out (s : State) (e : Nat) (x : Encoder) : (s.setEncoder e x).out = s.out := rfl
@[simp] theorem State.setEncoder_downPorts (s : State) (e : Nat) (x : Encoder) : (s.setEncoder e x).downPorts = s.downPorts := rfl
@[simp] theorem State.setEncoder_routes (s : State) (e : Nat) (x : Encoder) : (s.setEncoder e x).routes = s.routes := rfl
@[simp] theorem State.setEncoder_inbox (s : State) (e : Nat) (x : Encoder) : (s.setEncoder e x).inbox = s.inbox := rfl
@[simp] theorem State.setEncoder_tlb (s : State) (e : Nat) (x : Encoder) : (s.setEncoder e x).tlb = s.tlb := rfl
@[simp] theorem State.setEncoder_ended (s : State) (e : Nat) (x : Encoder) : (s.setEncoder e x).ended = s.ended := rfl
@[simp] theorem State.setEncoder_wire (s : State) (e : Nat) (x : Encoder) : (s.setEncoder e x).wire = s.wire := rfl
@[simp] theorem State.setEncoder_node (s : State) (e : Nat) (x : Encoder) : (s.setEncoder e x).node = s.node := rfl
@[simp] theorem State.setEncoder_seqOut (s : State) (e : Nat) (x : Encoder) : (s.setEncoder e x).seqOut = s.seqOut := rfl
@[simp] theorem State.setEncoder_seqIn (s : State) (e : Nat) (x : Encoder) : (s.setEncoder e x).seqIn = s.seqIn := rfl
@[simp] theorem State.setEncoder_held (s : State) (e : Nat) (x : Encoder) : (s.setEncoder e x).held = s.held := rfl
@[simp] theorem State.setEncoder_ctlb (s : State) (e : Nat) (x : Encoder) : (s.setEncoder e x).ctlb = s.ctlb := rfl
@[simp] theorem State.setEncoder_waitingControl (s : State) (e : Nat) (x : Encoder) : (s.setEncoder e x).waitingControl = s.waitingControl := rfl
@[simp] theorem State.setEncoder_misses (s : State) (e : Nat) (x : Encoder) : (s.setEncoder e x).misses = s.misses := rfl
@[simp] theorem State.setEncoder_cur (s : State) (e : Nat) (x : Encoder) : (s.setEncoder e x).cur = s.cur := rfl
@[simp] theorem State.setEncoder_agenda (s : State) (e : Nat) (x : Encoder) : (s.setEncoder e x).agenda = s.agenda := rfl
@[simp] theorem State.setEncoder_turns (s : State) (e : Nat) (x : Encoder) : (s.setEncoder e x).turns = s.turns := rfl
@[simp] theorem State.setEncoder_born (s : State) (e : Nat) (x : Encoder) : (s.setEncoder e x).born = s.born := rfl
@[simp] theorem State.setEncoder_free (s : State) (e : Nat) (x : Encoder) : (s.setEncoder e x).free = s.free := rfl

/-! ### send -/

@[simp] theorem State.send_mem (s : State) (m : Message) : (s.send m).mem = s.mem := rfl
@[simp] theorem State.send_dirty (s : State) (m : Message) : (s.send m).dirty = s.dirty := rfl
@[simp] theorem State.send_poison (s : State) (m : Message) : (s.send m).poison = s.poison := rfl
@[simp] theorem State.send_cycle (s : State) (m : Message) : (s.send m).cycle = s.cycle := rfl
@[simp] theorem State.send_tasks (s : State) (m : Message) : (s.send m).tasks = s.tasks := rfl
@[simp] theorem State.send_cores (s : State) (m : Message) : (s.send m).cores = s.cores := rfl
@[simp] theorem State.send_clusters (s : State) (m : Message) : (s.send m).clusters = s.clusters := rfl
@[simp] theorem State.send_dies (s : State) (m : Message) : (s.send m).dies = s.dies := rfl
@[simp] theorem State.send_dram (s : State) (m : Message) : (s.send m).dram = s.dram := rfl
@[simp] theorem State.send_launches (s : State) (m : Message) : (s.send m).launches = s.launches := rfl
@[simp] theorem State.send_svLaunches (s : State) (m : Message) : (s.send m).svLaunches = s.svLaunches := rfl
@[simp] theorem State.send_contracts (s : State) (m : Message) : (s.send m).contracts = s.contracts := rfl
@[simp] theorem State.send_parts (s : State) (m : Message) : (s.send m).parts = s.parts := rfl
@[simp] theorem State.send_spawns (s : State) (m : Message) : (s.send m).spawns = s.spawns := rfl
@[simp] theorem State.send_streams (s : State) (m : Message) : (s.send m).streams = s.streams := rfl
@[simp] theorem State.send_sources (s : State) (m : Message) : (s.send m).sources = s.sources := rfl
@[simp] theorem State.send_bindings (s : State) (m : Message) : (s.send m).bindings = s.bindings := rfl
@[simp] theorem State.send_windows (s : State) (m : Message) : (s.send m).windows = s.windows := rfl
@[simp] theorem State.send_groups (s : State) (m : Message) : (s.send m).groups = s.groups := rfl
@[simp] theorem State.send_packets (s : State) (m : Message) : (s.send m).packets = s.packets := rfl
@[simp] theorem State.send_staged (s : State) (m : Message) : (s.send m).staged = s.staged := rfl
@[simp] theorem State.send_dests (s : State) (m : Message) : (s.send m).dests = s.dests := rfl
@[simp] theorem State.send_fencedTraffic (s : State) (m : Message) : (s.send m).fencedTraffic = s.fencedTraffic := rfl
@[simp] theorem State.send_withdrawals (s : State) (m : Message) : (s.send m).withdrawals = s.withdrawals := rfl
@[simp] theorem State.send_encoders (s : State) (m : Message) : (s.send m).encoders = s.encoders := rfl
@[simp] theorem State.send_hostFns (s : State) (m : Message) : (s.send m).hostFns = s.hostFns := rfl
@[simp] theorem State.send_boot (s : State) (m : Message) : (s.send m).boot = s.boot := rfl
@[simp] theorem State.send_downPorts (s : State) (m : Message) : (s.send m).downPorts = s.downPorts := rfl
@[simp] theorem State.send_routes (s : State) (m : Message) : (s.send m).routes = s.routes := rfl
@[simp] theorem State.send_inbox (s : State) (m : Message) : (s.send m).inbox = s.inbox := rfl
@[simp] theorem State.send_tlb (s : State) (m : Message) : (s.send m).tlb = s.tlb := rfl
@[simp] theorem State.send_ended (s : State) (m : Message) : (s.send m).ended = s.ended := rfl
@[simp] theorem State.send_wire (s : State) (m : Message) : (s.send m).wire = s.wire := rfl
@[simp] theorem State.send_node (s : State) (m : Message) : (s.send m).node = s.node := rfl
@[simp] theorem State.send_seqOut (s : State) (m : Message) : (s.send m).seqOut = s.seqOut := rfl
@[simp] theorem State.send_seqIn (s : State) (m : Message) : (s.send m).seqIn = s.seqIn := rfl
@[simp] theorem State.send_held (s : State) (m : Message) : (s.send m).held = s.held := rfl
@[simp] theorem State.send_ctlb (s : State) (m : Message) : (s.send m).ctlb = s.ctlb := rfl
@[simp] theorem State.send_waitingControl (s : State) (m : Message) : (s.send m).waitingControl = s.waitingControl := rfl
@[simp] theorem State.send_misses (s : State) (m : Message) : (s.send m).misses = s.misses := rfl
@[simp] theorem State.send_cur (s : State) (m : Message) : (s.send m).cur = s.cur := rfl
@[simp] theorem State.send_agenda (s : State) (m : Message) : (s.send m).agenda = s.agenda := rfl
@[simp] theorem State.send_turns (s : State) (m : Message) : (s.send m).turns = s.turns := rfl
@[simp] theorem State.send_born (s : State) (m : Message) : (s.send m).born = s.born := rfl
@[simp] theorem State.send_free (s : State) (m : Message) : (s.send m).free = s.free := rfl

/-! ### Task.mapCtl -/

@[simp] theorem Task.mapCtl_st (x : Task) (f : Ctl → Ctl) : (x.mapCtl f).st = x.st := rfl
@[simp] theorem Task.mapCtl_r (x : Task) (f : Ctl → Ctl) : (x.mapCtl f).r = x.r := rfl
@[simp] theorem Task.mapCtl_vec (x : Task) (f : Ctl → Ctl) : (x.mapCtl f).vec = x.vec := rfl
@[simp] theorem Task.mapCtl_mat (x : Task) (f : Ctl → Ctl) : (x.mapCtl f).mat = x.mat := rfl
@[simp] theorem Task.mapCtl_cpy (x : Task) (f : Ctl → Ctl) : (x.mapCtl f).cpy = x.cpy := rfl
@[simp] theorem Task.mapCtl_tiles (x : Task) (f : Ctl → Ctl) : (x.mapCtl f).tiles = x.tiles := rfl
@[simp] theorem Task.mapCtl_cbs (x : Task) (f : Ctl → Ctl) : (x.mapCtl f).cbs = x.cbs := rfl
@[simp] theorem Task.mapCtl_sems (x : Task) (f : Ctl → Ctl) : (x.mapCtl f).sems = x.sems := rfl
@[simp] theorem Task.mapCtl_frame (x : Task) (f : Ctl → Ctl) : (x.mapCtl f).frame = x.frame := rfl
@[simp] theorem Task.mapCtl_pend (x : Task) (f : Ctl → Ctl) : (x.mapCtl f).pend = x.pend := rfl
@[simp] theorem Task.mapCtl_wait (x : Task) (f : Ctl → Ctl) : (x.mapCtl f).wait = x.wait := rfl
@[simp] theorem Task.mapCtl_pendFault (x : Task) (f : Ctl → Ctl) : (x.mapCtl f).pendFault = x.pendFault := rfl
@[simp] theorem Task.mapCtl_frameBad (x : Task) (f : Ctl → Ctl) : (x.mapCtl f).frameBad = x.frameBad := rfl
@[simp] theorem Task.mapCtl_kept (x : Task) (f : Ctl → Ctl) : (x.mapCtl f).kept = x.kept := rfl
@[simp] theorem Task.mapCtl_semBad (x : Task) (f : Ctl → Ctl) : (x.mapCtl f).semBad = x.semBad := rfl
@[simp] theorem Task.mapCtl_bel (x : Task) (f : Ctl → Ctl) : (x.mapCtl f).bel = x.bel := rfl
@[simp] theorem Task.mapCtl_tileCycle (x : Task) (f : Ctl → Ctl) : (x.mapCtl f).tileCycle = x.tileCycle := rfl
@[simp] theorem Task.mapCtl_tileStarts (x : Task) (f : Ctl → Ctl) : (x.mapCtl f).tileStarts = x.tileStarts := rfl
@[simp] theorem Task.mapCtl_ctl (x : Task) (f : Ctl → Ctl) : (x.mapCtl f).ctl = f x.ctl := rfl

/-! ### Task.mapRec -/

@[simp] theorem Task.mapRec_st (x : Task) (f : Rec → Rec) : (x.mapRec f).st = x.st := rfl
@[simp] theorem Task.mapRec_ctl (x : Task) (f : Rec → Rec) : (x.mapRec f).ctl = x.ctl := rfl
@[simp] theorem Task.mapRec_vec (x : Task) (f : Rec → Rec) : (x.mapRec f).vec = x.vec := rfl
@[simp] theorem Task.mapRec_mat (x : Task) (f : Rec → Rec) : (x.mapRec f).mat = x.mat := rfl
@[simp] theorem Task.mapRec_cpy (x : Task) (f : Rec → Rec) : (x.mapRec f).cpy = x.cpy := rfl
@[simp] theorem Task.mapRec_tiles (x : Task) (f : Rec → Rec) : (x.mapRec f).tiles = x.tiles := rfl
@[simp] theorem Task.mapRec_cbs (x : Task) (f : Rec → Rec) : (x.mapRec f).cbs = x.cbs := rfl
@[simp] theorem Task.mapRec_sems (x : Task) (f : Rec → Rec) : (x.mapRec f).sems = x.sems := rfl
@[simp] theorem Task.mapRec_frame (x : Task) (f : Rec → Rec) : (x.mapRec f).frame = x.frame := rfl
@[simp] theorem Task.mapRec_pend (x : Task) (f : Rec → Rec) : (x.mapRec f).pend = x.pend := rfl
@[simp] theorem Task.mapRec_wait (x : Task) (f : Rec → Rec) : (x.mapRec f).wait = x.wait := rfl
@[simp] theorem Task.mapRec_pendFault (x : Task) (f : Rec → Rec) : (x.mapRec f).pendFault = x.pendFault := rfl
@[simp] theorem Task.mapRec_frameBad (x : Task) (f : Rec → Rec) : (x.mapRec f).frameBad = x.frameBad := rfl
@[simp] theorem Task.mapRec_kept (x : Task) (f : Rec → Rec) : (x.mapRec f).kept = x.kept := rfl
@[simp] theorem Task.mapRec_semBad (x : Task) (f : Rec → Rec) : (x.mapRec f).semBad = x.semBad := rfl
@[simp] theorem Task.mapRec_bel (x : Task) (f : Rec → Rec) : (x.mapRec f).bel = x.bel := rfl
@[simp] theorem Task.mapRec_tileCycle (x : Task) (f : Rec → Rec) : (x.mapRec f).tileCycle = x.tileCycle := rfl
@[simp] theorem Task.mapRec_tileStarts (x : Task) (f : Rec → Rec) : (x.mapRec f).tileStarts = x.tileStarts := rfl
@[simp] theorem Task.mapRec_r (x : Task) (f : Rec → Rec) : (x.mapRec f).r = f x.r := rfl

/-! ### Task.wr -/

@[simp] theorem Task.wr_st (x : Task) (r : SReg) (v : Word) : (x.wr r v).st = x.st := rfl
@[simp] theorem Task.wr_r (x : Task) (r : SReg) (v : Word) : (x.wr r v).r = x.r := rfl
@[simp] theorem Task.wr_vec (x : Task) (r : SReg) (v : Word) : (x.wr r v).vec = x.vec := rfl
@[simp] theorem Task.wr_mat (x : Task) (r : SReg) (v : Word) : (x.wr r v).mat = x.mat := rfl
@[simp] theorem Task.wr_cpy (x : Task) (r : SReg) (v : Word) : (x.wr r v).cpy = x.cpy := rfl
@[simp] theorem Task.wr_tiles (x : Task) (r : SReg) (v : Word) : (x.wr r v).tiles = x.tiles := rfl
@[simp] theorem Task.wr_cbs (x : Task) (r : SReg) (v : Word) : (x.wr r v).cbs = x.cbs := rfl
@[simp] theorem Task.wr_sems (x : Task) (r : SReg) (v : Word) : (x.wr r v).sems = x.sems := rfl
@[simp] theorem Task.wr_frame (x : Task) (r : SReg) (v : Word) : (x.wr r v).frame = x.frame := rfl
@[simp] theorem Task.wr_pend (x : Task) (r : SReg) (v : Word) : (x.wr r v).pend = x.pend := rfl
@[simp] theorem Task.wr_wait (x : Task) (r : SReg) (v : Word) : (x.wr r v).wait = x.wait := rfl
@[simp] theorem Task.wr_pendFault (x : Task) (r : SReg) (v : Word) : (x.wr r v).pendFault = x.pendFault := rfl
@[simp] theorem Task.wr_frameBad (x : Task) (r : SReg) (v : Word) : (x.wr r v).frameBad = x.frameBad := rfl
@[simp] theorem Task.wr_kept (x : Task) (r : SReg) (v : Word) : (x.wr r v).kept = x.kept := rfl
@[simp] theorem Task.wr_semBad (x : Task) (r : SReg) (v : Word) : (x.wr r v).semBad = x.semBad := rfl
@[simp] theorem Task.wr_bel (x : Task) (r : SReg) (v : Word) : (x.wr r v).bel = x.bel := rfl
@[simp] theorem Task.wr_tileCycle (x : Task) (r : SReg) (v : Word) : (x.wr r v).tileCycle = x.tileCycle := rfl
@[simp] theorem Task.wr_tileStarts (x : Task) (r : SReg) (v : Word) : (x.wr r v).tileStarts = x.tileStarts := rfl
@[simp] theorem Task.wr_ctl (x : Task) (r : SReg) (v : Word) : (x.wr r v).ctl = x.ctl.wr r v := rfl

/-! ### Task.retire -/

/-- A back-edge into a register that no load awaits changes no access in flight. -/
theorem Task.overtake_of_free (x : Task) (r : SReg) (h : awaited x r = false) : x.overtake r = x := by simp [Task.overtake, h]
@[simp] theorem Task.retire_st (x : Task) (n : Nat) : (x.retire n).st = x.st := by
  unfold Task.retire Task.overtake; split <;> rfl
@[simp] theorem Task.retire_r (x : Task) (n : Nat) : (x.retire n).r = x.r := by
  unfold Task.retire Task.overtake; split <;> rfl
@[simp] theorem Task.retire_vec (x : Task) (n : Nat) : (x.retire n).vec = x.vec := by
  unfold Task.retire Task.overtake; split <;> rfl
@[simp] theorem Task.retire_mat (x : Task) (n : Nat) : (x.retire n).mat = x.mat := by
  unfold Task.retire Task.overtake; split <;> rfl
@[simp] theorem Task.retire_cpy (x : Task) (n : Nat) : (x.retire n).cpy = x.cpy := by
  unfold Task.retire Task.overtake; split <;> rfl
@[simp] theorem Task.retire_tiles (x : Task) (n : Nat) : (x.retire n).tiles = x.tiles := by
  unfold Task.retire Task.overtake; split <;> rfl
@[simp] theorem Task.retire_cbs (x : Task) (n : Nat) : (x.retire n).cbs = x.cbs := by
  unfold Task.retire Task.overtake; split <;> rfl
@[simp] theorem Task.retire_sems (x : Task) (n : Nat) : (x.retire n).sems = x.sems := by
  unfold Task.retire Task.overtake; split <;> rfl
@[simp] theorem Task.retire_frame (x : Task) (n : Nat) : (x.retire n).frame = x.frame := by
  unfold Task.retire Task.overtake; split <;> rfl
@[simp] theorem Task.retire_wait (x : Task) (n : Nat) : (x.retire n).wait = x.wait := by
  unfold Task.retire Task.overtake; split <;> rfl
@[simp] theorem Task.retire_pendFault (x : Task) (n : Nat) : (x.retire n).pendFault = x.pendFault := by
  unfold Task.retire Task.overtake; split <;> rfl
@[simp] theorem Task.retire_frameBad (x : Task) (n : Nat) : (x.retire n).frameBad = x.frameBad := by
  unfold Task.retire Task.overtake; split <;> rfl
@[simp] theorem Task.retire_kept (x : Task) (n : Nat) : (x.retire n).kept = x.kept := by
  unfold Task.retire Task.overtake; split <;> rfl
@[simp] theorem Task.retire_semBad (x : Task) (n : Nat) : (x.retire n).semBad = x.semBad := by
  unfold Task.retire Task.overtake; split <;> rfl
@[simp] theorem Task.retire_bel (x : Task) (n : Nat) : (x.retire n).bel = x.bel := by
  unfold Task.retire Task.overtake; split <;> rfl
@[simp] theorem Task.retire_tileCycle (x : Task) (n : Nat) : (x.retire n).tileCycle = x.tileCycle := by
  unfold Task.retire Task.overtake; split <;> rfl
@[simp] theorem Task.retire_tileStarts (x : Task) (n : Nat) : (x.retire n).tileStarts = x.tileStarts := by
  unfold Task.retire Task.overtake; split <;> rfl
@[simp] theorem Task.retire_pend (x : Task) (n : Nat) : (x.retire n).pend = (x.overtake (x.ctl.indexWritten n)).pend := rfl
@[simp] theorem Task.retire_ctl (x : Task) (n : Nat) : (x.retire n).ctl = x.ctl.retire n := rfl

/-! ### Task.setSem -/

@[simp] theorem Task.setSem_st (x : Task) (i : Nat) (v : BitVec 32) : (x.setSem i v).st = x.st := rfl
@[simp] theorem Task.setSem_r (x : Task) (i : Nat) (v : BitVec 32) : (x.setSem i v).r = x.r := rfl
@[simp] theorem Task.setSem_ctl (x : Task) (i : Nat) (v : BitVec 32) : (x.setSem i v).ctl = x.ctl := rfl
@[simp] theorem Task.setSem_vec (x : Task) (i : Nat) (v : BitVec 32) : (x.setSem i v).vec = x.vec := rfl
@[simp] theorem Task.setSem_mat (x : Task) (i : Nat) (v : BitVec 32) : (x.setSem i v).mat = x.mat := rfl
@[simp] theorem Task.setSem_cpy (x : Task) (i : Nat) (v : BitVec 32) : (x.setSem i v).cpy = x.cpy := rfl
@[simp] theorem Task.setSem_tiles (x : Task) (i : Nat) (v : BitVec 32) : (x.setSem i v).tiles = x.tiles := rfl
@[simp] theorem Task.setSem_cbs (x : Task) (i : Nat) (v : BitVec 32) : (x.setSem i v).cbs = x.cbs := rfl
@[simp] theorem Task.setSem_frame (x : Task) (i : Nat) (v : BitVec 32) : (x.setSem i v).frame = x.frame := rfl
@[simp] theorem Task.setSem_pend (x : Task) (i : Nat) (v : BitVec 32) : (x.setSem i v).pend = x.pend := rfl
@[simp] theorem Task.setSem_wait (x : Task) (i : Nat) (v : BitVec 32) : (x.setSem i v).wait = x.wait := rfl
@[simp] theorem Task.setSem_pendFault (x : Task) (i : Nat) (v : BitVec 32) : (x.setSem i v).pendFault = x.pendFault := rfl
@[simp] theorem Task.setSem_frameBad (x : Task) (i : Nat) (v : BitVec 32) : (x.setSem i v).frameBad = x.frameBad := rfl
@[simp] theorem Task.setSem_kept (x : Task) (i : Nat) (v : BitVec 32) : (x.setSem i v).kept = x.kept := rfl
@[simp] theorem Task.setSem_semBad (x : Task) (i : Nat) (v : BitVec 32) : (x.setSem i v).semBad = x.semBad := rfl
@[simp] theorem Task.setSem_bel (x : Task) (i : Nat) (v : BitVec 32) : (x.setSem i v).bel = x.bel := rfl
@[simp] theorem Task.setSem_tileCycle (x : Task) (i : Nat) (v : BitVec 32) : (x.setSem i v).tileCycle = x.tileCycle := rfl
@[simp] theorem Task.setSem_tileStarts (x : Task) (i : Nat) (v : BitVec 32) : (x.setSem i v).tileStarts = x.tileStarts := rfl

/-! ### Task.setTile -/

@[simp] theorem Task.setTile_st (x : Task) (i : Nat) (v : Tile) : (x.setTile i v).st = x.st := rfl
@[simp] theorem Task.setTile_r (x : Task) (i : Nat) (v : Tile) : (x.setTile i v).r = x.r := rfl
@[simp] theorem Task.setTile_ctl (x : Task) (i : Nat) (v : Tile) : (x.setTile i v).ctl = x.ctl := rfl
@[simp] theorem Task.setTile_vec (x : Task) (i : Nat) (v : Tile) : (x.setTile i v).vec = x.vec := rfl
@[simp] theorem Task.setTile_mat (x : Task) (i : Nat) (v : Tile) : (x.setTile i v).mat = x.mat := rfl
@[simp] theorem Task.setTile_cpy (x : Task) (i : Nat) (v : Tile) : (x.setTile i v).cpy = x.cpy := rfl
@[simp] theorem Task.setTile_cbs (x : Task) (i : Nat) (v : Tile) : (x.setTile i v).cbs = x.cbs := rfl
@[simp] theorem Task.setTile_sems (x : Task) (i : Nat) (v : Tile) : (x.setTile i v).sems = x.sems := rfl
@[simp] theorem Task.setTile_frame (x : Task) (i : Nat) (v : Tile) : (x.setTile i v).frame = x.frame := rfl
@[simp] theorem Task.setTile_pend (x : Task) (i : Nat) (v : Tile) : (x.setTile i v).pend = x.pend := rfl
@[simp] theorem Task.setTile_wait (x : Task) (i : Nat) (v : Tile) : (x.setTile i v).wait = x.wait := rfl
@[simp] theorem Task.setTile_pendFault (x : Task) (i : Nat) (v : Tile) : (x.setTile i v).pendFault = x.pendFault := rfl
@[simp] theorem Task.setTile_frameBad (x : Task) (i : Nat) (v : Tile) : (x.setTile i v).frameBad = x.frameBad := rfl
@[simp] theorem Task.setTile_kept (x : Task) (i : Nat) (v : Tile) : (x.setTile i v).kept = x.kept := rfl
@[simp] theorem Task.setTile_semBad (x : Task) (i : Nat) (v : Tile) : (x.setTile i v).semBad = x.semBad := rfl
@[simp] theorem Task.setTile_bel (x : Task) (i : Nat) (v : Tile) : (x.setTile i v).bel = x.bel := rfl
@[simp] theorem Task.setTile_tileCycle (x : Task) (i : Nat) (v : Tile) : (x.setTile i v).tileCycle = x.tileCycle := rfl
@[simp] theorem Task.setTile_tileStarts (x : Task) (i : Nat) (v : Tile) : (x.setTile i v).tileStarts = x.tileStarts := rfl

/-! ### Task.setCodebook -/

@[simp] theorem Task.setCodebook_st (x : Task) (i : Nat) (v : Codebook) : (x.setCodebook i v).st = x.st := rfl
@[simp] theorem Task.setCodebook_r (x : Task) (i : Nat) (v : Codebook) : (x.setCodebook i v).r = x.r := rfl
@[simp] theorem Task.setCodebook_ctl (x : Task) (i : Nat) (v : Codebook) : (x.setCodebook i v).ctl = x.ctl := rfl
@[simp] theorem Task.setCodebook_vec (x : Task) (i : Nat) (v : Codebook) : (x.setCodebook i v).vec = x.vec := rfl
@[simp] theorem Task.setCodebook_mat (x : Task) (i : Nat) (v : Codebook) : (x.setCodebook i v).mat = x.mat := rfl
@[simp] theorem Task.setCodebook_cpy (x : Task) (i : Nat) (v : Codebook) : (x.setCodebook i v).cpy = x.cpy := rfl
@[simp] theorem Task.setCodebook_tiles (x : Task) (i : Nat) (v : Codebook) : (x.setCodebook i v).tiles = x.tiles := rfl
@[simp] theorem Task.setCodebook_sems (x : Task) (i : Nat) (v : Codebook) : (x.setCodebook i v).sems = x.sems := rfl
@[simp] theorem Task.setCodebook_frame (x : Task) (i : Nat) (v : Codebook) : (x.setCodebook i v).frame = x.frame := rfl
@[simp] theorem Task.setCodebook_pend (x : Task) (i : Nat) (v : Codebook) : (x.setCodebook i v).pend = x.pend := rfl
@[simp] theorem Task.setCodebook_wait (x : Task) (i : Nat) (v : Codebook) : (x.setCodebook i v).wait = x.wait := rfl
@[simp] theorem Task.setCodebook_pendFault (x : Task) (i : Nat) (v : Codebook) : (x.setCodebook i v).pendFault = x.pendFault := rfl
@[simp] theorem Task.setCodebook_frameBad (x : Task) (i : Nat) (v : Codebook) : (x.setCodebook i v).frameBad = x.frameBad := rfl
@[simp] theorem Task.setCodebook_kept (x : Task) (i : Nat) (v : Codebook) : (x.setCodebook i v).kept = x.kept := rfl
@[simp] theorem Task.setCodebook_semBad (x : Task) (i : Nat) (v : Codebook) : (x.setCodebook i v).semBad = x.semBad := rfl
@[simp] theorem Task.setCodebook_bel (x : Task) (i : Nat) (v : Codebook) : (x.setCodebook i v).bel = x.bel := rfl
@[simp] theorem Task.setCodebook_tileCycle (x : Task) (i : Nat) (v : Codebook) : (x.setCodebook i v).tileCycle = x.tileCycle := rfl
@[simp] theorem Task.setCodebook_tileStarts (x : Task) (i : Nat) (v : Codebook) : (x.setCodebook i v).tileStarts = x.tileStarts := rfl

/-! ### Task.post -/

@[simp] theorem Task.post_st (x : Task) (a : Access) : (x.post a).st = x.st := rfl
@[simp] theorem Task.post_r (x : Task) (a : Access) : (x.post a).r = x.r := rfl
@[simp] theorem Task.post_ctl (x : Task) (a : Access) : (x.post a).ctl = x.ctl := rfl
@[simp] theorem Task.post_vec (x : Task) (a : Access) : (x.post a).vec = x.vec := rfl
@[simp] theorem Task.post_mat (x : Task) (a : Access) : (x.post a).mat = x.mat := rfl
@[simp] theorem Task.post_cpy (x : Task) (a : Access) : (x.post a).cpy = x.cpy := rfl
@[simp] theorem Task.post_tiles (x : Task) (a : Access) : (x.post a).tiles = x.tiles := rfl
@[simp] theorem Task.post_cbs (x : Task) (a : Access) : (x.post a).cbs = x.cbs := rfl
@[simp] theorem Task.post_sems (x : Task) (a : Access) : (x.post a).sems = x.sems := rfl
@[simp] theorem Task.post_frame (x : Task) (a : Access) : (x.post a).frame = x.frame := rfl
@[simp] theorem Task.post_wait (x : Task) (a : Access) : (x.post a).wait = x.wait := rfl
@[simp] theorem Task.post_pendFault (x : Task) (a : Access) : (x.post a).pendFault = x.pendFault := rfl
@[simp] theorem Task.post_frameBad (x : Task) (a : Access) : (x.post a).frameBad = x.frameBad := rfl
@[simp] theorem Task.post_kept (x : Task) (a : Access) : (x.post a).kept = x.kept := rfl
@[simp] theorem Task.post_semBad (x : Task) (a : Access) : (x.post a).semBad = x.semBad := rfl
@[simp] theorem Task.post_bel (x : Task) (a : Access) : (x.post a).bel = x.bel := rfl
@[simp] theorem Task.post_tileCycle (x : Task) (a : Access) : (x.post a).tileCycle = x.tileCycle := rfl
@[simp] theorem Task.post_tileStarts (x : Task) (a : Access) : (x.post a).tileStarts = x.tileStarts := rfl

/-! ### Task.unpost -/

@[simp] theorem Task.unpost_st (x : Task) (k : Nat) : (x.unpost k).st = x.st := rfl
@[simp] theorem Task.unpost_r (x : Task) (k : Nat) : (x.unpost k).r = x.r := rfl
@[simp] theorem Task.unpost_ctl (x : Task) (k : Nat) : (x.unpost k).ctl = x.ctl := rfl
@[simp] theorem Task.unpost_vec (x : Task) (k : Nat) : (x.unpost k).vec = x.vec := rfl
@[simp] theorem Task.unpost_mat (x : Task) (k : Nat) : (x.unpost k).mat = x.mat := rfl
@[simp] theorem Task.unpost_cpy (x : Task) (k : Nat) : (x.unpost k).cpy = x.cpy := rfl
@[simp] theorem Task.unpost_tiles (x : Task) (k : Nat) : (x.unpost k).tiles = x.tiles := rfl
@[simp] theorem Task.unpost_cbs (x : Task) (k : Nat) : (x.unpost k).cbs = x.cbs := rfl
@[simp] theorem Task.unpost_sems (x : Task) (k : Nat) : (x.unpost k).sems = x.sems := rfl
@[simp] theorem Task.unpost_frame (x : Task) (k : Nat) : (x.unpost k).frame = x.frame := rfl
@[simp] theorem Task.unpost_wait (x : Task) (k : Nat) : (x.unpost k).wait = x.wait := rfl
@[simp] theorem Task.unpost_pendFault (x : Task) (k : Nat) : (x.unpost k).pendFault = x.pendFault := rfl
@[simp] theorem Task.unpost_frameBad (x : Task) (k : Nat) : (x.unpost k).frameBad = x.frameBad := rfl
@[simp] theorem Task.unpost_kept (x : Task) (k : Nat) : (x.unpost k).kept = x.kept := rfl
@[simp] theorem Task.unpost_semBad (x : Task) (k : Nat) : (x.unpost k).semBad = x.semBad := rfl
@[simp] theorem Task.unpost_bel (x : Task) (k : Nat) : (x.unpost k).bel = x.bel := rfl
@[simp] theorem Task.unpost_tileCycle (x : Task) (k : Nat) : (x.unpost k).tileCycle = x.tileCycle := rfl
@[simp] theorem Task.unpost_tileStarts (x : Task) (k : Nat) : (x.unpost k).tileStarts = x.tileStarts := rfl

/-! ### Ctl.hw -/

@[simp] theorem Ctl.hw_s (c : Ctl) (r : HReg) (v : Handle) : (c.hw r v).s = c.s := rfl
@[simp] theorem Ctl.hw_pc (c : Ctl) (r : HReg) (v : Handle) : (c.hw r v).pc = c.pc := rfl
@[simp] theorem Ctl.hw_delay (c : Ctl) (r : HReg) (v : Handle) : (c.hw r v).delay = c.delay := rfl
@[simp] theorem Ctl.hw_loops (c : Ctl) (r : HReg) (v : Handle) : (c.hw r v).loops = c.loops := rfl
@[simp] theorem Ctl.hw_pl (c : Ctl) (r : HReg) (v : Handle) : (c.hw r v).pl = c.pl := rfl
@[simp] theorem Ctl.hw_ie (c : Ctl) (r : HReg) (v : Handle) : (c.hw r v).ie = c.ie := rfl
@[simp] theorem Ctl.hw_act (c : Ctl) (r : HReg) (v : Handle) : (c.hw r v).act = c.act := rfl
@[simp] theorem Ctl.hw_tstate (c : Ctl) (r : HReg) (v : Handle) : (c.hw r v).tstate = c.tstate := rfl
@[simp] theorem Ctl.hw_taddr (c : Ctl) (r : HReg) (v : Handle) : (c.hw r v).taddr = c.taddr := rfl
@[simp] theorem Ctl.hw_tresume (c : Ctl) (r : HReg) (v : Handle) : (c.hw r v).tresume = c.tresume := rfl
@[simp] theorem Ctl.hw_tval (c : Ctl) (r : HReg) (v : Handle) : (c.hw r v).tval = c.tval := rfl
@[simp] theorem Ctl.hw_trec (c : Ctl) (r : HReg) (v : Handle) : (c.hw r v).trec = c.trec := rfl
@[simp] theorem Ctl.hw_tframe (c : Ctl) (r : HReg) (v : Handle) : (c.hw r v).tframe = c.tframe := rfl
@[simp] theorem Ctl.hw_halted (c : Ctl) (r : HReg) (v : Handle) : (c.hw r v).halted = c.halted := rfl
@[simp] theorem Ctl.hw_bad (c : Ctl) (r : HReg) (v : Handle) : (c.hw r v).bad = c.bad := rfl
@[simp] theorem Ctl.hw_own (c : Ctl) (r : HReg) (v : Handle) : (c.hw r v).own = c.own := rfl

/-! ### Ctl.wr -/

@[simp] theorem Ctl.wr_h (c : Ctl) (r : SReg) (v : Word) : (c.wr r v).h = c.h := by
  unfold Ctl.wr; split <;> rfl
@[simp] theorem Ctl.wr_pc (c : Ctl) (r : SReg) (v : Word) : (c.wr r v).pc = c.pc := by
  unfold Ctl.wr; split <;> rfl
@[simp] theorem Ctl.wr_delay (c : Ctl) (r : SReg) (v : Word) : (c.wr r v).delay = c.delay := by
  unfold Ctl.wr; split <;> rfl
@[simp] theorem Ctl.wr_loops (c : Ctl) (r : SReg) (v : Word) : (c.wr r v).loops = c.loops := by
  unfold Ctl.wr; split <;> rfl
@[simp] theorem Ctl.wr_pl (c : Ctl) (r : SReg) (v : Word) : (c.wr r v).pl = c.pl := by
  unfold Ctl.wr; split <;> rfl
@[simp] theorem Ctl.wr_ie (c : Ctl) (r : SReg) (v : Word) : (c.wr r v).ie = c.ie := by
  unfold Ctl.wr; split <;> rfl
@[simp] theorem Ctl.wr_act (c : Ctl) (r : SReg) (v : Word) : (c.wr r v).act = c.act := by
  unfold Ctl.wr; split <;> rfl
@[simp] theorem Ctl.wr_tstate (c : Ctl) (r : SReg) (v : Word) : (c.wr r v).tstate = c.tstate := by
  unfold Ctl.wr; split <;> rfl
@[simp] theorem Ctl.wr_taddr (c : Ctl) (r : SReg) (v : Word) : (c.wr r v).taddr = c.taddr := by
  unfold Ctl.wr; split <;> rfl
@[simp] theorem Ctl.wr_tresume (c : Ctl) (r : SReg) (v : Word) : (c.wr r v).tresume = c.tresume := by
  unfold Ctl.wr; split <;> rfl
@[simp] theorem Ctl.wr_tval (c : Ctl) (r : SReg) (v : Word) : (c.wr r v).tval = c.tval := by
  unfold Ctl.wr; split <;> rfl
@[simp] theorem Ctl.wr_trec (c : Ctl) (r : SReg) (v : Word) : (c.wr r v).trec = c.trec := by
  unfold Ctl.wr; split <;> rfl
@[simp] theorem Ctl.wr_tframe (c : Ctl) (r : SReg) (v : Word) : (c.wr r v).tframe = c.tframe := by
  unfold Ctl.wr; split <;> rfl
@[simp] theorem Ctl.wr_halted (c : Ctl) (r : SReg) (v : Word) : (c.wr r v).halted = c.halted := by
  unfold Ctl.wr; split <;> rfl
@[simp] theorem Ctl.wr_hbad (c : Ctl) (r : SReg) (v : Word) : (c.wr r v).hbad = c.hbad := by
  unfold Ctl.wr; split <;> rfl

/-! ### Ctl.retire -/

@[simp] theorem Ctl.retire_h (c : Ctl) (n : Nat) : (c.retire n).h = c.h := by
  unfold Ctl.retire; split; · rfl
  · dsimp only; split <;> simp
@[simp] theorem Ctl.retire_pl (c : Ctl) (n : Nat) : (c.retire n).pl = c.pl := by
  unfold Ctl.retire; split; · rfl
  · dsimp only; split <;> simp
@[simp] theorem Ctl.retire_ie (c : Ctl) (n : Nat) : (c.retire n).ie = c.ie := by
  unfold Ctl.retire; split; · rfl
  · dsimp only; split <;> simp
@[simp] theorem Ctl.retire_act (c : Ctl) (n : Nat) : (c.retire n).act = c.act := by
  unfold Ctl.retire; split; · rfl
  · dsimp only; split <;> simp
@[simp] theorem Ctl.retire_tstate (c : Ctl) (n : Nat) : (c.retire n).tstate = c.tstate := by
  unfold Ctl.retire; split; · rfl
  · dsimp only; split <;> simp
@[simp] theorem Ctl.retire_taddr (c : Ctl) (n : Nat) : (c.retire n).taddr = c.taddr := by
  unfold Ctl.retire; split; · rfl
  · dsimp only; split <;> simp
@[simp] theorem Ctl.retire_tresume (c : Ctl) (n : Nat) : (c.retire n).tresume = c.tresume := by
  unfold Ctl.retire; split; · rfl
  · dsimp only; split <;> simp
@[simp] theorem Ctl.retire_tval (c : Ctl) (n : Nat) : (c.retire n).tval = c.tval := by
  unfold Ctl.retire; split; · rfl
  · dsimp only; split <;> simp
@[simp] theorem Ctl.retire_trec (c : Ctl) (n : Nat) : (c.retire n).trec = c.trec := by
  unfold Ctl.retire; split; · rfl
  · dsimp only; split <;> simp
@[simp] theorem Ctl.retire_tframe (c : Ctl) (n : Nat) : (c.retire n).tframe = c.tframe := by
  unfold Ctl.retire; split; · rfl
  · dsimp only; split <;> simp
@[simp] theorem Ctl.retire_hbad (c : Ctl) (n : Nat) : (c.retire n).hbad = c.hbad := by
  unfold Ctl.retire; split; · rfl
  · dsimp only; split <;> simp
@[simp] theorem Ctl.retire_halted (c : Ctl) (n : Nat) : (c.retire n).halted = c.halted := by
  unfold Ctl.retire; split; · rfl
  · dsimp only; split <;> simp

/-! ### Sparse maps -/

/-- Looking a key up in a list whose part of lower keys does not hold it. -/
theorem SMap.find_append_of_forall_ne {α : Type} (k : Nat) (l r : SMap α) (h : ∀ p ∈ l, p.1 ≠ k) :
    SMap.find (l ++ r) k = SMap.find r k := by
  induction l with
  | nil => rfl
  | cons p q ih =>
    have hp : p.1 ≠ k := h p (by simp)
    simpa [SMap.find, hp] using ih (fun q hq => h q (by simp [hq]))

theorem SMap.find_filter {α : Type} (k : Nat) (m : SMap α) (f : Nat → Bool) (hk : f k = true) :
    SMap.find (m.filter (fun p => f p.1)) k = SMap.find m k := by
  induction m with
  | nil => rfl
  | cons p q ih =>
    by_cases hp : p.1 = k
    · subst hp; simp [hk, SMap.find]
    · by_cases hf : f p.1 = true <;> simp [hf, SMap.find, hp, ih]

theorem SMap.find_filter_of_not {α : Type} (k : Nat) (m : SMap α) (f : Nat → Bool) (hk : f k = false) :
    SMap.find (m.filter (fun p => f p.1)) k = none := by
  induction m with
  | nil => rfl
  | cons p q ih =>
    by_cases hf : f p.1 = true
    · have : p.1 ≠ k := by rintro rfl; simp [hk] at hf
      simp [hf, SMap.find, this, ih]
    · simp [hf, ih]

theorem SMap.find_append {α : Type} (k : Nat) (l r : SMap α) :
    SMap.find (l ++ r) k = (SMap.find l k).orElse (fun _ => SMap.find r k) := by
  induction l with
  | nil => simp [SMap.find]
  | cons p q ih => by_cases hp : p.1 = k <;> simp [SMap.find, hp, ih]

/-- A key reads as what was put under it. -/
@[simp] theorem SMap.find_put_same {α : Type} (m : SMap α) (k : Nat) (v : α) : SMap.find (SMap.put m k v) k = some v := by
  unfold SMap.put
  rw [SMap.find_append_of_forall_ne k _ _ (by simp; omega)]
  simp [SMap.find]

/-- Any other key reads as before. -/
theorem SMap.find_put_other {α : Type} (m : SMap α) (k j : Nat) (v : α) (h : j ≠ k) :
    SMap.find (SMap.put m k v) j = SMap.find m j := by
  unfold SMap.put
  rw [SMap.find_append]
  rcases Nat.lt_or_ge j k with hl | hl
  · rw [SMap.find_filter j m (fun i => decide (i < k)) (by simpa using hl)]
    cases hm : SMap.find m j with
    | some v => simp
    | none =>
      have := SMap.find_filter_of_not j m (fun i => decide (k < i)) (by simp; omega)
      simp [SMap.find, Ne.symm h, this]
  · have h1 := SMap.find_filter_of_not j m (fun i => decide (i < k)) (by simpa using hl)
    have h2 := SMap.find_filter j m (fun i => decide (k < i)) (by simp; omega)
    simp [SMap.find, Ne.symm h, h1, h2]

@[simp] theorem SMap.get_put_same {α : Type} (m : SMap α) (k : Nat) (v d : α) : SMap.get (SMap.put m k v) k d = v := by
  simp [SMap.get]
theorem SMap.get_put_other {α : Type} (m : SMap α) (k j : Nat) (v d : α) (h : j ≠ k) :
    SMap.get (SMap.put m k v) j d = SMap.get m j d := by simp [SMap.get, SMap.find_put_other m k j v h]

/-! ### Reading what was set -/

@[simp] theorem State.core_setCore (s : State) (c : Nat) (x : Core) : (s.setCore c x).core c = x := by simp [State.core, State.setCore]
theorem State.core_setCore_other (s : State) (c d : Nat) (x : Core) (h : d ≠ c) : (s.setCore c x).core d = s.core d := by
  simp [State.core, State.setCore, SMap.get_put_other _ c d x _ h]
@[simp] theorem State.cluster_setCluster (s : State) (c : Nat) (x : Cluster) : (s.setCluster c x).cluster c = x := by simp [State.cluster, State.setCluster]
theorem State.cluster_setCluster_other (s : State) (c d : Nat) (x : Cluster) (h : d ≠ c) : (s.setCluster c x).cluster d = s.cluster d := by
  simp [State.cluster, State.setCluster, SMap.get_put_other _ c d x _ h]
@[simp] theorem State.die_setDie (s : State) (c : Nat) (x : Die) : (s.setDie c x).die c = x := by simp [State.die, State.setDie]
theorem State.die_setDie_other (s : State) (c d : Nat) (x : Die) (h : d ≠ c) : (s.setDie c x).die d = s.die d := by
  simp [State.die, State.setDie, SMap.get_put_other _ c d x _ h]
@[simp] theorem State.stack_setStack (s : State) (c : Nat) (x : Stack) : (s.setStack c x).stack c = x := by simp [State.stack, State.setStack]
theorem State.stack_setStack_other (s : State) (c d : Nat) (x : Stack) (h : d ≠ c) : (s.setStack c x).stack d = s.stack d := by
  simp [State.stack, State.setStack, SMap.get_put_other _ c d x _ h]
@[simp] theorem State.hostFn_setHostFn (s : State) (c : Nat) (x : HostFn) : (s.setHostFn c x).hostFn c = x := by simp [State.hostFn, State.setHostFn]
theorem State.hostFn_setHostFn_other (s : State) (c d : Nat) (x : HostFn) (h : d ≠ c) : (s.setHostFn c x).hostFn d = s.hostFn d := by
  simp [State.hostFn, State.setHostFn, SMap.get_put_other _ c d x _ h]
@[simp] theorem State.cgroup_setCGroup (s : State) (c : Nat) (x : CGroup) : (s.setCGroup c x).cgroup c = x := by simp [State.cgroup, State.setCGroup]
theorem State.cgroup_setCGroup_other (s : State) (c d : Nat) (x : CGroup) (h : d ≠ c) : (s.setCGroup c x).cgroup d = s.cgroup d := by
  simp [State.cgroup, State.setCGroup, SMap.get_put_other _ c d x _ h]
@[simp] theorem State.encoder_setEncoder (s : State) (c : Nat) (x : Encoder) : (s.setEncoder c x).encoder c = x := by simp [State.encoder, State.setEncoder]
theorem State.encoder_setEncoder_other (s : State) (c d : Nat) (x : Encoder) (h : d ≠ c) : (s.setEncoder c x).encoder d = s.encoder d := by
  simp [State.encoder, State.setEncoder, SMap.get_put_other _ c d x _ h]
@[simp] theorem State.task_setTask (s : State) (c : Nat) (x : Task) : (s.setTask c x).task? c = some x := by simp [State.task?, State.setTask]
theorem State.task_setTask_other (s : State) (c d : Nat) (x : Task) (h : d ≠ c) : (s.setTask c x).task? d = s.task? d := by
  simp [State.task?, State.setTask, SMap.find_put_other _ c d x h]
@[simp] theorem State.launch_setLaunch (s : State) (c : Nat) (x : Launch) : (s.setLaunch c x).launch? c = some x := by simp [State.launch?, State.setLaunch]
theorem State.launch_setLaunch_other (s : State) (c d : Nat) (x : Launch) (h : d ≠ c) : (s.setLaunch c x).launch? d = s.launch? d := by
  simp [State.launch?, State.setLaunch, SMap.find_put_other _ c d x h]

@[simp] theorem State.core_setCluster (s : State) (c : Nat) (k : Nat) (y : Cluster) : (s.setCluster k y).core c = s.core c := rfl
@[simp] theorem State.core_setDie (s : State) (c : Nat) (d : Nat) (y : Die) : (s.setDie d y).core c = s.core c := rfl
@[simp] theorem State.core_setStack (s : State) (c : Nat) (d : Nat) (y : Stack) : (s.setStack d y).core c = s.core c := rfl
@[simp] theorem State.core_setTask (s : State) (c : Nat) (t : Nat) (y : Task) : (s.setTask t y).core c = s.core c := rfl
@[simp] theorem State.core_delTask (s : State) (c : Nat) (t : Nat) : (s.delTask t).core c = s.core c := rfl
@[simp] theorem State.core_setLaunch (s : State) (c : Nat) (l : Nat) (y : Launch) : (s.setLaunch l y).core c = s.core c := rfl
@[simp] theorem State.core_setHostFn (s : State) (c : Nat) (v : Nat) (y : HostFn) : (s.setHostFn v y).core c = s.core c := rfl
@[simp] theorem State.core_setCGroup (s : State) (c : Nat) (g : Nat) (y : CGroup) : (s.setCGroup g y).core c = s.core c := rfl
@[simp] theorem State.core_setEncoder (s : State) (c : Nat) (e : Nat) (y : Encoder) : (s.setEncoder e y).core c = s.core c := rfl
@[simp] theorem State.core_send (s : State) (c : Nat) (m : Message) : (s.send m).core c = s.core c := rfl
@[simp] theorem State.cluster_setCore (s : State) (c : Nat) (k : Nat) (y : Core) : (s.setCore k y).cluster c = s.cluster c := rfl
@[simp] theorem State.cluster_setDie (s : State) (c : Nat) (d : Nat) (y : Die) : (s.setDie d y).cluster c = s.cluster c := rfl
@[simp] theorem State.cluster_setStack (s : State) (c : Nat) (d : Nat) (y : Stack) : (s.setStack d y).cluster c = s.cluster c := rfl
@[simp] theorem State.cluster_setTask (s : State) (c : Nat) (t : Nat) (y : Task) : (s.setTask t y).cluster c = s.cluster c := rfl
@[simp] theorem State.cluster_delTask (s : State) (c : Nat) (t : Nat) : (s.delTask t).cluster c = s.cluster c := rfl
@[simp] theorem State.cluster_setLaunch (s : State) (c : Nat) (l : Nat) (y : Launch) : (s.setLaunch l y).cluster c = s.cluster c := rfl
@[simp] theorem State.cluster_setHostFn (s : State) (c : Nat) (v : Nat) (y : HostFn) : (s.setHostFn v y).cluster c = s.cluster c := rfl
@[simp] theorem State.cluster_setCGroup (s : State) (c : Nat) (g : Nat) (y : CGroup) : (s.setCGroup g y).cluster c = s.cluster c := rfl
@[simp] theorem State.cluster_setEncoder (s : State) (c : Nat) (e : Nat) (y : Encoder) : (s.setEncoder e y).cluster c = s.cluster c := rfl
@[simp] theorem State.cluster_send (s : State) (c : Nat) (m : Message) : (s.send m).cluster c = s.cluster c := rfl
@[simp] theorem State.die_setCore (s : State) (c : Nat) (k : Nat) (y : Core) : (s.setCore k y).die c = s.die c := rfl
@[simp] theorem State.die_setCluster (s : State) (c : Nat) (k : Nat) (y : Cluster) : (s.setCluster k y).die c = s.die c := rfl
@[simp] theorem State.die_setStack (s : State) (c : Nat) (d : Nat) (y : Stack) : (s.setStack d y).die c = s.die c := rfl
@[simp] theorem State.die_setTask (s : State) (c : Nat) (t : Nat) (y : Task) : (s.setTask t y).die c = s.die c := rfl
@[simp] theorem State.die_delTask (s : State) (c : Nat) (t : Nat) : (s.delTask t).die c = s.die c := rfl
@[simp] theorem State.die_setLaunch (s : State) (c : Nat) (l : Nat) (y : Launch) : (s.setLaunch l y).die c = s.die c := rfl
@[simp] theorem State.die_setHostFn (s : State) (c : Nat) (v : Nat) (y : HostFn) : (s.setHostFn v y).die c = s.die c := rfl
@[simp] theorem State.die_setCGroup (s : State) (c : Nat) (g : Nat) (y : CGroup) : (s.setCGroup g y).die c = s.die c := rfl
@[simp] theorem State.die_setEncoder (s : State) (c : Nat) (e : Nat) (y : Encoder) : (s.setEncoder e y).die c = s.die c := rfl
@[simp] theorem State.die_send (s : State) (c : Nat) (m : Message) : (s.send m).die c = s.die c := rfl
@[simp] theorem State.stack_setCore (s : State) (c : Nat) (k : Nat) (y : Core) : (s.setCore k y).stack c = s.stack c := rfl
@[simp] theorem State.stack_setCluster (s : State) (c : Nat) (k : Nat) (y : Cluster) : (s.setCluster k y).stack c = s.stack c := rfl
@[simp] theorem State.stack_setDie (s : State) (c : Nat) (d : Nat) (y : Die) : (s.setDie d y).stack c = s.stack c := rfl
@[simp] theorem State.stack_setTask (s : State) (c : Nat) (t : Nat) (y : Task) : (s.setTask t y).stack c = s.stack c := rfl
@[simp] theorem State.stack_delTask (s : State) (c : Nat) (t : Nat) : (s.delTask t).stack c = s.stack c := rfl
@[simp] theorem State.stack_setLaunch (s : State) (c : Nat) (l : Nat) (y : Launch) : (s.setLaunch l y).stack c = s.stack c := rfl
@[simp] theorem State.stack_setHostFn (s : State) (c : Nat) (v : Nat) (y : HostFn) : (s.setHostFn v y).stack c = s.stack c := rfl
@[simp] theorem State.stack_setCGroup (s : State) (c : Nat) (g : Nat) (y : CGroup) : (s.setCGroup g y).stack c = s.stack c := rfl
@[simp] theorem State.stack_setEncoder (s : State) (c : Nat) (e : Nat) (y : Encoder) : (s.setEncoder e y).stack c = s.stack c := rfl
@[simp] theorem State.stack_send (s : State) (c : Nat) (m : Message) : (s.send m).stack c = s.stack c := rfl
@[simp] theorem State.hostFn_setCore (s : State) (c : Nat) (k : Nat) (y : Core) : (s.setCore k y).hostFn c = s.hostFn c := rfl
@[simp] theorem State.hostFn_setCluster (s : State) (c : Nat) (k : Nat) (y : Cluster) : (s.setCluster k y).hostFn c = s.hostFn c := rfl
@[simp] theorem State.hostFn_setDie (s : State) (c : Nat) (d : Nat) (y : Die) : (s.setDie d y).hostFn c = s.hostFn c := rfl
@[simp] theorem State.hostFn_setStack (s : State) (c : Nat) (d : Nat) (y : Stack) : (s.setStack d y).hostFn c = s.hostFn c := rfl
@[simp] theorem State.hostFn_setTask (s : State) (c : Nat) (t : Nat) (y : Task) : (s.setTask t y).hostFn c = s.hostFn c := rfl
@[simp] theorem State.hostFn_delTask (s : State) (c : Nat) (t : Nat) : (s.delTask t).hostFn c = s.hostFn c := rfl
@[simp] theorem State.hostFn_setLaunch (s : State) (c : Nat) (l : Nat) (y : Launch) : (s.setLaunch l y).hostFn c = s.hostFn c := rfl
@[simp] theorem State.hostFn_setCGroup (s : State) (c : Nat) (g : Nat) (y : CGroup) : (s.setCGroup g y).hostFn c = s.hostFn c := rfl
@[simp] theorem State.hostFn_setEncoder (s : State) (c : Nat) (e : Nat) (y : Encoder) : (s.setEncoder e y).hostFn c = s.hostFn c := rfl
@[simp] theorem State.hostFn_send (s : State) (c : Nat) (m : Message) : (s.send m).hostFn c = s.hostFn c := rfl
@[simp] theorem State.cgroup_setCore (s : State) (c : Nat) (k : Nat) (y : Core) : (s.setCore k y).cgroup c = s.cgroup c := rfl
@[simp] theorem State.cgroup_setCluster (s : State) (c : Nat) (k : Nat) (y : Cluster) : (s.setCluster k y).cgroup c = s.cgroup c := rfl
@[simp] theorem State.cgroup_setDie (s : State) (c : Nat) (d : Nat) (y : Die) : (s.setDie d y).cgroup c = s.cgroup c := rfl
@[simp] theorem State.cgroup_setStack (s : State) (c : Nat) (d : Nat) (y : Stack) : (s.setStack d y).cgroup c = s.cgroup c := rfl
@[simp] theorem State.cgroup_setTask (s : State) (c : Nat) (t : Nat) (y : Task) : (s.setTask t y).cgroup c = s.cgroup c := rfl
@[simp] theorem State.cgroup_delTask (s : State) (c : Nat) (t : Nat) : (s.delTask t).cgroup c = s.cgroup c := rfl
@[simp] theorem State.cgroup_setLaunch (s : State) (c : Nat) (l : Nat) (y : Launch) : (s.setLaunch l y).cgroup c = s.cgroup c := rfl
@[simp] theorem State.cgroup_setHostFn (s : State) (c : Nat) (v : Nat) (y : HostFn) : (s.setHostFn v y).cgroup c = s.cgroup c := rfl
@[simp] theorem State.cgroup_setEncoder (s : State) (c : Nat) (e : Nat) (y : Encoder) : (s.setEncoder e y).cgroup c = s.cgroup c := rfl
@[simp] theorem State.cgroup_send (s : State) (c : Nat) (m : Message) : (s.send m).cgroup c = s.cgroup c := rfl
@[simp] theorem State.encoder_setCore (s : State) (c : Nat) (k : Nat) (y : Core) : (s.setCore k y).encoder c = s.encoder c := rfl
@[simp] theorem State.encoder_setCluster (s : State) (c : Nat) (k : Nat) (y : Cluster) : (s.setCluster k y).encoder c = s.encoder c := rfl
@[simp] theorem State.encoder_setDie (s : State) (c : Nat) (d : Nat) (y : Die) : (s.setDie d y).encoder c = s.encoder c := rfl
@[simp] theorem State.encoder_setStack (s : State) (c : Nat) (d : Nat) (y : Stack) : (s.setStack d y).encoder c = s.encoder c := rfl
@[simp] theorem State.encoder_setTask (s : State) (c : Nat) (t : Nat) (y : Task) : (s.setTask t y).encoder c = s.encoder c := rfl
@[simp] theorem State.encoder_delTask (s : State) (c : Nat) (t : Nat) : (s.delTask t).encoder c = s.encoder c := rfl
@[simp] theorem State.encoder_setLaunch (s : State) (c : Nat) (l : Nat) (y : Launch) : (s.setLaunch l y).encoder c = s.encoder c := rfl
@[simp] theorem State.encoder_setHostFn (s : State) (c : Nat) (v : Nat) (y : HostFn) : (s.setHostFn v y).encoder c = s.encoder c := rfl
@[simp] theorem State.encoder_setCGroup (s : State) (c : Nat) (g : Nat) (y : CGroup) : (s.setCGroup g y).encoder c = s.encoder c := rfl
@[simp] theorem State.encoder_send (s : State) (c : Nat) (m : Message) : (s.send m).encoder c = s.encoder c := rfl
@[simp] theorem State.task_setCore (s : State) (c : Nat) (k : Nat) (y : Core) : (s.setCore k y).task? c = s.task? c := rfl
@[simp] theorem State.task_setCluster (s : State) (c : Nat) (k : Nat) (y : Cluster) : (s.setCluster k y).task? c = s.task? c := rfl
@[simp] theorem State.task_setDie (s : State) (c : Nat) (d : Nat) (y : Die) : (s.setDie d y).task? c = s.task? c := rfl
@[simp] theorem State.task_setStack (s : State) (c : Nat) (d : Nat) (y : Stack) : (s.setStack d y).task? c = s.task? c := rfl
@[simp] theorem State.task_setLaunch (s : State) (c : Nat) (l : Nat) (y : Launch) : (s.setLaunch l y).task? c = s.task? c := rfl
@[simp] theorem State.task_setHostFn (s : State) (c : Nat) (v : Nat) (y : HostFn) : (s.setHostFn v y).task? c = s.task? c := rfl
@[simp] theorem State.task_setCGroup (s : State) (c : Nat) (g : Nat) (y : CGroup) : (s.setCGroup g y).task? c = s.task? c := rfl
@[simp] theorem State.task_setEncoder (s : State) (c : Nat) (e : Nat) (y : Encoder) : (s.setEncoder e y).task? c = s.task? c := rfl
@[simp] theorem State.task_send (s : State) (c : Nat) (m : Message) : (s.send m).task? c = s.task? c := rfl
@[simp] theorem State.launch_setCore (s : State) (c : Nat) (k : Nat) (y : Core) : (s.setCore k y).launch? c = s.launch? c := rfl
@[simp] theorem State.launch_setCluster (s : State) (c : Nat) (k : Nat) (y : Cluster) : (s.setCluster k y).launch? c = s.launch? c := rfl
@[simp] theorem State.launch_setDie (s : State) (c : Nat) (d : Nat) (y : Die) : (s.setDie d y).launch? c = s.launch? c := rfl
@[simp] theorem State.launch_setStack (s : State) (c : Nat) (d : Nat) (y : Stack) : (s.setStack d y).launch? c = s.launch? c := rfl
@[simp] theorem State.launch_setTask (s : State) (c : Nat) (t : Nat) (y : Task) : (s.setTask t y).launch? c = s.launch? c := rfl
@[simp] theorem State.launch_delTask (s : State) (c : Nat) (t : Nat) : (s.delTask t).launch? c = s.launch? c := rfl
@[simp] theorem State.launch_setHostFn (s : State) (c : Nat) (v : Nat) (y : HostFn) : (s.setHostFn v y).launch? c = s.launch? c := rfl
@[simp] theorem State.launch_setCGroup (s : State) (c : Nat) (g : Nat) (y : CGroup) : (s.setCGroup g y).launch? c = s.launch? c := rfl
@[simp] theorem State.launch_setEncoder (s : State) (c : Nat) (e : Nat) (y : Encoder) : (s.setEncoder e y).launch? c = s.launch? c := rfl
@[simp] theorem State.launch_send (s : State) (c : Nat) (m : Message) : (s.send m).launch? c = s.launch? c := rfl
@[simp] theorem State.part_setCore (s : State) (c : Nat) (k : Nat) (y : Core) : (s.setCore k y).part? c = s.part? c := rfl
@[simp] theorem State.part_setCluster (s : State) (c : Nat) (k : Nat) (y : Cluster) : (s.setCluster k y).part? c = s.part? c := rfl
@[simp] theorem State.part_setDie (s : State) (c : Nat) (d : Nat) (y : Die) : (s.setDie d y).part? c = s.part? c := rfl
@[simp] theorem State.part_setStack (s : State) (c : Nat) (d : Nat) (y : Stack) : (s.setStack d y).part? c = s.part? c := rfl
@[simp] theorem State.part_setTask (s : State) (c : Nat) (t : Nat) (y : Task) : (s.setTask t y).part? c = s.part? c := rfl
@[simp] theorem State.part_delTask (s : State) (c : Nat) (t : Nat) : (s.delTask t).part? c = s.part? c := rfl
@[simp] theorem State.part_setLaunch (s : State) (c : Nat) (l : Nat) (y : Launch) : (s.setLaunch l y).part? c = s.part? c := rfl
@[simp] theorem State.part_setHostFn (s : State) (c : Nat) (v : Nat) (y : HostFn) : (s.setHostFn v y).part? c = s.part? c := rfl
@[simp] theorem State.part_setCGroup (s : State) (c : Nat) (g : Nat) (y : CGroup) : (s.setCGroup g y).part? c = s.part? c := rfl
@[simp] theorem State.part_setEncoder (s : State) (c : Nat) (e : Nat) (y : Encoder) : (s.setEncoder e y).part? c = s.part? c := rfl
@[simp] theorem State.part_send (s : State) (c : Nat) (m : Message) : (s.send m).part? c = s.part? c := rfl

/-! ### Registers -/

@[simp] theorem Ctl.rd_zero (c : Ctl) : c.rd 0 = 0 := rfl
@[simp] theorem Ctl.wr_zero (c : Ctl) (v : Word) : c.wr 0 v = c := rfl

/-- A scalar register other than s0 reads as what was written to it. -/
theorem Ctl.rd_wr_same (c : Ctl) (r : SReg) (v : Word) (h : r ≠ 0) : (c.wr r v).rd r = v := by
  unfold Ctl.rd Ctl.wr; rw [if_neg h, if_neg h]; exact SMap.get_put_same ..

/-- Every other scalar register reads as before. -/
theorem Ctl.rd_wr_other (c : Ctl) (r q : SReg) (v : Word) (h : q ≠ r) : (c.wr r v).rd q = c.rd q := by
  have hn : q.toNat ≠ r.toNat := fun e => h (BitVec.eq_of_toNat_eq e)
  unfold Ctl.rd Ctl.wr
  by_cases hq : q = 0
  · rw [if_pos hq, if_pos hq]
  · rw [if_neg hq, if_neg hq]
    by_cases hr : r = 0
    · rw [if_pos hr]
    · rw [if_neg hr]; exact SMap.get_put_other _ _ _ _ _ hn

@[simp] theorem Ctl.hd_wr (c : Ctl) (r : SReg) (v : Word) (q : HReg) : (c.wr r v).hd q = c.hd q := by simp [Ctl.hd]
@[simp] theorem Ctl.rd_hw (c : Ctl) (r : HReg) (v : Handle) (q : SReg) : (c.hw r v).rd q = c.rd q := rfl
@[simp] theorem Ctl.hd_hw_same (c : Ctl) (r : HReg) (v : Handle) : (c.hw r v).hd r = v := by simp [Ctl.hd, Ctl.hw]
theorem Ctl.hd_hw_other (c : Ctl) (r q : HReg) (v : Handle) (h : q ≠ r) : (c.hw r v).hd q = c.hd q := by
  have hn : q.toNat ≠ r.toNat := fun e => h (BitVec.eq_of_toNat_eq e)
  simp [Ctl.hd, Ctl.hw, SMap.get_put_other _ _ _ _ _ hn]

/-- A semaphore reads as what was set. -/
@[simp] theorem Task.sem_setSem (x : Task) (i : Nat) (v : BitVec 32) : (x.setSem i v).sem i = v := by simp [Task.sem, Task.setSem]
theorem Task.sem_setSem_other (x : Task) (i j : Nat) (v : BitVec 32) (h : j ≠ i) : (x.setSem i v).sem j = x.sem j := by
  simp [Task.sem, Task.setSem, SMap.get_put_other _ _ _ _ _ h]

end Sys2Proof.Machine
end

