-- ==== Sys2Proof/Laws/Ops.lean ====
section
/-! SUPPORT. What each shared operation of the control stream does, said once: the checks at issue, the reading of
operands, completion, and how an instruction that completes ends. -/

namespace Sys2Proof.Machine
open Sys2Proof

/-! ### Small operations -/

@[simp] theorem check_true (code : Nat) : check true code = .ok () := rfl
@[simp] theorem check_false (code : Nat) : check false code = .error (.flt code 0) := rfl
@[simp] theorem waitFor_true : waitFor true = .ok () := rfl
@[simp] theorem waitFor_false : waitFor false = .error .stall := rfl
theorem check_of {ok : Bool} (h : ok = true) (code : Nat) : check ok code = .ok () := by subst h; rfl
theorem waitFor_of {ok : Bool} (h : ok = true) : waitFor ok = .ok () := by subst h; rfl

/-- A check that passes held. -/
theorem check_eq_ok {ok : Bool} {code : Nat} : check ok code = .ok () ↔ ok = true := by cases ok <;> simp [check, fault]
theorem waitFor_eq_ok {ok : Bool} : waitFor ok = .ok () ↔ ok = true := by cases ok <;> simp [waitFor]

@[simp] theorem Res.bind_ok {α β : Type} (a : α) (f : α → Res β) : (Except.ok a >>= f : Res β) = f a := rfl
@[simp] theorem Res.bind_error {α β : Type} (e : Exit) (f : α → Res β) : ((Except.error e : Res α) >>= f) = .error e := rfl

/-- A sequence of operations completes when each of them does. -/
theorem Res.bind_eq_ok {α β : Type} {x : Res α} {f : α → Res β} {b : β} :
    (x >>= f) = .ok b ↔ ∃ a, x = .ok a ∧ f a = .ok b := by
  cases x with
  | error e => simp
  | ok a => simp

/-! ### Operands (R145, R337) -/

/-- A register without poison, and what a sound register tells. -/
theorem Task.soundReg_ok (x : Task) {r : SReg} (hb : r = 0 ∨ x.ctl.bad.contains r.toNat = false) : x.soundReg r = .ok () := by
  unfold Task.soundReg
  rcases hb with h | h
  · subst h; rfl
  · rw [h]; simp

theorem Task.sound_of_soundReg {x : Task} {r : SReg} {u : Unit} (h : x.soundReg r = .ok u) :
    r = 0 ∨ x.ctl.bad.contains r.toNat = false := by
  unfold Task.soundReg at h
  by_cases hc : (r == 0 || !x.ctl.bad.contains r.toNat) = true
  · simpa using hc
  · rw [if_neg hc] at h; cases h

/-- A source that awaits no load and holds no poison is read. -/
theorem Task.src_ok {x : Task} {r : SReg} (hw : awaited x r = false) (hb : r = 0 ∨ x.ctl.bad.contains r.toNat = false) :
    x.src r = .ok (x.ctl.rd r) := by
  unfold Task.src
  rw [hw, x.soundReg_ok hb]
  rfl

/-- Nothing but the register's value comes of reading a source. -/
theorem Task.src_eq_ok {x : Task} {r : SReg} {v : Word} (h : x.src r = .ok v) :
    v = x.ctl.rd r ∧ awaited x r = false ∧ (r = 0 ∨ x.ctl.bad.contains r.toNat = false) := by
  unfold Task.src at h
  obtain ⟨_, h1, h⟩ := Res.bind_eq_ok.1 h
  obtain ⟨_, h2, h⟩ := Res.bind_eq_ok.1 h
  have h1 := waitFor_eq_ok.1 h1
  exact ⟨(Except.ok.inj h).symm, by simpa using h1, Task.sound_of_soundReg h2⟩

theorem Task.dst_ok {x : Task} {r : SReg} (h : awaited x r = false) : x.dst r = .ok () := by
  unfold Task.dst; rw [h]; rfl

/-- s0 is always free and sound. -/
@[simp] theorem awaited_zero (x : Task) : awaited x 0 = false := rfl
@[simp] theorem Task.src_zero (x : Task) : x.src 0 = .ok 0 := rfl

/-! ### Issue (R142) -/

/-- The checks of a form pass at a privilege level that suffices, on a core that has the form, outside a delay slot. -/
theorem Form.checks_ok {f : Form} {x : Task} (hp : f.pl ≤ x.ctl.pl) (hs : f.service = true ∨ x.service = false)
    (hd : f.transfer = false ∨ x.ctl.delay = none) : f.checks x = .ok () := by
  have h2 : (f.service || !x.service) = true := by rcases hs with h | h <;> simp [h]
  have h3 : (!(f.transfer && x.ctl.delay.isSome)) = true := by rcases hd with h | h <;> simp [h]
  unfold Form.checks
  rw [h2, h3]
  simp [hp]

@[simp] theorem plainForm_checks (x : Task) : plainForm.checks x = .ok () := Form.checks_ok (Nat.zero_le _) (.inl rfl) (.inl rfl)
theorem taskForm_checks {x : Task} (h : x.service = false) : taskForm.checks x = .ok () :=
  Form.checks_ok (Nat.zero_le _) (.inr h) (.inl rfl)
theorem transferForm_checks {x : Task} (h : x.ctl.delay = none) : transferForm.checks x = .ok () :=
  Form.checks_ok (Nat.zero_le _) (.inl rfl) (.inr h)
theorem privForm_checks {x : Task} {pl : Nat} (h : pl ≤ x.ctl.pl) : (privForm pl).checks x = .ok () :=
  Form.checks_ok h (.inl rfl) (.inl rfl)

/-- An instruction whose checks pass and whose effect completes gives that effect. -/
theorem State.issue_ok {s s' : State} {f : Form} {x : Task} {body : Task → Res State} (hx : s.task? s.cur = some x)
    (hf : f.checks x = .ok ()) (hb : body x = .ok s') : s.issue f body = .next s' := by
  unfold State.issue
  rw [hx]
  simp only [hf, hb]
  rfl

/-- Everything an instruction can do: nothing acts, it completes, or what does not complete is delivered. -/
theorem State.issue_cases (s : State) (f : Form) (body : Task → Res State) :
    (s.task? s.cur = none ∧ s.issue f body = .next s) ∨
    (∃ x s', s.task? s.cur = some x ∧ f.checks x = .ok () ∧ body x = .ok s' ∧ s.issue f body = .next s') ∨
    (∃ x e, s.task? s.cur = some x ∧ s.issue f body = s.deliver s.cur x (.error e) ∧
      (f.checks x = .error e ∨ (f.checks x = .ok () ∧ body x = .error e))) := by
  unfold State.issue
  cases hx : s.task? s.cur with
  | none => exact .inl ⟨rfl, rfl⟩
  | some x =>
    cases hf : f.checks x with
    | error e => exact .inr (.inr ⟨x, e, rfl, by simp [hf], .inl hf⟩)
    | ok u =>
      cases hb : body x with
      | error e => exact .inr (.inr ⟨x, e, rfl, by simp [hf, hb], .inr ⟨hf, hb⟩⟩)
      | ok s' => exact .inr (.inl ⟨x, s', rfl, hf, hb, by simp [hf, hb, State.deliver]⟩)

/-- An instruction that changes its task alone. -/
theorem State.issueTask_ok {s : State} {f : Form} {n : Nat} {x y : Task} {body : Task → Res Task} (hx : s.task? s.cur = some x)
    (hf : f.checks x = .ok ()) (hb : body x = .ok y) : s.issueTask f n body = .next (s.setTask s.cur (y.retire n)) := by
  unfold State.issueTask
  exact State.issue_ok hx hf (by rw [hb]; rfl)

/-- An instruction that writes one scalar register. -/
theorem State.issueScalar_ok {s : State} {f : Form} {n : Nat} {d : SReg} {x : Task} {v : Word} {val : Task → Res Word}
    (hx : s.task? s.cur = some x) (hf : f.checks x = .ok ()) (hd : awaited x d = false) (hv : val x = .ok v) :
    s.issueScalar f n d val = .next (s.setTask s.cur ((x.wr d v).retire n)) := by
  unfold State.issueScalar
  exact State.issueTask_ok hx hf (by simp [Task.dst_ok hd, hv])

/-- An instruction that writes one handle register. -/
theorem State.issueHandle_ok {s : State} {f : Form} {n : Nat} {d : HReg} {x : Task} {h : Handle} {val : Task → Res Handle}
    (hx : s.task? s.cur = some x) (hf : f.checks x = .ok ()) (hv : val x = .ok h) :
    s.issueHandle f n d val = .next (s.setTask s.cur ((x.mapCtl (fun c => c.hw d h)).retire n)) := by
  unfold State.issueHandle
  exact State.issueTask_ok hx hf (by simp [hv])

/-! ### The integer shapes -/

theorem State.alu2_ok {s : State} {x : Task} {d a b : SReg} {f : Word → Word → Word} (hx : s.task? s.cur = some x)
    (ha : x.src a = .ok (x.ctl.rd a)) (hb : x.src b = .ok (x.ctl.rd b)) (hd : awaited x d = false) :
    s.alu2 d a b f = .next (s.setTask s.cur ((x.wr d (f (x.ctl.rd a) (x.ctl.rd b))).retire 4)) := by
  unfold State.alu2
  exact State.issueScalar_ok hx (by simp) hd (by simp [ha, hb])

theorem State.alu1_ok {s : State} {x : Task} {n : Nat} {d a : SReg} {f : Word → Word} (hx : s.task? s.cur = some x)
    (ha : x.src a = .ok (x.ctl.rd a)) (hd : awaited x d = false) :
    s.alu1 n d a f = .next (s.setTask s.cur ((x.wr d (f (x.ctl.rd a))).retire n)) := by
  unfold State.alu1
  exact State.issueScalar_ok hx (by simp) hd (by simp [ha])

end Sys2Proof.Machine
end

