-- ==== Sys2Proof/Laws/Vector.lean ====
section
/-! SUPPORT. What each shared operation of the vector stream does, said once: sources, the elementwise forms, completion, and
sequences of reads that all succeed. -/

namespace Sys2Proof.Machine
open Sys2Proof

/-! ### Sequences -/

/-- A sequence of operations that all complete gives the list of their results. -/
theorem Res.mapM_ok {α β : Type} {f : α → Res β} {g : α → β} : ∀ {l : List α}, (∀ a ∈ l, f a = .ok (g a)) → l.mapM f = .ok (l.map g)
  | [], _ => rfl
  | a :: l, h => by
    rw [List.mapM_cons, h a (List.mem_cons_self ..), Res.bind_ok, Res.mapM_ok (fun b hb => h b (List.mem_cons_of_mem _ hb))]
    rfl

theorem Res.forM_ok {α : Type} {f : α → Res Unit} : ∀ {l : List α}, (∀ a ∈ l, f a = .ok ()) → l.forM f = .ok ()
  | [], _ => rfl
  | a :: l, h => by
    show (f a >>= fun _ => l.forM f) = .ok ()
    rw [h a (List.mem_cons_self ..), Res.bind_ok]
    exact Res.forM_ok (fun b hb => h b (List.mem_cons_of_mem _ hb))

/-- The first operation that fails ends a sequence, where every failure is the same. -/
theorem Res.mapM_error {α β : Type} {f : α → Res β} {e : Exit} : ∀ {l : List α}, (∀ a ∈ l, (∃ b, f a = .ok b) ∨ f a = .error e) →
    (∃ a ∈ l, f a = .error e) → l.mapM f = .error e
  | [], _, ⟨_, h, _⟩ => absurd h (List.not_mem_nil)
  | a :: l, h, hx => by
    rw [List.mapM_cons]
    rcases h a (List.mem_cons_self ..) with ⟨b, hb⟩ | hb
    · rw [hb, Res.bind_ok, Res.mapM_error (e := e) (fun c hc => h c (List.mem_cons_of_mem _ hc)) ?_]
      · rfl
      · obtain ⟨c, hc, he⟩ := hx
        rcases List.mem_cons.1 hc with rfl | hc
        · rw [hb] at he; cases he
        · exact ⟨c, hc, he⟩
    · rw [hb]; rfl

/-! ### Registers -/

@[simp] theorem Vec.reg_setReg_same (v : Vec) (r : Nat) (x : VReg) : (v.setReg r x).reg r = x := SMap.get_put_same _ _ _ _
theorem Vec.reg_setReg_other (v : Vec) {r k : Nat} (x : VReg) (h : r ≠ k) : (v.setReg r x).reg k = v.reg k := SMap.get_put_other _ _ _ _ _ (Ne.symm h)

/-- A register of the right tag is a source. -/
theorem Vec.source_ok {v : Vec} {r : Nat} {f : Fmt} (hf : f ≠ Fm.none) (ht : (v.reg r).tag = f) : v.source r f = .ok (v.reg r) := by
  unfold Vec.source
  rw [check_of (by rw [ht]; exact Bool.and_eq_true _ _ ▸ ⟨bne_iff_ne.2 hf, beq_self_eq_true f⟩)]
  rfl

/-- A register without poison is read. -/
theorem VReg.sound_ok {r : VReg} (h : r.bad = []) (w : Nat) (is : List Nat) : r.sound w is = .ok () := by simp [VReg.sound, h]
theorem VReg.soundBlocks_ok {r : VReg} (h : r.bad = []) (is : List Nat) : r.soundBlocks is = .ok () := by
  simp [VReg.soundBlocks, VReg.sound_ok h, h]

/-! ### Issue -/

/-- A vector instruction whose effect completes gives that effect. -/
theorem State.issueVector_ok {s s' : State} {x : Task} {body : Task → Res State} (hx : s.task? s.cur = some x) (hb : body x = .ok s') :
    s.issueVector body = .next s' := by
  unfold State.issueVector
  simp [hx, hb, State.deliverStream]

theorem State.issueVec_ok {s : State} {x : Task} {v : Vec} {body : Task → Res Vec} (hx : s.task? s.cur = some x) (hb : body x = .ok v) :
    s.issueVec body = .next (s.setTask s.cur { x with vec := { v with pc := v.pc + 8 } }) := by
  unfold State.issueVec
  exact State.issueVector_ok hx (by rw [hb]; rfl)

/-- One that stalls changes nothing. -/
theorem State.issueVector_stall {s : State} {x : Task} {body : Task → Res State} (hx : s.task? s.cur = some x)
    (hb : body x = .error .stall) : s.issueVector body = .next s := by
  unfold State.issueVector
  simp [hx, hb, State.deliverStream]

theorem State.issueVec_stall {s : State} {x : Task} {body : Task → Res Vec} (hx : s.task? s.cur = some x)
    (hb : body x = .error .stall) : s.issueVec body = .next s := by
  unfold State.issueVec
  exact State.issueVector_stall hx (by rw [hb]; rfl)

/-- One that faults is delivered as a fault of the stream. -/
theorem State.issueVec_error {s : State} {x : Task} {e : Exit} {body : Task → Res Vec} (hx : s.task? s.cur = some x)
    (hb : body x = .error e) : s.issueVec body = s.deliverStream s.cur x .vector (.error e) := by
  unfold State.issueVec State.issueVector
  simp [hx, hb]

/-- Everything a vector instruction can do: nothing acts, it completes, or what does not complete is delivered. -/
theorem State.issueVector_cases (s : State) (body : Task → Res State) :
    (s.task? s.cur = none ∧ s.issueVector body = .next s) ∨
    (∃ x s', s.task? s.cur = some x ∧ body x = .ok s' ∧ s.issueVector body = .next s') ∨
    (∃ x e, s.task? s.cur = some x ∧ body x = .error e ∧ s.issueVector body = s.deliverStream s.cur x .vector (.error e)) := by
  unfold State.issueVector
  cases hx : s.task? s.cur with
  | none => exact .inl ⟨rfl, rfl⟩
  | some x =>
    cases hb : body x with
    | error e => exact .inr (.inr ⟨x, e, rfl, hb, by simp [hb]⟩)
    | ok s' => exact .inr (.inl ⟨x, s', rfl, hb, by simp [hb, State.deliverStream]⟩)

/-! ### Elementwise forms (R201) -/

/-- The sources of an elementwise form, each of the format and without poison. -/
theorem State.elementwise_ok {s : State} {x : Task} {w : VWord} {accepts : Bool} {srcs : List (BitVec 9)} {f : (Nat → Nat) → Nat}
    (hx : s.task? s.cur = some x) (ha : accepts = true) (hf : w.fmt ≠ Fm.none)
    (hs : ∀ r ∈ srcs, (x.vec.reg r.toNat).tag = w.fmt ∧ (x.vec.reg r.toNat).bad = []) :
    s.elementwise w accepts srcs f = .next (s.setTask s.cur { x with vec :=
      let v := x.vec.merge w.d.toNat w.fmt (x.vec.onActive w.k w.fmt (fun i => f (fun j =>
        (nth (srcs.map (fun r => x.vec.reg r.toNat)) j VReg.empty).elem (fmtWidth w.fmt) i)))
      { v with pc := v.pc + 8 } }) := by
  unfold State.elementwise
  refine State.issueVec_ok hx ?_
  rw [check_of ha, Res.bind_ok, Res.mapM_ok (g := fun r => x.vec.reg r.toNat) (fun r hr => Vec.source_ok hf (hs r hr).1), Res.bind_ok]
  dsimp only
  rw [Res.forM_ok (fun r hr => ?_), Res.bind_ok]
  obtain ⟨q, hq, rfl⟩ := List.mem_map.1 hr
  exact VReg.sound_ok (hs q hq).2 _ _

end Sys2Proof.Machine
end

