-- ==== Sys2Proof/Tests/Slice0.lean ====
section
/-! SUPPORT. Tests: words that the spec writes out, ill-formed instructions that the checks refuse, single steps from the spec's own
numbers, and a state and operands that meet the hypotheses of every statement. -/

namespace Sys2Proof.Tests
/-! The theorems are checked one after another: each keeps a thread of its own otherwise. -/
set_option Elab.async false
open Sys2Proof Sys2Proof.Machine

/-! ### Small states -/

/-- A computation that completes, and its result. -/
def good {ε α : Type} (r : Except ε α) : Bool := match r with | .ok _ => true | .error _ => false
def val {ε α : Type} (d : α) (r : Except ε α) : α := match r with | .ok v => v | .error _ => d

/-- What good says. -/
theorem good_eq {ε α : Type} {r : Except ε α} (d : α) (h : good r = true) : r = .ok (val d r) := by
  cases r with
  | ok v => rfl
  | error e => cases h

/-- Bits of a word of a launch header. -/
def headerBits (w lo v : Nat) : Nat := v * 2 ^ (64 * w + lo)

/-- A header: 4,096 bytes of code, two work fields, four root boxes at 0x8000, two shapes at 0x9000, a mesh of four devices, of which this is device 0. -/
def header : Nat :=
  headerBits 1 0 4096 + headerBits 2 36 2 + headerBits 2 0 4 + headerBits 2 6 8 + headerBits 7 56 4 + headerBits 7 0 0x8000 +
    headerBits 8 52 2 + headerBits 8 0 0x9000 + headerBits 9 0 3

/-- A region with the strides of its layout. -/
def region (level base : Nat) (f : Fmt) (rank e0 e1 : Nat) : Region :=
  { base := base, size := [e0, e1, 1, 1], stride := [0, (e0 * fmtWidth f + 7) / 8, 0, 0], fmt := f, layout := 0, rank := BitVec.ofNat 2 rank,
    level := BitVec.ofNat 2 level, valid := true, shard := 0, root := none, org := [0, 0, 0, 0], g := [e0, e1, 1, 1], bytes := 0, owner := 0,
    launch := none, place := none }

/-- The SHARED handle of a level-0 region from an element on. -/
def boxAt (n : Nat) (f : Fmt) (rank org e0 e1 : Nat) : Handle :=
  mkHandle 3 0 0 rank f 0 n (fun d => if d = 0 then org else 0) (fun d => if d = 0 then e0 else if d = 1 then e1 else 1)

/-- The regions of the launch: bytes, 64 by 4 words, floats, window slots, and rows of signed and of unsigned words. -/
def regions : SMap Region :=
  [(0, region 0 0x4000 Fm.z8 0 4096 1), (1, region 0 0x5000 Fm.z32 1 64 4), (2, region 0 0x6000 Fm.fp32 1 64 4),
   (3, region 0 0x7000 Fm.z64 1 32 8), (4, region 0 0x7800 Fm.s32 0 16 1), (5, region 0 0x7900 Fm.z32 0 16 1)]

def launch0 : Launch :=
  { hdr := BitVec.ofNat 1024 header, part := 0, clusters := [0, 1, 2, 3], regions := regions, crec := some 0xA000, supervisor := false,
    service := none, live := true, closing := false, start := 0, releases := 0, skipped := 0, fatal := 0, fatalWid := 0, fatalStatus := 0 }

/-- The supervisor's launch. -/
def launch1 : Launch := { launch0 with supervisor := true, crec := none }

/-- A task that runs on core 0. -/
def task0 : Task := { Task.empty with st := .running, r := { Rec.empty with budget := 1000, core := some 0, home := some 0, fsize := 1, pa := 0 } }

/-- Partition 0 with its supervisor's launch, one user launch and one running task; frame 0 is mapped at address 0. -/
def s0 : State := { State.reset with
  cycle := 1000,
  tasks := [(0, task0)],
  cores := [(0, { Core.reset with task := some 0 })],
  clusters := (List.range 4).map (fun c => (c, { Cluster.reset with cpart := 0 })),
  dies := [(0, { Die.reset with up := true })],
  parts := [(0, { units := 1, svlaunch := 0, qos := 0, vf := 1, msix := 0x400, l1 := 0xB000, resetting := false })],
  launches := [(0, launch0), (1, launch1)],
  svLaunches := [(0, { launch := 1, frames := [], l1 := 0, part := some 0 })],
  dram := [(0, { Stack.reset with
    frames := [(0, { gran := 1, owner := 0 })],
    chans := (List.range 32).map (fun i => (i, { Chan.reset with offline := false, drained := false })) })],
  tlb := [{ core := 0, part := 0, page := 0, size := 65536, leaf := 287 }] }

/-- The task that acts. -/
def me (s : State) : Task := (s.task? s.cur).getD Task.empty

/-- The state with a changed task, control context, scalar registers, handles or vector context. -/
def withTask (f : Task → Task) (s : State) : State := s.modTask s.cur f
def withCtl (f : Ctl → Ctl) (s : State) : State := withTask (fun x => { x with ctl := f x.ctl }) s
def regs (l : SMap Word) (s : State) : State := withCtl (fun c => { c with s := l }) s
def boxes (l : SMap Handle) (s : State) : State := withCtl (fun c => { c with h := l }) s
def withVec (f : Vec → Vec) (s : State) : State := withTask (fun x => { x with vec := f x.vec }) s
def priv (n : Nat) (s : State) : State := withCtl (fun c => { c with pl := n }) s

/-- Memory with 8-byte words from an address on. -/
def words (a : Nat) (l : List Nat) (s : State) : State :=
  { s with mem := Memory.write s.mem a (natToBytes (8 * l.length) (l.foldr (fun w n => w % 2 ^ 64 + 2 ^ 64 * n) 0)) }

/-- The page tables of partition 0, which map frame 0 at address 0 as a pinned page. -/
def tables (s : State) : State := words 0xB000 [0xC001] (words 0xC000 [0xD001] (words 0xD000 [0xE001] (words 0xE000 [287] s)))

/-- The channels are offline. -/
def offline (s : State) : State := { s with dram := s.dram.map (fun d => (d.1, { d.2 with chans := [] })) }

/-- Accesses in flight: a load of a word into s9, and stores of the control and the vector stream. -/
def aLoad : Access :=
  { stream := .control, cls := 1, scope := 0, acq := false, rel := false, load := some { reg := 9, signed := true },
    cells := [0x50A0, 0x50A1, 0x50A2, 0x50A3], writes := [], num := 0 }
def aStore : Access :=
  { stream := .control, cls := 3, scope := 0, acq := false, rel := false, load := none, cells := [], writes := [⟨0x50A1, 0x0F, 0xAB⟩], num := 0 }
def aVstore : Access := { aStore with stream := .vector }

/-! ### Witnesses: the control stream -/

/-- IntegerAlu, MultiplyDivide, Immediates: s0 and s63 as operands; the first unassigned FN, and a B field that is not zero. -/
theorem witness_scalar_forms : let s := regs [(6, 5), (63, 64)] s0
    Acts s (me s) ∧ Ready (me s) 6 ∧ Ready (me s) 63 ∧ Ready (me s) 0 ∧ Free (me s) 63 ∧ Free (me s) 0 ∧
      (63 : SReg) ≠ 0 ∧ 0x12 ≤ (0x12 : BitVec 8).toNat ∧ 0x08 ≤ (0x08 : BitVec 8).toNat := by decide +kernel

/-- BranchesAndJumps: equal and unequal operands, and a jalr target that is a multiple of 4 and one that is not. -/
theorem witness_branches : let s := regs [(6, 5), (7, 4)] s0
    Acts s (me s) ∧ (me s).ctl.delay = none ∧ Ready (me s) 6 ∧ Ready (me s) 7 ∧ Free (me s) 0 ∧
      (me s).ctl.rd 6 = (me s).ctl.rd 6 ∧ (me s).ctl.rd 6 ≠ (me s).ctl.rd 7 ∧
      (BitVec.ofInt 64 (((me s).ctl.rd 7).toInt + 4 * (0 : BitVec 14).toInt)).toNat % 4 = 0 ∧
      (BitVec.ofInt 64 (((me s).ctl.rd 6).toInt + 4 * (0 : BitVec 14).toInt)).toNat % 4 ≠ 0 := by decide +kernel

/-- Entries of the loop stack: the innermost body ends where the enclosing one does. -/
def nested (n : Nat) : State := withCtl (fun c => { c with pc := 8, loops := List.replicate n ⟨4, 12, 2, 3, 9⟩ }) (regs [(6, 5)] s0)

/-- LoopsAndCompletion: bodies of no passes whose last word is one word long, two words long, and past the code. -/
theorem witness_zero_count :
    (∀ p ∈ [(0x04618700, false), (0xF8020000, true)], let s := words 8 [p.1 * 2 ^ 32] (nested 3)
      (∃ w, s.peek (me s) 12 = some w ∧ isWide w = p.2) ∧ (me s).ctl.pc + 4 * (1 : BitVec 14).toNat = 12) ∧
    (let s := words 0 [] s0
     s.peek (me s) (4 * 8191) = none ∧ (match s.codeNat (me s) (4 * 8191) 4 with | .error (.flt c _) => c == Flt.bounds | _ => false) = true ∧ (me s).ctl.pc + 4 * (8191 : BitVec 14).toNat = 4 * 8191) := by
  refine ⟨?_, by decide +kernel⟩
  intro p h
  simp only [List.mem_cons, List.not_mem_nil, or_false] at h
  rcases h with rfl | rfl
  · exact ⟨⟨0x04618700, by decide +kernel, by decide +kernel⟩, by decide +kernel⟩
  · exact ⟨⟨0xF8020000, by decide +kernel, by decide +kernel⟩, by decide +kernel⟩

/-- LoopsAndCompletion: a body of one word under three loops, entered and skipped; a full stack; and each way to complete. -/
theorem witness_loops :
    (Acts (nested 3) (me (nested 3)) ∧ (me (nested 3)).ctl.delay = none ∧ 0 < (1 : BitVec 14).toInt ∧ Ready (me (nested 3)) 6 ∧ Free (me (nested 3)) 7 ∧
      (me (nested 3)).ctl.loops.length < 4 ∧ (∀ e ∈ (me (nested 3)).ctl.loops.head?, (me (nested 3)).ctl.pc + 4 * (1 : BitVec 14).toNat ≤ e.stop) ∧
      (me (nested 3)).ctl.rd 6 ≠ 0 ∧ Ready (me (nested 3)) 0 ∧ (me (nested 3)).ctl.rd 0 = 0) ∧
    (Acts (nested 4) (me (nested 4)) ∧ Ready (me (nested 4)) 6 ∧ 4 ≤ (me (nested 4)).ctl.loops.length) ∧
    (let l := [⟨4, 12, 2, 3, 9⟩, (⟨4, 8, 1, 3, 9⟩ : LoopEntry)]
     (∀ f ∈ (me (nested 3)).ctl.loops, f.stop ≠ (me (nested 3)).ctl.pc) ∧ (∃ f ∈ l.tail, f.stop = 8) ∧ l.length = 2) ∧
    (let c := (me s0).ctl
     c.delay = none ∧ c.loops = [] ∧ { c with delay := some ⟨8, 64, none⟩ }.delay = some ⟨8, 64, none⟩ ∧
      (⟨4, 12, 0, 3, 9⟩ : LoopEntry).stop ≠ 8 ∧ (⟨4, 8, 1, 3, 9⟩ : LoopEntry).stop = 8 ∧ 0 < (⟨4, 8, 1, 3, 9⟩ : LoopEntry).left ∧
      (⟨4, 8, 0, 3, 9⟩ : LoopEntry).left = 0) := by decide +kernel

/-- FrameAccesses: the last doubleword and the last handle of the task's frame, and of the supervisor frame. -/
theorem witness_frames : let s := regs [(6, 8184), (7, 8160), (8, 4088), (9, 4064)] s0
    Acts s (me s) ∧ Ready (me s) 6 ∧ Free (me s) 63 ∧ Ready (me s) 63 ∧ (me s).ctl.pl = 0 ∧
      (let fa (x : Task) (a : SReg) : Nat := (BitVec.ofInt 64 ((x.ctl.rd a).toInt + 8 * (0 : BitVec 11).toInt)).toNat
       (fa (me s) 6 % 8 = 0 ∧ fa (me s) 6 + 8 = ((me s).r.fsize + 1) * 4096) ∧
       (fa (me s) 7 % 32 = 0 ∧ fa (me s) 7 + 32 = ((me s).r.fsize + 1) * 4096) ∧
       (let t := priv 1 s
        Acts t (me t) ∧ (me t).ctl.pl = 1 ∧ fa (me t) 8 % 8 = 0 ∧ fa (me t) 8 + 8 = 4096 ∧ fa (me t) 9 % 32 = 0 ∧ fa (me t) 9 + 32 = 4096)) := by
  decide +kernel

/-- TrapEntry: a running user task whose partition has a supervisor; and a trap in the slot of a branch with a link. -/
theorem witness_traps : let s := tables s0
    Acts s (me s) ∧ (me s).ctl.delay = none ∧ (me s).ctl.act = false ∧ (me s).service = false ∧ noLoads (me s) = true ∧
    s.supervisorOf (s.partOf (me s)) = some 1 ∧ s.launch? 1 = some launch1 ∧ s.handlerFault launch1 = none ∧
    (me s).agrees = true ∧ s.rootBoxesReachable launch1 = true ∧
    255 < 256 ∧ { (me s0).ctl with delay := some ⟨8, 64, some (63, 5)⟩ }.delay = some ⟨8, 64, some (63, 5)⟩ ∧ (63 : SReg) ≠ 0 := by decide +kernel

/-- A handler that runs, recorded from user code, its frame with a loop around TRESUME. -/
def inHandler : State := withCtl (fun c => { c with
  pl := 1, act := true, tstate := 5, tresume := 44, tframe := { s := [(4, 1)], h := [], loops := [⟨40, 48, 1, 1, 7⟩], bad := [], hbad := [], own := [] } }) s0

/-- TrapReturnAndDoubleTrap. -/
theorem witness_returns : Acts inHandler (me inHandler) ∧ (me inHandler).ctl.delay = none ∧ 1 ≤ (me inHandler).ctl.pl ∧ (me inHandler).ctl.act = true ∧
    noLoads (me inHandler) = true ∧ (∀ e ∈ (me inHandler).ctl.tframe.loops, e.start ≤ 44 ∧ 44 ≤ e.stop) ∧ (me inHandler).ctl.tresume.toNat = 44 ∧
    (me inHandler).ctl.tstate.toNat / 2 ^ 10 % 4 ≠ 2 ∧
    Acts (priv 1 s0) (me (priv 1 s0)) ∧ 1 ≤ (me (priv 1 s0)).ctl.pl ∧ (me (priv 1 s0)).ctl.act = false := by decide +kernel

/-! ### Witnesses: boxes, atomics and what a task reads -/

/-- Boxes over the five regions: the words in h3, the signed row in h4, the floats in h5, bytes in h6; index 255 in s8, 3 in s2. -/
def boxed : State := regs [(2, 3), (5, 7), (6, 9), (8, 255)]
  (boxes [(3, boxAt 1 Fm.z32 1 0 64 4), (4, boxAt 4 Fm.s32 0 0 16 1), (5, boxAt 2 Fm.fp32 1 0 64 4), (6, boxAt 0 Fm.z8 0 2048 64 1)] s0)
def inFlight (l : List Access) (s : State) : State := withTask (fun x => { x with pend := l }) s
def cmem : CMem := { r := 10, h := 3, idx := 8, cls := 2, sc := 1, sz := 2 }

/-- BoxAccesses: the last element of a box, with fifteen loads and with thirty-one stores in flight; and accesses that perform. -/
theorem witness_boxes :
    (let h := boxAt 1 Fm.z32 1 0 64 4
     let g := region 0 0x5000 Fm.z32 1 64 4
     h ≠ 0 ∧ handleFieldsOk h = true ∧ Handle.mode h ≠ 0 ∧ Handle.mode h ≠ 4 ∧ fmtIsBlock (Handle.fmt h) = false ∧
       fmtWidth (Handle.fmt h) = 8 * 2 ^ (2 : BitVec 2).toNat ∧ 63 < Handle.ext h 0 ∧ 3 < Handle.ext h 1 ∧ 0 < Handle.ext h 2 ∧ 0 < Handle.ext h 3 ∧
       SMap.find (boxed.regionTable (me boxed) (Handle.level h)) (Handle.region h) = some g ∧ g.valid = true ∧ Handle.fmt h = g.fmt ∧
       Handle.layout h = g.layout.toNat ∧ Handle.rank h = g.rank.toNat ∧ Handle.level h = g.level.toNat ∧
       (∀ d ∈ dims, Handle.org h d + Handle.ext h d ≤ nth g.size d 1)) ∧
    (∀ p ∈ [(inFlight (List.replicate 15 aLoad) boxed, false), (inFlight (List.replicate 31 aStore) boxed, true)],
      let x := me p.1
      let e := p.1.scalarElem x (x.ctl.hd cmem.h) (x.ctl.rd cmem.idx).toNat cmem.sz p.2
      let g := (val (region 0 0 Fm.none 0 0 0, []) e).1
      let c := (val (region 0 0 Fm.none 0 0 0, []) e).2
      Acts p.1 x ∧ Ready x cmem.idx ∧ good e = true ∧ Free x cmem.r ∧ Ready x cmem.r ∧ loadsInFlight x < 16 ∧ storesPosted x < 32 ∧
        good (p.1.regionBytes x g (elemBytes g c).1 (elemBytes g c).2 wantsRead) = true ∧
        good (p.1.writeElem x g c (x.ctl.rd cmem.r).toNat) = true) ∧
    (let s := inFlight [aLoad, aStore] boxed
     s.task? 0 = some (me s) ∧ (me s).pend[0]? = some aLoad ∧ (me s).pend[1]? = some aStore ∧ aLoad.load = some ⟨9, true, none, 0⟩ ∧ aStore.load = none ∧ aLoad.rmw = none ∧ aStore.rmw = none ∧
       (∀ b ∈ aLoad.cells, s.isBad b = false) ∧ (∀ w ∈ aStore.writes, ∀ v ∈ aStore.writes, v.a = w.a → v = w) ∧
       (∀ w ∈ aStore.writes, w.a ≠ 0)) := by decide +kernel

def amo (h : HReg) : Amo := { d := 8, a := 6, b := 5, h := h, idx := 2, cls := 1, sc := 1, sz := 2, acq := false, rel := true }

/-- Atomics: an atomic on a signed word, and one on a float. -/
theorem witness_atomics : ∀ p ∈ [((4 : HReg), false), (5, true)],
    let x := me boxed
    let m := amo p.1
    let e := boxed.amoElem x m p.2
    let g := (val (region 0 0 Fm.none 0 0 0, []) e).1
    let c := (val (region 0 0 Fm.none 0 0 0, []) e).2
    let cells := val [] (boxed.regionBytes x g (elemBytes g c).1 (elemBytes g c).2 wantsBoth)
    Acts boxed x ∧ x.service = false ∧ good e = true ∧ good (boxed.regionBytes x g (elemBytes g c).1 (elemBytes g c).2 wantsBoth) = true ∧
      Free x m.d ∧ Ready x m.a ∧ Ready x m.b ∧ Free x (m.d + 1) ∧ cells.length = 4 := by decide +kernel

/-- Accesses of an atomic of each operation in flight on the word at 0x7800. -/
def anAmo (fn : AmoFn) : Access :=
  { aLoad with load := some { reg := 8, signed := false, reg2 := if fn = .faddb then 9 else 0 }, cells := [0x7800, 0x7801, 0x7802, 0x7803],
               rmw := some { fn := fn, fmt := if fn = .fadd then Fm.fp32 else Fm.s32, a := 5, b := 7 } }
/-- Atomics: an atomic that performs on a sound word and on a poisoned one. -/
theorem witness_atomics_perform : ∀ fn ∈ [AmoFn.add, .cas, .faddb, .fadd], ∀ bad ∈ [false, true],
    let s := { inFlight [aStore, anAmo fn] boxed with poison := if bad then [0x7800 / 8] else [] }
    s.task? 0 = some (me s) ∧ (me s).pend[1]? = some (anAmo fn) ∧ (anAmo fn).load.isSome = true ∧ ((anAmo fn).load.bind (fun d => d.vector)).isNone = true ∧
      (anAmo fn).rmw.isSome = true ∧ ((∃ c ∈ (anAmo fn).cells, s.isBad c = true) ↔ bad = true) ∧ (me s).pendFault = none ∧
      bytesToNat ((anAmo fn).cells.map s.byteAt) < 2 ^ 32 ∧ fmtWidth Fm.fp32 = 32 ∧ fmtWidth Fm.s32 = 32 := by decide +kernel

/-- BoxForms: a box narrowed to its last element by immediates and by registers, its rights, and a root box. -/
theorem witness_box_forms :
    (let s := regs [(5, 63), (6, 1), (7, 3)] (tables boxed)
     let x := me s
     let h := x.ctl.hd 3
     Acts s x ∧ Free x 9 ∧ h ≠ 0 ∧ handleFieldsOk h = true ∧ x.service = false ∧
       (let s := withTask (fun x => { x with r := { x.r with kind := .service 0 } }) s
        Acts s (me s) ∧ (me s).service = true) ∧
       (63 + 1 ≤ Handle.ext h 0 ∧ Handle.org h 0 + 63 < 2 ^ 28 ∧ ∀ d ∈ dims, Handle.rank h < d → (if d = 0 then 63 = 0 ∧ 1 = 1 else Handle.ext h d = 1)) ∧
       Ready x 5 ∧ Ready x 6 ∧ (x.ctl.rd 5).toNat = 63 ∧ (x.ctl.rd 6).toNat = 1 ∧
       modeAllowed (Handle.mode h) 0 = true ∧ (4 : BitVec 4).toNat < 5 ∧ (fmtKind (Handle.fmt h) ≠ .hs ∧ fmtIsBlock (Handle.fmt h) = false) ∧
       s.launch? (s.activeLaunch x) = some launch0 ∧ Ready x 7 ∧ (x.ctl.rd 7).toNat < launch0.nbox ∧
       good (s.tableNat x launch0 (launch0.boxtab + 128 * 3 + 64) 32) = true) := by decide +kernel

/-- A slice of a DSPAWN in the task's record, and a shape record of four entries. -/
def sliced : State := words 0x9010 [0x9100, 3] <| withTask (fun x => { x with r := { x.r with slice := some ⟨4, 8, 20, 5, [4, 5], 1⟩ } }) boxed

/-- TaskReads: every selector, the last entry of a shape record, and a coordinate of a box of a region that is not sharded. -/
theorem witness_task_reads :
    Acts sliced (me sliced) ∧ Free (me sliced) 9 ∧ sliced.launch? (me sliced).r.launch = some launch0 ∧ (me sliced).r.slice = some ⟨4, 8, 20, 5, [4, 5], 1⟩ ∧
      (4 : BitVec 6).toNat = 4 + 0 ∧ (7 : BitVec 6).toNat = 4 + 3 ∧ Ready (me sliced) 2 ∧
      good (sliced.shapeEntry (me sliced) 1 (((me sliced).ctl.rd 2).toNat + 0)) = true ∧
      (me sliced).ctl.hd 3 ≠ 0 ∧ handleFieldsOk ((me sliced).ctl.hd 3) = true ∧ (∀ k ∈ dims, Handle.ext ((me sliced).ctl.hd 3) k ≠ 0) ∧
      good (sliced.shardGlobal (me sliced) ((me sliced).ctl.hd 3) (splitIndex ((me sliced).ctl.hd 3) ((me sliced).ctl.rd 2).toNat)) = true := by
  decide +kernel

/-! ### Witnesses: synchronisation, programs and tasks -/

/-- The vector stream's queues full or empty. -/
def queues (vq cq : List Word) (s : State) : State := withVec (fun v => { v with vq := vq, cq := cq }) s
def tileTask : State := withTask (fun x => { x with r := { x.r with sbufs := [(40, 1)] } }) (regs [(8, 2 ^ 40 + 2 ^ 32 + 1), (9, 2 ^ 41)] s0)

/-- SemaphoresAndSynchronisation: with the accesses performed and with one in flight; queues at their bounds; tiles of each group that are
declared, and one buffer that is not. -/
theorem witness_synchronisation :
    (Acts boxed (me boxed) ∧ (me boxed).service = false ∧ Free (me boxed) 9 ∧ Ready (me boxed) 2 ∧ settled (me boxed) = true ∧
      (me boxed).semInOrder boxed.cycle 3 5 = true ∧ ((me boxed).noteSem boxed.cycle 4 5).semInOrder boxed.cycle 3 5 = false ∧
      (let s := inFlight [aStore] boxed
       Acts s (me s) ∧ settled (me s) = false ∧ (∃ p ∈ (me s).pend, p.stream = .control ∧ (8 : BitVec 16).getLsbD p.cls.toNat = true) ∧
         (∀ p ∈ (me s).pend, (4 : BitVec 16).getLsbD p.cls.toNat = false) ∧ (∃ p ∈ (me s).pend, p.stream = .control ∧ p.load = none ∧ p.scope = 0))) ∧
    ((me boxed).vec.on = false ∧ (me boxed).mat.done = (me boxed).mat.issued ∧ (me boxed).cpy.done = (me boxed).cpy.issued ∧
      (me (withVec (fun v => { v with on := true }) boxed)).vec.on = true) ∧
    ((me (queues [5] (List.replicate 63 7) boxed)).vec.cq.length < 64 ∧ (me (queues [5] (List.replicate 64 7) boxed)).vec.cq.length = 64 ∧
      (me (queues [5] [] boxed)).vec.vq = 5 :: [] ∧ (me (queues [] [] boxed)).vec.vq = []) ∧
    (let x := me tileTask
     let named := (List.range 64).filter (fun t => (x.ctl.rd 8).getLsbD t)
     Acts tileTask x ∧ Ready x 8 ∧ Ready x 9 ∧ named = [0, 32, 40] ∧ (∀ t ∈ named, x.declared t = true) ∧
       (∀ t ∈ named, (x.tile t).readers = 0 ∧ ((x.tile t).st = .empty ∨ (x.tile t).st = .ready)) ∧ x.declared 41 = false) := by decide +kernel

/-- EngineConfiguration: the largest trip count, and one above it. -/
theorem witness_engine_configuration : let s := regs [(7, 65535), (8, 65536), (9, 2 ^ 48 - 1)] s0
    Acts s (me s) ∧ (me s).service = false ∧ Ready (me s) 7 ∧ Ready (me s) 0 ∧ Ready (me s) 9 ∧ ((me s).ctl.rd 9).toNat < 2 ^ 48 ∧
      ((me s).ctl.rd 7).toNat < 65536 ∧ Ready (me s) 8 ∧ 65536 ≤ ((me s).ctl.rd 8).toNat := by decide +kernel

/-- A wait block at 0x40 of semaphore 3 against a threshold and timeout. -/
def waiting (n t : Nat) : State := words 0x40 [1 + t * 2 ^ 32, 3 * 2 ^ 52 + n] (regs [(8, 20)] (withTask (fun x => { x with sems := [(3, 5)] }) s0))
/-- The conditions of that block. -/
def conditions (s : State) : Res (List WaitCond) := do
  let b ← s.codeNat (me s) 0x48 8
  (List.range 1).mapM (fun i => (me s).waitCond (blockWord b i))

/-- Waits: a condition that holds, one that does not, and a timeout of 0, in the block or in a register. -/
theorem witness_waits : ∀ p ∈ [(5, 100, true), (6, 100, false), (6, 0, false)],
    let s := waiting p.1 p.2.1
    let x := me s
    Acts s x ∧ x.service = false ∧ x.ctl.delay = none ∧ Free x 9 ∧ Ready x 0 ∧ Ready x 8 ∧ (x.ctl.rd 8).toNat < 2 ^ 32 ∧
      good (s.block x 0x40 8 8) = true ∧ val 0 (s.block x 0x40 8 8) % 2 ^ 4 = 1 ∧ val 0 (s.block x 0x40 8 8) / 2 ^ 4 % 2 ^ 28 = 0 ∧
      val 0 (s.block x 0x40 8 8) / 2 ^ 32 % 2 ^ 32 = p.2.1 ∧ good (conditions s) = true ∧
      (val [] (conditions s)).map (s.condHolds x) = [p.2.2] := by decide +kernel

/-- A block at 0x40, and with a slip descriptor of the deepest value at 0x200. -/
def forkBlock (l : List Nat) : State := words 0x200 [0xF8 * 2 ^ 56 + 64] (words 0x40 (l ++ List.replicate (8 - l.length) 0) (regs [(8, 1), (15, 3)] s0))
def queued (n : Nat) (s : State) : State :=
  withTask (fun x => { x with mat := { x.mat with queue := List.replicate n (newRecord x x.mat 1 none 0 true true) } }) s

/-- EnginePrograms: a block of all three programs, one of two records alone; an XQ record, with 63 and with 64 pending. -/
theorem witness_programs :
    (let s := forkBlock [2 ^ 63 + 0x200, 2 ^ 63 + 2 * 2 ^ 32 + 0x400, 2 ^ 63 + 3 * 2 ^ 32 + 0x800]
     let x := me s
     Acts s x ∧ x.service = false ∧ good (s.block x 0x40 64 64) = true ∧ forkBlockOk (val 0 (s.block x 0x40 64 64)) = true ∧ settled x = true ∧
       val none (s.slipOf x 0x200) = some 64 ∧ good (s.slipOf x 0x200) = true ∧ x.vec.on = false ∧ (∀ i < 8, Ready x (BitVec.ofNat 6 (8 + i))) ∧
       pendingPrograms x.mat < 4 ∧ pendingPrograms x.cpy < 4) ∧
    (let s := forkBlock [0, 0, 2 ^ 63 + 3 * 2 ^ 32 + 0x800]
     good (s.block (me s) 0x40 64 64) = true ∧ forkBlockOk (val 0 (s.block (me s) 0x40 64 64)) = true ∧
       ¬ blockWord (val 0 (s.block (me s) 0x40 64 64)) 0 / 2 ^ 63 % 2 = 1) ∧
    (∀ n ∈ [63, 64],
      let s := queued n (forkBlock [0x01 * 2 ^ 56, 0x10001])
      Acts s (me s) ∧ (me s).service = false ∧ Free (me s) 9 ∧ good (s.block (me s) 0x40 64 64) = true ∧ (0 : BitVec 8).extractLsb' 0 3 = 0 ∧
        kindEngine (val 0 (s.block (me s) 0x40 64 64) / 2 ^ 56 % 2 ^ 8) 0 = some .matrix ∧ settled (me s) = true ∧ pendingXq (me s).mat = n) := by
  decide +kernel

/-- A spawn block at 0x40 with one box entry of h4 in a mode, in pieces of 8. -/
def spawning (w0 w1 w2 w3 mode : Nat) (entries : Bool) : State :=
  words 0x40 ([w0, w1, w2, w3, 0, 0, 0, 0] ++
      (if entries then [4 * 2 ^ 59 + mode * 2 ^ 55 + 8 * 2 ^ 24, 8 * 2 ^ 16, 4 * 2 ^ 16, 2 ^ 16, 2 ^ 16, 0, 0, 0] else []))
    (regs [(7, 65537), (8, 65536), (9, 3)] (boxes [(4, mkHandle 2 0 0 1 Fm.z32 0 1 (fun _ => 0) (fun d => if d = 0 then 64 else if d = 1 then 4 else 1))] s0))
def det (s : State) : State := { s with launches := [(0, { launch0 with hdr := launch0.hdr ||| BitVec.ofNat 1024 (headerBits 6 2 1) }), (1, launch1)] }
def aBlock (s : State) : Nat × List SpawnEntry := val (0, []) (s.spawnBlock (me s) 0x40)

/-- Spawns, of the parent's own level and below it: three children that share a box, none, and one more than 65,536. -/
theorem witness_spawns : ∀ down ∈ [false, true],
    let s := spawning (3 + 0x40 * 2 ^ 32) (1 + 0x300 * 2 ^ 32) 0 0 2 true
    let x := me s
    let b := aBlock s
    Acts s x ∧ x.service = false ∧ good (s.spawnBlock x 0x40) = true ∧ blockWord b.1 1 / 2 ^ 4 % 2 = 0 ∧ blockWord b.1 2 = 0 ∧ blockWord b.1 3 = 0 ∧
      Ready x 0 ∧ good (s.place x 0) = true ∧ x.r.level ≠ 2 ∧ blockWord b.1 0 % 2 ^ 32 = 3 ∧
      good (s.spawnGroup x down b.1 b.2 ((List.range 3).map (fun k => { index := k, cluster := val 0 (s.place x 0), bound := none, fixed := none, slice := none }))) = true ∧
      Ready x 7 ∧ 65536 < (x.ctl.rd 7).toNat ∧ good (x.soundRegs (b.2.flatMap SpawnEntry.regs) (b.2.map (fun e => e.hreg))) = true ∧
      (let s := spawning (0x40 * 2 ^ 32) (0x300 * 2 ^ 32) 0 0 2 false
       good (s.spawnBlock (me s) 0x40) = true ∧ blockWord (aBlock s).1 0 % 2 ^ 32 = 0) := by decide +kernel

/-- A DSPAWN block of two trip counts over three logical cores of the task's cluster. -/
def slices (t0 t1 : Nat) : State := det (spawning (0x40 * 2 ^ 32) (0x300 * 2 ^ 32) (2 ^ 62 + 2 ^ 56 + 3) (t0 * 2 ^ 48 + t1 * 2 ^ 32) 0 false)

/-- Spawns, deterministic: 27 iterations over three cores, none, and more than 2^32. -/
theorem witness_deterministic_spawns : ∀ p ∈ [(3, 9), (0, 9), (65535, 65535)],
    let s := slices p.1 p.2
    let x := me s
    let b := aBlock s
    Acts s x ∧ x.service = false ∧ (∃ l, s.launch? x.r.launch = some l ∧ l.det = true) ∧ good (s.spawnBlock x 0x40) = true ∧
      dspawnWordsOk (blockWord b.1 2) (blockWord b.1 3) = true ∧ Ready x 0 ∧ blockWord b.1 2 % 2 ^ 16 = 3 ∧
      (List.range 2).map (fun k => blockWord b.1 3 / 2 ^ (48 - 16 * k) % 2 ^ 16) = [p.1, p.2] ∧
      (∀ k < 2, (dspawnPerm (blockWord b.1 2)).contains k = true) ∧ clusterSet 0 1 = [0] ∧ x.r.cluster = 0 ∧ x.r.level = 0 ∧ 0 < 9 ∧
      (∀ c ∈ clusterSet 0 1, (s.partClusters (s.partOf x)).contains c = true) ∧ blockWord b.1 2 / 2 ^ 53 % 2 = 0 ∧
      good (x.soundRegs (b.2.flatMap SpawnEntry.regs) (b.2.map (fun e => e.hreg))) = true ∧
      (p = (3, 9) → good (s.spawnGroup x false b.1 b.2 ((List.range 3).map (fun k =>
        { index := k, cluster := 0, bound := none, fixed := some k, slice := some ⟨k * 9, min 27 ((k + 1) * 9), 27, 3, [3, 9], k⟩ }))) = true) := by
  decide +kernel

/-- JoinYieldEnd: with the work drained, and with a record still to complete. -/
theorem witness_joins : Acts s0 (me s0) ∧ (me s0).ctl.delay = none ∧ (me s0).service = false ∧ (me s0).drained = true ∧ (me s0).holdsPoison = false ∧
    (let s := withTask (fun x => { x with mat := { x.mat with issued := 1 } }) s0
     Acts s (me s) ∧ (me s).drained = false) := by decide +kernel

/-! ### Witnesses: the Sundial unit and commit groups -/

def stream0 (slots : SMap Nat) : EStream :=
  { launch := 0, ring := boxAt 0 Fm.z8 0 0 256 1, drop := boxAt 0 Fm.z8 0 1024 512 1, recSize := 64, w := 7, h := 0, wpos := 3, slots := slots,
    arrivals := [], dropped := 0, closing := false, closed := false, interrupted := false }
def source0 : Source :=
  { stream := 2, explicit := true, kind := 0, port := 0, bound := 9, timeout := 4, st := .active, wm := 1, last := 2, seq := 5, waiting := [] }
/-- A binding descriptor of Table 6.3: windows of 100 by 50 with lateness 200 into region 3. -/
def descriptor : List Nat := [100, 50, 3, 200, 0x40 * 2 ^ 32 + 77, 0xFFFF * 2 ^ 48 + 2 ^ 46 + 2 * 2 ^ 42 + 5 * 2 ^ 25, 3 * 2 ^ 44 + 2 * 2 ^ 28, 0x80]
def sundial : State :=
  { words 0x4800 descriptor (boxes [(0, boxAt 0 Fm.z8 0 0 512 1), (1, boxAt 0 Fm.z8 0 1024 320 1), (4, boxAt 0 Fm.z8 0 2048 64 1), (5, boxAt 0 Fm.z8 0 1024 512 1)]
      (regs [(1, 256), (2, 2 + 2 ^ 12 + 2 ^ 32), (3, 2), (4, 9), (5, 2 ^ 15 + 2), (6, 9)] s0)) with
    streams := [(0, stream0 [(3, 1)]), (2, stream0 [(3, 1)])], sources := [(9, source0)] }

/-- SundialUnit: records of the largest size over the smallest ring. -/
theorem witness_stream_opens : let s := sundial
    let x := me s
    Acts s x ∧ x.service = false ∧ Ready x 1 ∧ Free x 63 ∧ (x.ctl.rd 1).toNat = 256 ∧
      good (sharedLevel0 (x.ctl.hd 0)) = true ∧ Handle.fmt (x.ctl.hd 0) = Fm.z8 ∧ Handle.rank (x.ctl.hd 0) = 0 ∧ good (s.regionOf x (x.ctl.hd 0)) = true ∧
      good (sharedLevel0 (x.ctl.hd 1)) = true ∧ Handle.fmt (x.ctl.hd 1) = Fm.z8 ∧ Handle.rank (x.ctl.hd 1) = 0 ∧ good (s.regionOf x (x.ctl.hd 1)) = true ∧
      Handle.ext (x.ctl.hd 0) 0 % 256 = 0 ∧ 2 = Handle.ext (x.ctl.hd 0) 0 / 256 ∧ 64 + 256 = Handle.ext (x.ctl.hd 1) 0 ∧
      SMap.freeIn s.streams (256 * dieOfTask x) 256 = some 1 := by decide +kernel

/-- SundialUnit: a source of an open stream, with the smallest timeout, and the closing of a source and of a stream. -/
theorem witness_sources : let s := sundial
    let x := me s
    let v := (x.ctl.rd 2).toNat
    Acts s x ∧ Ready x 2 ∧ Ready x 3 ∧ Ready x 4 ∧ Ready x 5 ∧ Free x 63 ∧ v / 2 ^ 19 % 2 ^ 13 = 0 ∧ v / 2 ^ 13 % 4 ≠ 3 ∧ v / 2 ^ 32 = 1 ∧
      SMap.find s.streams (v % 2 ^ 12) = some (stream0 [(3, 1)]) ∧ (stream0 [(3, 1)]).launch = x.r.launch ∧ (stream0 [(3, 1)]).closed = false ∧
      SMap.freeIn s.sources (1024 * (v % 2 ^ 12 / 256)) 1024 = some 0 ∧
      s.tickDone 0 = false ∧ v % 2 ^ 12 / 256 = 0 ∧ source0.stream / 256 = 0 ∧ (x.ctl.rd 4).toNat = 9 ∧ SMap.find s.sources 9 = some source0 ∧ source0.st ≠ .closed ∧ (x.ctl.rd 5).toNat = 2 ^ 15 + 2 := by decide +kernel

/-- SundialUnit: a binding whose windows need seven of the eight slots. -/
theorem witness_binding : let s := sundial
    let x := me s
    let n := bytesToNat (val [] (s.boxBytes x (x.ctl.hd 4) 0 64 [0, 1, 2]))
    let w (i : Nat) := n / 2 ^ (64 * i) % 2 ^ 64
    Ready x 3 ∧ (x.ctl.rd 3).toNat = 2 ∧ good (s.boxBytes x (x.ctl.hd 4) 0 64 [0, 1, 2]) = true ∧ good (sharedLevel0 (x.ctl.hd 5)) = true ∧
      good (s.regionOf x (x.ctl.hd 5)) = true ∧ s.launch? x.r.launch = some launch0 ∧ bindingOk n launch0.csize = true ∧
      SMap.find launch0.regions (w 6 / 2 ^ 44) = some (region 0 0x7000 Fm.z64 1 32 8) ∧ 8 + 8 * (w 6 / 2 ^ 28 % 2 ^ 16) ≤ 32 ∧
      (w 0 + w 3 + w 1 - 1) / w 1 + 1 ≤ 8 ∧ SMap.freeIn s.bindings 8 4 = some 8 := by decide +kernel

/-- The stream of that source with some of its four slots taken. -/
def taken (slots : SMap Nat) : State := { sundial with streams := [(2, stream0 slots)] }

/-- SundialUnit: a record that finds the only free slot, past the end of the ring, and one that finds none. -/
theorem witness_records : ∀ p ∈ [([(0, 1), (1, 1), (3, 1)], some 2), ([(0, 1), (1, 1), (2, 1), (3, 1)], none)],
    let s := taken p.1
    let x := me s
    Acts s x ∧ Ready x 6 ∧ Ready x 0 ∧ SMap.find s.sources (x.ctl.rd 6).toNat = some source0 ∧ source0.kind = 0 ∧
      SMap.find s.streams source0.stream = some (stream0 p.1) ∧ settled x = true ∧ s.tickDone (source0.stream / 256) = false ∧
      ({ s with dies := [(0, { s.die 0 with ticked := s.tick + 1 })] }).tickDone (source0.stream / 256) = true ∧ good (s.boxBytes x (x.ctl.hd 4) 0 64 [0, 1, 2]) = true ∧
      (stream0 p.1).freeSlot = p.2 := by decide +kernel

def group (st : GroupSt) (launch : Nat) (done : Bool) : CGroup := { CGroup.reset with st := st, launch := launch, discarded := 3, cause := 1, done := done }
def grouped : State := { boxed with groups := [(0, group .opened 0 false), (7, group .preparing 0 false), (1, group .opened 3 false), (5, group .free 0 true)] }
def full : State := { boxed with groups := (List.range 64).map (fun i => (i, group .opened 0 false)) }
def gstore : StG := { s := 5, a := 1, h := 3, idx := 8, cls := 1, sz := 2 }

/-- CommitGroups: the timeouts 1 and 2^32 - 1, a group that is asked for and any, and groups in each case; a store into an open group, a
later one and another launch's. -/
theorem witness_groups :
    (let s := regs [(1, 1), (2, 64), (3, 7), (4, 2 ^ 32 - 1), (6, 63)] grouped
     let x := me s
     Acts s x ∧ x.service = false ∧ Ready x 1 ∧ Ready x 2 ∧ Ready x 3 ∧ Ready x 4 ∧ Free x 9 ∧ (x.ctl.rd 1).toNat = 1 ∧ (x.ctl.rd 4).toNat < 2 ^ 32 ∧
       (x.ctl.rd 6).toNat < 64 ∧ (s.cgroup 63).st = .free ∧ (s.cgroup (x.ctl.rd 3).toNat).st ≠ .free ∧ (x.ctl.rd 2).toNat = 64 ∧
       (s.cgroup 2).st = .free ∧ (∀ k < 2, (s.cgroup k).st ≠ .free) ∧
       (s.cgroup 0).st = .opened ∧ (s.cgroup 0).launch = x.r.launch ∧ settled x = true ∧ (s.cgroup 1).launch ≠ x.r.launch ∧
       (s.cgroup 5).launch = x.r.launch ∧ (s.cgroup 5).done = true ∧ (s.cgroup 5).cause < 8 ∧ (s.cgroup 63).done = false) ∧
    (Acts full (me full) ∧ ∀ k < 64, (full.cgroup k).st ≠ .free) ∧
    (∀ p ∈ [(0, true), (7, true), (1, false)],
      let s := regs [(1, BitVec.ofNat 64 p.1), (5, 3), (8, 255)] grouped
      let x := me s
      Acts s x ∧ x.service = false ∧ Ready x gstore.s ∧ Ready x gstore.a ∧ Ready x gstore.idx ∧ (x.ctl.rd gstore.a).toNat % 2 ^ 16 < 64 ∧
        (x.ctl.rd gstore.a).toNat / 2 ^ 16 = 0 ∧ ((s.cgroup p.1).launch = x.r.launch ↔ p.2 = true) ∧ good (sharedLevel0 (x.ctl.hd gstore.h)) = true ∧
        good (s.scalarElem x (x.ctl.hd gstore.h) (x.ctl.rd gstore.idx).toNat gstore.sz true) = true ∧ s.launch? x.r.launch = some launch0 ∧
        0 < launch0.meshDevices ∧ s.withdrawing p.1 s.cur = false) := by decide +kernel

/-- CommitGroups: a group that is past Open. -/
theorem witness_group_fault : (me grouped).r.comparing = none ∧ (grouped.cgroup 7).st ≠ .opened := by decide +kernel

/-- CommitGroups: a replicated commit of group 0 by devices 0 and 3, at its issue, while the digests are compared, and after. -/
theorem witness_replicated_commit : ∀ c ∈ [none, some (0, false), some (0, true)],
    let s := words 0x4800 [1, 2, 3, 4, 5, 6, 2, 0, 3 * 2 ^ 16] (boxes [(7, boxAt 0 Fm.z8 0 2048 128 1)] (regs [(1, 256)] grouped))
    let s := withTask (fun x => { x with r := { x.r with comparing := c } }) s
    let x := me s
    Acts s x ∧ x.service = false ∧ Ready x 1 ∧ (x.ctl.rd 1).toNat = 256 ∧ x.r.comparing = c ∧ (s.cgroup 0).st = .opened ∧ (s.cgroup 0).launch = x.r.launch ∧
      settled x = true ∧ (match s.replicaParams x (x.ctl.hd 7) with | .ok p => p.2 == [0, 3] | .error _ => false) = true := by decide +kernel

/-! ### Witnesses: the supervisor and the service core -/

/-- SystemRegisters, PrivilegeAndDelaySlot: each privilege level, and the numbers at the ends of each range. -/
theorem witness_system_registers :
    (∀ n ∈ [1, 2], let s := priv n boxed
      Acts s (me s) ∧ (me s).ctl.pl = n ∧ 1 ≤ (me s).ctl.pl ∧ Free (me s) 9 ∧ Ready (me s) 2 ∧ (me s).ctl.tframe.bad = [] ∧ coreOfTask (me s) < 1152) ∧
    (0x00B : BitVec 12).toNat = 0x008 + 3 ∧ (0x07F : BitVec 12).toNat = 0x040 + 63 ∧ 0x00D ≤ (0x03F : BitVec 12).toNat ∧
    0x103 ≤ (0x1FF : BitVec 12).toNat ∧ 0x203 ≤ (0x203 : BitVec 12).toNat ∧
    (encode .tret = .word 0xE0000002 ∧ (me boxed).ctl.pl < privilegeOf 0xE0000002 ∧ encode (.phyrd 1 2) = .word 0xE8108000 ∧
      (me (priv 1 boxed)).ctl.pl < privilegeOf 0xE8108000) ∧
    (let s := withCtl (fun c => { c with delay := some ⟨8, 64, none⟩ }) boxed
     Acts s (me s) ∧ isTransfer (.jal 1 2) = true ∧ (me s).ctl.delay.isSome = true ∧ (me s).service = false ∧ isTransfer .tret = true) := by decide +kernel

/-- Cores of the partition: one that is fenced and free, one that is fenced and still runs a task. -/
def fenced (v w : Nat) : State :=
  let s := priv 2 (regs [(1, BitVec.ofNat 64 v), (2, BitVec.ofNat 64 w)] s0)
  { s with cores := (5, { Core.reset with fenced := true }) :: (6, { Core.reset with fenced := true, task := some 4 }) :: s.cores }

/-- SupervisorForms: the first and the last core of the partition, both kinds of tlbinv, each target of isend, and each case of corefence. -/
theorem witness_supervisor_forms :
    (∀ p ∈ [(0, 1), (31, 1), (1, 0), (31 * 2 ^ 16, 255), (1, 3), (2, 0), (1151, 0), (5, 1), (6, 1)],
      let s := fenced p.1 p.2
      Acts s (me s) ∧ 1 ≤ (me s).ctl.pl ∧ 2 ≤ (me s).ctl.pl ∧ Ready (me s) 1 ∧ Ready (me s) 2 ∧ Free (me s) 9 ∧ settled (me s) = true ∧
        ((me s).ctl.rd 1).toNat = p.1 ∧ ((me s).ctl.rd 2).toNat = p.2) ∧
    (let s := fenced 0 1
     let x := me s
     (coresOf (s.partClusters (s.partOf x))).contains 31 = true ∧ (coresOf (s.partClusters (s.partOf x))).contains 0 = true ∧
       (∀ e ∈ s.tlb, tlbHit (s.partOf x) 0 2 e = true → s.usesEntry (s.partOf x) e = false) ∧ s.partResetting (s.partOf x) = false ∧
       (∃ p, s.part? (s.partOf x) = some p ∧ 3 < p.msix / 256 % 256) ∧
       (s.core 0).fenced = false ∧ (s.core 5).fenced = true ∧ (s.core 5).task = none ∧ (s.core 6).task ≠ none) := by decide +kernel

/-- A pre-empted task whose context lies in slot 1 of die 0, in frames in use that a pinned page of 1 GiB maps. -/
def saved (pre : Bool) : State :=
  let y := { Task.empty with st := .runnable, r := { Rec.empty with pa := 0x40000040, preempted := pre, ctx := 1, home := some 3 } }
  let s := words 0xB000 [0xC001] (words 0xC000 [287] (priv 1 (regs [(1, 0x40000040)] s0)))
  { s with
    tasks := s.tasks ++ [(4, y)], dies := [(0, { Die.reset with up := true, dctx := BitVec.ofNat 64 (2 ^ 50 + 2 ^ 20) })],
    dram := s.dram.map (fun d => (d.1, { d.2 with frames := d.2.frames ++ (List.range 400).map (fun i => (i + 1, Frame.mk 1 0)) })) }

def contract0 : Contract :=
  { part := 0, period := 1000, budget := 10, rdead := 500, clusters := [0, 1], q := 3, refills := 0, accounts := [(0, 10), (1, 10)], spent := [],
    suspended := true }
/-- A contract descriptor over clusters 0 and 1 in the box h6. -/
def admitting (budget rdead : Nat) (contracts : SMap Contract) : State :=
  { words 0x4800 [1000, budget, rdead, 3] (priv 1 (regs [(1, 1023)] boxed)) with
    clusters := (List.range 4).map (fun c => (c, { Cluster.reset with cpart := 0, cres := 8 })), contracts := contracts }

/-- ContextsAndContracts: a task that is pre-empted and one that is not. -/
theorem witness_contexts : ∀ b ∈ [true, false],
    let s := saved b
    let r := val (0, Task.empty) (s.recordOf (me s) ((me s).ctl.rd 1))
    Acts s (me s) ∧ 1 ≤ (me s).ctl.pl ∧ Ready (me s) 1 ∧ Free (me s) 9 ∧ good (s.recordOf (me s) ((me s).ctl.rd 1)) = true ∧ r.2.r.preempted = b ∧
      settled (me s) = true ∧ s.slotOnline (s.slotBase (ctxDie r.2) r.2.r.ctx) = true ∧
      s.slotOk (s.slotBase (ctxDie r.2) r.2.r.ctx) (List.range 64) = true := by decide +kernel

/-- ContextsAndContracts: a contract that its clusters take and one that they refuse, and contract 1023. -/
theorem witness_contracts :
    (∀ p ∈ [((10, 500), true), ((10000000, 1000), false)],
      let s := admitting p.1.1 p.1.2 [(0, contract0)]
      let n := bytesToNat (val [] (s.boxBytes (me s) ((me s).ctl.hd 6) 0 32 [0]))
      Acts s (me s) ∧ good (s.boxBytes (me s) ((me s).ctl.hd 6) 0 32 [0]) = true ∧
        n = 1000 + p.1.1 * 2 ^ 64 + p.1.2 * 2 ^ 128 + 3 * 2 ^ 192 ∧ n / 2 ^ 212 % 2 ^ 44 = 0 ∧
        (∀ c ∈ [0, 1], (s.partClusters 0).contains c = true) ∧
        ((∀ c ∈ [0, 1], s.admits ((p.1.1 * 2 ^ 12 + p.1.2 - 1) / p.1.2) c = true) ↔ p.2 = true) ∧
        SMap.find s.contracts 1 = none ∧ SMap.find s.contracts 0 ≠ none) ∧
    (let s := admitting 10 500 []
     Ready (me s) 1 ∧ ((me s).ctl.rd 1).toNat = 1023 ∧ Ready (me (regs [(1, 0xFFFF)] s)) 1 ∧ ((me (regs [(1, 0xFFFF)] s)).ctl.rd 1).toNat = 0xFFFF) := by decide +kernel

/-- ContextsAndContracts: every number of a die's 1,024 contracts can be taken. -/
theorem witness_contracts_full (k : Nat) (h : k < 1024) :
    SMap.find (admitting 10 500 ((List.range' 0 1024).map (fun i => (i, contract0)))).contracts k ≠ none := by
  have all (n i : Nat) : ∀ a, a ≤ i → i < a + n → SMap.find ((List.range' a n).map (fun j => (j, contract0))) i ≠ none := by
    induction n with
    | zero => intro a h1 h2; omega
    | succ n ih =>
      intro a h1 h2
      rw [List.range'_succ, List.map_cons, SMap.find]
      split
      · simp
      · exact ih (a + 1) (by omega) (by omega)
  have keeps (l : SMap Contract) : (admitting 10 500 l).contracts = l := rfl
  rw [keeps]
  exact all 1024 k 0 (by omega) (by omega)

/-- A partition descriptor in the box h6: one unit, a supervisor launch, a virtual function. -/
def creating (desc : List Nat) (a b : Nat) : State :=
  { words 0x4800 desc (priv 2 (regs [(1, BitVec.ofNat 64 a), (2, BitVec.ofNat 64 b)] boxed)) with
    svLaunches := [(0, { launch := 1, frames := [], l1 := 0, part := some 0 }), (3, { launch := 1, frames := [], l1 := 0xB000, part := none })],
    clusters := (List.range 4).map (fun c => (c, { Cluster.reset with cpart := 0 })) ++ [(4, { Cluster.reset with cpart := 63 })] }

/-- ServiceCoreForms: a descriptor that is taken and one that is refused; resets of partitions that exist and of one that does not; a PHY
register that is read and written. -/
theorem witness_service_core_forms :
    (∀ p ∈ [([2, 3, 0x1000, 5, 3 * 2 ^ 16 + 0x400], true), ([2, 0, 0x1000, 5, 3 * 2 ^ 16 + 0x400], false)],
      let s := creating p.1 35 0
      let n := bytesToNat (val [] (s.boxBytes (me s) ((me s).ctl.hd 6) 0 64 (descriptorLevels (me s))))
      Acts s (me s) ∧ 2 ≤ (me s).ctl.pl ∧ Ready (me s) 1 ∧ Free (me s) 9 ∧ ((me s).ctl.rd 1).toNat < 36 ∧
        good (s.boxBytes (me s) ((me s).ctl.hd 6) 0 64 (descriptorLevels (me s))) = true ∧ partDescOk n = true ∧ ((s.createRefused 35 n).isNone ↔ p.2 = true) ∧
        (p.2 = true → (SMap.find s.svLaunches (n / 2 ^ 64 % 2 ^ 32)).isSome = true)) ∧
    (∀ p ∈ [(256, 0), (512, 0), (256 + 35, 35)], let s := creating [] p.1 0
      ((me s).ctl.rd 1).toNat = p.1 ∧ ((s.part? p.2).isNone ↔ p.2 = 35) ∧ s.holdsPrepared 0 = false) ∧
    (∀ a ∈ [0, 0x810], let s := creating [] a 3
      good (phyAddress (me s) ((me s).ctl.rd 1)) = true ∧ Ready (me s) 2) ∧
    good ((creating [] 0x810 3).phyWrite 0 0 .clswin 3) = true := by decide +kernel

/-! ### Witnesses: the vector stream -/

def vreg (f : Fmt) (data : Nat) : VReg := { tag := f, data := BitVec.ofNat 16384 data, scale := 0, bad := [], own := false }
def lowMask (n : Nat) : BitVec 4096 := BitVec.ofNat 4096 (2 ^ n - 1)
/-- A vector stream that runs: five registers with tag f, the mask k1 with five ones, three stream scalars and a box. -/
def vectors (f : Fmt) (s : State) : State := withVec (fun v => { v with
  on := true, pc := 0x200, issued := 1, flags := 3,
  v := [(1, vreg f 0x0102), (2, vreg f 7), (3, vreg f 9), (4, vreg Fm.z64 7), (7, vreg Fm.idx16 255)],
  k := [(1, lowMask 5)], a := [(1, 5), (2, 256), (3, 0x123456789)], b := [(0, boxAt 1 Fm.z32 1 0 64 4)] }) s
def vf (f : Fmt) : State := vectors f s0
def vword (d a b c k : Nat) (f : Fmt) (rm : Nat := 0) (flg : Nat := 0) : VWord :=
  { d := BitVec.ofNat 9 d, a := BitVec.ofNat 9 a, b := BitVec.ofNat 9 b, c := BitVec.ofNat 9 c, k := BitVec.ofNat 4 k, cls := 0, fmt := f,
    rm := BitVec.ofNat 3 rm, flg := BitVec.ofNat 3 flg }

/-- VectorMerge: the narrowest and the widest scalar formats, an active element and an inactive one. -/
theorem witness_merge : ∀ f ∈ [Fm.z8, Fm.s64],
    fmtReserved f = false ∧ f ≠ Fm.none ∧ 4 < fmtElems f ∧ 5 < fmtElems f ∧ ((me (vf f)).vec.mask 1).getLsbD 4 = true ∧
      ((me (vf f)).vec.mask 1).getLsbD 5 = false ∧ ((me (vf f)).vec.reg 1).tag = f ∧ ((me (vf f)).vec.reg 4).tag ≠ Fm.a40 := by decide +kernel

/-- VectorFloat, Select: three sources of a float format. -/
theorem witness_vector_floats : ∀ f ∈ [Fm.fp16, Fm.fp32],
    let w := vword 5 1 2 3 1 f
    let x := me (vf f)
    Acts (vf f) x ∧ fmtIsFloat w.fmt = true ∧ Sourced x w.a w.fmt ∧ Sourced x w.b w.fmt ∧ Sourced x w.c w.fmt ∧ fmtIsBlock w.fmt = false := by
  decide +kernel

/-- VectorInteger: sources of an integer format, a shift by a register and by the word. -/
theorem witness_vector_integers : ∀ f ∈ [Fm.s8, Fm.z64], ∀ flg ∈ [0, 1],
    let w := vword 5 1 2 63 1 f 0 flg
    let x := me (vf f)
    Acts (vf f) x ∧ fmtIsInt w.fmt = true ∧ Sourced x w.a w.fmt ∧ Sourced x w.b w.fmt := by decide +kernel

/-- VectorMasks, Select: sources of IDX16, a mask with a one at place 0 and one without ones, a NONE format and a block format. -/
theorem witness_vector_masks :
    let x := me (vf Fm.idx16)
    let w := vword 3 1 2 0 1 Fm.idx16
    Sourced x w.a w.fmt ∧ Sourced x w.b w.fmt ∧ (x.vec.mask 1).getLsbD 0 = true ∧ x.vec.mask 9 = 0 ∧ (vword 3 1 2 0 1 Fm.none).fmt = Fm.none ∧
      fmtIsBlock Fm.kb8 = true := by decide +kernel

/-- VectorConversionsAndReductions: a conversion into the upper half of a wider count, one out of the last quarter, one into blocks; the
numbers of a row's elements; a whole register as one segment and segments of one. -/
theorem witness_conversions :
    (let x := me (vf Fm.fp32)
     let a := x.vec.reg 1
     a.tag ≠ Fm.none ∧ a.bad = [] ∧ vcvtTarget Fm.fp16 = true ∧ fmtElems a.tag ≤ fmtElems Fm.fp16 ∧
       fmtElems Fm.fp16 % fmtElems a.tag = 0 ∧ 1 < fmtElems Fm.fp16 / fmtElems a.tag ∧
       fmtIsFloat a.tag = true ∧ fmtIsBlock Fm.mxfp8e4 = true ∧ fmtElems Fm.mxfp8e4 % fmtElems a.tag = 0 ∧
       3 < fmtElems Fm.mxfp8e4 / fmtElems a.tag ∧ vcvtTarget Fm.idx16 = true) ∧
    (let a := (me (vf Fm.s8)).vec.reg 1
     a.tag ≠ Fm.none ∧ fmtElems Fm.fp32 < fmtElems a.tag ∧ fmtElems a.tag % fmtElems Fm.fp32 = 0 ∧ 3 < fmtElems a.tag / fmtElems Fm.fp32) ∧
    (let s := withVec (fun v => { v with b := [(0, boxAt 0 Fm.z8 0 0 4096 1)] }) (vf Fm.z32)
     let x := me s
     let w := vword 5 0 1 3 1 Fm.z32
     let g (i : Nat) : List Int := val [] (s.shardGlobal x.own (x.vec.box w.a.toNat) (splitIndex (x.vec.box w.a.toNat) ((x.vec.scalar w.b.toNat).toNat + i)))
     Acts s x ∧ w.fmt = Fm.z32 ∧ good (useHandle (x.vec.box w.a.toNat)) = true ∧
       ∀ i < fmtElems w.fmt, x.vec.active w.k i = true →
         good (s.shardGlobal x.own (x.vec.box w.a.toNat) (splitIndex (x.vec.box w.a.toNat) ((x.vec.scalar w.b.toNat).toNat + i))) = true ∧
           coordsFit (g i) = true) ∧
    (∀ f ∈ [Fm.fp32, Fm.s8], ∀ c ∈ [0, 12], let w := vword 5 1 0 c 1 f 0 2
      Acts (vf f) (me (vf f)) ∧ Sourced (me (vf f)) w.a w.fmt ∧ (fmtIsFloat w.fmt = true ∨ fmtIsInt w.fmt = true) ∧ w.flg.getLsbD 0 = false ∧
        0 < fmtElems w.fmt / min (2 ^ w.c.toNat) (fmtElems w.fmt)) := by decide +kernel

/-- VectorMoves: an index list that names the last element, a slide by the whole register, the last element that vbcastel can take, and the
two partition formats. -/
theorem witness_moves :
    (let x := me (vf Fm.z64)
     let w := vword 5 1 7 2 1 Fm.z64
     Acts (vf Fm.z64) x ∧ fmtIsBlock w.fmt = false ∧ fmtElems w.fmt = 256 ∧ Sourced x w.a w.fmt ∧
       (∀ j < listRegs w.fmt, (x.vec.reg (w.b.toNat + j)).tag = Fm.idx16 ∧ (x.vec.reg (w.b.toNat + j)).bad = []) ∧
       (∀ i < 256, (x.vec.reg (w.b.toNat + i / 1024)).elem 16 (i % 1024) < 256) ∧ (x.vec.scalar w.c.toNat).toNat = 256 ∧
       Sourced x 2 w.fmt ∧ fmtIsInt Fm.z64 = true) ∧
    (let x := me (withVec (fun v => { v with a := [(1, 254)] }) (vf Fm.z64))
     ∀ i < 256, x.vec.active 1 i = true → (x.vec.scalar 1).toNat + i / 2 ^ (2 : BitVec 9).toNat < 256) ∧
    (∀ f ∈ [Fm.z8, Fm.idx16], partFormat f = true ∧ Sourced (me (vf f)) 1 f ∧ fmtIsBlock f = false) := by decide +kernel

/-- A vector stream with a box, a base in a1 and the mask k1 of the elements 0 to 4; a form that reads box 0 at base a1. -/
def boxed64 (h : Handle) (base : Nat) (s : State) : State := withVec (fun v => { v with b := [(0, h)], a := [(1, BitVec.ofNat 64 base)] }) s
def memWord (d c : Nat) (f : Fmt) : VWord := { vword d 1 0 c 1 f with cls := 2 }

/-- VectorLoadsAndStores: five elements of which the last is outside the box. -/
theorem witness_vector_outside :
    let s := boxed64 (boxAt 1 Fm.z32 1 0 64 4) 252 (vf Fm.z32)
    let x := me s
    let w := memWord 3 7 Fm.z32
    readOnly (memBox x w) = false ∧ Sourced x w.d w.fmt ∧ Handle.count (memBox x w) ≤ memBase x w + 4 ∧ 4 < fmtElems w.fmt ∧ x.vec.active w.k 4 = true := by decide +kernel

/-- VectorLoadsAndStores: five elements up to the last of the box. -/
theorem witness_vector_memory :
    let s := boxed64 (boxAt 1 Fm.z32 1 0 64 4) 251 (vf Fm.z32)
    let x := me s
    let w := memWord 3 7 Fm.z32
    let h := memBox x w
    Acts s x ∧ fmtIsBlock w.fmt = false ∧ w.fmt ≠ Fm.none ∧ w.fmt = Handle.fmt h ∧ good (useHandle h) = true ∧ good (s.regionOf x.own h) = true ∧
      readOnly h = false ∧ Sourced x w.d w.fmt := by decide +kernel
theorem witness_vector_elements :
    let s := boxed64 (boxAt 1 Fm.z32 1 0 64 4) 251 (vf Fm.z32)
    let x := me s
    let w := memWord 3 7 Fm.z32
    let g := val (region 0 0 0 0 0 0) (s.regionOf x.own (memBox x w))
    ∀ i < 512, x.vec.active w.k i = true → memBase x w + i < Handle.count (memBox x w) ∧
      (let p := regionCoord (memBox x w) (splitIndex (memBox x w) (memBase x w + i))
       good (s.elemCells x.own g p wantsRead) = true ∧ good (s.writeElem x.own g p (lane x w w.d i)) = true) := by decide +kernel

/-- A load of two elements into v3 in flight, behind a store. -/
def loading : VecLoad := { reg := 3, fmt := Fm.z32, els := [(0, [0x1000, 0x1001, 0x1002, 0x1003], 0), (4, [0x1004, 0x1005, 0x1006, 0x1007], 0)], hdrs := [] }
def vecLoad (l : VecLoad) : Access := { aLoad with stream := .vector, load := some ⟨0, false, some l, 0⟩, cells := l.cells }

/-- A load from a box and a sum that wait in their queues. -/
def ahead (behind : Nat) : List Queued :=
  [{ word := 0x5800004000000240, pc := 0x1F8, opened := false, behind := behind }]
/-- VectorLoadsAndStores: a load in flight whose data returns; instructions that may issue beside it or before a waiting one, and four that may
not. -/
theorem witness_vector_return :
    (let s := { inFlight [aStore, vecLoad loading] (vf Fm.z32) with mem := [(0x1004, 9)] }
     let x := me s
     s.task? 0 = some x ∧ x.pend[1]? = some (vecLoad loading) ∧ (vecLoad loading).vectorLoad = some loading ∧ fmtIsBlock loading.fmt = false ∧
       (∀ b ∈ loading.cells, s.isBad b = false) ∧ (loading.els.map (fun e => e.1)).Pairwise (fun d e => d < e) ∧
       (∀ e ∈ loading.els, e.1 < fmtElems loading.fmt) ∧ ((s.loadedVector x loading).reg 3).elem 32 4 = 9 ∧
       ((s.loadedVector x loading).reg 3).elem 32 1 = (x.vec.reg 3).elem 32 1) ∧
    (let x := withVec (fun v => { v with slip := 2 }) (inFlight [vecLoad loading] (vf Fm.z32))
     (me x).mayIssue (.vadd (vword 5 1 2 0 1 Fm.z32)) = true ∧ (me x).mayIssue (.vadd (vword 5 1 3 0 1 Fm.z32)) = false ∧
       (let y (n : Nat) : Task := { me x with vec := { (me x).vec with queued := ahead n } }
        (y 1).mayIssue (.vadd (vword 5 1 2 0 1 Fm.z32)) = true ∧ (y 2).mayIssue (.vadd (vword 5 1 2 0 1 Fm.z32)) = false ∧
          (y 0).mayIssue (.vadd (vword 0 1 2 0 1 Fm.z32)) = false ∧ (y 0).mayIssue (.vsig (vword 0 1 0 7 0 Fm.none)) = false)) := by decide +kernel

/-- VectorLoadsAndStores: an index list with an element of the box and one past it. -/
theorem witness_index_list :
    let s := boxed64 (boxAt 1 Fm.z32 1 0 64 4) 1 (vf Fm.z32)
    let x := me s
    let w := memWord 3 7 Fm.z32
    let list (i : Nat) : Nat := (x.vec.reg (w.c.toNat + i / 1024)).elem 16 (i % 1024)
    fmtIsScalar w.fmt = true ∧ (∀ j < listRegs w.fmt, (x.vec.reg (w.c.toNat + j)).tag = Fm.idx16 ∧ (x.vec.reg (w.c.toNat + j)).bad = []) ∧
      Handle.count (memBox x w) = memBase x w + list 0 ∧ memBase x w + list 1 < Handle.count (memBox x w) ∧ x.vec.active w.k 0 = true := by decide +kernel

/-- A region of KB8 blocks in the level-1 memory of cluster 0, and a stream over it. -/
def blocks : State :=
  let g : Region := { region 1 0x100 Fm.kb8 0 1024 1 with layout := 4, stride := [0, 4096, 0, 0], launch := some 0 }
  boxed64 (mkHandle 3 0 1 0 Fm.kb8 4 9 (fun _ => 0) (fun d => if d = 0 then 512 else 1)) 32
    { vf Fm.kb8 with clusters := [(0, { Cluster.reset with cpart := 0, regions := [(9, g)] })] }

/-- VectorLoadsAndStores: one block of KB8 from element 32 on. -/
theorem witness_block_memory :
    let s := withVec (fun v => { v with k := [(1, lowMask 1)] }) blocks
    let x := me s
    let w := memWord 3 0 Fm.kb8
    let g := val (region 0 0 0 0 0 0) (s.regionOf x.own (memBox x w))
    let l := (x.vec.accessed w.k w.fmt).map (fun i => (i, regionCoord (memBox x w) (splitIndex (memBox x w) (memBase x w + i))))
    Acts s x ∧ w.fmt = Handle.fmt (memBox x w) ∧ fmtIsBlock w.fmt = true ∧ good (useHandle (memBox x w)) = true ∧
      good (s.regionOf x.own (memBox x w)) = true ∧ memBase x w % fmtBlock w.fmt = 0 ∧ x.vec.accessed w.k w.fmt = List.range 16 ∧
      (∀ i ∈ x.vec.accessed w.k w.fmt, memBase x w + i < Handle.count (memBox x w)) ∧ good (s.vectorRead x w g l) = true ∧
      readOnly (memBox x w) = false ∧ (x.vec.reg w.d.toNat).tag = w.fmt ∧ good (s.vectorWrite x w g l) = true := by decide +kernel

def tileOf (st : TileSt) (tag : Fmt) (quarter : Bool) : Tile :=
  { Tile.empty with st := st, tag := tag, quarter := quarter, claimed := true, e0 := 64, e1 := 128, e2 := 1, e3 := 1 }
def accState (f : Fmt) (t : Tile) (row : Nat) : State :=
  withTask (fun x => { x with tiles := [(33, t)], vec := { x.vec with a := [(1, BitVec.ofNat 64 row)] } }) (vf f)

/-- AccumulatorForms: the last rows of a Ready tile, and tiles in the state that each form does not wait for and in one that it does. -/
theorem witness_accumulators :
    (∀ p ∈ [(Fm.fp32, tileOf .ready Fm.a40 false, 120, 0, true), (Fm.s8, tileOf .ready Fm.i40 true, 96, 3, true),
        (Fm.i40, tileOf .ready Fm.i40 false, 120, 2, true), (Fm.fp32, tileOf .draining Fm.a40 false, 0, 0, false)],
      let s := accState p.1 p.2.1 p.2.2.1
      let x := me s
      let w := vword 5 33 1 0 1 p.1 0 p.2.2.2.1
      let t := x.tile w.a.toNat
      Acts s x ∧ w.fmt ≠ Fm.none ∧ fmtIsBlock w.fmt = false ∧ (x.vec.scalar w.b.toNat).toNat + fmtElems w.fmt / 64 ≤ 128 ∧
        (w.flg.getLsbD 0 = true → fmtIsInt w.fmt = true) ∧ (t.st = .ready ↔ p.2.2.2.2 = true) ∧ t.readers = 0 ∧
        (w.fmt = Fm.i40 → t.tag = w.fmt ∧ t.quarter = false)) ∧
    (∀ p ∈ [(Fm.fp32, tileOf .ready Fm.a40 false, 2, Fm.a40), (Fm.s8, tileOf .empty Fm.none true, 1, Fm.i40), (Fm.a40, tileOf .empty Fm.none true, 3, Fm.a40),
        (Fm.s8, tileOf .ready Fm.i40 true, 0, Fm.i40), (Fm.s8, tileOf .ready Fm.i40 true, 1, Fm.i40)],
      let s := accState p.1 p.2.1 96
      let x := me s
      let w := vword 33 1 1 0 1 Fm.none 0 p.2.2.1
      let u := x.tile w.d.toNat
      Acts s x ∧ w.fmt = Fm.none ∧ accTagOf (x.vec.reg w.a.toNat).tag = some p.2.2.2 ∧ (x.vec.reg w.a.toNat).bad = [] ∧
        (x.vec.scalar w.b.toNat).toNat + fmtElems (x.vec.reg w.a.toNat).tag / 64 ≤ 128 ∧
        (u.st = (if w.flg.getLsbD 0 then .empty else .ready) ↔ ¬ (p.2.1.st = .ready ∧ p.2.2.1 = 1)) ∧ u.readers = 0 ∧
        (w.flg.getLsbD 0 = false → u.tag = p.2.2.2)) ∧
    (∀ st ∈ [TileSt.empty, TileSt.ready], let s := accState Fm.s8 (tileOf st Fm.none false) 0
      Acts s (me s) ∧ ((me s).tile 33).st = st ∧ ((me s).tile 33).readers = 0) := by decide +kernel

/-- VectorControlAndLoops: nothing in flight and a store in flight; queues that are empty, that hold a word and that are full; a semaphore and
the counts that the waits compare. -/
theorem witness_vector_control :
    (let s := withTask (fun x => { x with sems := [(3, 5)], mat := { x.mat with done := 4, issued := 6 }, cpy := { x.cpy with done := 9 },
                                          vec := { x.vec with cq := [9, 5], a := [(1, 5), (2, 6)] } }) (vf Fm.fp32)
     let x := me s
     Acts s x ∧ x.pend = [] ∧ x.vec.vq.length < 64 ∧ x.vec.cq = [9, 5] ∧ (x.vec.scalar 1).toNat % 2 ^ 32 ≤ (x.sem 3).toNat ∧
       x.semInOrder s.cycle 2 3 = true ∧ (x.noteSem s.cycle 3 3).semInOrder s.cycle 2 3 = false ∧
       ¬ (x.vec.scalar 2).toNat % 2 ^ 32 ≤ (x.sem 3).toNat ∧ x.mat.done = 4 ∧ x.cpy.done = 9) ∧
    (let s := withTask (fun x => { x with pend := [aVstore], vec := { x.vec with cq := [], vq := List.replicate 64 3 } }) (vf Fm.fp32)
     let x := me s
     Acts s x ∧ ¬ (∀ a ∈ x.pend, a.stream ≠ .vector) ∧ x.vec.vq.length = 64 ∧ x.vec.cq = [] ∧
       (∀ a ∈ x.pend, a.stream = .vector → ((0 : BitVec 9) ++ (0x004 : BitVec 9).extractLsb' 2 7).getLsbD a.cls.toNat = false)) := by decide +kernel

def looping (ls : List VLoop) (count : Nat) : State :=
  words 0x218 [0x71 * 2 ^ 56] (withVec (fun v => { v with loops := ls, a := [(1, BitVec.ofNat 64 count)] }) (vf Fm.fp32))

/-- VectorControlAndLoops: loops that are entered and skipped, inside none, three and four others; the ends of a pass, of a loop and of no
loop. -/
theorem witness_vector_loops :
    (∀ p ∈ [(0, 0, 5), (3, 3, 0), (4, 0, 5), (0, 1, 9)],
      let s := looping (List.replicate p.1 ⟨0, 0x300, 1, 1, none⟩) p.2.2
      let v := (me s).vec
      let w := vword 5 1 3 2 0 Fm.none 0 p.2.1
      let stop := v.pc + 8 * w.b.toNat
      Acts s (me s) ∧ w.fmt = Fm.none ∧ good (s.codeNat (me s).own stop 8) = true ∧ val 0 (s.codeNat (me s).own stop 8) = 0x71 * 2 ^ 56 ∧ vloopFits stop v.loops = true ∧ v.loops.length = p.1 ∧
        (w.flg.getLsbD 0 = true → w.c.toNat = 2) ∧ (w.flg.getLsbD 0 = false → (v.scalar w.a.toNat).toNat = p.2.2)) ∧
    (∀ e ∈ [⟨0x100, 0x200, 0, 3, some 4⟩, ⟨0x100, 0x200, 2, 3, none⟩, (⟨0x100, 0x200, 2, 3, some 4⟩ : VLoop)],
      (me (looping [e] 0)).vec.loops = [e] ∧ e.stop = (me (looping [e] 0)).vec.pc) ∧
    (me (looping [⟨0x100, 0x208, 2, 3, none⟩] 0)).vec.loops = [⟨0x100, 0x208, 2, 3, none⟩] ∧
    0x208 ≠ (me (looping [⟨0x100, 0x208, 2, 3, none⟩] 0)).vec.pc := by decide +kernel
/-! ### Witnesses: engine records -/

def rec0 : RecWord :=
  { prof := 0, shape := 2, wsem := 0, ssem := 0, wthr := 0, shp := false, rel := false, clr := false, wrap := false, scope := 0, sig := false,
    kflags := 0, l1 := 2 ^ 48, l2 := 2 ^ 48, l3 := 2 ^ 48, l4 := 2 ^ 48, o0 := 0, o1 := 0, o2 := 0, o3 := 0, w7 := 0 }
def tileRef (i : Nat) : BitVec 32 := BitVec.ofNat 32 (2 ^ 30 + i * 2 ^ 24)
def boxRef (i : Nat) : BitVec 32 := BitVec.ofNat 32 (2 ^ 31 + i * 2 ^ 24)
def boxed2 : RecWord := { rec0 with o0 := boxRef 3, o1 := boxRef 4 }

/-- A record of one pass that has started, with its handles. -/
def started (hs : SMap Handle) : QRec :=
  { num := 1, off := none, w := 0, hs := hs, cfg := [], n5 := Nest.one, n6 := Nest.one, progEnd := true, xq := true, started := true,
    trips := [1, 1, 1, 1, 1, 1], pass := 0, cursor := 0, named := [], opened := false, moved := [] }
/-- The task with tiles, whose engine works on a record; the scratchpad buffer 41 is declared. -/
def engine (e : Engine) (q : QRec) (tiles : SMap Tile) (s : State) : State :=
  withTask (fun x => { x.setEng e { x.eng e with queue := [q], issued := 1 } with tiles := tiles, r := { x.r with sbufs := [(41, 65536)] } }) s
def tileFull (f : Fmt) (e0 e1 : Nat) : Tile := { Tile.empty with st := .ready, tag := f, claimed := true, e0 := e0, e1 := e1, e2 := 1, e3 := 1 }
def tileEmpty : Tile := { Tile.empty with claimed := true }
def noData : Data := { tag := 0, ext := [], vals := [], hdrs := [] }
def noWindow : Region × Handle := (region 0 0 0 0 0 0, 0)

/-- RecordLoops: three levels at their last pass. -/
theorem witness_record_loops : (∀ t ∈ [2, 3, 4], 0 < t) ∧ 23 < [2, 3, 4].prod := by decide +kernel

/-- MatrixPass: an integer and a float product that fill their tile and that update it, with B by columns and by rows, and tiles that stall
each of the three operands. -/
theorem witness_matrix_pass :
    (∀ p ∈ [(tileFull Fm.s8 128 32, tileFull Fm.s8 64 128, tileEmpty, 3, 2, true, 0), (tileFull Fm.fp16 64 32, tileFull Fm.fp16 64 64, tileFull Fm.a40 64 128, 2, 2, false, 1)],
      let s := engine .matrix (started []) [(1, p.1), (2, p.2.1), (33, p.2.2.1)] s0
      let x := me s
      let q := started []
      let r : RecWord := { rec0 with prof := BitVec.ofNat 4 p.2.2.2.1, clr := p.2.2.2.2.2.1, kflags := BitVec.ofNat 8 p.2.2.2.2.2.2,
                                     o0 := tileRef 1, o1 := tileRef 2, o2 := tileRef 33 }
      Works s x .matrix 0 q ∧ val 9 (q.tileId x r 0 q.pass) = 1 ∧ val 9 (q.tileId x r 1 q.pass) = 2 ∧ val 9 (q.tileId x r 2 q.pass) = 33 ∧
        (x.tile 1).st = .ready ∧ (x.tile 2).st = .ready ∧ (x.tile 33).st = (if p.2.2.2.2.2.1 then .empty else .ready) ∧
        s.profileOf x r = p.2.2.2.1) ∧
    matPair Fm.s8 Fm.s8 = some (128, .int) ∧ matPair Fm.fp16 Fm.fp16 = some (64, .float) ∧ shapeRows 2 = 32 ∧
    (tileFull Fm.a40 64 128).quarter = false ∧ fmtKind Fm.s8 ≠ .hs := by decide +kernel
theorem witness_matrix_stall : ∀ p ∈ [(1, tileEmpty), (2, { tileFull Fm.s8 64 128 with readers := 1 }), (33, tileFull Fm.i40 64 128)],
    let s := engine .matrix (started []) [p, (1, tileFull Fm.s8 128 32), (2, tileFull Fm.s8 64 128), (33, tileEmpty)] s0
    let x := me s
    Works s x .matrix 0 (started []) ∧ ((x.tile 1).st ≠ .ready ∨ (x.tile 2).readers ≠ 0 ∨ (x.tile 33).st ≠ .empty) := by decide +kernel

/-- The handles of windows of a source and a destination. -/
def pairs : SMap Handle := [(3, boxAt 1 Fm.z32 1 0 4 2), (4, boxAt 1 Fm.z32 1 32 4 4)]
def copying (q : QRec) (tiles : SMap Tile) : State := engine .copy q tiles s0

/-- CopyPasses: a window of a box that copy, copyl, perm and trans move to a window of the other box. -/
theorem witness_copy_boxes :
    let q := started pairs
    let s := copying q []
    let x := me s
    let w := q.sourceExt boxed2
    let a := val noWindow (s.boxWindow x q boxed2 0 0 w)
    let b := val noWindow (s.boxWindow x q boxed2 1 0 w)
    let d := val noData (s.readWindow x a.1 a.2)
    Works s x .copy 0 q ∧ isBox boxed2 0 = true ∧ isBox boxed2 1 = true ∧ good (s.boxWindow x q boxed2 0 0 w) = true ∧
      good (s.readWindow x a.1 a.2) = true ∧ good (s.boxWindow x q boxed2 1 0 w) = true ∧ good (s.writeWindow x b.1 b.2 d.vals d.hdrs) = true ∧
      good (s.writeWindow x b.1 b.2 (convertAll b.1.fmt false d.values).1 []) = true := by decide +kernel
theorem witness_permute :
    let q := started pairs
    let s := copying q []
    let x := me s
    let w := q.sourceExt boxed2
    let r : RecWord := { boxed2 with w7 := 1 + 2 ^ 4 * 2 + 2 ^ 6 * 3 }
    let t : RecWord := { boxed2 with w7 := 2 ^ 2 }
    let b := val noWindow (s.boxWindow x q r 1 0 (fun k => w (w7 r (2 * k) 2)))
    (∀ k < 4, w7 r (2 * k) 2 = if k = w7 t 0 2 then w7 t 2 2 else if k = w7 t 2 2 then w7 t 0 2 else k) ∧
      good (s.boxWindow x q r 1 0 (fun k => w (w7 r (2 * k) 2))) = true ∧
      good (s.writeWindow x b.1 b.2 (permuteList w (fun k => w7 r (2 * k) 2) (List.replicate 8 5)) []) = true := by decide +kernel

/-- CopyPasses: a tile that a box fills, and one that is not Empty. -/
theorem witness_copy_fill : ∀ t ∈ [tileEmpty, tileFull Fm.z32 4 2],
    let q := started pairs
    let s := copying q [(1, t)]
    let x := me s
    let r : RecWord := { boxed2 with o1 := tileRef 1 }
    Works s x .copy 0 q ∧ isBox r 0 = true ∧ isBox r 1 = false ∧ val 9 (q.tileId x r 1 0) = 1 ∧ ((x.tile 1).st = .empty ↔ t = tileEmpty) ∧
      (x.tile 1).readers = 0 ∧ good (x.fillFits 1 Fm.z32 (fun k => nth [4, 2, 1, 1] k 1)) = true := by decide +kernel

/-- CopyPasses: a tile that drains into a box, and one that is not Ready. -/
theorem witness_copy_drain : ∀ t ∈ [tileFull Fm.z32 4 2, tileEmpty],
    let q := started pairs
    let s := copying q [(1, t)]
    let x := me s
    let r : RecWord := { boxed2 with o0 := tileRef 1, rel := true }
    let d := x.tileData 1
    let e (k : Nat) : Nat := q.extent (fun j => nth d.ext j 1) k
    let b := val noWindow (s.boxWindow x q r 1 0 e)
    let p := val noData (d.part e)
    let v := val ([], []) (x.fromTile 1 Fm.z32 false p)
    Works s x .copy 0 q ∧ isBox r 0 = false ∧ val 9 (q.tileId x r 0 0) = 1 ∧ ((x.tile 1).st = .ready ↔ t ≠ tileEmpty) ∧ (x.tile 1).readers = 0 ∧
      (t ≠ tileEmpty → good (s.boxWindow x q r 1 0 e) = true ∧ b.1.fmt = Fm.z32 ∧ good (d.part e) = true ∧
        good (x.fromTile 1 Fm.z32 false p) = true ∧ good (s.writeWindow x b.1 b.2 v.1 v.2) = true) := by decide +kernel

/-- CopyPasses: a pattern over the whole of a box, over a tile that ECFG sizes, and a tile that is not Empty. -/
theorem witness_fill :
    (let q := started pairs
     let s := copying q []
     let x := me s
     let e := q.fillExt x boxed2 0
     let b := val noWindow (s.boxWindow x q boxed2 1 0 e)
     Works s x .copy 0 q ∧ good (s.boxWindow x q boxed2 1 0 e) = true ∧ e 0 * e 1 * e 2 * e 3 = 16 ∧
       good (s.writeWindow x b.1 b.2 (List.replicate 16 7) []) = true) ∧
    (∀ t ∈ [tileEmpty, tileFull Fm.fp32 2 1],
      let q := { started [] with cfg := [(8, 16), (9, 1), (10, 1), (11, 1)] }
      let s := copying q [(1, t)]
      let x := me s
      let r : RecWord := { rec0 with o1 := tileRef 1, w7 := 9 }
      Works s x .copy 0 q ∧ isBox r 1 = false ∧ val 9 (q.tileId x r 1 0) = 1 ∧ ((x.tile 1).st = .empty ↔ t = tileEmpty) ∧ (x.tile 1).readers = 0 ∧
        good (x.fillFits 1 Fm.fp32 (q.fillExt x r 0)) = true) := by decide +kernel

/-- CopyPasses: a list of two blocks of 2 by 1, gathered and scattered. -/
theorem witness_block_lists : ∀ gather ∈ [true, false],
    let q := { started pairs with named := [1, 0, 0, 1] }
    let s := copying q []
    let x := me s
    let r : RecWord := { boxed2 with w7 := 2 + 2 ^ 16 }
    let bs := val [] (s.allBlocks x q r gather q.named)
    let ds := val [] (bs.mapM (fun b => s.readWindow x b.1.1 b.1.2))
    Works s x .copy 0 q ∧ good (s.allBlocks x q r gather q.named) = true ∧ bs.length = 2 ∧ good (bs.mapM (fun b => s.readWindow x b.1.1 b.1.2)) = true ∧
      good ((bs.zip ds).mapM (fun p => s.writeWindow x p.1.2.1 p.1.2.2 p.2.vals p.2.hdrs)) = true := by decide +kernel

/-- CopyPasses: both entries of a shape of two, and the digest of two boxes. -/
theorem witness_shape_fetch :
    let q := started [(4, boxAt 5 Fm.z32 0 0 16 1)]
    let s := words 0x9010 [0x9100, 1] (copying q [])
    let x := me s
    let r : RecWord := { rec0 with o1 := boxRef 4, w7 := 2 ^ 16 + 2 ^ 48 }
    let w := s.window2 x (q.handle r 1) (fun _ => 0) (fun d => if d = 0 then 2 else 1)
    Works s x .copy 0 q ∧ good (s.checkShpf x q r) = true ∧ (val [] (s.checkShpf x q r)).length = 2 ∧ good w = true ∧
      good (s.writeWindow x (val noWindow w).1 (val noWindow w).2 [3, 4] []) = true := by decide +kernel
theorem witness_digest :
    let q := started [(3, boxAt 0 Fm.z8 0 0 4 1), (4, boxAt 0 Fm.z8 0 64 48 1)]
    let s := copying q []
    let x := me s
    let r : RecWord := { rec0 with o0 := boxRef 3, o2 := boxRef 3, o3 := boxRef 4 }
    let g := val (region 0 0 0 0 0 0) (s.regionOf x.own (q.handle r 0))
    let w := s.window2 x (q.handle r 3) (fun _ => 0) (fun d => if d = 0 then 48 else 1)
    Works s x .copy 0 q ∧ [0, 1, 2].filter (isBox r) = [0, 2] ∧ good (s.regionOf x.own (q.handle r 0)) = true ∧
      good (s.readWindow x g (q.handle r 0)) = true ∧ good w = true ∧
      good (s.writeWindow x (val noWindow w).1 (val noWindow w).2 (List.replicate 48 1) []) = true := by decide +kernel

def codebook (ty busy : Nat) (bytes : List Byte) : Codebook := { ty := ty, gen := 3, busy := busy, fmt := Fm.z8, elems := 2, bytes := bytes, bad := false }
/-- Two symbols with codes of one bit. -/
def twoSymbols : List Byte := 0x11 :: List.replicate 127 0
def decoding (q : QRec) (tiles : SMap Tile) (cbs : SMap Codebook) (s : State) : State :=
  withTask (fun x => { x with cbs := cbs }) (engine .copy q tiles s)

/-- DecodeRecords: a prefix table for a codebook slot that is free, and for one in use. -/
theorem witness_codebook_load : ∀ busy ∈ [0, 1],
    let q := started [(3, boxAt 0 Fm.z8 0 0 128 1)]
    let s := decoding q [] [(5, codebook 1 busy twoSymbols)] (words 0x4000 [0x11] s0)
    let x := me s
    let r : RecWord := { rec0 with o0 := boxRef 3, w7 := 5 + 2 ^ 4 * 3 + 2 ^ 8 }
    Works s x .copy 0 q ∧ ((x.codebook (w7 r 0 3)).busy = 0 ↔ busy = 0) ∧ w7 r 8 2 = 1 ∧
      val [] (s.recordBytes x (q.handle r 0) 0 (Handle.ext (q.handle r 0) 0)) = twoSymbols ∧
      good (s.recordBytes x (q.handle r 0) 0 (Handle.ext (q.handle r 0) 0)) = true ∧ lengthsOk (prefixLengths twoSymbols) = true := by decide +kernel

/-- An entropy block of 64 bytes: raw with zeros, or eight bytes of one-bit codes; its check, and one that is wrong. -/
def entropyBlock (raw : Bool) (wrong : Nat) (s : State) : State :=
  let c := (crc32c (List.replicate 64 0)).toNat
  words 0x4000 [64 + 2 ^ 16 * (if raw then 64 else 8) + 2 ^ 32 * (c ^^^ wrong), if raw then 1 else 0] s
def decodes (raw : Bool) (wrong : Nat) : State :=
  decoding (started [(3, boxAt 0 Fm.z8 0 0 128 1)]) [(1, tileEmpty)] [(0, codebook 1 0 twoSymbols), (1, codebook 2 0 [1, 2, 3, 4])] (entropyBlock raw wrong s0)
def edec0 (vq : Bool) : RecWord :=
  { rec0 with o0 := boxRef 3, o1 := tileRef 1, kflags := if vq then 1 else 0, w7 := BitVec.ofNat 64 (2 ^ 4 * 3 + 2 ^ 8 + 2 ^ 12 * 3 + 2 ^ 21 * 5 + 2 ^ 32 * 64) }

/-- DecodeRecords: blocks raw and coded, as bytes and expanded, with the right check and with a wrong one. -/
theorem witness_entropy_block : ∀ raw ∈ [true, false], ∀ wrong ∈ [0, 1],
    let s := decodes raw wrong
    let x := me s
    let q := started [(3, boxAt 0 Fm.z8 0 0 128 1)]
    let r := edec0 false
    let hdr := val [] (s.recordBytes x (q.handle r 0) 0 16)
    let sum := (crc32c (List.replicate 64 0)).toNat ^^^ wrong
    let pay := val [1] (s.recordBytes x (q.handle r 0) 16 (if raw then 64 else 8))
    Works s x .copy 0 q ∧ good (s.recordBytes x (q.handle r 0) 0 16) = true ∧
      blockHeader (bytesToNat hdr) = some (64, if raw then 64 else 8, sum, raw) ∧
      good (s.recordBytes x (q.handle r 0) 16 (if raw then 64 else 8)) = true ∧ pay = List.replicate (if raw then 64 else 8) 0 ∧
      x.slotMatches (w7 r 0 3, 1, w7 r 4 4) = true ∧
      decodeSymbols (canonicalCode (prefixLengths twoSymbols)) 64 (bitsOf (List.replicate 8 0)) = some (List.replicate 64 0) ∧
      ((crc32c (List.replicate 64 0)).toNat = sum ↔ wrong = 0) := by decide +kernel
theorem witness_entropy_fill : ∀ vq ∈ [true, false],
    let s := decodes true 0
    let x := me s
    let q := started [(3, boxAt 0 Fm.z8 0 0 128 1)]
    let r := edec0 vq
    let vals := if vq then val [] ((x.codebook (w7 r 8 3)).expand (indicesOf false (List.replicate 64 0))) else List.replicate 64 0
    edecTag r = Fm.z8 ∧ (x.codebook (w7 r 8 3)).fmt = Fm.z8 ∧ good ((x.codebook (w7 r 8 3)).expand (indicesOf false (List.replicate 64 0))) = true ∧
      good (q.decodedTile x r (w7 r 16 5)) = true ∧ (x.codebook (w7 r 8 3)).bad = false ∧ (x.codebook (w7 r 0 3)).bad = false ∧
      good (s.fillDecoded x q r (val none (q.decodedTile x r (w7 r 16 5))) (w7 r 32 16) Fm.z8 vals) = true := by decide +kernel

/-- DecodeRecords: indices in a Ready tile and in a box, all within the codebook, and one past it. -/
theorem witness_expansion : ∀ p ∈ [([1, 2, 3, 4], true), ([1, 2], false)],
    let q := started [(3, boxAt 0 Fm.z8 0 0 4 1)]
    let t := { tileFull Fm.z8 4 1 with data := 0x01000100 }
    let s := decoding q [(1, t), (2, tileEmpty)] [(1, codebook 2 0 p.1)] (words 0x4000 [0x01000100] s0)
    let x := me s
    let r : RecWord := { rec0 with o0 := tileRef 1, o1 := tileRef 2, rel := true, w7 := BitVec.ofNat 64 (2 ^ 8 + 2 ^ 12 * 3 + 2 ^ 32 * 4) }
    let b : RecWord := { r with o0 := boxRef 3 }
    let d := x.tileData 1
    let a := val noWindow (s.boxWindow x q b 0 0 (Handle.ext (q.handle b 0)))
    let cb := x.codebook (w7 r 8 3)
    let indices := indicesOf false (d.vals.map (fun v => BitVec.ofNat 8 v))
    Works s x .copy 0 q ∧ isBox r 0 = false ∧ isBox b 0 = true ∧ val 9 (q.tileId x r 0 0) = 1 ∧ (x.tile 1).st = .ready ∧ (x.tile 1).readers = 0 ∧
      d.tag = Fm.z8 ∧ good (s.boxWindow x q b 0 0 (Handle.ext (q.handle b 0))) = true ∧ good (s.readWindow x a.1 a.2) = true ∧
      (good (cb.expand indices) = true ↔ p.2 = true) ∧
      good (q.decodedTile x r 0) = true ∧ cb.bad = false ∧ (x.tile 1).bad = [] ∧
      (p.2 = true → good (s.fillDecoded (x.drain 1) q r (val none (q.decodedTile x r 0)) (w7 r 32 16) cb.fmt (val [] (cb.expand indices))) = true) ∧
      (p.2 = false → indices = [0, 1, 0, 1] ∧ cb.bytes.length < entryBytes cb.fmt cb.elems * (1 + 1)) := by decide +kernel

/-- The state with routes to the other devices of the mesh, commit groups 0 and 1, and what peers have sent. -/
def meshed (q : QRec) (inbox : List PeerData) : State :=
  { copying q [] with
    routes := [(0, (List.range 4).map (fun d => (d, { valid := true, node := 0, primary := 2, alternate := 3 })))]
    groups := [(0, group .opened 0 false), (1, group .aborting 0 false)]
    inbox := inbox }

/-- RemoteRecords: a pass of rcp to this device, one that is sent, and one whose acknowledgement has come. -/
theorem witness_remote_copy : ∀ p ∈ [(0, 0), (3, 0), (3, 1)],
    let q := { started pairs with cursor := p.2 }
    let s := meshed q (if p.2 = 1 then [{ dev := 3, key := ackKey, params := 1, bytes := [] }] else [])
    let x := me s
    let r : RecWord := { boxed2 with w7 := BitVec.ofNat 64 p.1 }
    let w := q.sourceExt r
    let a := val noWindow (s.boxWindow x q r 0 0 w)
    Works s x .copy 0 q ∧ good (s.boxWindow x q r 0 0 w) = true ∧ good (s.readWindow x a.1 a.2) = true ∧ good (q.remoteWindow r 0) = true ∧
      (p.1 = 0 → good (s.regionOf x.own (val 0 (q.remoteWindow r 0))) = true ∧
        good (s.writeWindow x (val noWindow ((s.regionOf x.own (val 0 (q.remoteWindow r 0))).map (fun g => (g, val 0 (q.remoteWindow r 0))))).1
          (val 0 (q.remoteWindow r 0)) (val noData (s.readWindow x a.1 a.2)).vals []) = true) ∧
      (w7 r 0 16 = s.deviceOf x.r.launch ↔ p.1 = 0) ∧ (p.1 = 3 → s.routeUp (s.partOf x) (w7 r 0 16) = true) ∧
      (q.cursor ≤ q.pass ↔ p.2 = 0) ∧ (p.2 = 1 → (s.takePeer 3 ackKey (some (s.cur * 2 ^ 32 + q.num))).isSome = true) := by decide +kernel

/-- RemoteRecords: gcp into a group that is Open and one that is not. -/
theorem witness_group_copy : ∀ n ∈ [0, 1],
    let q := started pairs
    let s := meshed q []
    let x := me s
    let r : RecWord := { boxed2 with w7 := BitVec.ofNat 64 (3 + 2 ^ 16 * n) }
    Works s x .copy 0 q ∧ (s.ownGroup x (w7 r 16 6)).isSome = true ∧ s.withdrawals = [] ∧ ((s.cgroup n).st = .opened ↔ n = 0) := by decide +kernel

/-- RemoteRecords: a collective of four devices that sends, that lacks a source, and that has all four. -/
theorem witness_collective : ∀ p ∈ [(0, 0), (1, 3), (1, 4)],
    let q := { started pairs with cursor := p.1, named := [0] }
    let r := boxed2
    let w := q.sourceExt r
    let k := CollKind.allred
    let key (s : State) : Nat := collKey k r (nth q.named 0 0) q.pass (me s).r.wid (s.partOf (me s))
    let params := collParams Fm.z32 r w
    let s := meshed q ((List.range p.2).map (fun d => { dev := d, key := key (copying q []), params := params, bytes := List.replicate 32 0 }))
    let x := me s
    let devs := s.participants x r
    let b := val noWindow (s.boxWindow x q r 1 0 (k.destExt devs.length (collDim r) w))
    Works s x .copy 0 q ∧ good (s.boxWindow x q r 0 0 w) = true ∧ Handle.fmt (q.handle r 0) = Fm.z32 ∧ devs = [0, 1, 2, 3] ∧
      (∀ dev ∈ devs, dev ≠ s.deviceOf x.r.launch → s.routeUp (s.partOf x) dev = true) ∧ (q.cursor ≤ q.pass ↔ p.1 = 0) ∧
      (p.2 = 3 → ∀ m ∈ s.inbox, m.dev = 3 → m.key ≠ key s) ∧
      (p.2 = 4 → devs.map (fun dev => s.inbox.find? (fun m => m.dev == dev && m.key == key s)) = s.inbox.map some ∧ (∀ m ∈ s.inbox, m.params = params) ∧
        good (s.boxWindow x q r 1 0 (k.destExt devs.length (collDim r) w)) = true ∧
        good (s.writeWindow x b.1 b.2 (List.replicate 8 0) []) = true) := by decide +kernel

def frame0 (n : Nat) : EncFrame :=
  { task := 0, part := 0, r := rec0, h0 := boxAt 0 Fm.z8 0 0 8 1, h1 := boxAt 0 Fm.z8 0 0 64 1, h2 := boxAt 0 Fm.z8 0 0 8 1, g0 := region 0 0x4000 Fm.z8 0 4096 1,
    g1 := region 0 0x4000 Fm.z8 0 4096 1, g2 := region 0 0x4000 Fm.z8 0 4096 1, number := n, cls := 1, deadline := 0, running := false, stopped := false,
    picture := [], context := [], bad := false, spilled := false }

/-- RemoteRecords: a frame for an encoder that holds fifteen, and for one that holds sixteen. -/
theorem witness_encode : ∀ n ∈ [15, 16],
    let q := started [(3, boxAt 0 Fm.z8 0 0 8 1), (4, boxAt 0 Fm.z8 0 64 64 1), (5, boxAt 0 Fm.z8 0 128 8 1)]
    let s := { copying q [] with encoders := [(2, { Encoder.reset with frames := (List.range n).map frame0, issued := n })] }
    let x := me s
    let r : RecWord := { rec0 with o0 := boxRef 3, o1 := boxRef 4, o2 := boxRef 5, w7 := 2 }
    let e := dieOfTask x * 4 + w7 r 0 2
    let b := s.window2 x (q.handle r 1) (fun d => if d = 0 then 16 else 0) (fun d => if d = 0 then 8 else 1)
    Works s x .copy 0 q ∧ (∀ k ∈ [0, 1, 2], good (s.regionOf x.own (q.handle r k)) = true) ∧ e = 2 ∧ (s.encoder e).frames.length = n ∧ good b = true ∧
      good (s.writeWindow x (val noWindow b).1 (val noWindow b).2 (List.replicate 8 0) []) = true := by decide +kernel
/-! ### Witnesses: device steps -/

/-- MemoryEvents: a load whose data may return and a store that may perform, a byte of a core's scratchpad, a task that runs, a miss whose
walk succeeds with rights that fit and that do not, and one whose walk fails. -/
theorem witness_accesses_perform : ∀ a ∈ [aLoad, aStore], ∀ ecc ∈ [Ecc.clean, Ecc.uncorrectable],
    let s := withTask (fun x => { x with pend := [a] }) s0
    s.task? 0 = some (me s) ∧ (me s).pend[0]? = some a ∧ s.ready (me s) 0 a = true ∧ (a.load.isSome = true ∨ a.writes ≠ []) ∧
      (a.load.isSome = true → a.cells ≠ []) ∧ ((s.noteEcc ecc 0x50A1).task? 0).isSome = true := by decide +kernel
theorem witness_scrub : 2 ^ 46 ≤ scratchpad 7 ∧ scratchpad 7 < 2 ^ 48 ∧ 2 ^ 46 ≤ clusterMem 0 ∧ clusterMem 0 < 2 ^ 48 ∧ scratchOwner (clusterMem 0) = none ∧
    scratchOwner (scratchpad 7) = some 7 ∧ s0.poisonScratch 7 0 = none ∧ (s0.poisonScratch 0 (4096 * (me s0).r.fslot)).isSome = true ∧
    s0.scrubbed 0 0 = some (0, me s0) ∧ ((saved true).scrubbed 3 1).isSome = true := by decide +kernel
/-- MemoryEvents: a trap is compared before it is taken, and a word that is no instruction is not. -/
theorem witness_compares : ∀ p ∈ [(0xB0000001, true), (0, false)], let s := words 0 [p.1] s0
    controlRuns s (me s) = true ∧ s.compares (me s) = p.2 ∧ (me s).ctl.act = false ∧
      (let u := withCtl (fun c => { c with act := true, pl := 1 }) s
       controlRuns u (me u) = true ∧ (me u).ctl.act = true ∧ (p.2 = true → u.compares (me u) = true)) ∧
      controlRuns s { me s with st := .waiting } = false := by decide +kernel
/-- MemoryEvents: misses that are walked, with rights that fit and that do not and for a page that is not there, and one that waits behind 64
others. -/
theorem witness_walks : ∀ p ∈ [(31, wantsRead, 0, true), (23, wantsWrite, 0, false), (31, wantsBoth, 0x10000, false)],
    let m : Miss := ⟨0, .control, p.2.2.1, p.2.1⟩
    let s := { words 0xE000 [p.1] (tables s0) with tlb := [], misses := [m] }
    let v := s.startWalks 0 64
    let kept := (v.die 0).nonleaf
    s.task? 0 = some (me s) ∧ dieOfTask (me s) = 0 ∧ s.misses.find? (fun m => m.task == 0 && m.stream == .control) = some m ∧
      (0, m.va / 65536) ∈ (v.die 0).walks ∧ s.partOf (me s) = 0 ∧ v.walkable kept 0 m.va = true ∧
      (match v.walkBy kept 0 m.va m.wants with | .ok _ => p.2.2.2 | .error _ => !p.2.2.2) = true := by decide +kernel
theorem witness_walk_waits :
    let m (k : Nat) : Miss := ⟨0, .control, k * 65536, wantsRead⟩
    let s := { s0 with dies := [(0, { Die.reset with walks := (List.range 64).map (fun k => (0, k + 1)) })], misses := (List.range 65).map m }
    s.misses.find? (fun m => m.task == 0 && m.stream == .control) = some (m 0) ∧ (0, 0) ∉ ((s.startWalks 0 64).die 0).walks := by decide +kernel

/-- The words of a copy record between the boxes h3 and h4, with a threshold. -/
def copyWords (threshold : Nat) : Nat :=
  0x10 * 2 ^ 56 + 5 * 2 ^ 40 + threshold * 2 ^ 16 + (2 ^ 48) * 2 ^ 64 + (2 ^ 48) * 2 ^ 128 + (2 ^ 48) * 2 ^ 192 + (2 ^ 48) * 2 ^ 256 +
    (0x83 * 2 ^ 56 + 0x84 * 2 ^ 24) * 2 ^ 320
def toStart (w : Nat) : QRec := { started pairs with started := false, w := BitVec.ofNat 512 w }

/-- EngineEvents: a record that may start, one that waits for its semaphore, one whose words are no record. -/
theorem witness_record_start : ∀ p ∈ [(copyWords 0, true, true), (copyWords 7, false, true), (0x7F * 2 ^ 56, true, false)],
    let q := toStart p.1
    let s := copying q []
    let x := me s
    let w := val 0 (s.recordWords x q)
    s.task? 0 = some x ∧ streamRuns x .copy = true ∧ activeRecord .copy (x.eng .copy).queue = some (0, q) ∧ q.started = false ∧
      good (x.soundThreshold (recOf w) false) = true ∧
      good (s.recordWords x q) = true ∧ (w.extractLsb' 56 8).toNat ≠ 0x30 ∧ (x.thresholdMet (recOf w) = true ↔ p.2.1 = true) ∧
      (match decodeRecord w with
       | .ok i => p.2.2 && recEngine i == some Engine.copy && s.recordLegal x { q with w := w } i && !isHint i && (allSlots i).isEmpty && good (s.recordTrips x q (recOf w)) &&
           good (s.kindChecks x { q with w := w, trips := val [] (s.recordTrips x q (recOf w)) } i) &&
           ({ q with w := w, trips := val [] (s.recordTrips x q (recOf w)) } : QRec).buffersOk x i
       | .error _ => !p.2.2) = true := by decide +kernel

/-- EngineEvents: a record whose passes are done, and one that has a pass left. -/
theorem witness_record_complete : ∀ p ∈ [(1, true), (0, false)],
    let q := { started pairs with pass := p.1, w := BitVec.ofNat 512 (copyWords 0) }
    let s := copying q []
    let x := me s
    s.task? 0 = some x ∧ streamRuns x .copy = true ∧ (x.eng .copy).queue = [q] ∧ mayComplete x .copy = p.2 ∧
      x.signalInOrder .copy s.cycle = true ∧
      (let y := (me (copying { q with w := BitVec.ofNat 512 (copyWords 0 + 2 ^ 8) } [])).noteSem s.cycle 4 0
       y.signalInOrder .copy s.cycle = false) ∧
      (match decodeRecord q.w with | .ok i => !isEnc i | .error _ => false) = true := by decide +kernel

def encoding (l : List EncFrame) : State := { tables s0 with parts := s0.parts.map (fun q => (q.1, { q.2 with l1 := 0xB000 })), encoders := [(2, { Encoder.reset with frames := l })] }

/-- EngineEvents: frames that an encoder starts, resumes, stops for a frame of a higher class and does not stop. -/
theorem witness_encoder :
    (∀ b ∈ [true, false], let f := { frame0 1 with stopped := b }
      let s := encoding [f]
      (∀ g ∈ (s.encoder 2).frames, g.running = false) ∧ s.nextFrame (s.encoder 2) = some f ∧
        (s.frameCells f.part f.g0 f.h0 wantsRead).isSome = true ∧ (s.frameCells f.part f.g2 f.h2 wantsRead).isSome = true ∧
        (∀ a ∈ (s.frameCells f.part f.g0 f.h0 wantsRead).getD [] ++ (s.frameCells f.part f.g2 f.h2 wantsRead).getD [], s.readable a = true)) ∧
    (∀ c ∈ [0, 1], let f := { frame0 1 with running := true }
      let g := { frame0 2 with cls := c }
      let s := encoding [f, g]
      (s.encoder 2).frames.find? (fun f => f.running) = some f ∧ s.nextFrame (s.encoder 2) = some g ∧ (g.cls < f.cls ↔ c = 0) ∧
        (s.freshFree.2.frameCells f.part f.g2 f.h2 wantsWrite).isSome = true) := by decide +kernel

/-- EngineEvents: a frame that its output does not hold or whose picture was poisoned ends with nothing of the encoder's own in it. -/
theorem witness_encoder_complete :
    let f := { frame0 1 with running := true, bad := true }
    let s := encoding [f]
    (s.encoder 2).frames.find? (fun f => f.running) = some f ∧ f.outcome.1 = 3 ∧ f.outcome.2.1 = [] ∧ (s.outputWrites f 64 []).isSome = true ∧
      (∀ header : List Byte, header = List.replicate 16 0 → (s.outputWrites f 0 header).isSome = true) ∧
      (s.frameCells f.part f.g2 f.h2 wantsWrite).isSome = true ∧
      ((s.outputWrites f 64 []).getD []).all (fun w => s.online w.a) = true := by
  refine ⟨by decide +kernel, by decide +kernel, by decide +kernel, by decide +kernel, ?_, by decide +kernel, by decide +kernel⟩
  rintro _ rfl
  decide +kernel

/-- A task in a state, with an argument that the copying-in has to place. -/
def arg0 : Arg :=
  { parent := boxAt 1 Fm.z32 1 0 4 2, off := [0, 0, 0, 0], ext := [4, 2, 1, 1], padLo := [0, 0, 0, 0], padHi := [0, 0, 0, 0], fresh := true,
    child := mkHandle 3 1 0 1 Fm.z32 0 0 (fun _ => 0) (fun d => nth [4, 2, 1, 1] d 1), snap := List.replicate 8 3, hdrs := List.replicate 8 0,
    bad := none, stale := false }
def tasked (f : Task → Task) : State := { withTask f s0 with cores := [(0, Core.reset)] }

/-- SchedulerEvents: a copied-in task and one that has an argument to place at level 1 and at level 2. -/
theorem witness_copying_in :
    (let s := tasked (fun x => { x with st := .copyingIn, r := { x.r with core := none, kind := .root } })
     s.task? 0 = some (me s) ∧ (me s).st = .copyingIn ∧ (me s).placed = true ∧ (me s).r.kind = .root) ∧
    (∀ l ∈ [1, 2], let s := tasked (fun x => { x with st := .copyingIn, r := { x.r with core := none, home := none, level := l, args := [{ arg0 with child := 0 }] } })
      let x := me s
      s.task? 0 = some x ∧ x.st = .copyingIn ∧ x.placed = false ∧ x.pendFault = none ∧ x.r.home = none ∧
        good (x.r.args.mapM (fun (a : Arg) => if a.fresh && a.stale then s.snapshot (s.argParent x) a else Except.ok a)) = true ∧
        (∀ a ∈ x.r.args, (a.fresh && a.stale) = false ∧ a.bad = none) ∧ (if l = 2 then s.storageCore x else some 0) = some 0 ∧
        ((s.reserveStaging x).bind (fun u => u.placeBoxes x (s.argParent x) 0 0 (x.r.args.map (fun a => { a with stale := false })))).isSome = true) := by
  decide +kernel

/-- SchedulerEvents: a free core that picks the task; the same core with the task and a request; saved units; the account of a slice, under
each overrun rule. -/
def runnable : State :=
  let s := tasked (fun x => { x with st := .runnable, r := { x.r with core := none, home := none, kind := .root, cls := 1 } })
  { s with clusters := SMap.put s.clusters 0 { s.cluster 0 with q1 := [0] } }
theorem witness_dispatch : let s := runnable
    (s.core 0).task = none ∧ (s.core 0).fenced = false ∧ s.pickRecord 0 = some 0 ∧ (me s).r.preempted = false ∧ (me s).st = .runnable ∧
      s.queueReachable (s.partOf (me s)) = true ∧ (s.frameSlot 0 0 (me s)).isSome = true ∧
      (((s.dequeue 0).materialise 0).bind (fun u => u.task? 0)).isSome = true := by decide +kernel
theorem witness_dispatch_claim : let s := { runnable with cores := [(0, { Core.reset with regions := [(0, { region 2 0 Fm.z8 0 4096 1 with bytes := 2 ^ 21 })] })] }
    (s.core 0).task = none ∧ (s.core 0).fenced = false ∧ s.pickRecord 0 = some 0 ∧ s.queueReachable (s.partOf (me s)) = true ∧ s.frameSlot 0 0 (me s) = none := by decide +kernel
theorem witness_preemption : let s := { s0 with cores := [(0, { Core.reset with task := some 0, request := true })] }
    (s.core 0).task = some 0 ∧ (s.core 0).request = true ∧ s.yields (me s) = true ∧ s.maySuspend (me s) = true ∧ (s.core 0).asked ≠ some s.cycle ∧ (s.core 0).fenced = false := by
  decide +kernel
theorem witness_unit_save : ∀ c ∈ [some StoreClass.vregs, none],
    let s := { saved true with cur := 4, cores := (3, { Core.reset with claim := c }) :: (saved true).cores }
    let s := withVec (fun v => { v with v := [(5, vreg Fm.z8 7)] }) s
    let x := me s
    s.task? 4 = some x ∧ x.r.home = some 3 ∧ x.r.core = none ∧ unitClass (.vregs 0) = .vregs ∧ ((s.core 3).claim = some .vregs ↔ c.isSome = true) ∧
      s.unitVictim 3 .vregs = some 4 ∧ s.unitVictim 3 .slots ≠ some 4 ∧ s.canGive 4 x = true ∧ (s.slotFor 4 x).isSome = true := by decide +kernel
def overrun (n : Nat) : State :=
  let s := { saved true with launches := [(0, { launch0 with hdr := BitVec.ofNat 1024 (header + headerBits 6 12 n) }), (1, launch1)] }
  priv 0 (withTask (fun x => { x with r := { x.r with budget := 0 } }) s)
theorem witness_overrun : ∀ n ∈ [0, 1, 2], let s := overrun n
    s.task? 0 = some (me s) ∧ (∃ l, s.launch? (me s).r.launch = some l ∧ l.ovr = n) ∧ budgetGone (me s) = true ∧ (me s).r.granted = false ∧ s.queueReachable (s.partOf (me s)) = true := by
  intro n h
  simp only [List.mem_cons, List.not_mem_nil, or_false] at h
  rcases h with rfl | rfl | rfl <;> exact ⟨by decide +kernel, ⟨_, rfl, by decide +kernel⟩, by decide +kernel, by decide +kernel, by decide +kernel⟩
theorem witness_suspend : let s := overrun 2
    s.contractOf (me s) = none ∧ s.maySuspend (me s) = true ∧ (s.suspend 0).isSome = true ∧
      (let u := { withTask (fun x => { x with r := { x.r with contract := 5, cls := 0 } }) s with contracts := [(contractKey 0 5, contract0)] }
       u.contractOf (me u) ≠ none ∧ u.maySuspend (me u) = true ∧ (u.suspend 0).isSome = true) := by decide +kernel

/-- SchedulerEvents: a task that has ended and returns, and one that has a child left. -/
theorem witness_task_return : ∀ n ∈ [0, 1],
    let s := withTask (fun x => { x with st := .retiring, r := { x.r with ending := true, jcount := n, kind := .root } }) s0
    let x := me s
    let u := s.releaseCore 0
    let y := me u
    x.r.dead = false ∧ x.st = .retiring ∧ x.r.ending = true ∧ x.drained = true ∧ x.ctl.act = false ∧ x.pendFault = none ∧ x.holdsPoison = false ∧ u.overtaken x = false ∧
      u.task? 0 = some y ∧ x.r.jcount = n ∧ u.framesForwarded 0 = false ∧ good ((u.setTask 0 { y with st := .returning }).returnAll y) = true ∧
      good ((val u ((u.setTask 0 { y with st := .returning }).returnAll y)).finishReturn 0 0) = true := by decide +kernel

/-- SchedulerEvents: a WAIT whose condition holds and one whose does not, in the tick of its timeout; and both once the tick has ended. -/
theorem witness_wait_events : ∀ p ∈ [(5, 61), (6, 61)],
    let w : Wait := { conds := [{ src := 0, index := 3, t := 5 }], all := true, dst := 5, timeoutAt := p.2, met := none }
    let s := { withTask (fun x => { x with st := .waiting, wait := some w, sems := [(3, BitVec.ofNat 32 (10 - p.1))] }) s0 with cycle := 16 * 61 + 15 }
    (me s).st = .waiting ∧ (me s).wait = some w ∧ w.timeoutAt ≤ s.cycle / 16 ∧
      (condsMet w.conds.length (s.condBits (me s) w.conds) w.all = true ↔ p.1 = 5) ∧
      (let u := s.latchWaits
       (me u).wait = some { w with met := some (if p.1 = 5 then 1 else 0) } ∧ (me u).st = .waiting) := by decide +kernel

/-- The supervisor of the task's partition takes a trap of it. -/
def handles (s : State) : Bool :=
  s.supervisorOf (s.partOf (me s)) == some 1 && s.launch? 1 == some launch1 && s.handlerFault launch1 == none && s.rootBoxesReachable launch1 &&
    !(me s).service && (me s).agrees && noLoads (me s) && !(me s).ctl.act
/-- SchedulerEvents: a halted core that an interrupt wakes and a running one that takes it. -/
theorem witness_interrupts : ∀ b ∈ [true, false],
    let s := { withCtl (fun c => { c with halted := b }) (tables s0) with cores := [(0, { Core.reset with task := some 0, ipend := 2 ^ 200 })] }
    (s.core 0).task = some 0 ∧ lowestPending (s.core 0) = some 200 ∧ (me s).ctl.halted = b ∧ controlRuns s (me s) = true ∧
      s.boundary (me s) = .interrupt 0 ∧ (me s).ctl.delay = none ∧ handles s = true := by decide +kernel
/-- SchedulerEvents: a page fault of a page that is there and of one that is not, one that rolls the node back, one that ends the task, and a
trap; on a core and while it waits. -/
theorem witness_fault_delivery : ∀ p ∈ [(Flt.page, (0 : Word), true), (Flt.page, 0x10000, false), (Flt.ue, 0, false), (Flt.bounds, 0, false), (Flt.trap, 7, false)],
    ∀ st ∈ [TaskSt.running, .waiting],
    let s := withTask (fun x => { x with st := st, r := { x.r with core := if st = .waiting then none else some 0 }, pendFault := some ⟨p.1, p.2.1⟩ }) (tables s0)
    let x := me s
    s.task? 0 = some x ∧ x.pendFault = some ⟨p.1, p.2.1⟩ ∧ x.ctl.act = false ∧ (controlRuns s x = true ↔ st = .running) ∧ x.st = st ∧
      (good (s.walk (s.partOf x) p.2.1.toNat ⟨false, false⟩) = true ↔ p.2.1 ≠ 0x10000) ∧ s.delegates x p.1 = false ∧ x.ctl.delay = none ∧ handles s = true := by
  decide +kernel

/-- ContractEvents: an account at zero, and a release tick that has come and one that has not. -/
theorem witness_contract_events : ∀ t ∈ [1002, 1003],
    let k := { contract0 with accounts := [(0, 0), (1, 4)] }
    s0.queueReachable 0 = true ∧ (∀ a ∈ contract0.accounts, a.2 = 0 → a.1 ∈ contract0.spent) ∧ (∃ a ∈ k.accounts, a.2 = 0 ∧ a.1 ∉ k.spent) ∧
    let s := { s0 with contracts := [(contractKey 0 5, k)], cycle := 16 * t }
    SMap.find s.contracts (contractKey 0 5) = some k ∧ k.part = 0 ∧ 0 ∈ k.clusters ∧ SMap.get k.accounts 0 0 = 0 ∧ 0 ∉ k.spent ∧
      (k.q + (k.refills + 1) * k.period ≤ s.cycle / 16 ↔ t = 1003) := by decide +kernel
theorem witness_periodic : ∀ p ∈ [(2, true), (3, true), (3, false)],
    let l := { launch0 with hdr := BitVec.ofNat 1024 (header + headerBits 6 4 1 + headerBits 6 16 5), start := 3 }
    let s := { (if p.2 then s0 else { s0 with tasks := [] }) with
      launches := [(0, l), (1, launch1)], contracts := [(contractKey 0 5, contract0)], cycle := 16 * p.1 }
    SMap.find s.contracts (contractKey l.part l.contract) = some contract0 ∧ l.periodic = true ∧ l.live = true ∧ l.closing = false ∧
      s.releaseRoom l = true ∧ (offline s).releaseRoom l = false ∧ (s.cycle / 16 < l.start + (l.releases + l.skipped) * contract0.period ↔ p.1 = 2) ∧
      (0 < s.liveRoots 0 ↔ p.2 = true) := by decide +kernel

/-- SundialEvents: a waiting record and a free slot; a source whose timeout has come and one that has not; the last cycle of a tick and
another; the tasks of windows. -/
theorem witness_stream_events :
    (∀ p ∈ [([(3, 1)], false), ([(0, 1), (1, 1), (2, 1), (3, 1)], false), ([(3, 1)], true)],
      let c := { source0 with waiting := [List.replicate 64 1] }
      let e := stream0 p.1
      let s := { sundial with sources := [(9, c)], streams := [(2, e)] }
      let s := s.setDie 0 { s.die 0 with ticked := if p.2 then s.tick + 1 else 0 }
      SMap.find s.sources 9 = some c ∧ c.waiting = [List.replicate 64 1] ∧ SMap.find s.streams c.stream = some e ∧
        (e.freeSlot = none ↔ p.1.length = 4) ∧ s.tickDone (c.stream / 256) = p.2) ∧
    (∀ t ∈ [5, 6], let s := { sundial with cycle := 16 * t + 15 }
      (s.die 0).ticked ≠ s.cycle / 16 + 1 ∧ (∃ p ∈ s.streams, p.1 / 256 = 0) ∧ s.headerStalled 8 1 = false ∧
      SMap.find s.sources 9 = some source0 ∧ (stream0 [(3, 1)]).arrivals = [] ∧ s.cycle % 16 = 15 ∧ s.tickStalled 0 = false ∧ source0.st = .active ∧
        (source0.last + source0.timeout ≤ s.cycle / 16 ↔ t = 6)) ∧
    (∀ k ∈ [TaskKind.firing 8 1, TaskKind.amendment 8 1],
      let s := withTask (fun x => { x with st := .returned, r := { x.r with kind := k } }) s0
      s.task? 0 = some (me s) ∧ (me s).st = .returned ∧ (me s).r.kind = k ∧ s.headerStalled 8 1 = false ∧ s.tickStalled (8 / 4 / 256) = false) := by decide +kernel

def noDest : DestGroup := State.reset.dest 0
def packet0 (region : Nat) (bad : Bool) : Packet :=
  { dev := 2, group := 5, opening := 3, who := 7, stream := .control, cls := 1, dest := 0, part := 0, launch := none, mesh := 3, handle := boxAt region Fm.z32 1 0 4 2,
    elems := [⟨[0, 0, 0, 0], false, 9⟩], bad := bad }
def staging (region : Nat) (decision : Option Bool) (bad : Bool) : State :=
  { words 0xE000 [287 + 2 ^ 7] (tables s0) with
    packets := [packet0 region bad], dests := [(2 * 64 + 5, { noDest with part := 0, decision := decision })] }
/-- GroupEvents: a packet of an opening that has ended, and one of a run that was withdrawn. -/
theorem witness_late_packets :
    ({ staging 1 none false with ended := [(2 * 64 + 5, 4)] }).endedHere (2 * 64 + 5) 3 = true ∧
    7 ∈ (({ staging 1 none false with dests := [(2 * 64 + 5, { noDest with withdrawn := [7] })] }).dest (2 * 64 + 5)).withdrawn := by decide +kernel

/-- GroupEvents: a packet that is staged, one with poisoned data, one of a region that does not exist, and one of a group that is aborted. -/
theorem witness_staging : ∀ p ∈ [(1, none, false), (1, none, true), (77, none, false), (1, some false, false)],
    let s := staging p.1 p.2.1 p.2.2
    let k := packet0 p.1 p.2.2
    let u := { s with packets := s.packets.eraseIdx 0 }
    s.packets[0]? = some k ∧ firstOfStream s.packets 0 = true ∧ s.packetReachable k = true ∧ s.endedHere (k.dev * 64 + k.group) k.opening = false ∧
      (s.dest (k.dev * 64 + k.group)).withdrawn = [] ∧ ((s.dest (k.dev * 64 + k.group)).decision = some false ↔ p.2.1 = some false) ∧
      (u.packetCells k true = none ↔ p.1 = 77) ∧
      (p.1 = 1 → ((u.packetCells k true).getD []).map (fun w => w.a) = [0x5000, 0x5001, 0x5002, 0x5003] ∧ s.linesUsed 0 < 131072 ∧ stackDie 0x5000 = 0) := by
  decide +kernel
/-- GroupEvents: every entry of a buffer is in use. -/
theorem witness_staging_full (s : State) (k : Packet) (w : ByteWrite) (r : List ByteWrite) (h : 131072 ≤ s.linesUsed (stackDie w.a))
    (g : (SMap.get s.staged (stackDie w.a) []).any (fun e => e.dev == k.dev && e.group == k.group && e.writes.any (fun v => v.a / 64 == w.a / 64)) = false) :
    s.stageLine k (w :: r) = none := by simp [State.stageLine, h, g]

/-- GroupEvents: a preparing group whose contributors have returned, with destinations and without; deciding with all answers, with one
missing and with a refusal; publishing; a timeout and a withdrawal; replicas that agree. -/
def committing (c : CGroup) : State := { s0 with
  routes := [(0, (List.range 4).map (fun d => (d, { valid := true, node := 0, primary := 2, alternate := 3 })))], groups := [(5, { c with timeoutAt := 99 })], withdrawals := [(6, 256 * 44 + 1)], dests := [(6, noDest)] }
theorem witness_group_events :
    (∀ d ∈ [[], [0, 2]], let c := { group .preparing 0 false with sent := d.map (fun k => (k, 44)), contributors := [44] }
      let s := committing c
      s.cgroup 5 = { c with timeoutAt := 99 } ∧ c.st = .preparing ∧ s.cycle < 16 * (s.cgroup 5).timeoutAt + 15 ∧ c.replicas = [] ∧ (∀ p ∈ s.withdrawals, p.1 ≠ 5) ∧ c.unsent = [] ∧
        (∀ e ∈ c.dests, e = s.deviceOf c.launch ∨ s.groupRoute (s.launchPart c.launch) e = true) ∧ (∀ t ∈ c.contributors, s.task? t = none)) ∧
    (∀ p ∈ [([0, 2], false), ([2], false), ([2], true)], let c := { group .deciding 0 false with sent := [(0, 44), (2, 44)], prepared := p.1, refused := p.2 }
      c.st = .deciding ∧ (∀ w ∈ (committing c).withdrawals, w.1 ≠ 5) ∧ ((∀ d ∈ c.dests, d ∈ c.prepared) ↔ p.1 = [0, 2])) ∧
    (∀ a ∈ [[0, 2], [2]], let c := { group .publishing 0 false with sent := [(0, 44), (2, 44)], acked := a }
      c.st = .publishing ∧ ((∀ d ∈ c.dests, d ∈ c.acked) ↔ a = [0, 2])) ∧
    (let c := { group .opened 0 false with timeoutAt := 61 }
     c.undecided = true ∧ 16 * c.timeoutAt + 15 = 991 ∧ 991 ≤ s0.cycle) ∧
    (∀ st ∈ [GroupSt.opened, GroupSt.aborting], let s := { committing (group .opened 0 false) with groups := [(6, group st 0 false)] }
     s.withdrawals.find? (fun w => w.1 == 6 && w.2 / 256 == 44) = some (6, 256 * 44 + 1) ∧ ((s.cgroup 6).undecided = true ↔ st = .opened)) := by decide +kernel
theorem witness_replicas :
    let d (n : Nat) : List Byte := List.replicate 48 (BitVec.ofNat 8 n)
    let c := { group .preparing 0 false with replicas := [0, 1, 2], digests := [(0, d 1), (1, d 1), (2, d 4)] }
    let s := committing c
    c.st = .preparing ∧ s.cycle < 16 * (s.cgroup 5).timeoutAt + 15 ∧ s.tellReplicas 4 = s ∧ c.replicas.head? = some (s.deviceOf c.launch) ∧ c.compared = false ∧ (∀ r ∈ c.replicas, ∃ p ∈ c.digests, p.1 = r) ∧
      verdict c.digests c.replicas.length 0 = .publish ∧ verdict c.digests c.replicas.length 2 = .minority := by decide +kernel

/-- GroupEvents: a destination that may answer, clean and poisoned, and one with each decision. -/
theorem witness_destinations : ∀ p ∈ [([], none), ([7], none), ([], some true), ([], some false)],
    let d := { noDest with part := 0, received := [7], expected := some 1, poisonedBy := p.1, decision := p.2 }
    let s := { s0 with dests := [(2 * 64 + 5, d)], staged := [(0, [⟨2, 5, 7, 1, [⟨0x5000, 0xFF, 9⟩]⟩])] }
    s.dest (2 * 64 + 5) = d ∧ d.prepared = false ∧ d.received.length = 1 ∧ (∀ e ∈ s.stagedOf (2 * 64 + 5), ∀ w ∈ e.writes, s.online w.a = true) ∧ (∀ g ∈ s.groups, s.groupKey g.1 ≠ 2 * 64 + 5 ∨ g.2.st = .free) := by
  decide +kernel

/-- The number in the bytes of a number. -/
theorem bytes_back (n v : Nat) : bytesToNat (natToBytes n v) = v % 256 ^ n := by
  induction n generalizing v with
  | zero => simp [natToBytes, bytesToNat, Nat.mod_one]
  | succ n ih =>
    rw [natToBytes, bytesToNat, ih, BitVec.toNat_ofNat, show 256 ^ (n + 1) = 256 * 256 ^ n from Nat.pow_succ']
    exact (Nat.mod_mul (x := v) (a := 256) (b := 256 ^ n)).symm
theorem bytes_length (n v : Nat) : (natToBytes n v).length = n := by
  induction n generalizing v with
  | zero => rfl
  | succ n ih => simp [natToBytes, ih]

/-- The first 240 bytes of a flit with their check is whole. -/
theorem whole_flit (l : List Byte) (h : l.length = 240) (z : msgNat l 232 8 = 0) :
    flitOk (l ++ natToBytes 16 (Config.flitCrc l).toNat) = true := by
  have a : (l ++ natToBytes 16 (Config.flitCrc l).toNat).take 240 = l := by rw [← h]; exact List.take_left
  have d : (l ++ natToBytes 16 (Config.flitCrc l).toNat).drop 240 = natToBytes 16 (Config.flitCrc l).toNat := by rw [← h]; exact List.drop_left
  have e : msgNat (l ++ natToBytes 16 (Config.flitCrc l).toNat) 232 8 = 0 := by
    rw [msgNat, List.drop_append_of_le_length (by omega), List.take_append_of_le_length (by rw [List.length_drop]; omega)]; exact z
  have c : msgNat (l ++ natToBytes 16 (Config.flitCrc l).toNat) 240 16 = (Config.flitCrc l).toNat := by
    rw [msgNat, d, List.take_of_length_le (Nat.le_of_eq (bytes_length _ _)), bytes_back]
    exact Nat.mod_eq_of_lt (BitVec.isLt _)
  simp [flitOk, a, e, c, h, bytes_length]

/-- LinkEvents: a port that is up and two that are not; a flit too short; a whole flit for this node and the first of its kind, with more to come and
without; a stream record that a full ring holds back, and another device's stores that wait for their channels. -/
theorem witness_links : let s := { s0 with downPorts := [3] }
    s.portUp 2 = true ∧ s.portUp 3 = false ∧ s.portUp 16 = false ∧ flitOk (List.replicate 255 0) = false ∧ s.node = 0 ∧
    (∀ more ∈ [0, 1], let l : List Byte := [4, more] ++ List.replicate 238 0
      l.length = 240 ∧ msgNat l 232 8 = 0 ∧ msgNat l 2 2 = s.node ∧ msgNat l 8 8 = SMap.get s.seqIn (flitKey (msgNat l 0 1) (msgNat l 4 2)) 0 ∧
        msgNat l 1 1 % 2 = more.toNat) ∧
    (let r := { sundial with sources := [(9, { source0 with kind := 2 })], streams := [(2, stream0 [(0, 1), (1, 1), (2, 1), (3, 1)])] }
     r.withheld (natToBytes 2 9) = true ∧ (taken [(3, 1)]).withheld (natToBytes 2 9) = false) ∧
    (let b := natToBytes 1 0 ++ natToBytes 8 0 ++ natToBytes 8 3 ++ natToBytes 32 (boxAt 1 Fm.z32 1 0 4 2).toNat ++ elemBytesOf [⟨[0, 0, 0, 0], false, 9⟩]
     (offline (tables s0)).storeWaits (remoteStore 2 b false) = true ∧ (tables s0).storeWaits (remoteStore 2 b false) = false) := by
  decide +kernel

/-- PhyEvents: the first and the last stack, a channel in each state. -/
theorem witness_channels : ∀ die ∈ [0, 8], ∀ p ∈ [(false, false, false), (true, false, false), (true, true, false), (true, true, true)],
    let s := s0.setStack die { Stack.reset with chans := [(31, { Chan.reset with offline := p.1, drained := p.2.1, busy := p.2.2 })] }
    let c := (s.stack die).chan 31
    die < 9 ∧ die ≠ 4 ∧ 31 < 32 ∧ c.offline = p.1 ∧ c.drained = p.2.1 ∧ c.busy = p.2.2 ∧ (1 : Word).getLsbD 0 = true ∧
      s.inFlight (s.usesChannel die 31) = false ∧ (2 : Word).getLsbD 0 = false ∧ s.stackBusy die = false ∧
      (let v : Word := BitVec.ofNat 64 (2 ^ 7 + 2 ^ 15 + 36 * 2 ^ 8 + 35)
       v.getLsbD 7 = true ∧ v.getLsbD 15 = true ∧ c.lrep.getLsbD 7 = false ∧ c.lrep.getLsbD 15 = false ∧ lrepOk v = true ∧ lrepOk (v + 1) = false) := by decide +kernel

/-- PhyEvents: granule commands that are refused, that lack cells, that take a frame and that give it back; spare rows left or not. -/
theorem witness_granules : ∀ p ∈ [(3 + 4 * 2 ^ 20, 5), (3 + 36 * 2 ^ 23, 5), (3 + 3 * 2 ^ 20, 0), (3 + 3 * 2 ^ 20 + 35 * 2 ^ 23, 5000), (3 + 7 * 2 ^ 20, 5)],
    let s := s0.setStack 1 { Stack.reset with granCmd := some (BitVec.ofNat 64 p.1), freeCells := p.2, frames := [(9, ⟨1, 0⟩)] }
    let w := BitVec.ofNat 64 p.1
    let f := w.toNat % 2 ^ 20
    let st := w.toNat / 2 ^ 20 % 2 ^ 3
    let owner := w.toNat / 2 ^ 23 % 2 ^ 6
    let old := match SMap.find (s.stack 1).frames f with | some e => granCells e.gran | none => 0
    (s.stack 1).granCmd = some w ∧ s.frameBusy (frameBase 1 f) = false ∧ w.toNat / 2 ^ 29 = 0 ∧
      ((4 ≤ st ∧ st ≤ 6) ∨ (st < 4 ∧ 36 ≤ owner) ∨ (st < 4 ∧ owner < 36) ∨ st = 7) ∧
      (p.2 = 0 → (s.stack 1).freeCells + old < granCells st) ∧ (p.2 = 5000 → granCells st ≤ (s.stack 1).freeCells + old) := by decide +kernel
theorem witness_row_repair (n : Nat) : let s := s0.setStack 1 { Stack.reset with repCmd := some 0, sparesUsed := [(0, n)] }
    (s.stack 1).repCmd = some 0 ∧ (SMap.get (s.stack 1).sparesUsed 0 0 < Config.spareRows 1 0 ∨ Config.spareRows 1 0 ≤ SMap.get (s.stack 1).sparesUsed 0 0) ∧
      s.stackBusy 1 = false :=
  ⟨rfl, Nat.lt_or_ge _ _, rfl⟩
theorem witness_stack_busy : (inFlight [aLoad] s0).stackBusy 0 = true := by decide +kernel

/-- HostEvents: a function whose partition runs and one whose partition resets, tails within the ring and past it. -/
def hosted (resetting : Bool) (tail : Nat) : State :=
  { words 0x4000 [0x3000 + 4 * 2 ^ 52] (tables s0) with
    parts := s0.parts.map (fun q => (q.1, { q.2 with l1 := 0xB000, resetting := resetting })),
    launches := [(0, launch0), (1, { launch1 with regions := [(1, region 0 0x4000 Fm.z8 0 256 1)] })],
    hostFns := [(1, { HostFn.reset with tail := tail, head := 0 })] }
theorem witness_host_port : ∀ b ∈ [true, false],
    let s := hosted b 1
    (∃ p, s.functionPart 1 = some (0, p) ∧ p.resetting = b) ∧ s.queueDescriptor 0 / 2 ^ 52 % 2 ^ 12 = 4 ∧
      s.sourceOf 9 1 (some 0) = none := by
  intro b h
  simp only [List.mem_cons, List.not_mem_nil, or_false] at h
  rcases h with rfl | rfl <;> exact ⟨⟨_, rfl, rfl⟩, by decide +kernel, by decide +kernel⟩
theorem witness_submission : let s := { sundial with sources := [(9, { source0 with kind := 1 })] }
    s.sourceOf 9 1 (some 0) = some ({ source0 with kind := 1 }, stream0 [(3, 1)]) ∧ s.credit 9 ≠ 0 ∧ source0.waiting = [] ∧
      (s.enterRecord 9 (List.replicate 256 1)).isSome = true ∧
      (s.setDie 0 { s.die 0 with ticked := s.tick + 1 }).enterRecord 9 (List.replicate 256 1) = none ∧
      ({ s with streams := [(2, stream0 [(0, 1), (1, 1), (2, 1), (3, 1)])] } : State).credit 9 = 0 := by decide +kernel
theorem witness_launch_ring : ∀ tail ∈ [0, 1],
    let s := hosted false tail
    let d := s.queueDescriptor 0
    s.queueReachable 0 = true ∧ s.tablesReachable 0 (newLaunch (headerBits 6 3 1) 0 [] none false none) = true ∧
    ((s.hostFn 1).head = (s.hostFn 1).tail ↔ tail = 0) ∧ (s.hostFn 1).head = 0 ∧ d / 2 ^ 52 % 2 ^ 12 ≠ 0 ∧ s.pinned 0 (d % 2 ^ 52) = true ∧
      good (s.readVirtual 0 (d % 2 ^ 52) 64) = true ∧ s.reachable 0 (d % 2 ^ 52) 64 = true ∧
      (let e := bytesToNat (val [] (s.readVirtual 0 (d % 2 ^ 52) 64))
       good (s.readVirtual 0 (e % 2 ^ 52) 128) = true ∧ s.reachable 0 (e % 2 ^ 52) 128 = true ∧
         s.tablesReachable 0 (newLaunch (bytesToNat (val [] (s.readVirtual 0 (e % 2 ^ 52) 128))) 0 [] none false none) = true) ∧
      (newLaunch (headerBits 6 3 1) 0 [] none false none).priv = true ∧ ({ s with boot := { s.boot with started := true } }).boot.started = true := by decide +kernel
/-- An entry of a root box table: a whole region of a format with e elements at an address. -/
def rootEntry (n : Nat) (f : Fmt) (base e : Nat) : Nat :=
  base + headerBits 1 36 e + headerBits 2 36 1 + headerBits 3 36 1 + headerBits 4 36 1 + headerBits 5 58 f.toNat + headerBits 5 49 1 +
    2 ^ 512 * (boxAt n f 0 0 e 1).toNat + headerBits 12 0 e + headerBits 12 32 1 + headerBits 13 0 1 + headerBits 13 32 1
/-- A supervisor launch as the management cores build it: a code page, three root boxes of which the third is the level-1 table, and the tables. -/
def image : LoadImage :=
  let leaf (frame : Nat) : Nat := frame + 287 + 63 * 2 ^ 56
  { header := natToBytes 128 (headerBits 1 0 64 + headerBits 2 36 1 + headerBits 2 0 1 + headerBits 6 0 1 + headerBits 6 8 1 + headerBits 6 16 0xFFFF +
      headerBits 7 56 3 + headerBits 7 0 0x1000 + headerBits 12 0 0xFFFFFFFF),
    frames := [(0x20000, 1), (0x30000, 1), (0x40000, 1)], l1 := 0x20000,
    writes := [(0x20000, natToBytes 8 0x30001), (0x30000, natToBytes 8 0x31001), (0x31000, natToBytes 8 0x32001),
      (0x32000, natToBytes 16 (leaf 0x40000 + 2 ^ 64 * leaf 0x20000)),
      (0x41000, natToBytes 128 (rootEntry 0 Fm.z8 0x2000 64)), (0x41080, natToBytes 128 (rootEntry 1 Fm.z8 0x3000 64)),
      (0x41100, natToBytes 128 (rootEntry 2 Fm.z64 0x10000 8192))] }
/-- HostEvents: a supervisor launch that is accepted, and a header of zeros, which is refused. -/
theorem witness_supervisor_launch :
    let img := image
    let s := { s0 with dram := [(0, { Stack.reset with freeCells := 8388608 })], boot := { s0.boot with started := true }, svLaunches := [] }
    let s1 := (img.frames.foldlM (fun (u : State) f => u.takeFrame f.1 f.2) s).getD s
    let s2 := img.writes.foldl (fun (u : State) w => u.storeBytes w.1 w.2) s1
    let l := newLaunch (bytesToNat img.header) 63 [] none true none
    loadOk img = true ∧ s.boot.started = true ∧ (img.frames.foldlM (fun (u : State) f => u.takeFrame f.1 f.2) s).isSome = true ∧
      s2.rejectReason (.table img.l1) l false true true = 0 ∧
      s1.rejectReason (.table img.l1) (newLaunch 0 63 [] none true none) false true true = 1 ∧ s2.supervisorTables img.l1 l = true ∧ SMap.find s2.svLaunches 0 = none := by
  decide +kernel
/-- HostEvents: the service core of a die in each state, and a service task that has ended. -/
theorem witness_service_core : ∀ p ∈ [(false, true, false), (true, true, false), (false, false, true)],
    let s := s0.setDie 8 { Die.reset with svcBusy := p.1, up := p.2.1, svcStopped := p.2.2 }
    8 < 9 ∧ (s.die 8).svcBusy = p.1 ∧ (s.die 8).up = p.2.1 ∧ (s.die 8).svcStopped = p.2.2 ∧ (BitVec.ofNat 64 (2 ^ 63)).getLsbD 63 = true := by decide +kernel
theorem witness_service_end : let s := withTask (fun x => { x with st := .returned, r := { x.r with kind := .service 8 } }) s0
    s.tasks.find? (fun p => p.2.r.kind == .service 8 && p.2.st == .returned) = some (0, me s) ∧ s.launch? (me s).r.launch = some launch0 := by decide +kernel
/-- HostEvents: bytes of a mapped page that the host reads and writes. -/
theorem witness_host_memory :
    let s := hosted false 0
    let cells := val [] ((List.range 4).mapM (fun i => s.physical 0 (0x5000 + i) wantsRead))
    good ((List.range 4).mapM (fun i => s.physical 0 (0x5000 + i) wantsRead)) = true ∧
      good ((List.range 4).mapM (fun i => s.physical 0 (0x5000 + i) wantsWrite)) = true ∧ cells.all s.readable = true ∧ cells.all s.online = true := by
  decide +kernel

/-- A start whose root ports find no device. -/
def starting : StartInput := { romOk := true, port0 := .noDevice, port1 := .noDevice, diesOk := true, untrained := [], logDevice := true }
/-- BootEvents: two failures and three; a start that cannot read its images; minimal mode, with an image that is too short. -/
theorem witness_starts :
    (∀ n ∈ [2, 3], ({ s0 with boot := { s0.boot with fails := n } }).boot.fails = n) ∧
    (startSteps s0.boot starting).1 = 2 ∧ ({ starting with romOk := false }).romOk = false ∧ starting.romOk = true ∧
    s0.boot.minimal = false ∧ s0.boot.starting = false ∧ s0.boot.started = false ∧ ({ s0.boot with starting := true }).starting = true ∧
    (List.replicate 32 (0 : Byte)).length = 32 ∧ recoveryReason { s0.boot with minimal := true } [] = 3 := by decide +kernel
/-- BootEvents: a start whose images are accepted and whose dies and training succeed; the fused hashes and the keys are free values. -/
theorem witness_accepted_start (b : Boot) (fw svc : List Byte) (hf : verifyImage b 1 fw = 0) (hs : verifyImage b 2 svc = 0) :
    (startSteps b { starting with port1 := .set [fw, svc] }).1 = 0 := by
  simp [startSteps, starting, StartInput.images, nth, hf, hs]
/-! ### Words that the spec writes out (08, 25 and the worked programs) -/

theorem test_decodes_alu : decode (.word 0x04618700) = some (.add 6 6 7) ∧ decode (.word 0x0725B005) = some (.andn 50 22 48) ∧
    decode (.word 0x058C5707) = some (.srl 24 49 23) ∧ decode (.word 0x0C71C001) = some (.addi 7 7 1) ∧
    decode (.word 0x15451D01) = some (.ori 20 20 0x1D01) ∧ decode (.word 0x2451A003) = some (.srai 5 6 3) ∧
    decode (.word 0x24A19010) = some (.srli 10 6 16) ∧ decode (.word 0x2481C005) = some (.slli 8 7 5) ∧
    decode (.wide 0xF8020000 0x40400000) = some (.li 8 0x40400000) := by decide +kernel
theorem test_decodes_branches : decode (.word 0x60A00008) = some (.beq 10 0 8) ∧ decode (.word 0x64300004) = some (.bne 3 0 4) ∧
    decode (.word 0x6C51FFFE) = some (.bge 5 7 (BitVec.ofInt 14 (-2))) ∧ decode (.word 0x68717FFF) = some (.blt 7 5 (BitVec.ofInt 14 (-1))) ∧
    decode (.word 0x7851C002) = some (.loop 5 7 2) ∧ decode (.word 0x84004000) = some (.jalr 0 1 0) ∧ decode (.word 0xB0000001) = some (.trap 1) := by
  decide +kernel
theorem test_decodes_tasks : decode (.word 0x90000000) = some .join ∧ decode (.word 0x90000001) = some .endTask ∧ decode (.word 0x90000002) = some .yield ∧
    decode (.word 0x90500003) = some (.jstat 5 0) ∧ decode (.word 0x90700303) = some (.jstat 7 3) ∧ decode (.word 0x90500104) = some (.wid 5 1) ∧
    decode (.wide 0xF9100000 0x40) = some (.spawnDown 0 0 0x40) ∧ decode (.wide 0xF9014000 0x40) = some (.spawn 5 0 0x40) := by decide +kernel
theorem test_decodes_boxes : decode (.word 0x94700000) = some (.boxext 7 0 0) ∧ decode (.word 0x94500100) = some (.boxext 5 0 1) ∧
    decode (.word 0x94914007) = some (.boxroot 9 5) ∧ decode (.word 0x88500000) = some (.shpld 5 0 0 0) ∧
    decode (.word 0x8860C001) = some (.shpld 6 3 0 1) ∧ decode (.word 0x89300040) = some (.shpld 19 0 1 0) ∧
    decode (.wide 0xF9320000 0x00040008) = some (.boxsub 8 0 0 false 0x00040008) ∧
    decode (.wide 0xF9324181 0x00001110) = some (.boxsub 9 1 1 true 0x00001110) ∧ decode (.wide 0xF9424121 0) = some (.boxnew 9 1 2 1) := by
  decide +kernel
theorem test_decodes_accesses : decode (.word 0x48600003) = some (.st ⟨6, 0, 0, 0, 0, 3⟩) ∧ decode (.word 0x40540022) = some (.ldS ⟨5, 8, 0, 1, 0, 2⟩) ∧
    decode (.word 0x54518C0E) = some (.stRel ⟨5, 3, 6, 0, 3, 2⟩) ∧ decode (.word 0x4D51A80E) = some (.ldAcqS ⟨21, 3, 20, 0, 3, 2⟩) ∧
    decode (.word 0x45E03A03) = some (.ldZ ⟨30, 0, 29, 0, 0, 3⟩) ∧
    decode (.wide 0xFA4286D8 0x00038000) = some (.faddb ⟨10, 6, 7, 0, 0, 0, 3, 3, false, false⟩) := by decide +kernel
theorem test_decodes_engines : decode (.wide 0xF8800000 0x40) = some (.fork 0x40) ∧ decode (.wide 0xF8900000 0x40) = some (.xq 0 0 0 0x40) ∧
    decode (.wide 0xF8A01448 0) = some (.ecfg 20 1 8 0) ∧ decode (.word 0xA0000002) = some .rdv ∧ decode (.word 0xA0014003) = some (.vqsend 5) ∧
    decode (.word 0xA0600004) = some (.vqrecv 6) ∧ decode (.wide 0xF8430B00 0x40) = some (.waitAny 12 11 0x40) ∧
    decode (.word 0x98000002) = some (.semset 0 0 0 2) ∧ decode (.word 0x9C000060) = some (.fence 6 0) ∧ decode (.word 0x9C0FFFF3) = some (.fence 0xFFFF 3) := by
  decide +kernel
theorem test_decodes_units : decode (.word 0xA4500600) = some (.stopen 5 0 6) ∧ decode (.word 0xA4F34E01) = some (.stsrc 15 13 14) ∧
    decode (.word 0xA5114202) = some (.stbind 17 5 2) ∧ decode (.word 0xA4A1C803) = some (.strec 10 7 8) ∧ decode (.word 0xA4048004) = some (.stclose 18) ∧
    decode (.word 0xE8079B01) = some (.phywr 30 27) ∧ decode (.word 0xEAEB4000) = some (.phyrd 46 45) ∧ decode (.word 0x8EF00001) = some (.rdtick 47) := by
  decide +kernel
theorem test_decodes_vector_arithmetic : decode (.vector 0x0401000020200240) = some (.vfma (vword 2 0 1 2 0 Fm.fp32)) ∧
    decode (.vector 0x0300004060020240) = some (.vmul (vword 0 1 3 0 2 Fm.fp32)) ∧ decode (.vector 0x01000000200000C0) = some (.vadd (vword 0 0 1 0 0 Fm.s32)) ∧
    decode (.vector 0x250200C000000240) = some (.vsigm (vword 4 3 0 0 0 Fm.fp32)) ∧
    decode (.vector 0x380A010000100300) = some (.vcvt (vword 20 4 0 1 0 Fm.e4m3)) ∧
    decode (.vector 0x410300C000600242) = some (.vredmax (vword 6 3 0 6 0 Fm.fp32 0 2)) := by decide +kernel
theorem test_decodes_vector_moves : decode (.vector 0x4800800000000240) = some (.vbcast (vword 1 0 0 0 0 Fm.fp32)) ∧
    decode (.vector 0x50040100802101C0) = some (.vpart (vword 8 4 4 2 1 Fm.z32)) ∧ decode (.vector 0x4A00800000220240) = some (.vslide (vword 1 0 0 2 2 Fm.fp32)) ∧
    decode (.vector 0x4E04818000600240) = some (.vbcastel (vword 9 6 0 6 0 Fm.fp32)) ∧ decode (.vector 0x3100800000000001) = some (.kmovPfx (vword 1 0 0 0 0 Fm.none 0 1)) := by
  decide +kernel
theorem test_decodes_vector_memory : decode (.vector 0x5800004000000240) = some (.vld (vword 0 1 0 0 0 Fm.fp32)) ∧
    decode (.vector 0x5901084000000240) = some (.vst (vword 2 33 0 0 0 Fm.fp32)) ∧ decode (.vector 0x5105008000830240) = some (.vgather (vword 10 2 0 8 3 Fm.fp32)) ∧
    decode (.vector 0x60018800A0000240) = some (.vaccrd (vword 3 32 5 0 0 Fm.fp32)) ∧ decode (.vector 0x611100C040000000) = some (.vaccwr (vword 34 3 2 0 0 Fm.none)) ∧
    decode (.vector 0x6211000000000800) = some (.acczero (vword 34 0 0 0 0 Fm.a40)) := by decide +kernel
theorem test_decodes_vector_control : decode (.vector 0x70000001E1000001) = some (.vloop (vword 0 0 15 16 0 Fm.none 0 1)) ∧ decode (.vector 0x7100000000000000) = some .vendl ∧
    decode (.vector 0x7900000000000000) = some .vend ∧ decode (.vector 0x7700004000200000) = some (.vswait (vword 0 1 0 2 0 Fm.none)) ∧
    decode (.vector 0x7600004000700000) = some (.vsig (vword 0 1 0 7 0 Fm.none)) ∧ decode (.vector 0x6801008000800001) = some (.aadd (vword 2 2 0 8 0 Fm.none 0 1)) ∧
    decode (.vector 0x6C01004000000000) = some (.amov (vword 2 1 0 0 0 Fm.none)) := by decide +kernel

/-- The eight words of a record, word 0 first. -/
def recordOfWords (w0 w1 w5 w6 w7 : Nat) : BitVec 512 :=
  BitVec.ofNat 512 (w0 + 2 ^ 64 * w1 + 2 ^ 128 * 2 ^ 48 + 2 ^ 192 * 2 ^ 48 + 2 ^ 256 * 2 ^ 48 + 2 ^ 320 * w5 + 2 ^ 384 * w6 + 2 ^ 448 * w7)
theorem test_decodes_records :
    decode (.record (recordOfWords 0x0130000200002100 (2 ^ 48) 0x4000000041000000 0x6000000000000000 0)) =
      some (.mmul { rec0 with prof := 3, shape := 0, ssem := 2, clr := true, sig := true, o0 := tileRef 0, o1 := tileRef 1, o2 := tileRef 32 }) ∧
    decode (.record (recordOfWords 0x1800000500000100 0x0003000000000000 0x8000000044000000 0 0x0000008001820031)) =
      some (.edec { rec0 with shape := 0, ssem := 5, sig := true, l1 := 3 * 2 ^ 48, o0 := boxRef 0, o1 := tileRef 4, w7 := 0x8001820031 }) ∧
    decode (.record (recordOfWords 0x1A00000000000000 (2 ^ 48) 0x8100000000000000 0 0x131)) = some (.cbload { rec0 with shape := 0, o0 := boxRef 1, w7 := 0x131 }) ∧
    decode (.record (recordOfWords 0x1000070000014600 (2 ^ 48) 0x6200000087000000 0 0)) =
      some (.copy { rec0 with shape := 0, wsem := 7, wthr := 1, rel := true, scope := 3, o0 := tileRef 34, o1 := boxRef 7 }) := by decide +kernel

/-! ### Ill-formed instructions -/

/-- A reserved scope; the fields of an atomic that its form does not use; an odd pair and no pair of faddb; an empty loop body. -/
theorem test_refuses_control_fields : ∀ i ∈ [Instr.ldS ⟨1, 0, 0, 0, 5, 2⟩, .st ⟨1, 0, 0, 0, 7, 2⟩, .fence 1 5, .amoadd ⟨1, 2, 0, 0, 0, 0, 6, 2, false, false⟩,
      .amoadd ⟨1, 2, 3, 0, 0, 0, 0, 2, false, false⟩, .redadd ⟨1, 2, 0, 0, 0, 0, 0, 2, false, false⟩, .faddb ⟨3, 2, 4, 0, 0, 0, 0, 3, false, false⟩,
      .faddb ⟨0, 2, 4, 0, 0, 0, 0, 3, false, false⟩, .loop 1 2 0, .loop 1 2 (BitVec.ofInt 14 (-1))], i.wellFormed = false := by decide +kernel
/-- Selectors past the last; ecfg and enest of a third engine and with both sources; unaligned blocks; register lists past the last register. -/
theorem test_refuses_selectors : ∀ i ∈ [Instr.jstat 1 4, .wid 1 6, .dslice 1 8, .ecfg 1 2 0 0, .ecfg 1 0 0 1, .enest 1 2 2 0 0, .enest 1 0 0 0 0x10000, .enest 1 2 0 0 1,
      .waitAny 1 0 4, .waitAll 1 0 1, .fork 32, .xq 1 0 0 8, .xq 1 0 16 0, .xq 1 63 2 0, .xq 1 62 4 0, .spawn 1 0 32, .spawnDown 1 0 1, .dspawn 1 0 8, .stopen 1 31 2, .stbind 1 2 31,
      .boxsub 1 2 0 true 0x4000], i.wellFormed = false := by decide +kernel
/-- A field that the form does not use, a number past its file, a class without memory, a rounding mode and a flag that the form does not
have, a reserved format. -/
theorem test_refuses_vector_fields : ∀ i ∈ [Instr.vadd (vword 1 2 3 4 0 Fm.fp32), .vsqrt (vword 1 2 3 0 0 Fm.fp32), .kand (vword 16 2 3 0 0 Fm.none), .kpop (vword 32 2 0 0 0 Fm.none),
      .kand (vword 1 2 3 0 1 Fm.none), .vadd { vword 1 2 3 0 0 Fm.fp32 with cls := 1 }, .vadd (vword 1 2 3 0 0 Fm.fp32 5), .vadd (vword 1 2 3 0 0 Fm.s32 1),
      .vand (vword 1 2 3 0 0 Fm.fp32 1), .vadd (vword 1 2 3 0 0 Fm.fp32 0 1), .vadd (vword 1 2 3 0 0 0x3F), .vsll (vword 1 2 0 32 0 Fm.s32 0 1), .kmovPfx (vword 1 2 0 0 0 Fm.none),
      .vredsum (vword 1 2 0 13 0 Fm.fp32), .vrng (vword 1 2 3 31 0 Fm.z32), .vbcastel (vword 1 2 3 13 0 Fm.fp32)], i.wellFormed = false := by decide +kernel
/-- Register groups past v511 and a31, tiles that are no accumulators, loops with both counts or none, waits on no engine. -/
theorem test_refuses_vector_groups : ∀ i ∈ [Instr.vgather (vword 1 2 0 511 0 Fm.z8), .vperm (vword 1 2 511 0 0 Fm.z8), .vpart (vword 1 2 31 2 0 Fm.z8),
      .vpart (vword 500 2 0 16 0 Fm.z8), .vpart (vword 1 2 3 0 0 Fm.z8), .vaccrd (vword 1 31 0 0 0 Fm.fp32), .vaccwr (vword 40 1 0 0 0 Fm.none), .acczero (vword 31 0 0 0 0 Fm.a40),
      .vloop (vword 0 1 0 0 0 Fm.none), .vloop (vword 0 1 1 2 0 Fm.none), .vloop (vword 1 0 1 2 0 Fm.none 0 1), .vfset (vword 0 0 0 16 0 Fm.none), .vfwait (vword 0 1 0 0 0 Fm.none),
      .vsig (vword 0 1 0 256 0 Fm.none), .vfence (vword 0 0 1 0 0 Fm.none), .ashl (vword 1 2 3 0 0 Fm.none 0 3), .ali { vword 1 2 3 4 0 Fm.none with k := 1 }],
    i.wellFormed = false := by decide +kernel
/-- References of no kind, with reserved bits and of the wrong kind; PROF and CLR where only mmul has them; REL without RELA and RELB. -/
theorem test_refuses_records : ∀ i ∈ [Instr.copy { boxed2 with o0 := 0xC0000000 }, .copy { boxed2 with o0 := boxRef 32 }, .copy { boxed2 with o0 := 0x80000001 },
      .copy { boxed2 with shape := 0, o0 := tileRef 1, o1 := tileRef 2 }, .copy { boxed2 with shape := 0, scope := 5 }, .copy { boxed2 with shape := 0, clr := true }, .copy { boxed2 with shape := 0, prof := 1 }, .copy { boxed2 with shape := 0, wrap := true },
      .copy { boxed2 with shape := 0, rel := true }, .mmul { rec0 with o0 := tileRef 1, o1 := tileRef 2, o2 := tileRef 31 }, .mmul { rec0 with o0 := tileRef 1, o1 := tileRef 2, o2 := tileRef 32, rel := true },
      .mmul { rec0 with o0 := tileRef 1, o1 := tileRef 2, o2 := tileRef 32, shape := 3 }, .trans { boxed2 with shape := 0 }, .perm { boxed2 with shape := 0 }, .gather { boxed2 with shape := 0, o2 := boxRef 1, w7 := 1 },
      .fill { rec0 with shape := 0, o1 := tileRef 39 }, .edec { boxed2 with shape := 0, w7 := 25 * 2 ^ 16 }, .edec { boxed2 with shape := 0, kflags := 2 }, .cbload { rec0 with shape := 0, o0 := boxRef 1 },
      .rcp { boxed2 with shape := 0 }, .allred { boxed2 with shape := 0, kflags := 3 }, .bcast { boxed2 with shape := 0, kflags := 1 }, .digest { rec0 with shape := 0, o3 := boxRef 1 },
      .enc { boxed2 with shape := 0, o2 := boxRef 5, w7 := 2 ^ 8 + 63 * 2 ^ 24 }, .enc { boxed2 with shape := 0, o2 := boxRef 5, w7 := 52 * 2 ^ 16 }], i.wellFormed = false := by decide +kernel
/-- The same terms with the field mended are well-formed. -/
theorem test_takes_well_formed : ∀ i ∈ [Instr.ldS ⟨1, 0, 0, 0, 4, 2⟩, .faddb ⟨2, 2, 4, 0, 0, 0, 0, 3, false, false⟩, .loop 1 2 1, .wid 1 5, .xq 1 61 4 0, .fork 64, .vadd (vword 1 2 3 0 0 Fm.fp32 4),
      .vsll (vword 1 2 0 31 0 Fm.s32 0 1), .kmovPfx (vword 1 2 0 0 0 Fm.none 0 1), .vgather (vword 1 2 0 510 0 Fm.z8), .vloop (vword 0 1 1 0 0 Fm.none), .copy { boxed2 with shape := 0 },
      .trans { boxed2 with shape := 0, w7 := 4 }, .perm { boxed2 with shape := 0, w7 := 0xE4 }, .rcp { boxed2 with shape := 0, scope := 4 }, .enc { boxed2 with shape := 0, o2 := boxRef 5, w7 := 51 * 2 ^ 16 }],
    i.wellFormed = true := by decide +kernel

/-! ### Single steps, from the numbers of the spec -/

/-- A scalar register after one instruction. -/
def after (o : Out) (r : SReg) : Word := match o with | .next t => (me t).ctl.rd r | _ => 0xDEAD
def pcAfter (o : Out) : Nat := match o with | .next t => (me t).ctl.pc | _ => 1

/-- R148, R150: addition wraps; sltiu compares with the sign-extended immediate; clz of 0 is 64. -/
theorem test_alu : let s := regs [(1, BitVec.allOnes 64), (2, 1)] s0
    after (exec (.add 5 1 2) s) 5 = 0 ∧ after (exec (.sltiu 5 2 (BitVec.ofInt 14 (-1))) s) 5 = 1 ∧ after (exec (.clz 5 0) s) 5 = 64 ∧
      after (exec (.sra 1 1 2) s) 1 = BitVec.allOnes 64 ∧ after (exec (.add 0 1 1) s) 0 = 0 := by decide +kernel
/-- R149: a quotient by zero is all ones and its remainder the dividend; quotients are truncated toward zero; the most negative number by -1 wraps. -/
theorem test_divide : let s := regs [(1, BitVec.ofInt 64 (-7)), (2, 2), (3, BitVec.intMin 64), (4, BitVec.allOnes 64)] s0
    after (exec (.div 5 1 0) s) 5 = BitVec.allOnes 64 ∧ after (exec (.rem 5 1 0) s) 5 = BitVec.ofInt 64 (-7) ∧ after (exec (.div 5 1 2) s) 5 = BitVec.ofInt 64 (-3) ∧
      after (exec (.rem 5 1 2) s) 5 = BitVec.ofInt 64 (-1) ∧ after (exec (.div 5 3 4) s) 5 = BitVec.intMin 64 ∧ after (exec (.rem 5 3 4) s) 5 = 0 ∧
      after (exec (.mulhu 5 4 4) s) 5 = BitVec.ofInt 64 (-2) := by decide +kernel
/-- R152: the wide immediates. -/
theorem test_wide_immediates : let s := regs [(1, 0x12345678)] s0
    after (exec (.li 5 0x80000000) s) 5 = 0xFFFFFFFF80000000 ∧ after (exec (.liu 5 0x80000000) s) 5 = 0x80000000 ∧ after (exec (.lih 1 1 0xABCD) s) 1 = 0xABCD12345678 := by
  decide +kernel
/-- R153, R154: a branch that is taken transfers control after its delay slot: one instruction later the pc is at the target. -/
theorem test_branch : pcAfter (exec (.beq 1 1 8) s0) = 4 ∧
    (match exec (.beq 1 1 8) s0 with | .next t => pcAfter (exec (.hint 0) t) == 32 | _ => false) = true ∧
    (match exec (.bne 1 1 8) s0 with | .next t => pcAfter (exec (.hint 0) t) == 8 | _ => false) = true := by decide +kernel
/-- R158: a frame store writes eight bytes and its load reads them. -/
theorem test_frame : let s := regs [(1, 0x1122334455667788), (2, 8192)] s0
    (match exec (.stf 1 2 (BitVec.ofInt 11 (-1))) s with
     | .next t => Memory.read (me t).frame 8184 == 0x88 && after (exec (.ldf 6 2 (BitVec.ofInt 11 (-1))) t) 6 == 0x1122334455667788
     | _ => false) = true := by decide +kernel

/-- An atomic on element 3 of the signed words at 0x7800. -/
def signedWord (v : Nat) (a : Word) : State := boxes [(4, boxAt 4 Fm.s32 0 0 16 1)] (regs [(2, 3), (6, a)] (words 0x7808 [v * 2 ^ 32] s0))
def amoOn : Amo := { d := 8, a := 6, b := 0, h := 4, idx := 2, cls := 0, sc := 0, sz := 2, acq := false, rel := false }
/-- R188: an atomic returns the old element, extended with its sign, and writes the new one. -/
theorem test_atomics :
    let returned (i : Instr) (s : State) : Out := match exec i s with | .next t => exec (.loadDataReturn 0 0 .clean) t | o => o
    (match returned (.amoadd amoOn) (signedWord 0xFFFFFFFE 5) with
      | .next t => (me t).ctl.rd 8 == BitVec.ofInt 64 (-2) && Memory.readNat t.mem 0x780C 4 == 3 | _ => false) = true ∧
    (match returned (.amomaxu amoOn) (signedWord 0xFFFFFFFE 5) with | .next t => Memory.readNat t.mem 0x780C 4 == 0xFFFFFFFE | _ => false) = true := by
  decide +kernel

/-- R186: a semaphore stays at its largest value and at zero. -/
theorem test_semaphores : let s := withTask (fun x => { x with sems := [(3, 0xFFFFFFFE)] }) (regs [(1, 5)] s0)
    (match exec (.semadd 0 1 0 3) s with | .next t => (me t).sem 3 == 0xFFFFFFFF | _ => false) = true ∧
    (match exec (.semsub 0 1 0 9) s with | .next t => (me t).sem 9 == 0 | _ => false) = true := by decide +kernel

/-- R67, R201: an inactive element keeps its bits under its own tag; a saturating sum stays at 127. -/
theorem test_vector_saturates : let s := withVec (fun v => { v with v := [(1, vreg Fm.s8 0x0164), (2, vreg Fm.s8 0x0164), (5, vreg Fm.s8 0x0909)], k := [(1, 1)] }) (vf Fm.s8)
    (match exec (.vadds (vword 5 1 2 0 1 Fm.s8)) s with | .next t => (me t).vec.reg 5 == vreg Fm.s8 0x097F | _ => false) = true := by decide +kernel
/-- R201: 1.0 + 1.0 = 2.0, 1.5 · 1.5 = 2.25, 1 / 0 = ∞, and 1 + 2^-24 rounds to even in FP32. -/
theorem test_vector_float :
    let s := withVec (fun v => { v with v := [(1, vreg Fm.fp32 0x3F8000003F8000003FC000003F800000), (2, vreg Fm.fp32 0x33800000000000003FC000003F800000)] }) (vf Fm.fp32)
    let at' (o : Out) (i : Nat) : Nat := match o with | .next t => ((me t).vec.reg 5).elem 32 i | _ => 0
    at' (exec (.vadd (vword 5 1 2 0 0 Fm.fp32)) s) 0 = 0x40000000 ∧ at' (exec (.vmul (vword 5 1 2 0 0 Fm.fp32)) s) 1 = 0x40100000 ∧
      at' (exec (.vdiv (vword 5 1 2 0 0 Fm.fp32)) s) 2 = 0x7F800000 ∧ at' (exec (.vadd (vword 5 1 2 0 0 Fm.fp32)) s) 3 = 0x3F800000 := by decide +kernel

/-- FIPS 180-4: the SHA-384 of "abc". RFC 3720: the CRC-32C of 32 zeros. -/
theorem test_sha384 : bigEndian ((sha384 [0x61, 0x62, 0x63]).take 8) = 0xCB00753F45A35E8B := by decide +kernel
theorem test_crc32c : (crc32c (List.replicate 32 0)).toNat = 0x8A9136AA := by decide +kernel

/-! ### Witnesses: frames, the step, encodings and the machine -/

/-- StoreFrame: a store of a word into the box and a frame store of a handle at the last 32 bytes. -/
theorem witness_store_frame : let s := boxes [(4, boxAt 4 Fm.s32 0 0 16 1)] (regs [(1, 8160), (2, 15)] s0)
    let x := me s
    let m : CMem := ⟨5, 4, 2, 0, 0, 2⟩
    let p := val (region 0 0 0 0 0 0, []) (s.scalarElem x (x.ctl.hd m.h) (x.ctl.rd m.idx).toNat m.sz true)
    Acts s x ∧ Ready x m.r ∧ Ready x m.idx ∧ storesPosted x < 32 ∧ good (s.scalarElem x (x.ctl.hd m.h) (x.ctl.rd m.idx).toNat m.sz true) = true ∧
      good (s.regionBytes x p.1 (elemBytes p.1 p.2).1 (elemBytes p.1 p.2).2 wantsWrite) = true ∧ x.ctl.pl = 0 ∧
      ((x.ctl.rd 1).toInt + 8 * (0 : BitVec 11).toInt).toNat % 32 = 0 ∧ 8160 + 32 ≤ (x.r.fsize + 1) * 4096 := by decide +kernel

/-- The task at one word of code, which its own stream comes to. -/
def coded (p : Pick) (w : List Nat) : State := { words 0 w s0 with agenda := [p] }
/-- StepRunsDecoded: a word that decodes, one that does not and a wide form; a poisoned operand and a copy of Belvedere's that differs. -/
theorem witness_step : (∀ w ∈ [0x04618700, 0x00000000, 0x40400000F8020000],
      let s := coded (.control 0) [w]
      let u := { s with agenda := [] }
      let x := me s
      s.agenda = [.control 0] ∧ s.task? 0 = some x ∧ controlRuns u x = true ∧ x.placed = true ∧ u.boundary x = .issue ∧ x.ctl.pc % 4 = 0 ∧
        good (u.codeNat x x.ctl.pc 4) = true ∧ good (u.codeNat x (x.ctl.pc + 4) 4) = true ∧
        isWide (BitVec.ofNat 32 (val 0 (u.codeNat x x.ctl.pc 4))) = decide (w = 0x40400000F8020000)) ∧
    (let x := me s0
     good (x.controlFlaw (.add 6 6 7) (awaited x)) = true ∧ good ((x.mapCtl (fun c => { c with bad := [7] })).controlFlaw (.add 6 6 7) (awaited x)) = false ∧
       good ({ x with bel := { x.bel with s := [(7, 1)] } }.controlFlaw (.trap 1) (awaited x)) = false ∧ x.r.core = some 0 ∧
       s0.unitShort 0 x = none ∧ (s0.core 0).claim = none) := by decide +kernel
/-- StepRunsDecoded: a vector word, with a poisoned mask and without, and an accumulator form that is to start and one that has started. -/
theorem witness_step_vector :
    (let s := withVec (fun v => { v with on := true }) (words 0 [0x7900000000000000] s0)
     (me s).vec.on = true ∧ streamRuns (me s) .vector = true ∧ (me s).mayIssue .vend = true ∧ good (s.codeNat (me s).own (me s).vec.pc 8) = true ∧ vectorUses .vend = []) ∧
    (∀ b ∈ [true, false], let x := { me s0 with vec := { (me s0).vec with kbad := if b then [1] else [] } }
      good (x.vectorFlaw (.vadd (vword 5 1 2 0 1 Fm.s8))) = !b) ∧
    vectorUses (.acczero (vword 34 0 0 0 0 Fm.a40)) ≠ [] ∧ (me s0).vec.opened = false ∧
    ({ me s0 with vec := { (me s0).vec with opened := true } }).vec.opened = true := by decide +kernel
/-- StepRunsDecoded: a word that goes into its queue and one that stays at the pc; a waiting word whose instruction may issue. -/
theorem witness_step_queues :
    (∀ p ∈ [(0x5800004000000240, false), (0x7900000000000000, true)],
      let s := withVec (fun v => { v with on := true }) (words 0 [p.1] s0)
      good (s.codeNat (me s).own (me s).vec.pc 8) = true ∧ (match decodeVector (BitVec.ofNat 64 p.1) with | .ok i => staysAtPc i == p.2 | .error _ => false) = true) ∧
    (let s := withVec (fun v => { v with on := true, queued := ahead 1, slip := 4, b := [(0, boxAt 1 Fm.z32 1 0 64 4)] }) s0
     let x := me s
     x.vec.queued[0]? = (ahead 1).head? ∧ streamRuns x .vector = true ∧
       (match decodeVector 0x5800004000000240 with
        | .ok i => x.mayIssueAfter i (x.vec.queued.take 0) 1 && vectorUses i == [] && good ({ x with vec := x.vec.issuing ((ahead 1).headD ⟨0, 0, false, 0⟩) }.vectorFlaw i) &&
            (s.touch 0 (vectorSections i)).isSome
        | .error _ => false) = true ∧ x.pendFault = none ∧ x.r.lazy = 0 ∧ x.ctl.delay = none ∧ s.requests (coreOfTask x) ≤ 1024) := by decide +kernel
/-- StepRunsDecoded: a record's pass that names no entry, one that is to start on its entries and one that has started. -/
theorem witness_step_engine : ∀ p ∈ [(copyWords 0, false), (0x10 * 2 ^ 56 + 5 * 2 ^ 40 + (0x83 * 2 ^ 56 + 0x41 * 2 ^ 24) * 2 ^ 320, false),
      (0x10 * 2 ^ 56 + 5 * 2 ^ 40 + (0x83 * 2 ^ 56 + 0x41 * 2 ^ 24) * 2 ^ 320, true)],
    let q := { started pairs with w := BitVec.ofNat 512 p.1, opened := p.2 }
    let x := me (copying q [])
    streamRuns x (streamOf .copy) = true ∧ mayComplete x .copy = false ∧ activeRecord .copy (x.eng .copy).queue = some (0, q) ∧ q.started = true ∧
      (decodeRecord q.w).toOption.isSome = true ∧ q.opened = p.2 ∧ (q.uses x = [] ↔ p.1 = copyWords 0) := by decide +kernel
/-- The step of a control stream runs its word, that of a vector stream its own, and the model's time moves by elapse. -/
theorem test_step : (match step (coded (.control 0) [0x0C71C001]) with | .next t => (me t).ctl.rd 7 == 1 && t.agenda.isEmpty | _ => false) = true ∧
    (match step { withVec (fun v => { v with on := true, issued := 1 }) (words 0 [0x7900000000000000] s0) with agenda := [.vector 0] } with
     | .next t => !(me t).vec.on && (me t).vec.done == 1 | _ => false) = true ∧
    (match step { s0 with agenda := [.elapse 7] } with | .next t => t.cycle == 1007 | _ => false) = true := by decide +kernel

/-- Hints, DecodeEncode, EncodeDecode, MemoryInvariant: words and states that meet their hypotheses. -/
theorem witness_encodings : (0xF0000000 : BitVec 32).extractLsb' 26 6 = 0x3C ∧ Acts s0 (me s0) ∧ (Instr.add 6 6 7).wellFormed = true ∧
    encode (.add 6 6 7) = .word 0x04618700 ∧ (decodeControl 0x04618700 0).toOption = some (.add 6 6 7) ∧ (decodeControl 0xF8020000 5).toOption = some (.li 8 5) := by
  decide +kernel
theorem witness_memory : s0.memOk ∧ Completes { s0 with agenda := [.elapse 1] } := ⟨by decide +kernel, _, rfl⟩
theorem witness_safe_run : SafeRun 1 { s0 with agenda := [.elapse 1] } := ⟨witness_memory.1, _, rfl, witness_memory.1⟩
end Sys2Proof.Tests
end

section
/-! PROOF. WAIT (01 R12; 10 R184, R185): what the word of condition bits says, what a valid wait block gives, and the two ends of the
form: in place, or in Waiting without the core. -/

namespace Sys2Proof.Machine
open Sys2Proof

/-! ### The word of condition bits -/

/-- The number whose bit i, below n, says whether p holds of i. -/
def bitSum (p : Nat → Bool) (n : Nat) : Nat := (List.range n).foldl (fun m i => if p i then m + 2 ^ i else m) 0

theorem bitSum_succ (p : Nat → Bool) (n : Nat) : bitSum p (n + 1) = if p n then bitSum p n + 2 ^ n else bitSum p n := by
  simp [bitSum, List.range_succ, List.foldl_append]

theorem bitSum_lt (p : Nat → Bool) (n : Nat) : bitSum p n < 2 ^ n := by
  induction n with
  | zero => simp [bitSum]
  | succ n ih => rw [bitSum_succ, Nat.pow_succ]; split <;> omega

theorem bitSum_ne_zero_iff (p : Nat → Bool) (n : Nat) : bitSum p n ≠ 0 ↔ ∃ i < n, p i = true := by
  induction n with
  | zero => simp [bitSum]
  | succ n ih =>
    have hpos : 0 < 2 ^ n := Nat.two_pow_pos n
    rw [bitSum_succ, Nat.exists_lt_succ_right, ← ih]
    cases p n with
    | true => simp
    | false => simp

theorem bitSum_eq_full_iff (p : Nat → Bool) (n : Nat) : bitSum p n = 2 ^ n - 1 ↔ ∀ i < n, p i = true := by
  induction n with
  | zero => simp [bitSum]
  | succ n ih =>
    have hlt := bitSum_lt p n
    rw [bitSum_succ, Nat.forall_lt_succ_right, ← ih, Nat.pow_succ]
    cases p n with
    | true => simp only [if_true, and_true]; omega
    | false => simp; omega

/-- The bits of a WAIT are those of its conditions, in their order. -/
theorem State.condBits_eq_bitSum (s : State) (x : Task) (cs : List WaitCond) :
    s.condBits x cs = bitSum (fun i => (cs[i]?).any (s.condHolds x)) cs.length := by
  unfold State.condBits bitSum
  congr 1
  funext m i
  cases hc : cs[i]? with
  | none => simp [hc]
  | some c => simp [hc]

/-- wait.any is met when some condition holds. -/
theorem State.condsMet_any_iff (s : State) (x : Task) (cs : List WaitCond) :
    condsMet cs.length (s.condBits x cs) false = true ↔ ∃ c ∈ cs, s.condHolds x c = true := by
  have hbits : condsMet cs.length (s.condBits x cs) false = true ↔ s.condBits x cs ≠ 0 := by simp [condsMet]
  rw [hbits, s.condBits_eq_bitSum, bitSum_ne_zero_iff]
  constructor
  · rintro ⟨i, hi, h⟩
    rw [List.getElem?_eq_getElem hi] at h
    exact ⟨cs[i], List.getElem_mem hi, h⟩
  · rintro ⟨c, hc, h⟩
    obtain ⟨i, hi, rfl⟩ := List.mem_iff_getElem.1 hc
    exact ⟨i, hi, by rw [List.getElem?_eq_getElem hi]; exact h⟩

/-- wait.all is met when every condition holds. -/
theorem State.condsMet_all_iff (s : State) (x : Task) (cs : List WaitCond) :
    condsMet cs.length (s.condBits x cs) true = true ↔ ∀ c ∈ cs, s.condHolds x c = true := by
  have hbits : condsMet cs.length (s.condBits x cs) true = true ↔ s.condBits x cs = 2 ^ cs.length - 1 := by simp [condsMet]
  rw [hbits, s.condBits_eq_bitSum, bitSum_eq_full_iff]
  constructor
  · intro h c hc
    obtain ⟨i, hi, rfl⟩ := List.mem_iff_getElem.1 hc
    have hbit := h i hi
    rw [List.getElem?_eq_getElem hi] at hbit
    exact hbit
  · intro h i hi
    rw [List.getElem?_eq_getElem hi]
    exact h cs[i] (List.getElem_mem hi)

/-! ### The wait block (R184) -/

/-- A sequence that completes has completed for each of its members. -/
theorem Res.mapM_eq_ok_mem {α β : Type} {f : α → Res β} : ∀ {l : List α} {bs : List β}, l.mapM f = .ok bs → ∀ a ∈ l, ∃ b, f a = .ok b
  | [], _, _, a, ha => absurd ha List.not_mem_nil
  | c :: l, bs, h, a, ha => by
    rw [List.mapM_cons] at h
    obtain ⟨b, hb, h⟩ := Res.bind_eq_ok.1 h
    obtain ⟨bs', hbs, _⟩ := Res.bind_eq_ok.1 h
    rcases List.mem_cons.1 ha with rfl | ha
    · exact ⟨b, hb⟩
    · exact Res.mapM_eq_ok_mem hbs a ha

/-- A condition word that resolves has read the register that holds its threshold, which is not poisoned. -/
theorem Task.waitCond_reads_sound {x : Task} {w : Nat} {c : WaitCond} (h : x.waitCond w = .ok c) (hr : natBits w 51 1 = 1) :
    BitVec.ofNat 6 (natBits w 45 6) = 0 ∨ x.ctl.bad.contains (BitVec.ofNat 6 (natBits w 45 6)).toNat = false := by
  unfold Task.waitCond at h
  obtain ⟨_, _, h⟩ := Res.bind_eq_ok.1 h
  rw [if_pos (beq_iff_eq.2 hr)] at h
  obtain ⟨_, ht, _⟩ := Res.bind_eq_ok.1 h
  obtain ⟨_, hv, _⟩ := Res.bind_eq_ok.1 ht
  obtain ⟨_, _, hsound⟩ := Task.src_eq_ok hv
  exact hsound

/-- Scalar registers that are all sound pass the check of a block. -/
theorem Task.soundRegs_ok {x : Task} {rs : List SReg} (h : ∀ r ∈ rs, r = 0 ∨ x.ctl.bad.contains r.toNat = false) :
    x.soundRegs rs [] = .ok () := by
  have hnone : rs.filter (fun r => r != 0 && x.ctl.bad.contains r.toNat && !awaited x r) = [] := by
    refine List.filter_eq_nil_iff.2 fun r hr => ?_
    rcases h r hr with rfl | hb
    · simp
    · simp only [hb, Bool.and_false, Bool.false_and, Bool.false_eq_true, not_false_eq_true]
  unfold Task.soundRegs
  rw [hnone]
  rfl

/-- The timeout of a WAIT: the block's own, or that of register a. -/
def Task.waitTimeout (x : Task) (a : SReg) (head : Nat) : Nat := if a = 0 then head / 2 ^ 32 % 2 ^ 32 else (x.ctl.rd a).toNat

/-- A block of one to eight conditions that resolve gives them and its timeout. -/
theorem State.waitBlock_ok {s : State} {x : Task} {a : SReg} {ext : BitVec 32} {head body : Nat} {cs : List WaitCond} (ha : Ready x a)
    (hhead : s.block x ext.toNat 8 8 = .ok head) (hlo : 1 ≤ head % 2 ^ 4) (hhi : head % 2 ^ 4 ≤ 8) (hzero : head / 2 ^ 4 % 2 ^ 28 = 0)
    (hbody : s.codeNat x (ext.toNat + 8) (8 * (head % 2 ^ 4)) = .ok body)
    (hcs : (List.range (head % 2 ^ 4)).mapM (fun i => x.waitCond (blockWord body i)) = .ok cs)
    (ht : a ≠ 0 → (x.ctl.rd a).toNat < 2 ^ 32) : s.waitBlock x a ext = .ok (cs, x.waitTimeout a head) := by
  have hn : natBits head 0 4 = head % 2 ^ 4 := by simp [natBits]
  have hcheck : (decide (1 ≤ head % 2 ^ 4) && decide (head % 2 ^ 4 ≤ 8) && natBits head 4 28 == 0) = true := by
    simpa [natBits, and_assoc] using And.intro hlo (And.intro hhi hzero)
  have hsound : x.soundRegs (((List.range (head % 2 ^ 4)).filter (fun i => natBits (blockWord body i) 51 1 == 1)).map
      (fun i => BitVec.ofNat 6 (natBits (blockWord body i) 45 6))) [] = .ok () := by
    refine Task.soundRegs_ok fun r hr => ?_
    obtain ⟨i, hi, rfl⟩ := List.mem_map.1 hr
    obtain ⟨hi, hreg⟩ := List.mem_filter.1 hi
    obtain ⟨c, hc⟩ := Res.mapM_eq_ok_mem hcs i hi
    exact Task.waitCond_reads_sound hc (by simpa using hreg)
  unfold State.waitBlock Task.waitTimeout
  simp only [hhead, hn, check_of hcheck, hbody, hsound, hcs, Res.bind_ok]
  by_cases h0 : a = 0
  · rw [if_pos (beq_iff_eq.2 h0), if_pos h0]
    rfl
  · rw [if_neg (mt beq_iff_eq.1 h0), if_neg h0, Task.src_ok ha.1 ha.2, Res.bind_ok, check_of (decide_eq_true (ht h0))]
    rfl

/-! ### The two ends of WAIT (R185) -/

section
variable {s : State} {x : Task} {d a : SReg} {ext : BitVec 32} {cs : List WaitCond} {timeout : Nat} (all : Bool)
  (hx : Acts s x) (hsv : x.service = false) (hdel : x.ctl.delay = none) (hd : Free x d) (hblk : s.waitBlock x a ext = .ok (cs, timeout))
include hx hsv hdel hd hblk

/-- WAIT completes in place when its conditions are met or its timeout is 0. -/
theorem State.wait_completes (h : condsMet cs.length (s.condBits x cs) all = true ∨ timeout = 0) :
    s.wait all d a ext = s.completes (x.wr d (BitVec.ofNat 64 (s.condBits x cs))) 8 := by
  have hnow : (condsMet cs.length (s.condBits x cs) all || timeout == 0) = true := by simpa using h
  refine State.issue_ok hx (Form.checks_ok (Nat.zero_le _) (.inr hsv) (.inr hdel)) ?_
  simp only [Task.dst_ok hd, hblk, Res.bind_ok, hnow, if_true]
  rfl

/-- Otherwise the task waits until the tick of its timeout, and its core is free. -/
theorem State.wait_waits (h : ¬ condsMet cs.length (s.condBits x cs) all = true) (ht : timeout ≠ 0) :
    s.wait all d a ext = .next ((s.setTask s.cur { x with
      st := .waiting, wait := some { conds := cs, all := all, dst := d, timeoutAt := s.cycle / 16 + timeout, met := none } }).releaseCore s.cur) := by
  have hlater : (condsMet cs.length (s.condBits x cs) all || timeout == 0) = false := by simp [h, ht]
  refine State.issue_ok hx (Form.checks_ok (Nat.zero_le _) (.inr hsv) (.inr hdel)) ?_
  simp only [Task.dst_ok hd, hblk, Res.bind_ok, hlater]
  rfl

end

/-- Settles O15: the block gives the conditions and the timeout, the bits decide whether they are met, and WAIT then has its two ends. -/
theorem waits : Obligations.Waits := by
  unfold Obligations.Waits
  intro s x d a ext head body cs hx hsv hdel hd ha hhead hlo hhi hzero hbody hcs ht
  have hblk := State.waitBlock_ok ha hhead hlo hhi hzero hbody hcs ht
  refine ⟨⟨fun h => ?_, fun hnot ht0 => ?_⟩, ⟨fun h => ?_, fun hnot ht0 => ?_⟩⟩
  · exact State.wait_completes false hx hsv hdel hd hblk (h.imp_left (s.condsMet_any_iff x cs).2)
  · exact State.wait_waits false hx hsv hdel hd hblk (mt (s.condsMet_any_iff x cs).1 hnot) ht0
  · exact State.wait_completes true hx hsv hdel hd hblk (h.imp_left (s.condsMet_all_iff x cs).2)
  · exact State.wait_waits true hx hsv hdel hd hblk (mt (s.condsMet_all_iff x cs).1 hnot) ht0

end Sys2Proof.Machine
end

section
/-! PROOF. The steps of the hardware scheduler (01 R12; 02 R14, R28; 19 R295, R298 to R305): for each device step one lemma for each
of its outcomes. -/

namespace Sys2Proof.Machine
open Sys2Proof

/-! ### Small facts -/

@[simp] theorem State.core_modCore (s : State) (c : Nat) (f : Core → Core) : (s.modCore c f).core c = f (s.core c) := by simp [State.modCore]

/-- A map over tasks that keeps their numbers is looked up through. -/
theorem SMap.find_map {α : Type} (f : Nat × α → Nat × α) (hf : ∀ p, (f p).1 = p.1) (k : Nat) :
    ∀ m : SMap α, SMap.find (m.map f) k = (SMap.find m k).map (fun v => (f (k, v)).2)
  | [] => rfl
  | (j, v) :: r => by
    by_cases h : j = k
    · subst h
      simp [SMap.find, hf]
    · simp [SMap.find, hf, h, SMap.find_map f hf k r]

/-- A WAIT that holds no bits yet latches those of a tick's end that meet its conditions, or that its timeout ends. -/
theorem Wait.atTickEnd_unlatched {w : Wait} (hm : w.met = none) (bits tick : Nat) :
    w.atTickEnd bits tick = if condsMet w.conds.length bits w.all = true ∨ w.timeoutAt ≤ tick then some bits else none := by
  simp [Wait.atTickEnd, hm]

/-- What the dispatch of a task that has no saved context reads is the launch queue descriptor. -/
theorem State.dispatchable_of_fresh {s : State} {x : Task} (hpre : x.r.preempted = false) (hq : s.queueReachable (s.partOf x) = true) :
    s.dispatchable x = true := by simp [State.dispatchable, hpre, hq]

section
variable {s : State} {t : Nat} {x : Task} (hx : s.task? t = some x)
include hx

/-! ### Storage and inward copies (R14, R16, R18) -/

/-- The inward copies of a task that is no service core's are complete: it becomes Runnable in its place. -/
theorem execCopyInComplete_ready (hst : x.st = .copyingIn) (hp : x.placed = true) (hk : ∀ d : Nat, x.r.kind ≠ .service d) :
    execCopyInComplete t s = .next (s.copiesDone t) := by
  unfold execCopyInComplete
  simp only [hx, hst, hp]
  cases hkind : x.r.kind with
  | service d => exact absurd hkind (hk d)
  | root | child g | firing b w | amendment b w => rfl

/-- A task whose copies can be read and whose boxes fit gets its storage. -/
theorem execChildStorageAllocation_places {core : Nat} {args : List Arg} {p : State × List Arg} (hst : x.st = .copyingIn ∨ x.st = .runnable)
    (hp : x.placed = false) (hf : x.pendFault = none) (hh : x.r.home = none)
    (hargs : x.r.args.mapM (fun (a : Arg) => if a.fresh && a.stale then s.snapshot (s.argParent x) a else Except.ok a) = .ok args)
    (hsound : ∀ a ∈ args, a.fresh = true → a.bad = none) (hcore : (if x.r.level = 2 then s.storageCore x else some 0) = some core)
    (hplace : (s.reserveStaging x).bind (fun u => u.placeBoxes x (s.argParent x) t core (args.map (fun a => { a with stale := false }))) = some p) :
    execChildStorageAllocation t s = .next (p.1.setTask t { x with r := { x.r with
      args := p.2, boxes := p.2.map (fun a => a.child), bound := if x.r.level = 2 then some core else x.r.bound } }) := by
  have hgo : (!(x.st == .copyingIn || x.st == .runnable) || x.r.home.isSome || x.placed || x.pendFault.isSome) = false := by
    rcases hst with h | h <;> simp [h, hp, hf, hh]
  have hbad : args.findSome? (fun a => if a.fresh then a.bad else none) = none := by
    refine List.findSome?_eq_none_iff.2 fun a ha => ?_
    split
    · exact hsound a ha ‹_›
    · rfl
  unfold execChildStorageAllocation
  simp only [hx, hgo, hargs, hbad, hcore, hplace]
  rfl

/-! ### Dispatch (R295, R297) -/

section
variable {core : Nat} (hc : core < 1152) (hfree : (s.core core).task = none) (hopen : (s.core core).fenced = false)
  (hpick : s.pickRecord core = some t) (hpre : x.r.preempted = false) (hst : x.st = .runnable) (hq : s.queueReachable (s.partOf x) = true)
include hc hfree hopen hpick hpre hst hq

/-- The record that a free core picks begins its slice there, where its frame finds a place. -/
theorem execDispatch_starts {slot : Nat} {u : State} {y : Task} (hslot : s.frameSlot t core x = some slot)
    (hu : (s.dequeue t).materialise t = some u) (hy : u.task? t = some y) :
    execDispatch core s = .next ((u.setTask t (u.startSlice core y slot)).modCore core
      (fun k => { k.takeRegs y.r.cregs with
        task := some t, request := false, claimant := none, claim := none, buffer := k.buffer.filter (fun i => i != t) })) := by
  have hnum : core < 1161 := by omega
  unfold execDispatch
  simp [hnum, hc, hfree, hopen, hpick, hx, State.dispatchable_of_fresh hpre hq, hpre, hst, hslot, hu, hy]

/-- A frame that finds no place claims one. -/
theorem execDispatch_claims (hslot : s.frameSlot t core x = none) :
    execDispatch core s = .next (s.modCore core (fun k => { k with claim := some .scratch })) := by
  have hnum : core < 1161 := by omega
  unfold execDispatch
  simp [hnum, hc, hfree, hopen, hpick, hx, State.dispatchable_of_fresh hpre hq, hpre, hst, hslot]

end

/-! ### Pre-emption (R301, R302) -/

/-- A request that a slice yields to suspends it, to the head of its queue; without a slot its save fails. -/
theorem execPreemption_suspends {core : Nat} (hcore : (s.core core).task = some t) (hr : (s.core core).request = true) (hy : s.yields x = true)
    (hm : s.maySuspend x = true) (hfen : (s.core core).fenced = false ∨ x.r.level ≠ 2)
    (hasked : (s.core core).asked ≠ some s.cycle ∨ x.st ≠ .running) :
    let u := s.modCore core (fun k => { k with request := false })
    execPreemption core s = .next (((u.suspend t).map (fun v => v.makeRunnable t true)).getD (u.saveFails t)) := by
  intro u
  have hturn : execPreemption core s = s.preempt core := by
    unfold execPreemption
    rcases hasked with h | h <;> simp [hcore, hx, h]
  have hstay : ((u.core core).fenced && x.r.level == 2) = false := by rcases hfen with h | h <;> simp [u, h]
  rw [hturn]
  unfold State.preempt
  simp only [hcore, hx, hr, hy, hm, hstay, u]
  cases (s.modCore core (fun k => { k with request := false })).suspend t <;> rfl

/-! ### Storage units (R303, R304) -/

section
variable {unit : StorageUnit} {core : Nat} (hhome : x.r.home = some core)
include hhome

/-- A unit that nothing claims, or that another task is to give up, stays. -/
theorem execStorageUnitSave_keeps
    (h : ¬ ((s.core core).claim = some (unitClass unit) ∨ (unitClass unit = .scratch ∧ s.scratchFull core = true)) ∨
      s.unitVictim core (unitClass unit) ≠ some t) : execStorageUnitSave t unit s = .next s := by
  unfold execStorageUnitSave
  rcases h with h | h
  · obtain ⟨hclaim, hfull⟩ := not_or.1 h
    have hwanted : ((s.core core).claim == some (unitClass unit) || (unitClass unit == .scratch && s.scratchFull core)) = false := by
      simpa [hclaim] using hfull
    simp [hx, hhome, hwanted]
  · simp [hx, hhome, h]

/-- A claimed unit of the task that has waited longest is written to its slot. -/
theorem execStorageUnitSave_saves {u : State} (hoff : x.r.core = none)
    (hwanted : (s.core core).claim = some (unitClass unit) ∨ (unitClass unit = .scratch ∧ s.scratchFull core = true))
    (hvictim : s.unitVictim core (unitClass unit) = some t) (hgive : s.canGive t x = true) (hslot : s.slotFor t x = some u) :
    execStorageUnitSave t unit s = .next ((u.stopForClaim t (unitStreams (unitClass unit))).trySave t (unitSections unit)) := by
  have hw : ((s.core core).claim == some (unitClass unit) || (unitClass unit == .scratch && s.scratchFull core)) = true := by
    simpa using hwanted
  unfold execStorageUnitSave
  simp [hx, hhome, hoff, hw, hvictim, hgive, hslot]

end

/-! ### Budgets (R29, R298) -/

section
variable {l : Launch} (hl : s.launch? x.r.launch = some l) (hgone : budgetGone x = true) (hq : s.queueReachable (s.partOf x) = true)
include hl hgone hq

/-- OVR 0: the budget's end is the task's. -/
theorem execSliceBudgetExhausted_ends (ho : l.ovr = 0) :
    execSliceBudgetExhausted t s = .next ((s.endTask t Flt.budget).interruptSupervisor (s.partOf x)) := by
  unfold execSliceBudgetExhausted
  simp [hx, hl, hgone, hq, ho]

/-- OVR 1: the grant, once. -/
theorem execSliceBudgetExhausted_grants (ho : l.ovr = 1) (hg : x.r.granted = false) :
    execSliceBudgetExhausted t s = .next (s.setTask t { x with r := { x.r with budget := l.ovrc, granted := true } }) := by
  unfold execSliceBudgetExhausted
  simp [hx, hl, hgone, hq, ho, hg, Task.mapRec]

/-- OVR 2 without a contract: the task goes to its queue's tail with a new budget. -/
theorem execSliceBudgetExhausted_requeues {u : State} (ho : l.ovr = 2) (hk : s.contractOf x = none) (hm : s.maySuspend x = true)
    (hu : s.suspend t = some u) : execSliceBudgetExhausted t s =
      .next ((u.modTask t (fun y => { y with r := { y.r with budget := s.sliceBudget x } })).makeRunnable t false) := by
  unfold execSliceBudgetExhausted
  simp [hx, hl, hgone, hq, ho, hk, hm, hu]
  rfl

/-- OVR 2 under a contract: the task is deferred. -/
theorem execSliceBudgetExhausted_defers {u : State} (ho : l.ovr = 2) (hk : s.contractOf x ≠ none) (hm : s.maySuspend x = true)
    (hu : s.suspend t = some u) : execSliceBudgetExhausted t s = .next (u.modTask t (fun y => { y with st := .deferred })) := by
  unfold execSliceBudgetExhausted
  simp [hx, hl, hgone, hq, ho, Option.isSome_iff_ne_none.2 hk, hm, hu]

end

/-! ### Return (R28, R256) -/

section
variable (hdead : x.r.dead = false) (hst : x.st = .retiring) (hend : x.r.ending = true) (hdr : x.drained = true) (hact : x.ctl.act = false)
  (hf : x.pendFault = none) (hpo : x.holdsPoison = false)
include hdead hst hend hdr hact hf hpo

/-- A task that has ended and drained gives up its core; it waits there for its children, its frames and its siblings. -/
theorem execTaskReturn_waits (h : x.r.jcount ≠ 0 ∨ (s.releaseCore t).framesForwarded t = true ∨ (s.releaseCore t).overtaken x = true) :
    execTaskReturn t s = .next (s.releaseCore t) := by
  have hwait : (x.r.jcount != 0 || (s.releaseCore t).framesForwarded t || (s.releaseCore t).overtaken x) = true := by
    simpa [or_assoc] using h
  unfold execTaskReturn
  simp [hx, hdead, hst, hend, hdr, hact, hf, hpo, hwait]

/-- With none of them left its outward copies are applied and it has returned. -/
theorem execTaskReturn_returns {y : Task} {v w : State} (hy : (s.releaseCore t).task? t = some y) (hj : x.r.jcount = 0)
    (hfr : (s.releaseCore t).framesForwarded t = false) (hov : (s.releaseCore t).overtaken x = false)
    (hv : ((s.releaseCore t).setTask t { y with st := .returning }).returnAll y = .ok v) (hw : v.finishReturn t 0 = .ok w) :
    execTaskReturn t s = .next (w.reapDead (w.tasks.length + 1)) := by
  unfold execTaskReturn
  simp [hx, hdead, hst, hend, hdr, hact, hf, hpo, hj, hfr, hov, hy, hv, hw, State.deliverReturn]

end

/-! ### A WAIT goes on (R12, R185) -/

section
variable {w : Wait} (hst : x.st = .waiting) (hwait : x.wait = some w)
include hst hwait

/-- Until a tick's end has latched its bits a WAIT stays. -/
theorem execWait_unlatched (hm : w.met = none) : execWaitConditionMet t s = .next s ∧ execWaitTimeout t s = .next s := by
  constructor
  · simp [execWaitConditionMet, hx, hst, hwait, hm]
  · simp [execWaitTimeout, hx, hst, hwait, hm]

/-- Latched bits that meet the conditions are WAIT_CONDITION_MET's. -/
theorem execWait_met {bits : Nat} (hm : w.met = some bits) (h : condsMet w.conds.length bits w.all = true) :
    execWaitConditionMet t s = .next (s.resumeWait t x w bits) ∧ execWaitTimeout t s = .next s := by
  constructor
  · simp [execWaitConditionMet, hx, hst, hwait, hm, h]
  · simp [execWaitTimeout, hx, hst, hwait, hm, h]

/-- Latched bits that do not meet them are WAIT_TIMEOUT's. -/
theorem execWait_timedOut {bits : Nat} (hm : w.met = some bits) (h : condsMet w.conds.length bits w.all = false) :
    execWaitTimeout t s = .next (s.resumeWait t x w bits) ∧ execWaitConditionMet t s = .next s := by
  constructor
  · simp [execWaitTimeout, hx, hst, hwait, hm, h]
  · simp [execWaitConditionMet, hx, hst, hwait, hm, h]

/-- A tick's end latches what a waiting task's conditions give then. -/
theorem State.task_latchWaits : s.latchWaits.task? t = some { x with wait := some { w with met := w.atTickEnd (s.condBits x w.conds) s.tick } } := by
  have hfind : SMap.find s.tasks t = some x := hx
  unfold State.latchWaits State.task?
  rw [SMap.find_map _ (fun p => by dsimp only; split <;> rfl), hfind]
  simp [hst, hwait]

end

end
end Sys2Proof.Machine
end

section
/-! PROOF. Trap delivery (18 R271, R272, R275; 16 R261; 21 R313, R326): what a trap entry that goes through makes of its task, and the device
steps that lead to one. -/

namespace Sys2Proof.Machine
open Sys2Proof

/-! ### Trap entry (R271) -/

/-- The supervisor's launch l can take a trap of the task: its root boxes can be read, the task's registers have settled and agree with
Belvedere's, and its trap frame is free. -/
def State.Handles (s : State) (x : Task) (l : Launch) : Prop :=
  ∃ sv : Nat, s.supervisorOf (s.partOf x) = some sv ∧ s.launch? sv = some l ∧ s.handlerFault l = none ∧ s.rootBoxesReachable l = true ∧
    x.service = false ∧ x.agrees = true ∧ noLoads x = true ∧ x.ctl.act = false

/-- The state without the misses of a task's control stream. -/
def State.dropMisses (s : State) (t : Nat) : State :=
  { s with misses := s.misses.filter (fun m => !(m.task == t && m.stream == Stream.control)) }

/-- The context of a task that takes a trap for the supervisor's launch l at its pc. -/
def State.trapContext (s : State) (x : Task) (code : Nat) (int : Bool) (val : Word) (l : Launch) : Ctl :=
  x.ctl.enter code int x.ctl.pc x.ctl.pc val (word x.r.pa) (s.rootBoxes l) ((s.core (coreOfTask x)).svec.toNat % 2 ^ 32)

/-- A trap that can be taken is: the task goes on in the handler. -/
theorem State.trapEntry_next {s : State} {x : Task} {l : Launch} (t code : Nat) (int : Bool) (val : Word) (h : s.Handles x l) :
    s.trapEntry t x code int x.ctl.pc x.ctl.pc val =
      .next ((s.dropMisses t).setTask t { x with ctl := s.trapContext x code int val l }.follow) := by
  obtain ⟨sv, hsv, hl, hfault, hreach, huser, hagrees, hloads, hact⟩ := h
  have haside : x.setAside = x := by simp [Task.setAside, hloads]
  have hlaunch : (if x.service then some x.r.launch else s.supervisorOf (s.partOf x)).bind s.launch? = some l := by simp [huser, hsv, hl]
  unfold State.trapEntry
  simp only [hact, hagrees, hloads, hlaunch, hfault, hreach, haside]
  rfl

/-- Task x goes on in the handler of launch l, which has its root boxes, at SVEC with PL 1 or above and interrupts off; the trap frame and
the trap registers say what was interrupted, where and why (R269 to R271). -/
def State.EntersHandler (s : State) (t : Nat) (x : Task) (o : Out) (code : Nat) (int : Bool) (val : Word) (l : Launch) : Prop :=
  ∃ y : Task, o = .next ((s.dropMisses t).setTask t y) ∧ y = { x with ctl := y.ctl }.follow ∧
    y.ctl.tframe = { s := x.ctl.s, h := x.ctl.h, loops := x.ctl.loops, bad := x.ctl.bad, hbad := x.ctl.hbad, own := x.ctl.own } ∧
    y.ctl.tstate = BitVec.ofNat 64 (code + (if int then 2 ^ 9 else 0) + x.ctl.pl * 2 ^ 10 + (if x.ctl.ie then 2 ^ 12 else 0)) ∧
    y.ctl.taddr = BitVec.ofNat 64 x.ctl.pc ∧ y.ctl.tresume = BitVec.ofNat 64 x.ctl.pc ∧ y.ctl.tval = val ∧
    y.ctl.pl = max x.ctl.pl 1 ∧ y.ctl.ie = false ∧ y.ctl.act = true ∧ y.ctl.pc = (s.core (coreOfTask x)).svec.toNat % 2 ^ 32 ∧
    y.ctl.h = s.rootBoxes l

/-- TSTATE outside a delay slot (R270). -/
theorem tstateWord_sequential (code : Nat) (int : Bool) (pl : Nat) (ie : Bool) : tstateWord code false int pl ie =
    BitVec.ofNat 64 (code + (if int then 2 ^ 9 else 0) + pl * 2 ^ 10 + (if ie then 2 ^ 12 else 0)) := by
  cases int <;> cases ie <;> rfl

/-- A trap that can be taken outside a delay slot enters the handler. -/
theorem State.trapEntry_entersHandler {s : State} {x : Task} {l : Launch} (t code : Nat) (int : Bool) (val : Word) (h : s.Handles x l)
    (hdel : x.ctl.delay = none) : s.EntersHandler t x (s.trapEntry t x code int x.ctl.pc x.ctl.pc val) code int val l := by
  have hlink : x.ctl.beforeLink = x.ctl := by
    unfold Ctl.beforeLink
    rw [hdel]
  refine ⟨_, State.trapEntry_next t code int val h, rfl, ?frame, ?state, ?addr, ?resume, rfl, rfl, rfl, rfl, rfl, rfl⟩
  case frame => simp only [Task.follow, State.trapContext, Ctl.enter, hlink]
  case state =>
    simp only [Task.follow, State.trapContext, Ctl.enter, hdel, Option.isSome_none]
    exact tstateWord_sequential code int x.ctl.pl x.ctl.ie
  case addr => simp only [Task.follow, State.trapContext, Ctl.enter, hdel]
  case resume => simp only [Task.follow, State.trapContext, Ctl.enter, hdel]

/-! ### Interrupts (R275) -/

section
variable {s : State} {t core v : Nat} {x : Task} (hx : s.task? t = some x) (hcore : (s.core core).task = some t)
  (hv : lowestPending (s.core core) = some v)
include hx hcore hv

/-- A pending vector wakes a halted core. -/
theorem execHaltWake_wakes (h : x.ctl.halted = true) :
    execHaltWake core s = .next (s.setTask t { x with ctl := { x.ctl with halted := false } }) := by
  unfold execHaltWake
  simp [hcore, hx, h, hv]

/-- At a boundary that takes interrupts the lowest pending vector traps. -/
theorem execInterruptEntry_traps {n : Nat} (hr : controlRuns s x = true) (hb : s.boundary x = .interrupt n) :
    execInterruptEntry core s = s.trapEntry t x v true x.ctl.pc x.ctl.pc 0 := by
  unfold execInterruptEntry
  simp [hcore, hv, hx, hr, hb]

end

/-! ### Faults of records and vector instructions (R261, R272, R313, R326) -/

/-- A fault of the task goes to the supervisor: its code is one that always does, or one that TDELEG selects (R272). -/
def State.Traps (s : State) (x : Task) (code : Nat) : Prop :=
  code = Flt.page ∨ code = Flt.trap ∨ code = Flt.brk ∨ s.delegates x code = true

theorem State.toSupervisor_of_traps {s : State} {x : Task} {code : Nat} (h : s.Traps x code) : (toSupervisor code || s.delegates x code) = true := by
  simpa [State.Traps, toSupervisor, or_assoc] using h
theorem State.toSupervisor_of_not_traps {s : State} {x : Task} {code : Nat} (h : ¬ s.Traps x code) :
    (toSupervisor code || s.delegates x code) = false := by simpa [State.Traps, toSupervisor, and_assoc] using h

/-- The page that fault f of a task asked for is there. -/
def State.PagePresent (s : State) (x : Task) (f : PendFault) : Prop :=
  f.code = Flt.page ∧ ∃ w, s.walk (s.partOf x) f.val.toNat ⟨false, false⟩ = .ok w

section
variable {s : State} {t : Nat} {x : Task} {f : PendFault} (hx : s.task? t = some x) (hf : x.pendFault = some f) (hact : x.ctl.act = false)
include hx hf hact

/-- A page that has come raises nothing. -/
theorem execFaultDelivery_present (h : s.PagePresent x f) : execFaultDelivery t s = .next (s.setTask t { x with pendFault := none }) := by
  obtain ⟨hcode, w, hw⟩ := h
  unfold execFaultDelivery
  simp [hx, hf, hact, hcode, hw]

/-- Any other fault is raised at the control stream's boundary. A Waiting task has none: a trap puts it at the head of its queue, its
WAIT given up, and what does not trap takes effect at once. -/
theorem execFaultDelivery_absent (h : ¬ s.PagePresent x f) : execFaultDelivery t s =
    if controlRuns s x then s.raise t { x with pendFault := none } f.code f.val
    else if x.st = .waiting then
      if toSupervisor f.code || s.delegates x f.code then .next ((s.setTask t { x with wait := none }).makeRunnable t true)
      else if isRequeue f.code then .next (s.requeue t { x with pendFault := none } f.code f.val)
      else .next (s.endTask t f.code)
    else .next s := by
  unfold execFaultDelivery
  by_cases hcode : f.code = Flt.page
  · cases hw : s.walk (s.partOf x) f.val.toNat ⟨false, false⟩ with
    | ok w => exact absurd ⟨hcode, w, hw⟩ h
    | error c => simp [hx, hf, hact, hw]
  · simp [hx, hf, hact, hcode]

/-- A fault whose code re-runs rolls the node back, at the boundary or in a WAIT that no trap ends. -/
theorem execFaultDelivery_requeues (h : ¬ s.PagePresent x f) (hc : rerunCode f.code = true)
    (hr : controlRuns s x = true ∨ (x.st = .waiting ∧ ¬ s.Traps x f.code)) :
    execFaultDelivery t s = .next (s.requeue t { x with pendFault := none } f.code f.val) := by
  rw [execFaultDelivery_absent hx hf hact h]
  by_cases hrun : controlRuns s x = true
  · simp [hrun, State.raise, hact, hc]
  · obtain ⟨hst, htraps⟩ := hr.resolve_left hrun
    simp [hrun, hst, State.toSupervisor_of_not_traps htraps, hc]

/-- A fault that neither re-runs nor traps ends the task. -/
theorem execFaultDelivery_ends (h : ¬ s.PagePresent x f) (hc : rerunCode f.code = false) (htraps : ¬ s.Traps x f.code)
    (hr : controlRuns s x = true ∨ x.st = .waiting) : execFaultDelivery t s = .next (s.endTask t f.code) := by
  have htask : (toSupervisor f.code || s.delegates { x with pendFault := none } f.code) = false := State.toSupervisor_of_not_traps htraps
  rw [execFaultDelivery_absent hx hf hact h]
  by_cases hrun : controlRuns s x = true
  · simp only [hrun, State.raise, hact, hc, htask]
    rfl
  · simp [hrun, hr.resolve_left hrun, State.toSupervisor_of_not_traps htraps, hc]

/-- A trap for a Waiting task puts it at the head of its queue, its WAIT given up. -/
theorem execFaultDelivery_wakes (h : ¬ s.PagePresent x f) (htraps : s.Traps x f.code) (hr : controlRuns s x = false) (hst : x.st = .waiting) :
    execFaultDelivery t s = .next ((s.setTask t { x with wait := none }).makeRunnable t true) := by
  rw [execFaultDelivery_absent hx hf hact h]
  simp [hr, hst, State.toSupervisor_of_traps htraps]

/-- At the boundary a fault that traps enters the supervisor. -/
theorem execFaultDelivery_traps (h : ¬ s.PagePresent x f) (hc : rerunCode f.code = false) (htraps : s.Traps x f.code)
    (hr : controlRuns s x = true) :
    execFaultDelivery t s = s.trapEntry t { x with pendFault := none } f.code false x.ctl.pc x.ctl.pc f.val := by
  have htask : (toSupervisor f.code || s.delegates { x with pendFault := none } f.code) = true := State.toSupervisor_of_traps htraps
  rw [execFaultDelivery_absent hx hf hact h]
  simp only [hr, State.raise, hact, hc, htask]
  rfl

end
end Sys2Proof.Machine
end

section
/-! PROOF. The statement of the scheduler's and the traps' device steps, assembled from their lemmas. -/

namespace Sys2Proof.Machine
open Sys2Proof

/-- Settles O42: each device step goes the way that the lemma of its outcome says. -/
theorem schedulerEvents : Obligations.SchedulerEvents := by
  unfold Obligations.SchedulerEvents
  intro s t x hx enters handled
  refine ⟨?copyIn, ?storage, ?dispatch, ?preempt, ?unitSave, ?budget, ?taskReturn, ?wait, ?interrupt, ?fault⟩
  case copyIn => exact execCopyInComplete_ready hx
  case storage =>
    intro core args p hst hp hf hh hargs hsound hcore hplace
    exact execChildStorageAllocation_places hx hst hp hf hh hargs hsound hcore hplace
  case dispatch =>
    intro core hc hfree hopen hpick hpre hst hq
    exact ⟨fun slot u y hslot hu hy => execDispatch_starts hx hc hfree hopen hpick hpre hst hq hslot hu hy,
      execDispatch_claims hx hc hfree hopen hpick hpre hst hq⟩
  case preempt =>
    intro core hcore hr hy hm hfen hasked u
    refine (execPreemption_suspends hx hcore hr hy hm hfen hasked).trans ?_
    cases u.suspend t <;> rfl
  case unitSave =>
    intro unit core hhome hoff c wanted
    exact ⟨execStorageUnitSave_keeps hx hhome, fun u hw hvictim hgive hslot => execStorageUnitSave_saves hx hhome hoff hw hvictim hgive hslot⟩
  case budget =>
    intro l hl hgone hq
    exact ⟨execSliceBudgetExhausted_ends hx hl hgone hq, execSliceBudgetExhausted_grants hx hl hgone hq,
      fun u => execSliceBudgetExhausted_requeues hx hl hgone hq, fun u => execSliceBudgetExhausted_defers hx hl hgone hq⟩
  case taskReturn =>
    intro hdead hst hend hdr hact hf hpo u y hy
    exact ⟨execTaskReturn_waits hx hdead hst hend hdr hact hf hpo,
      fun v w hj hfr hov hv hw => execTaskReturn_returns hx hdead hst hend hdr hact hf hpo hy hj hfr hov hv hw⟩
  case wait =>
    intro w hst hwait
    refine ⟨fun hm => ?_, fun bits hm => ⟨execWait_met hx hst hwait hm, execWait_timedOut hx hst hwait hm⟩⟩
    obtain ⟨hmet, htime⟩ := execWait_unlatched hx hst hwait hm
    refine ⟨hmet, htime, ?_⟩
    rw [State.task_latchWaits hx hst hwait, Wait.atTickEnd_unlatched hm]
    rfl
  case interrupt =>
    intro core v hcore hv
    refine ⟨execHaltWake_wakes hx hcore hv, fun n l hr hb hh hdel => ?_⟩
    have htrap : exec (.interruptEntry core) s = s.trapEntry t x v true x.ctl.pc x.ctl.pc 0 := execInterruptEntry_traps hx hcore hv hr hb
    rw [htrap]
    exact State.trapEntry_entersHandler t v true 0 hh hdel
  case fault =>
    intro f hf hact z traps present
    refine ⟨execFaultDelivery_present hx hf hact, execFaultDelivery_requeues hx hf hact, execFaultDelivery_ends hx hf hact,
      execFaultDelivery_wakes hx hf hact, fun l habs hc htraps hr hh hdel => ?_⟩
    have htrap : exec (.faultDelivery t) s = s.trapEntry t z f.code false z.ctl.pc z.ctl.pc f.val :=
      execFaultDelivery_traps hx hf hact habs hc htraps hr
    rw [htrap]
    exact State.trapEntry_entersHandler (x := z) t f.code false f.val hh hdel

end Sys2Proof.Machine
end

section
/-! SUPPORT. How an instruction of the control stream ends once its checks pass: as its effect says, or with a wait at issue (R142). -/

namespace Sys2Proof.Machine
open Sys2Proof

section
variable {s : State} {f : Form} {x : Task} {body : Task → Res State} (hx : s.task? s.cur = some x) (hf : f.checks x = .ok ())
include hx hf

/-- Once its checks pass, an instruction ends as its effect does. -/
theorem State.issue_deliver : s.issue f body = s.deliver s.cur x (body x) := by
  unfold State.issue
  rw [hx]
  simp only [hf, Res.bind_ok]

/-- An instruction that waits at issue leaves the machine as it is. -/
theorem State.issue_stall (hb : body x = .error .stall) : s.issue f body = .next s := by
  rw [State.issue_deliver hx hf, hb]
  rfl

end

end Sys2Proof.Machine
end

section
/-! PROOF. JOIN, YIELD and END (02 R23 to R29; 10 R171): the context that JOIN and YIELD leave, and what each of the three forms answers. -/

namespace Sys2Proof.Machine
open Sys2Proof

/-! ### The context after JOIN and YIELD (R24, R27) -/

theorem Task.afterJoin_rd (x : Task) (r : SReg) : x.afterJoin.ctl.rd r = if r.toNat < 32 then x.ctl.rd r else 0 := by
  by_cases hr : r.toNat < 32
  · simp [Task.afterJoin, Ctl.rd, SMap.get, SMap.find_filter r.toNat x.ctl.s (fun i => decide (i < 32)) (decide_eq_true hr), hr]
  · simp [Task.afterJoin, Ctl.rd, SMap.get, SMap.find_filter_of_not r.toNat x.ctl.s (fun i => decide (i < 32)) (decide_eq_false hr), hr]

theorem Task.afterJoin_hd (x : Task) (r : HReg) : x.afterJoin.ctl.hd r = if r.toNat < 16 then x.ctl.hd r else 0 := by
  by_cases hr : r.toNat < 16
  · simp [Task.afterJoin, Ctl.hd, SMap.get, SMap.find_filter r.toNat x.ctl.h (fun i => decide (i < 16)) (decide_eq_true hr), hr]
  · simp [Task.afterJoin, Ctl.hd, SMap.get, SMap.find_filter_of_not r.toNat x.ctl.h (fun i => decide (i < 16)) (decide_eq_false hr), hr]

/-- Task y holds what JOIN and YIELD keep of x, and nothing of what they clear; the back-edge of a body that they end comes after (R155). -/
def Task.KeptByJoin (x y : Task) : Prop :=
  (∃ c : Ctl, y.ctl = c.retire 4 ∧ (∀ r : SReg, c.rd r = if r.toNat < 32 then x.ctl.rd r else 0) ∧
    (∀ r : HReg, c.hd r = if r.toNat < 16 then x.ctl.hd r else 0) ∧
    c.pc = x.ctl.pc ∧ c.loops = x.ctl.loops ∧ c.delay = x.ctl.delay ∧ c.pl = x.ctl.pl) ∧ y.frame = x.frame ∧
  y.vec = { Vec.empty with done := x.vec.done, issued := x.vec.issued } ∧ y.mat.done = x.mat.done ∧ y.mat.issued = x.mat.issued ∧
  y.mat.cfg = [] ∧ y.cpy.done = x.cpy.done ∧ y.cpy.issued = x.cpy.issued ∧ y.cpy.cfg = [] ∧ y.tiles = [] ∧ y.cbs = [] ∧ y.sems = []

/-- The context after JOIN is the kept one, whatever the state and the record that go with it. -/
theorem Task.keptByJoin_afterJoin (x : Task) (st : TaskSt) (r : Rec) : x.KeptByJoin { x.afterJoin.retire 4 with st := st, r := r } := by
  refine ⟨⟨x.afterJoin.ctl, rfl, x.afterJoin_rd, x.afterJoin_hd, rfl, rfl, rfl, rfl⟩, ?_⟩
  simp [Task.afterJoin, Eng.empty]

/-! ### The three forms (R171) -/

section
variable {s : State} {x : Task} (hx : Acts s x) (hdel : x.ctl.delay = none)
include hx hdel

/-- With its work drained a task that joins is Joined, without a core, and goes on when it has no child left. -/
theorem execJoin_drained (hdr : x.drained = true) :
    execJoin s = .next (((s.setTask s.cur { x.afterJoin.retire 4 with st := .joined }).releaseCore s.cur).wakeJoin s.cur) :=
  State.issue_ok hx (transferForm_checks hdel) (by rw [waitFor_of hdr, Res.bind_ok])

/-- With its work drained a task that yields goes to its queue's tail, marked as resuming. -/
theorem execYield_drained (hdr : x.drained = true) :
    execYield s = .next (((s.setTask s.cur ((x.afterJoin.retire 4).mapRec (fun r => { r with resuming := true }))).releaseCore s.cur).makeRunnable
      s.cur false) :=
  State.issue_ok hx (transferForm_checks hdel) (by rw [waitFor_of hdr, Res.bind_ok])

/-- JOIN waits until the work has drained. -/
theorem execJoin_undrained (hdr : x.drained = false) : execJoin s = .next s :=
  State.issue_stall hx (transferForm_checks hdel) (by rw [hdr, waitFor_false, Res.bind_error])

/-- YIELD waits until the work has drained. -/
theorem execYield_undrained (hdr : x.drained = false) : execYield s = .next s :=
  State.issue_stall hx (transferForm_checks hdel) (by rw [hdr, waitFor_false, Res.bind_error])

/-- A task that holds no poison retires at once. -/
theorem execEndTask_retires (hpo : x.holdsPoison = false) :
    execEndTask s = .next (s.setTask s.cur { x.retire 4 with st := .retiring, r := { x.r with ending := true } }) := by
  have hsound : x.soundRegisters = .ok () := by simp [Task.soundRegisters, hpo]
  refine State.issue_ok hx (transferForm_checks hdel) ?_
  rw [hsound, Res.bind_ok, ← Task.retire_r x 4]
  rfl

end

/-- Settles O18: JOIN and YIELD leave the kept context, under the state and the record that each gives it, and END needs no drain. -/
theorem joinYieldEnd : Obligations.JoinYieldEnd := by
  unfold Obligations.JoinYieldEnd
  intro s x hx hdel kept
  refine ⟨fun hdr => ?join, fun hdr => ?yield, fun hdr => ?undrained, fun hpo => ?ends⟩
  case join => exact ⟨_, x.keptByJoin_afterJoin .joined _, rfl, execJoin_drained hx hdel hdr⟩
  case yield => exact ⟨_, x.keptByJoin_afterJoin _ { (x.afterJoin.retire 4).r with resuming := true }, rfl, execYield_drained hx hdel hdr⟩
  case undrained => exact ⟨execJoin_undrained hx hdel hdr, execYield_undrained hx hdel hdr⟩
  case ends => exact execEndTask_retires hx hdel hpo

end Sys2Proof.Machine
end

section
/-! PROOF. The creation of a spawn group (02 R16, R19; 10 R168): numbers of new tasks, what a queue entry leaves, and what the children of a
group are. -/

namespace Sys2Proof.Machine
open Sys2Proof

/-! ### Queue entries leave every task -/

/-- A record that becomes Runnable changes at most the core that it asks for. -/
theorem State.raiseRequest_cases (s : State) (t : Nat) (x : Task) :
    s.raiseRequest t x = s ∨ ∃ (c : Nat) (k : Core), s.raiseRequest t x = s.setCore c k := by
  generalize ho : s.raiseRequest t x = o
  unfold State.raiseRequest at ho
  extract_lets bound cores room slices latest cand at ho
  split at ho
  · exact .inl ho.symm
  · split at ho
    · exact .inr ⟨_, _, ho.symm⟩
    · exact .inl ho.symm

@[simp] theorem State.raiseRequest_tasks (s : State) (t : Nat) (x : Task) : (s.raiseRequest t x).tasks = s.tasks := by
  rcases s.raiseRequest_cases t x with h | ⟨c, k, h⟩ <;> simp [h]
@[simp] theorem State.raiseRequest_cur (s : State) (t : Nat) (x : Task) : (s.raiseRequest t x).cur = s.cur := by
  rcases s.raiseRequest_cases t x with h | ⟨c, k, h⟩ <;> simp [h]

/-- A task that enters its queue changes its cluster, and at most raises a request. -/
theorem State.enqueue_cases (s : State) (t : Nat) (head : Bool) :
    s.enqueue t head = s ∨ ∃ (c : Nat) (k : Cluster),
      s.enqueue t head = s.setCluster c k ∨ ∃ x : Task, s.enqueue t head = (s.setCluster c k).raiseRequest t x := by
  generalize ho : s.enqueue t head = o
  unfold State.enqueue at ho
  split at ho
  · exact .inl ho.symm
  · split at ho
    · exact .inl ho.symm
    · extract_lets c q u at ho
      split at ho
      · exact .inr ⟨_, _, .inr ⟨_, ho.symm⟩⟩
      · exact .inr ⟨_, _, .inl ho.symm⟩

@[simp] theorem State.enqueue_tasks (s : State) (t : Nat) (head : Bool) : (s.enqueue t head).tasks = s.tasks := by
  rcases s.enqueue_cases t head with h | ⟨c, k, h | ⟨x, h⟩⟩ <;> simp [h]
@[simp] theorem State.enqueue_cur (s : State) (t : Nat) (head : Bool) : (s.enqueue t head).cur = s.cur := by
  rcases s.enqueue_cases t head with h | ⟨c, k, h | ⟨x, h⟩⟩ <;> simp [h]
@[simp] theorem State.task_enqueue (s : State) (t c : Nat) (head : Bool) : (s.enqueue t head).task? c = s.task? c := by simp [State.task?]

/-! ### Numbers of tasks (log 10) -/

theorem SMap.mem_of_find {α : Type} {k : Nat} {v : α} : ∀ {m : SMap α}, SMap.find m k = some v → (k, v) ∈ m
  | (j, w) :: r, h => by
    unfold SMap.find at h
    split at h
    · obtain rfl := Option.some.inj h
      subst j
      exact List.mem_cons_self
    · exact List.mem_cons_of_mem _ (SMap.mem_of_find h)

/-- The next number is above the start of the count and above every key. -/
theorem SMap.le_foldl_next {α : Type} (m : SMap α) (b : Nat) :
    b ≤ m.foldl (fun n p => max n (p.1 + 1)) b ∧ ∀ p ∈ m, p.1 < m.foldl (fun n p => max n (p.1 + 1)) b := by
  induction m generalizing b with
  | nil => simp
  | cons q r ih =>
    obtain ⟨hstart, hkeys⟩ := ih (max b (q.1 + 1))
    rw [List.foldl_cons]
    refine ⟨by omega, fun p hp => ?_⟩
    rcases List.mem_cons.1 hp with rfl | hp
    · omega
    · exact hkeys p hp

theorem State.lt_taskId {s : State} {t : Nat} {x : Task} (h : s.task? t = some x) : t < s.taskId :=
  (SMap.le_foldl_next s.tasks s.born).2 _ (SMap.mem_of_find h)

/-- No task has the next number, nor one above it. -/
theorem State.task_none_of_taskId_le {s : State} {t : Nat} (h : s.taskId ≤ t) : s.task? t = none := by
  cases ht : s.task? t with
  | none => rfl
  | some x => exact absurd (State.lt_taskId ht) (Nat.not_lt.2 h)

/-! ### One child -/

/-- The state with one more task, under the next number and in its queue. -/
def State.addChild (s : State) (c : Task) : State := (s.addTask s.taskId c).enqueue s.taskId false

@[simp] theorem State.addChild_cur (s : State) (c : Task) : (s.addChild c).cur = s.cur := by simp [State.addChild, State.addTask]
theorem State.task_addChild_same (s : State) (c : Task) : (s.addChild c).task? s.taskId = some c := by
  unfold State.addChild
  rw [State.task_enqueue]
  exact State.task_setTask s s.taskId c
theorem State.task_addChild_other (s : State) (c : Task) {t : Nat} (h : t ≠ s.taskId) : (s.addChild c).task? t = s.task? t := by
  unfold State.addChild
  rw [State.task_enqueue]
  exact State.task_setTask_other s s.taskId t c h
theorem State.taskId_lt_addChild (s : State) (c : Task) : s.taskId < (s.addChild c).taskId := State.lt_taskId (s.task_addChild_same c)

/-! ### The children of a group -/

section
variable (parent g : Nat) (x : Task) (down : Bool) (entry desc : Nat)

theorem State.createKids_cons (s : State) (k : Kid) (as : List Arg) (l : List (Kid × List Arg)) :
    s.createKids parent g x down entry desc ((k, as) :: l) =
      (((s.addChild (newChild s parent g x down entry desc k as)).createKids parent g x down entry desc l).1,
        s.taskId :: ((s.addChild (newChild s parent g x down entry desc k as)).createKids parent g x down entry desc l).2) := rfl

theorem State.createKids_cur (l : List (Kid × List Arg)) : ∀ s : State, (s.createKids parent g x down entry desc l).1.cur = s.cur := by
  induction l with
  | nil => exact fun s => rfl
  | cons p l ih =>
    intro s
    rw [State.createKids_cons, ih, State.addChild_cur]

theorem State.createKids_length (l : List (Kid × List Arg)) : ∀ s : State, (s.createKids parent g x down entry desc l).2.length = l.length := by
  induction l with
  | nil => exact fun s => rfl
  | cons p l ih =>
    intro s
    rw [State.createKids_cons, List.length_cons, ih, List.length_cons]

/-- A task below the next number stays as it is. -/
theorem State.task_createKids_old (l : List (Kid × List Arg)) : ∀ (s : State) {t : Nat}, t < s.taskId →
    (s.createKids parent g x down entry desc l).1.task? t = s.task? t := by
  induction l with
  | nil => exact fun s t _ => rfl
  | cons p l ih =>
    intro s t ht
    rw [State.createKids_cons, ih _ (Nat.lt_trans ht (s.taskId_lt_addChild _)), State.task_addChild_other s _ (Nat.ne_of_lt ht)]

/-- The i-th child is a new task, under a number that no task had. -/
theorem State.task_createKids_new (l : List (Kid × List Arg)) : ∀ (s : State) {i : Nat} {k : Kid} {as : List Arg}, l[i]? = some (k, as) →
    ∃ c ∈ (s.createKids parent g x down entry desc l).2[i]?, s.taskId ≤ c ∧
      ∃ u : State, (s.createKids parent g x down entry desc l).1.task? c = some (newChild u parent g x down entry desc k as) := by
  induction l with
  | nil => intro s i k as hi; simp at hi
  | cons p l ih =>
    intro s i k as hi
    rw [State.createKids_cons]
    cases i with
    | zero =>
      obtain rfl : p = (k, as) := by simpa using hi
      refine ⟨s.taskId, by simp, Nat.le_refl _, s, ?_⟩
      rw [State.task_createKids_old parent g x down entry desc l _ (s.taskId_lt_addChild _), State.task_addChild_same]
    | succ i =>
      obtain ⟨c, hc, hle, u, hu⟩ := ih (s.addChild (newChild s parent g x down entry desc p.1 p.2)) (by simpa using hi)
      exact ⟨c, by simpa using hc, Nat.le_of_lt (Nat.lt_of_lt_of_le (s.taskId_lt_addChild _) hle), u, hu⟩

end

/-! ### The group (R168) -/

/-- A sequence that completes gives one result for each member. -/
theorem Res.mapM_eq_ok_length {α β : Type} {f : α → Res β} : ∀ {l : List α} {bs : List β}, l.mapM f = .ok bs → bs.length = l.length
  | [], _, h => by cases h; rfl
  | a :: l, bs, h => by
    rw [List.mapM_cons] at h
    obtain ⟨b, _, h⟩ := Res.bind_eq_ok.1 h
    obtain ⟨bs', hbs, h⟩ := Res.bind_eq_ok.1 h
    obtain rfl := (Except.ok.inj h).symm
    rw [List.length_cons, List.length_cons, Res.mapM_eq_ok_length hbs]

/-- The parent of a new group g of n children. -/
def Task.adopts (x : Task) (n g : Nat) : Task := x.mapRec (fun r => { r with jcount := r.jcount + n, groups := r.groups ++ [g] })

/-- The parent's new count and the children, with their numbers. -/
def State.bears (s : State) (x : Task) (down : Bool) (h g desc : Nat) (kids : List (Kid × List Arg)) : State × List Nat :=
  (s.setTask s.cur (x.adopts kids.length g)).createKids s.cur g x down (natBits (blockWord h 0) 32 32) desc kids

section
variable (s : State) (x : Task) (down : Bool) (h g desc : Nat) (kids : List (Kid × List Arg))

theorem State.bears_cur : (s.bears x down h g desc kids).1.cur = s.cur := State.createKids_cur ..

theorem State.bears_length : (s.bears x down h g desc kids).2.length = kids.length := State.createKids_length ..

theorem State.task_bears_parent : (s.bears x down h g desc kids).1.task? s.cur = some (x.adopts kids.length g) := by
  have hparent := State.task_setTask s s.cur (x.adopts kids.length g)
  exact (State.task_createKids_old _ _ _ _ _ _ _ _ (State.lt_taskId hparent)).trans hparent

/-- Each child is a new task, other than the parent. -/
theorem State.task_bears_child {i : Nat} {k : Kid} {as : List Arg} (hi : kids[i]? = some (k, as)) :
    ∃ c ∈ (s.bears x down h g desc kids).2[i]?, c ≠ s.cur ∧ s.task? c = none ∧ ∃ u : State,
      (s.bears x down h g desc kids).1.task? c = some (newChild u s.cur g x down (natBits (blockWord h 0) 32 32) desc k as) := by
  have hparent := State.task_setTask s s.cur (x.adopts kids.length g)
  obtain ⟨c, hc, hle, hnew⟩ := State.task_createKids_new s.cur g x down (natBits (blockWord h 0) 32 32) desc kids
    (s.setTask s.cur (x.adopts kids.length g)) hi
  have hne : c ≠ s.cur := Nat.ne_of_gt (Nat.lt_of_lt_of_le (State.lt_taskId hparent) hle)
  exact ⟨c, hc, hne, (State.task_setTask_other s s.cur c _ hne).symm.trans (State.task_none_of_taskId_le hle), hnew⟩

end

section
variable {s s' : State} {x : Task} {down : Bool} {h : Nat} {es : List SpawnEntry} {kids : List Kid}
  (hs : s.spawnGroup x down h es kids = .ok s')
include hs

/-- A group that passes its checks gives the parent's count and the children: nothing else of its result is about tasks. -/
theorem State.spawnGroup_bears : ∃ (g desc : Nat) (args : List (List Arg)), args.length = kids.length ∧
    s'.tasks = (s.bears x down h g desc (kids.zip args)).1.tasks ∧ s'.cur = (s.bears x down h g desc (kids.zip args)).1.cur := by
  unfold State.spawnGroup at hs
  simp only [Res.bind_eq_ok] at hs
  obtain ⟨built, hbuilt, _, -, _, -, _, -, _, -, _, -, desc, -, _, -, _, -, _, -, args, hargs, hs⟩ := hs
  have hlen : args.length = kids.length := (Res.mapM_eq_ok_length hargs).trans (Res.mapM_eq_ok_length hbuilt)
  refine ⟨SMap.lowestFree s.spawns, desc, args, hlen, ?_⟩
  unfold State.bears
  rw [List.length_zip, hlen, Nat.min_self, ← Except.ok.inj hs]
  exact ⟨rfl, rfl⟩

theorem State.spawnGroup_cur : s'.cur = s.cur := by
  obtain ⟨g, desc, args, _, _, hcur⟩ := State.spawnGroup_bears hs
  exact hcur.trans (State.bears_cur ..)

/-- The parent counts the children, and each of them is a new task in the place of its index. -/
theorem State.spawnGroup_creates : ∃ (g desc : Nat) (ids : List Nat), ids.length = kids.length ∧
    s'.task? s.cur = some (x.adopts kids.length g) ∧
    ∀ (i : Nat) (k : Kid), kids[i]? = some k → ∃ c ∈ ids[i]?, c ≠ s.cur ∧ s.task? c = none ∧ ∃ (u : State) (as : List Arg),
      s'.task? c = some (newChild u s.cur g x down (natBits (blockWord h 0) 32 32) desc k as) := by
  obtain ⟨g, desc, args, hlen, htasks, _⟩ := State.spawnGroup_bears hs
  have htask (c : Nat) : s'.task? c = (s.bears x down h g desc (kids.zip args)).1.task? c := congrArg (SMap.find · c) htasks
  have hzip : (kids.zip args).length = kids.length := by rw [List.length_zip, hlen, Nat.min_self]
  refine ⟨g, desc, (s.bears x down h g desc (kids.zip args)).2, (State.bears_length ..).trans hzip,
    hzip ▸ (htask _).trans (State.task_bears_parent ..), fun i k hi => ?_⟩
  have hlt : i < args.length := hlen ▸ (List.getElem?_eq_some_iff.1 hi).1
  have hpair : (kids.zip args)[i]? = some (k, args[i]) := List.getElem?_zip_eq_some.2 ⟨hi, List.getElem?_eq_getElem hlt⟩
  obtain ⟨c, hc, hne, hnone, u, hu⟩ := State.task_bears_child s x down h g desc (kids.zip args) hpair
  exact ⟨c, hc, hne, hnone, u, args[i], (htask c).trans hu⟩

end

end Sys2Proof.Machine
end

section
/-! PROOF. SPAWN, SPAWN.DOWN and DSPAWN (02 R17 to R19, R31, R32; 10 R166 to R169): what the forms do once their block is read, and what the
group of SPAWN is. -/

namespace Sys2Proof.Machine
open Sys2Proof

/-! ### Small facts -/

theorem natBits_low (v n : Nat) : natBits v 0 n = v % 2 ^ n := by simp [natBits]

/-- The value of an operand that stands in a block, unless a register other than s0 gives it. -/
def Task.regOr (x : Task) (r : SReg) (n : Nat) : Nat := if r = 0 then n else (x.ctl.rd r).toNat

/-- What goes on with such an operand goes on with its value. -/
theorem Task.regOr_ite {β : Type} {x : Task} {r : SReg} {n : Nat} {inBlock inReg : Res β} {f : Nat → Res β} (hr : Ready x r)
    (hreg : inReg = ((do Except.ok (← x.src r).toNat : Res Nat) >>= f)) (hblock : inBlock = f n) :
    (if r == 0 then inBlock else inReg) = f (x.regOr r n) := by
  unfold Task.regOr
  by_cases h0 : r = 0
  · rw [if_pos (beq_iff_eq.2 h0), if_pos h0, hblock]
  · rw [if_neg (mt beq_iff_eq.1 h0), if_neg h0, hreg, Task.src_ok hr.1 hr.2, Res.bind_ok, Res.bind_ok]

/-- Completing the acting task's instruction retires its record and leaves the other tasks. -/
theorem State.task_retireCur_same {s : State} {y : Task} (hy : s.task? s.cur = some y) (n : Nat) :
    (s.retireCur n).task? s.cur = some (y.retire n) := by
  simp [State.retireCur, State.modTask, hy]

theorem State.task_retireCur_other (s : State) (n : Nat) {c : Nat} (hc : c ≠ s.cur) : (s.retireCur n).task? c = s.task? c := by
  unfold State.retireCur State.modTask
  split
  · exact State.task_setTask_other s s.cur c _ hc
  · rfl

/-! ### SPAWN and SPAWN.DOWN (R168) -/

/-- Child k of a SPAWN in a cluster: a view child at level 2 runs on its parent's core (R18). -/
def Task.spawnKid (x : Task) (down : Bool) (cl k : Nat) : Kid :=
  { index := k, cluster := cl, bound := if !down && x.r.level == 2 then some (coreOfTask x) else none, fixed := none, slice := none }

/-- The acting task may spawn over a block: header h and entries es at the extension word, none of them poisoned, its count in register d
or in the header, its children in cluster cl. -/
structure SpawnChecked (s : State) (x : Task) (down : Bool) (d a : SReg) (ext : BitVec 32) (h : Nat) (es : List SpawnEntry) (cl : Nat) : Prop where
  acts : Acts s x
  user : x.service = false
  block : s.spawnBlock x ext.toNat = .ok (h, es)
  noShape : blockWord h 1 / 2 ^ 4 % 2 = 0
  word2 : blockWord h 2 = 0
  word3 : blockWord h 3 = 0
  sound : x.soundRegs (es.flatMap SpawnEntry.regs) (es.map (fun e => e.hreg)) = .ok ()
  ready : Ready x d
  place : s.place x a = .ok cl
  level : down = true → x.r.level ≠ 2

section
variable {s : State} {x : Task} {down : Bool} {d a : SReg} {ext : BitVec 32} {h : Nat} {es : List SpawnEntry} {cl n : Nat}
  (hok : SpawnChecked s x down d a ext h es cl) (hn : x.regOr d (blockWord h 0 % 2 ^ 32) = n)
include hok hn

/-- Over a block that passes its checks a SPAWN has its count to check, and then its group to create. -/
theorem State.spawn_deliver : s.spawn down d a ext = s.deliver s.cur x (do
    check (n ≤ 65536) Flt.capacity
    if n = 0 then s.done x 8
    else do
      let s' ← s.spawnGroup x down h es ((List.range n).map (x.spawnKid down cl))
      .ok (s'.retireCur 8)) := by
  have hshape : natBits (blockWord h 1) 4 1 = 0 := hok.noShape
  have hwords : (natBits (blockWord h 1) 4 1 == 0 && blockWord h 2 == 0 && blockWord h 3 == 0) = true := by
    simp [hshape, hok.word2, hok.word3]
  have hlevel : (!(down && x.r.level == 2)) = true := by
    cases down with
    | false => rfl
    | true => simpa using hok.level rfl
  unfold State.spawn
  rw [State.issue_deliver hok.acts (taskForm_checks hok.user)]
  simp only [hok.block, hok.sound, check_of hwords, natBits_low, check_of hlevel, hok.place, Res.bind_ok]
  refine congrArg (s.deliver s.cur x) ((Task.regOr_ite hok.ready rfl rfl).trans ?_)
  rw [hn]
  rfl

theorem State.spawn_none (h0 : n = 0) : s.spawn down d a ext = s.completes x 8 := by
  rw [State.spawn_deliver hok hn, h0]
  rfl

theorem State.spawn_overCapacity (hmax : 65536 < n) : s.spawn down d a ext = s.raise s.cur x Flt.capacity 0 := by
  rw [State.spawn_deliver hok hn, decide_eq_false (Nat.not_le.2 hmax)]
  rfl

theorem State.spawn_some {s' : State} (h0 : 0 < n) (hmax : n ≤ 65536)
    (hs : s.spawnGroup x down h es ((List.range n).map (x.spawnKid down cl)) = .ok s') : s.spawn down d a ext = .next (s'.retireCur 8) := by
  rw [State.spawn_deliver hok hn, check_of (decide_eq_true hmax), Res.bind_ok, if_neg (Nat.ne_of_gt h0), hs]
  rfl

end

/-- The children of a SPAWN of n, in ascending index: the parent counts them, and each is a new task of the parent's launch and class. -/
theorem State.spawnGroup_children {s s' : State} {x : Task} {down : Bool} {h n cl : Nat} {es : List SpawnEntry}
    (hs : s.spawnGroup x down h es ((List.range n).map (x.spawnKid down cl)) = .ok s') :
    ∃ ids : List Nat, ids.length = n ∧
      (∃ y : Task, (s'.retireCur 8).task? s.cur = some y ∧ y.r.jcount = x.r.jcount + n ∧ y.ctl = x.ctl.retire 8) ∧
      ∀ k < n, ∃ c ∈ ids[k]?, ∃ z : Task, s.task? c = none ∧ (s'.retireCur 8).task? c = some z ∧ z.r.parent = some s.cur ∧ z.r.child = k ∧
        z.r.launch = x.r.launch ∧ z.r.cls = x.r.cls ∧ z.r.entry = blockWord h 0 / 2 ^ 32 % 2 ^ 32 ∧ z.r.deadline = x.r.deadline ∧
        z.r.contract = x.r.contract ∧ z.r.wid = x.r.wid ∧ z.r.cluster = cl ∧ z.r.level = x.r.level + (if down then 1 else 0) ∧
        z.st = (if down then .copyingIn else .runnable) := by
  obtain ⟨g, desc, ids, hlen, hparent, hkids⟩ := State.spawnGroup_creates hs
  have hcur : s'.cur = s.cur := State.spawnGroup_cur hs
  simp only [List.length_map, List.length_range] at hlen hparent
  refine ⟨ids, hlen, ⟨(x.adopts n g).retire 8, ?_, by simp [Task.adopts], by simp [Task.adopts]⟩, fun k hk => ?_⟩
  · rw [← hcur] at hparent ⊢
    exact State.task_retireCur_same hparent 8
  · obtain ⟨c, hc, hne, hnone, u, as, hz⟩ := hkids k (x.spawnKid down cl k) (by simp [hk])
    refine ⟨c, hc, _, hnone, (State.task_retireCur_other s' 8 (hcur ▸ hne)).trans hz, ?_⟩
    refine ⟨rfl, rfl, rfl, rfl, rfl, rfl, rfl, rfl, rfl, ?_, rfl⟩
    cases down <;> rfl

/-! ### DSPAWN (R31, R32, R169) -/

/-- The trip counts that words 2 and 3 of a block give. -/
def dspawnTrips (h : Nat) : List Nat := (List.range (natBits (blockWord h 2) 62 2 + 1)).map (fun k => natBits (blockWord h 3) (48 - 16 * k) 16)

/-- The iterations: the product of the trip counts. -/
def dspawnCount (h : Nat) : Nat := (dspawnTrips h).foldl (fun m t => m * t) 1

/-- The clusters of a set: a die, and a mask of its clusters. -/
def dspawnClusters (set : Nat) : List Nat := clusterSet (natBits set 16 4) (natBits set 0 16)

/-- The child of logical core k, of p: its slice, on its fixed core. -/
def Task.dspawnKid (x : Task) (h p set k : Nat) : Kid :=
  let n := dspawnCount h
  let q := ceilDiv n p
  let cl := nth (dspawnClusters set) (k / 8) x.r.cluster
  { index := k, cluster := cl, bound := none, fixed := some (8 * cl + k % 8),
    slice := some { first := k * q, last := min n ((k + 1) * q), n := n, p := p, trips := dspawnTrips h, logical := k } }

/-- The children of DSPAWN: one for each slice that is not empty. -/
def Task.dspawnKids (x : Task) (h p set : Nat) : List Kid :=
  (List.range (ceilDiv (dspawnCount h) (ceilDiv (dspawnCount h) p))).map (x.dspawnKid h p set)

/-- The acting task, of a deterministic launch, may split its iterations over a block: header h without trip counts of a shape, and entries
es, none of them poisoned; over p logical cores of the clusters of a set. -/
structure DspawnChecked (s : State) (x : Task) (d a : SReg) (ext : BitVec 32) (l : Launch) (h : Nat) (es : List SpawnEntry) (p set : Nat) : Prop where
  acts : Acts s x
  user : x.service = false
  launch : s.launch? x.r.launch = some l
  det : l.det = true
  block : s.spawnBlock x ext.toNat = .ok (h, es)
  sound : x.soundRegs (es.flatMap SpawnEntry.regs) (es.map (fun e => e.hreg)) = .ok ()
  words : dspawnWordsOk (blockWord h 2) (blockWord h 3) = true
  readyCount : Ready x d
  readySet : Ready x a
  count : x.regOr d (natBits (blockWord h 2) 0 16) = p
  clusters : x.regOr a (x.r.cluster / 16 * 2 ^ 16 + 2 ^ (x.r.cluster % 16)) = set
  field : set < 2 ^ 20
  perm : ∀ k < natBits (blockWord h 2) 62 2 + 1, (dspawnPerm (blockWord h 2)).contains k = true
  someCluster : dspawnClusters set ≠ []
  someCore : 1 ≤ p
  cores : p ≤ 8 * (dspawnClusters set).length
  level : x.r.level ≠ 2
  own : x.r.level = 0 ∨ dspawnClusters set = [x.r.cluster]
  die : natBits set 16 4 < 9
  part : ∀ c ∈ dspawnClusters set, (s.partClusters (s.partOf x)).contains c = true
  noShape : natBits (blockWord h 2) 53 1 = 0

section
variable {s : State} {x : Task} {d a : SReg} {ext : BitVec 32} {l : Launch} {h p set : Nat} {es : List SpawnEntry}
  (hok : DspawnChecked s x d a ext l h es p set)
include hok

/-- Over a block that passes its checks a DSPAWN has its count to check, and then its group to create. -/
theorem execDspawn_deliver : execDspawn d a ext s = s.deliver s.cur x (do
    check (dspawnCount h ≤ 2 ^ 32) Flt.capacity
    if dspawnCount h = 0 then s.done x 8
    else do
      let s' ← s.spawnGroup x (natBits (blockWord h 1) 4 1 == 1) h es (x.dspawnKids h p set)
      .ok (s'.retireCur 8)) := by
  have hperm : (List.range (natBits (blockWord h 2) 62 2 + 1)).all (fun k => (dspawnPerm (blockWord h 2)).contains k) = true :=
    List.all_eq_true.2 fun k hk => hok.perm k (List.mem_range.1 hk)
  have hcores : (!(dspawnClusters set).isEmpty && decide (1 ≤ p) && decide (p ≤ 8 * (dspawnClusters set).length)) = true := by
    simp [hok.someCluster, hok.someCore, hok.cores]
  have hlevel : (x.r.level != 2 && (x.r.level == 0 || dspawnClusters set == [x.r.cluster])) = true := by simpa [hok.level] using hok.own
  have hpart : (decide (natBits set 16 4 < 9) && (dspawnClusters set).all (fun c => (s.partClusters (s.partOf x)).contains c)) = true := by
    simpa [hok.die] using hok.part
  have hshape : (natBits (blockWord h 2) 53 1 == 1) = false := by simp [hok.noShape]
  unfold dspawnClusters at hcores hlevel hpart
  unfold execDspawn
  rw [State.issue_deliver hok.acts (taskForm_checks hok.user)]
  simp only [hok.launch, hok.det, check_true, hok.block, hok.sound, check_of hok.words, check_of hperm, hshape, Bool.false_eq_true, if_false,
    Res.bind_ok]
  refine congrArg (s.deliver s.cur x) ((Task.regOr_ite hok.readyCount rfl rfl).trans ?_)
  rw [hok.count]
  refine (Task.regOr_ite hok.readySet rfl rfl).trans ?_
  rw [hok.clusters]
  simp only [check_of (decide_eq_true hok.field), check_of hcores, check_of hlevel, check_of hpart, Res.bind_ok]
  rfl

theorem execDspawn_none (h0 : dspawnCount h = 0) : execDspawn d a ext s = s.completes x 8 := by
  rw [execDspawn_deliver hok, h0]
  rfl

theorem execDspawn_overCapacity (hmax : 2 ^ 32 < dspawnCount h) : execDspawn d a ext s = s.raise s.cur x Flt.capacity 0 := by
  rw [execDspawn_deliver hok, decide_eq_false (Nat.not_le.2 hmax)]
  rfl

theorem execDspawn_some {s' : State} (h0 : 0 < dspawnCount h) (hmax : dspawnCount h ≤ 2 ^ 32)
    (hs : s.spawnGroup x (natBits (blockWord h 1) 4 1 == 1) h es (x.dspawnKids h p set) = .ok s') :
    execDspawn d a ext s = .next (s'.modTask s.cur (fun y => y.retire 8)) := by
  rw [execDspawn_deliver hok, check_of (decide_eq_true hmax), Res.bind_ok, if_neg (Nat.ne_of_gt h0), hs, ← State.spawnGroup_cur hs]
  rfl

end

/-- Settles O17: SPAWN creates the group of its count, and DSPAWN that of its slices. -/
theorem spawns : Obligations.Spawns := by
  unfold Obligations.Spawns
  refine ⟨?spawn, ?dspawn⟩
  case spawn =>
    intro s x down d a ext h es cl hx hsv hblk hshape h2 h3 hsound hd hcl hlevel i n entry
    have hok : SpawnChecked s x down d a ext h es cl := ⟨hx, hsv, hblk, hshape, h2, h3, hsound, hd, hcl, hlevel⟩
    have hexec : exec i s = s.spawn down d a ext := by cases down <;> rfl
    rw [hexec]
    exact ⟨State.spawn_none hok rfl, State.spawn_overCapacity hok rfl, fun s' h0 hmax hs =>
      ⟨s'.retireCur 8, State.spawn_some hok rfl h0 hmax hs, State.spawnGroup_children hs⟩⟩
  case dspawn =>
    intro s x d a ext l h p set es hx hsv hl hdet hblk hsound hwords hd ha hp hset hfield w2 dn cls trips n q down kid hperm hcls hp1 hp8
      hlevel hown hdie hpart hshape
    have hclusters : dspawnClusters set = cls := by unfold dspawnClusters; rw [natBits_low]; rfl
    have hcount : x.regOr d (natBits (blockWord h 2) 0 16) = p := by rw [natBits_low, hp]; rfl
    have hkids : (List.range ((n + q - 1) / q)).map kid = x.dspawnKids h p set := by
      unfold Task.dspawnKids Task.dspawnKid
      rw [hclusters]
      rfl
    rw [← hclusters] at hcls hp8 hown hpart
    have hok : DspawnChecked s x d a ext l h es p set :=
      ⟨hx, hsv, hl, hdet, hblk, hsound, hwords, hd, ha, hcount, hset.symm, hfield, hperm, hcls, hp1, hp8, hlevel, hown, hdie, hpart, hshape⟩
    exact ⟨execDspawn_none hok, execDspawn_overCapacity hok, fun s' h0 hmax hs => execDspawn_some hok h0 hmax (hkids ▸ hs)⟩

end Sys2Proof.Machine
end

section
/-! PROOF. Accumulator tiles (03 R53; 11 R217 to R219): what vaccrd, vaccwr and acczero do to the tile as it was before they started on
it, and that they wait for the state that they need. -/

namespace Sys2Proof.Machine
open Sys2Proof

/-! ### The task that an accumulator form sees -/

/-- A stream's context, and a task, whose form has not started on its tile. -/
def Vec.closed (v : Vec) : Vec := { v with opened := false }
def Task.closed (x : Task) : Task := { x with vec := x.vec.closed }

@[simp] theorem Task.closed_vec (x : Task) : x.closed.vec = x.vec.closed := rfl
@[simp] theorem Task.closed_tile (x : Task) (id : Nat) : x.closed.tile id = x.tile id := rfl
@[simp] theorem Task.closed_fillAcc (x : Task) (id : Nat) (tag : Fmt) (quarter : Bool) (vals bad : List Nat) :
    x.closed.fillAcc id tag quarter vals bad = (x.fillAcc id tag quarter vals bad).closed := rfl
@[simp] theorem Task.closed_needs (x : Task) (id : Nat) (u : TileUse) : x.closed.needs id u = x.needs id u := rfl
@[simp] theorem Task.closed_soundTile (x : Task) (id : Nat) (w : Nat → Bool) : x.closed.soundTile id w = x.soundTile id w := rfl
@[simp] theorem Vec.closed_scalar (v : Vec) (r : Nat) : v.closed.scalar r = v.scalar r := rfl
@[simp] theorem Vec.closed_reg (v : Vec) (r : Nat) : v.closed.reg r = v.reg r := rfl
@[simp] theorem Vec.closed_active (v : Vec) (k : BitVec 4) (i : Nat) : v.closed.active k i = v.active k i := rfl

@[simp] theorem Task.tile_setTile_same (x : Task) (id : Nat) (t : Tile) : (x.setTile id t).tile id = t := SMap.get_put_same _ _ _ _

/-- Undoing starts on tiles leaves the stream's context. -/
@[simp] theorem Task.undoUses_vec (x : Task) (us : TileUses) : (x.undoUses us).vec = x.vec := by
  unfold Task.undoUses
  induction us generalizing x with
  | nil => rfl
  | cons u us ih => exact ih (x.setTile u.1 (u.2.undo (x.tile u.1)))

@[simp] theorem Task.beforeForm_vec (x : Task) (i : Instr) : (x.beforeForm i).vec = x.vec := by
  unfold Task.beforeForm
  split
  · exact x.undoUses_vec _
  · rfl

/-! ### How an accumulator form ends -/

section
variable {s : State} {x : Task} {i : Instr} {body : Task → Res State} (hx : Acts s x)
include hx

/-- A form whose effect completes gives that effect. -/
theorem State.issueTile_ends {y : Task} {v : Vec} (hb : body (x.beforeForm i).closed = s.vecDone y.closed v.closed) :
    s.issueTile (vectorUses i) body = s.formEnds y v := by
  unfold Task.beforeForm Task.closed Vec.closed at hb
  unfold State.issueTile
  rw [hx]
  dsimp only
  rw [hb]
  rfl

/-- A form that stalls changes nothing. -/
theorem State.issueTile_stall (hb : body (x.beforeForm i).closed = .error .stall) : s.issueTile (vectorUses i) body = .next s := by
  unfold Task.beforeForm Task.closed Vec.closed at hb
  unfold State.issueTile
  rw [hx]
  dsimp only
  rw [hb]
  rfl

end

/-! ### The checks of an accumulator form -/

theorem accRows_ok {r n : Nat} (h : r + n / 64 ≤ 128) : accRows r n = .ok (64 * r) := by
  unfold accRows
  rw [check_of (decide_eq_true h), Res.bind_ok]

theorem Task.needs_ok {x : Task} {id : Nat} {u : TileUse} (h : u.may (x.tile id) = true) : x.needs id u = .ok () := waitFor_of h
theorem Task.needs_stall {x : Task} {id : Nat} {u : TileUse} (h : u.may (x.tile id) = false) : x.needs id u = .error .stall := by
  unfold Task.needs
  rw [h, waitFor_false]

theorem Task.soundTile_ok {x : Task} {id : Nat} {w : Nat → Bool} (h : ∀ q ∈ (x.tile id).bad, w q = false) : x.soundTile id w = .ok () := by
  unfold Task.soundTile
  rw [List.any_eq_false.2 (fun q hq => by simp [h q hq]), if_neg Bool.false_ne_true]

theorem movesFormat_of {f : Fmt} (hn : f ≠ Fm.none) (hb : fmtIsBlock f = false) : movesFormat f = true := by
  rw [movesFormat, hb, bne_iff_ne.2 hn]
  rfl

/-- Container q of a tile is one of those that a form with n elements from base on accesses: its element is active. -/
def Vec.reaches (v : Vec) (k : BitVec 4) (base n q : Nat) : Bool := base ≤ q && q < base + n && v.active k (q - base)

theorem Vec.reaches_iff {v : Vec} {k : BitVec 4} {base n q : Nat} :
    v.reaches k base n q = true ↔ base ≤ q ∧ q < base + n ∧ v.active k (q - base) = true := by simp [Vec.reaches, and_assoc]

theorem Vec.not_reaches {v : Vec} {k : BitVec 4} {base n q : Nat} :
    (!v.reaches k base n q) = decide ¬ (base ≤ q ∧ q < base + n ∧ v.active k (q - base) = true) := by
  simp [Vec.reaches, Bool.and_assoc]

/-! ### vaccrd (R217) -/

theorem exec_vaccrd (w : VWord) (s : State) : exec (.vaccrd w) s = execVaccrd w s := rfl

/-- What vaccrd does to its tile, and the entry as it leaves it (R53). -/
def vaccrdUse (w : VWord) : TileUse := if w.flg.getLsbD 1 then .drain else .read
def Task.vaccrdEnds (x : Task) (w : VWord) : Task :=
  if w.flg.getLsbD 1 then x.drain w.a.toNat else x.setTile w.a.toNat { x.tile w.a.toNat with claimed := true }

@[simp] theorem Task.closed_vaccrdEnds (x : Task) (w : VWord) : x.closed.vaccrdEnds w = (x.vaccrdEnds w).closed := by
  unfold Task.vaccrdEnds
  split <;> rfl

theorem vaccrdUse_may_iff {w : VWord} {t : Tile} :
    (vaccrdUse w).may t = true ↔ t.st = .ready ∧ (w.flg.getLsbD 1 = true → t.readers = 0) := by
  unfold vaccrdUse
  cases w.flg.getLsbD 1 <;> simp [TileUse.may]

/-- The formats that vaccrd reads as they stand, without a conversion. -/
def rawFormat (f : Fmt) : Bool := f == Fm.a40 || f == Fm.i40

theorem rawFormat_iff {f : Fmt} : rawFormat f = true ↔ f = Fm.a40 ∨ f = Fm.i40 := by simp [rawFormat]

/-- The value that vaccrd takes from element i of a tile. -/
def Tile.accElem (t : Tile) (w : VWord) (i : Nat) : Nat :=
  if rawFormat w.fmt then natBits t.data.toNat (40 * i) 40
  else convert w.fmt w.rm.toNat (w.flg.getLsbD 0) (accValue t.tag t.quarter (natBits t.data.toNat (40 * i) 40))

/-- FLG[0] stands with an integer format only. -/
theorem wrapCheck_of {w : VWord} (h : w.flg.getLsbD 0 = true → fmtIsInt w.fmt = true ∨ w.fmt = Fm.idx16 ∨ w.fmt = Fm.i40) :
    (!w.flg.getLsbD 0 || fmtIsInt w.fmt || w.fmt == Fm.idx16 || w.fmt == Fm.i40) = true := by
  cases hf : w.flg.getLsbD 0 with
  | false => rfl
  | true => simpa [or_assoc] using h hf

/-- A tile read without a conversion has the word's format, in whole units. -/
theorem rawCheck_of {t : Tile} {f : Fmt} (h : f = Fm.a40 ∨ f = Fm.i40 → t.tag = f ∧ t.quarter = false) :
    (!rawFormat f || (t.tag == f && !t.quarter)) = true := by
  cases hf : rawFormat f with
  | false => rfl
  | true => simpa using h (rawFormat_iff.1 hf)

section
variable {s : State} {x : Task} {w : VWord} {row : Nat} (hx : Acts s x) (hrow : (x.vec.scalar w.b.toNat).toNat = row)
  (hnone : w.fmt ≠ Fm.none) (hblock : fmtIsBlock w.fmt = false) (hfits : row + fmtElems w.fmt / 64 ≤ 128)
  (hwrap : w.flg.getLsbD 0 = true → fmtIsInt w.fmt = true ∨ w.fmt = Fm.idx16 ∨ w.fmt = Fm.i40)
include hx hrow hnone hblock hfits hwrap

theorem exec_vaccrd_stall (hst : (vaccrdUse w).may ((x.beforeForm (.vaccrd w)).tile w.a.toNat) = false) : exec (.vaccrd w) s = .next s := by
  rw [exec_vaccrd, execVaccrd]
  refine State.issueTile_stall hx ?_
  simp only [Task.closed_vec, Task.closed_needs, Vec.closed_scalar, Task.beforeForm_vec, hrow, check_of (wrapCheck_of hwrap),
    check_of (movesFormat_of hnone hblock), accRows_ok hfits, Res.bind_ok]
  rw [← vaccrdUse, Task.needs_stall hst, Res.bind_error]

theorem exec_vaccrd_ends {t : Tile} (ht : (x.beforeForm (.vaccrd w)).tile w.a.toNat = t) (hst : (vaccrdUse w).may t = true)
    (hraw : w.fmt = Fm.a40 ∨ w.fmt = Fm.i40 → t.tag = w.fmt ∧ t.quarter = false)
    (hbad : ∀ i < fmtElems w.fmt, x.vec.active w.k i = true → 64 * row + i ∉ t.bad) :
    exec (.vaccrd w) s = s.formEnds ((x.beforeForm (.vaccrd w)).vaccrdEnds w)
      (x.vec.merge w.d.toNat w.fmt (x.vec.onActive w.k w.fmt (fun i => t.accElem w (64 * row + i)))) := by
  have hsound : ∀ q ∈ t.bad, x.vec.reaches w.k (64 * row) (fmtElems w.fmt) q = false := by
    intro q hq
    rw [← Bool.not_eq_true, Vec.reaches_iff]
    intro ⟨hlo, hhi, hon⟩
    exact hbad (q - 64 * row) (by omega) hon (by rwa [Nat.add_sub_cancel' hlo])
  unfold Vec.reaches at hsound
  subst ht
  rw [exec_vaccrd, execVaccrd]
  refine State.issueTile_ends hx ?_
  simp only [Task.closed_vec, Task.closed_tile, Task.closed_needs, Task.closed_soundTile, Vec.closed_scalar, Vec.closed_active,
    Task.beforeForm_vec, hrow, check_of (wrapCheck_of hwrap), check_of (movesFormat_of hnone hblock), accRows_ok hfits, Res.bind_ok]
  rw [← vaccrdUse, Task.needs_ok hst, Res.bind_ok, ← rawFormat, check_of (rawCheck_of hraw), Res.bind_ok, Task.soundTile_ok hsound, Res.bind_ok,
    ← Task.closed_vaccrdEnds]
  rfl

end

/-! ### vaccwr (R218) -/

theorem natBits_ite_zero (c : Prop) [Decidable c] (d lo n : Nat) : natBits (if c then 0 else d) lo n = if c then 0 else natBits d lo n := by
  split
  · simp [natBits]
  · rfl

theorem exec_vaccwr (w : VWord) (s : State) : exec (.vaccwr w) s = execVaccwr w s := rfl

/-- What vaccwr does to its tile (R53). -/
def vaccwrUse (w : VWord) : TileUse := if w.flg.getLsbD 0 then .fill else .update

theorem vaccwrUse_may_iff {w : VWord} {t : Tile} : (vaccwrUse w).may t = true ↔
    t.st = (if w.flg.getLsbD 0 then .empty else .ready) ∧ (w.flg.getLsbD 0 = false → t.readers = 0) := by
  unfold vaccwrUse
  cases w.flg.getLsbD 0 <;> simp [TileUse.may]

/-- What container i of a tile, which holds old, holds after vaccwr from base on. -/
def Vec.accWritten (v : Vec) (w : VWord) (tag : Fmt) (quarter : Bool) (base i old : Nat) : Nat :=
  let a := v.reg w.a.toNat
  if v.reaches w.k base (fmtElems a.tag) i then
    let new := toAcc a.tag quarter (a.elem (fmtWidth a.tag) (i - base))
    if w.flg.getLsbD 1 then accAdd tag old new else new
  else old

section
variable {s : State} {x : Task} {w : VWord} {row : Nat} {tag : Fmt} (hx : Acts s x) (hrow : (x.vec.scalar w.b.toNat).toNat = row)
  (hnone : w.fmt = Fm.none) (htag : accTagOf (x.vec.reg w.a.toNat).tag = some tag)
  (hfits : row + fmtElems (x.vec.reg w.a.toNat).tag / 64 ≤ 128)
include hx hrow hnone htag hfits

theorem exec_vaccwr_stall (hst : (vaccwrUse w).may ((x.beforeForm (.vaccwr w)).tile w.d.toNat) = false) : exec (.vaccwr w) s = .next s := by
  rw [exec_vaccwr, execVaccwr]
  refine State.issueTile_stall hx ?_
  simp only [Task.closed_vec, Task.closed_needs, Vec.closed_scalar, Vec.closed_reg, Task.beforeForm_vec, hrow, noFormat, hnone,
    beq_self_eq_true, check_true, htag, accRows_ok hfits, Res.bind_ok]
  rw [← vaccwrUse, Task.needs_stall hst, Res.bind_error]

theorem exec_vaccwr_ends {t : Tile} (ht : (x.beforeForm (.vaccwr w)).tile w.d.toNat = t) (hst : (vaccwrUse w).may t = true)
    (hsame : w.flg.getLsbD 0 = false → t.tag = tag) (hsound : (x.vec.reg w.a.toNat).bad = [])
    (hbad : w.flg.getLsbD 1 = true → ∀ q ∈ t.bad, ¬ x.vec.reaches w.k (64 * row) (fmtElems (x.vec.reg w.a.toNat).tag) q = true) :
    exec (.vaccwr w) s = s.formEnds
      ((x.beforeForm (.vaccwr w)).fillAcc w.d.toNat tag (!w.flg.getLsbD 0 && t.quarter)
        ((List.range 8192).map (fun i => x.vec.accWritten w tag (!w.flg.getLsbD 0 && t.quarter) (64 * row) i
          (natBits (if w.flg.getLsbD 0 then 0 else t.data.toNat) (40 * i) 40)))
        (if w.flg.getLsbD 0 then [] else t.bad.filter (fun q => !x.vec.reaches w.k (64 * row) (fmtElems (x.vec.reg w.a.toNat).tag) q))) x.vec := by
  have hadd : ∀ q ∈ t.bad, (w.flg.getLsbD 1 && x.vec.reaches w.k (64 * row) (fmtElems (x.vec.reg w.a.toNat).tag) q) = false := by
    intro q hq
    cases hf : w.flg.getLsbD 1 with
    | false => rfl
    | true => simpa using hbad hf q hq
  have hsame : (w.flg.getLsbD 0 || t.tag == tag) = true := by
    cases hf : w.flg.getLsbD 0 with
    | false => simpa using hsame hf
    | true => rfl
  unfold Vec.reaches at hadd
  subst ht
  rw [exec_vaccwr, execVaccwr]
  refine State.issueTile_ends hx ?_
  simp only [Task.closed_vec, Task.closed_tile, Task.closed_needs, Task.closed_soundTile, Vec.closed_scalar, Vec.closed_reg,
    Vec.closed_active, Task.beforeForm_vec, hrow, noFormat, hnone, beq_self_eq_true, check_true, htag, accRows_ok hfits, Res.bind_ok]
  rw [← vaccwrUse, Task.needs_ok hst, Res.bind_ok, check_of hsame, Res.bind_ok, VReg.sound_ok hsound, Res.bind_ok,
    Task.soundTile_ok hadd, Res.bind_ok]
  rfl

end

/-! ### acczero (R219) -/

theorem exec_acczero (w : VWord) (s : State) : exec (.acczero w) s = execAcczero w s := rfl

theorem TileUse.fill_may_iff {t : Tile} : TileUse.fill.may t = true ↔ t.st = .empty := by simp [TileUse.may]

theorem packBits_replicate_zero (k n : Nat) : packBits k (List.replicate n 0) = 0 := by
  induction n with
  | zero => rfl
  | succ n ih => simp [List.replicate_succ, packBits, ih]

/-- A fill with zeros leaves no bit set. -/
theorem Task.fillAcc_zeros_data (x : Task) (id : Nat) (tag : Fmt) (quarter : Bool) (n : Nat) (bad : List Nat) :
    ((x.fillAcc id tag quarter (List.replicate n 0) bad).tile id).data = 0 := by
  rw [Task.fillAcc, Task.tile_setTile_same, packBits_replicate_zero]
  rfl

section
variable {s : State} {x : Task} {w : VWord} (hx : Acts s x) (hfmt : rawFormat w.fmt = true)
include hx hfmt

theorem exec_acczero_stall (hst : TileUse.fill.may ((x.beforeForm (.acczero w)).tile w.d.toNat) = false) : exec (.acczero w) s = .next s := by
  rw [exec_acczero, execAcczero]
  refine State.issueTile_stall hx ?_
  rw [← rawFormat, check_of hfmt, Res.bind_ok, Task.closed_needs, Task.needs_stall hst, Res.bind_error]

theorem exec_acczero_ends (hst : TileUse.fill.may ((x.beforeForm (.acczero w)).tile w.d.toNat) = true) :
    exec (.acczero w) s = s.formEnds ((x.beforeForm (.acczero w)).fillAcc w.d.toNat w.fmt false (List.replicate 8192 0) []) x.vec := by
  rw [exec_acczero, execAcczero]
  refine State.issueTile_ends hx ?_
  rw [← rawFormat, check_of hfmt, Res.bind_ok, Task.closed_needs, Task.needs_ok hst, Res.bind_ok, Task.closed_vec, Task.beforeForm_vec,
    Task.closed_fillAcc]

end

/-- Settles O33: each form is followed through its checks; the state of the tile decides whether it stalls or ends. -/
theorem accumulatorForms : Obligations.AccumulatorForms := by
  unfold Obligations.AccumulatorForms
  intro s x w hx row xr xw xz t u cell
  refine ⟨?vaccrd, ?vaccwr, ?acczero⟩
  case vaccrd =>
    intro hnone hblock hfits hwrap
    refine ⟨fun hst => exec_vaccrd_stall hx rfl hnone hblock hfits hwrap ?_, fun hready hreaders hbad hraw => ?_⟩
    · rw [← Bool.not_eq_true, vaccrdUse_may_iff]
      exact fun ⟨hready, hreaders⟩ => hst.elim (fun h => h hready) (fun h => h.2 (hreaders h.1))
    · rw [exec_vaccrd_ends hx rfl hnone hblock hfits hwrap rfl (vaccrdUse_may_iff.2 ⟨hready, hreaders⟩) hraw hbad]
      simp only [Tile.accElem, rawFormat_iff]
      rfl
  case vaccwr =>
    intro tag hnone htag hsound a n clear hfits written
    refine ⟨fun hst => exec_vaccwr_stall hx rfl hnone htag hfits ?_, fun hstate hupdate hbad => ?_⟩
    · rw [← Bool.not_eq_true, vaccwrUse_may_iff]
      exact fun ⟨hstate, hreaders⟩ => hst.elim (fun h => h hstate) (fun h => h.2 (hreaders h.1))
    · intro old value
      rw [exec_vaccwr_ends hx rfl hnone htag hfits rfl (vaccwrUse_may_iff.2 ⟨hstate, fun h => (hupdate h).1⟩) (fun h => (hupdate h).2) hsound
        (fun h q hq => mt Vec.reaches_iff.1 (hbad h q hq))]
      simp only [xw, u, value, old, cell, written, row, a, n, clear, Vec.accWritten, Vec.reaches_iff, Vec.not_reaches, natBits_ite_zero]
  case acczero =>
    intro hfmt
    have hfmt := rawFormat_iff.2 hfmt
    refine ⟨fun hst => exec_acczero_stall hx hfmt ?_, fun hst => ⟨_, exec_acczero_ends hx hfmt (TileUse.fill_may_iff.2 hst), ?_⟩⟩
    · rwa [← Bool.not_eq_true, TileUse.fill_may_iff]
    · have hdata := Task.fillAcc_zeros_data xz w.d.toNat w.fmt false 8192 []
      rw [Task.fillAcc, Task.tile_setTile_same] at hdata ⊢
      exact ⟨rfl, rfl, hdata, rfl, rfl⟩

end Sys2Proof.Machine
end

section
/-! PROOF. The merge rule of the vector stream and the masks (04 R67; 08 R136; 11 R199): what each element of a register is after a merge,
and what a mask reads as after a write. -/

namespace Sys2Proof.Machine
open Sys2Proof

/-! ### Values packed into one number -/

theorem packBits_lt (w : Nat) (l : List Nat) : packBits w l < 2 ^ (w * l.length) := by
  induction l with
  | nil => simp [packBits]
  | cons a l ih =>
    calc a % 2 ^ w + 2 ^ w * packBits w l
        < 2 ^ w * (packBits w l + 1) := by rw [Nat.mul_succ, Nat.add_comm]; exact Nat.add_lt_add_left (Nat.mod_lt _ (Nat.two_pow_pos w)) _
      _ ≤ 2 ^ w * 2 ^ (w * l.length) := Nat.mul_le_mul_left _ ih
      _ = 2 ^ (w * (a :: l).length) := by rw [List.length_cons, Nat.mul_succ, Nat.add_comm, Nat.pow_add]

/-- Each value stands at its own place of the packed number. -/
theorem natBits_packBits (w : Nat) (l : List Nat) (i : Nat) (hi : i < l.length) : natBits (packBits w l) (w * i) w = l[i] % 2 ^ w := by
  induction l generalizing i with
  | nil => simp at hi
  | cons a l ih =>
    cases i with
    | zero => simp [natBits, packBits]
    | succ i =>
      have hshift : packBits w (a :: l) / 2 ^ w = packBits w l := by
        rw [packBits, Nat.add_mul_div_left _ _ (Nat.two_pow_pos w), Nat.div_eq_of_lt (Nat.mod_lt _ (Nat.two_pow_pos w)), Nat.zero_add]
      calc natBits (packBits w (a :: l)) (w * (i + 1)) w
          = natBits (packBits w (a :: l) / 2 ^ w) (w * i) w := by
            rw [natBits, natBits, Nat.mul_succ, Nat.add_comm, Nat.pow_add, Nat.div_div_eq_div_mul]
        _ = (a :: l)[i + 1] % 2 ^ w := by rw [hshift, ih i (by simpa using hi)]; rfl

/-- A number of at most n bits is kept by n bits. -/
theorem toNat_ofNat_of_lt_two_pow {a k n : Nat} (ha : a < 2 ^ k) (hk : k ≤ n) : (BitVec.ofNat n a).toNat = a := by
  rw [BitVec.toNat_ofNat]
  exact Nat.mod_eq_of_lt (Nat.lt_of_lt_of_le ha (Nat.pow_le_pow_right Nat.two_pos hk))

/-! ### A register after the merge rule (R199) -/

/-- The elements of every format fit into the data plane of a register (Table 4.1). -/
theorem fmtWidth_mul_fmtElems_le : ∀ f : Fmt, fmtWidth f * fmtElems f ≤ 16384 := by decide

theorem VReg.elem_lt (r : VReg) (w i : Nat) : r.elem w i < 2 ^ w := Nat.mod_lt _ (Nat.two_pow_pos w)

/-- What element i of a register becomes under the merge rule: the new value if there is one, the old bits under the same tag, or 0. -/
def VReg.mergedElem (old : VReg) (tag : Fmt) (i : Nat) (new : Option Nat) : Nat :=
  new.getD (if old.tag = tag then old.elem (fmtWidth tag) i else 0)

/-- The elements of a register after the merge rule, in order. -/
def VReg.mergedElems (old : VReg) (tag : Fmt) (vals : List (Option Nat)) : List Nat := vals.mapIdx (old.mergedElem tag)

theorem VReg.merge_data (old : VReg) (tag : Fmt) (vals : List (Option Nat)) :
    (old.merge tag vals).data = BitVec.ofNat 16384 (packBits (fmtWidth tag) (old.mergedElems tag vals)) := by
  have helems : ((List.range vals.length).zip vals).map (fun p => match p.2 with
      | some v => v
      | none => if old.tag == tag then old.elem (fmtWidth tag) p.1 else 0) = old.mergedElems tag vals := by
    refine List.ext_getElem (by simp [VReg.mergedElems]) fun i hi _ => ?_
    simp only [VReg.mergedElems, List.getElem_map, List.getElem_zip, List.getElem_range, List.getElem_mapIdx]
    cases vals[i]'(by simpa using hi) <;> simp [VReg.mergedElem]
  exact congrArg (fun l => BitVec.ofNat 16384 (packBits (fmtWidth tag) l)) helems

section
variable (old : VReg) {tag : Fmt} {vals : List (Option Nat)} (hlen : vals.length = fmtElems tag)
include hlen

theorem VReg.packBits_mergedElems_lt :
    packBits (fmtWidth tag) (old.mergedElems tag vals) < 2 ^ (fmtWidth tag * fmtElems tag) := by
  simpa [VReg.mergedElems, hlen] using packBits_lt (fmtWidth tag) (old.mergedElems tag vals)

/-- The data plane is wide enough: nothing of the merged elements is cut off. -/
theorem VReg.toNat_merge_data : (old.merge tag vals).data.toNat = packBits (fmtWidth tag) (old.mergedElems tag vals) := by
  rw [VReg.merge_data, toNat_ofNat_of_lt_two_pow (old.packBits_mergedElems_lt hlen) (fmtWidth_mul_fmtElems_le tag)]

/-- The bits above the last element are 0 (R67). -/
theorem VReg.toNat_merge_data_lt : (old.merge tag vals).data.toNat < 2 ^ (fmtWidth tag * fmtElems tag) :=
  old.toNat_merge_data hlen ▸ old.packBits_mergedElems_lt hlen

theorem VReg.elem_merge {i : Nat} (hi : i < vals.length) :
    (old.merge tag vals).elem (fmtWidth tag) i = old.mergedElem tag i vals[i] % 2 ^ fmtWidth tag := by
  rw [VReg.elem, old.toNat_merge_data hlen, natBits_packBits _ _ i (by simpa [VReg.mergedElems] using hi)]
  simp [VReg.mergedElems]

end

/-! ### New values for the active elements -/

theorem Vec.length_onActive (v : Vec) (k : BitVec 4) (f : Fmt) (val : Nat → Nat) : (v.onActive k f val).length = fmtElems f := by
  simp [Vec.onActive]

/-- An active element takes the low bits of its new value; an inactive one is kept under the same tag and reads as 0 otherwise. -/
theorem VReg.elem_merge_onActive (old : VReg) (v : Vec) (k : BitVec 4) (f : Fmt) (val : Nat → Nat) {i : Nat} (hi : i < fmtElems f) :
    (old.merge f (v.onActive k f val)).elem (fmtWidth f) i =
      if v.active k i then val i % 2 ^ fmtWidth f else if old.tag = f then old.elem (fmtWidth f) i else 0 := by
  have hlen := v.length_onActive k f val
  have hnew : (v.onActive k f val)[i]'(hlen.symm ▸ hi) = if v.active k i then some (val i) else none := by simp [Vec.onActive]
  rw [VReg.elem_merge old hlen (hlen.symm ▸ hi), hnew]
  cases v.active k i with
  | true => rfl
  | false =>
    show (if old.tag = f then old.elem (fmtWidth f) i else 0) % _ = if old.tag = f then old.elem (fmtWidth f) i else 0
    split
    · exact Nat.mod_eq_of_lt (old.elem_lt _ i)
    · exact Nat.zero_mod _

@[simp] theorem Vec.reg_merge_same (v : Vec) (r : Nat) (f : Fmt) (vals : List (Option Nat)) :
    (v.merge r f vals).reg r = (v.reg r).merge f vals := Vec.reg_setReg_same _ _ _
theorem Vec.reg_merge_other (v : Vec) {r j : Nat} (f : Fmt) (vals : List (Option Nat)) (h : j ≠ r) :
    (v.merge r f vals).reg j = v.reg j := Vec.reg_setReg_other _ _ h.symm

/-! ### Masks (R136) -/

@[simp] theorem Vec.mask_zero (v : Vec) : v.mask 0 = BitVec.allOnes 4096 := rfl
@[simp] theorem Vec.setMask_zero (v : Vec) (m : BitVec 4096) : v.setMask 0 m = v := rfl
theorem Vec.mask_setMask_same (v : Vec) {n : Nat} (m : BitVec 4096) (h : n ≠ 0) : (v.setMask n m).mask n = m := by
  simp [Vec.setMask, Vec.mask, h]

/-- Settles O26: a register after the merge rule is read element by element from its packed data plane. -/
theorem vectorMerge : Obligations.VectorMerge := by
  unfold Obligations.VectorMerge
  refine ⟨?merge, fun v m => ⟨v.setMask_zero m, v.mask_zero⟩, fun v n m hn => v.mask_setMask_same m hn⟩
  case merge =>
    intro v k d f val _ _ r
    have hr : r = (v.reg d).merge f (v.onActive k f val) := v.reg_merge_same d f _
    rw [hr]
    exact ⟨rfl, (v.reg d).toNat_merge_data_lt (v.length_onActive k f val), fun i hi => VReg.elem_merge_onActive (v.reg d) v k f val hi,
      fun j hj => v.reg_merge_other f _ hj⟩

end Sys2Proof.Machine
end

section
/-! PROOF. FORK and XQ (05 R95; 08 R140; 10 R178, R179; 11 R195): the engine and the stream that FORK leaves, and the record that XQ
appends or waits to append. -/

namespace Sys2Proof.Machine
open Sys2Proof

/-! ### Small facts -/

/-- A table of the first n numbers holds the entry of each. -/
theorem SMap.find_map_range {α : Type} (f : Nat → α) {i n : Nat} (hi : i < n) :
    SMap.find ((List.range n).map (fun j => (j, f j))) i = some (f i) := by
  induction n with
  | zero => exact absurd hi (Nat.not_lt_zero i)
  | succ n ih =>
    rw [List.range_succ, List.map_append]
    rcases Nat.lt_succ_iff_lt_or_eq.1 hi with hlt | rfl
    · rw [SMap.find_append, ih hlt]
      rfl
    · rw [SMap.find_append_of_forall_ne i _ _ (by simp; omega)]
      simp [SMap.find]

theorem SMap.get_map_range {α : Type} (f : Nat → α) (d : α) {i n : Nat} (hi : i < n) :
    SMap.get ((List.range n).map (fun j => (j, f j))) i d = f i := by rw [SMap.get, SMap.find_map_range f hi]; rfl

/-- A wait that only holds under a condition passes when what it waits for holds under that condition. -/
theorem waitFor_of_imp {on : Bool} {p : Prop} [Decidable p] (h : on = true → p) : waitFor (!on || decide p) = .ok () := by
  cases on with
  | false => rfl
  | true => exact waitFor_of (decide_eq_true (h rfl))

/-! ### The programs of FORK (R178) -/

/-- Record i of a program of FORK, with the copies that it takes at issue. -/
def Task.forkRecord (x : Task) (eng : Engine) (p : ForkProg) (i : Nat) : QRec :=
  newRecord x (x.eng eng) ((x.eng eng).issued + 1 + i) (some (p.off + 64 * i)) 0 (i + 1 == p.count) false

/-- The engine that a program of FORK leaves. -/
def Task.forked (x : Task) (eng : Engine) (p : ForkProg) : Eng :=
  if p.valid then
    { x.eng eng with
      queue := (x.eng eng).queue ++ (List.range p.count).map (x.forkRecord eng p)
      issued := (x.eng eng).issued + p.count }
  else x.eng eng

theorem Task.forkEngine_eq (x : Task) (eng : Engine) (p : ForkProg) : x.forkEngine eng p = x.setEng eng (x.forked eng p) := by
  unfold Task.forkEngine Task.forked
  cases p.valid <;> cases eng <;> rfl

theorem forkProg_valid_iff {w : Nat} : (forkProg w).valid = true ↔ w / 2 ^ 63 % 2 = 1 := beq_iff_eq
theorem forkProg_off (w : Nat) : (forkProg w).off = w % 2 ^ 32 := natBits_low w 32

theorem Task.forked_of_not_valid {x : Task} {eng : Engine} {p : ForkProg} (hp : ¬ p.valid = true) : x.forked eng p = x.eng eng := if_neg hp

/-- An engine with the records of a program behind its queue, numbered on from the issued count, with the copies taken at issue. -/
structure ForkProg.Appended (p : ForkProg) (x : Task) (old new : Eng) : Prop where
  kept : new = { old with queue := new.queue, issued := old.issued + p.count }
  length : new.queue.length = old.queue.length + p.count
  take : new.queue.take old.queue.length = old.queue
  record : ∀ i < p.count, ∃ r : QRec, new.queue[old.queue.length + i]? = some r ∧ r.num = old.issued + 1 + i ∧
    r.off = some (p.off + 64 * i) ∧ r.hs = x.ctl.h ∧ r.cfg = old.cfg ∧ r.n5 = old.n5 ∧ r.n6 = old.n6 ∧ r.started = false

theorem Task.forked_appended {x : Task} {eng : Engine} {p : ForkProg} (hp : p.valid = true) : p.Appended x (x.eng eng) (x.forked eng p) := by
  rw [Task.forked, if_pos hp]
  refine ⟨rfl, by simp, List.take_left, fun i hi => ⟨x.forkRecord eng p i, ?_, rfl, rfl, rfl, rfl, rfl, rfl, rfl⟩⟩
  rw [List.getElem?_append_right (Nat.le_add_right _ _), Nat.add_sub_cancel_left, List.getElem?_map, List.getElem?_range hi]
  rfl

/-! ### The stream that FORK starts (R195) -/

theorem Task.startVector_scalar (x : Task) (off : Nat) (slip : Option Nat) {i : Nat} (hi : i < 8) :
    (x.startVector off slip).vec.scalar i = x.ctl.rd (BitVec.ofNat 6 (8 + i)) := SMap.get_map_range _ _ hi

theorem Task.startVector_box (x : Task) (off : Nat) (slip : Option Nat) {i : Nat} (hi : i < 8) :
    (x.startVector off slip).vec.box i = x.ctl.hd (BitVec.ofNat 5 i) := SMap.get_map_range _ _ hi

/-! ### FORK -/

/-- The V program of a fork block is valid. -/
abbrev forkVector (b : Nat) : Prop := natBits (blockWord b 0) 63 1 = 1

/-- The task after FORK of a block whose V program has this descriptor. -/
def Task.fork (x : Task) (b : Nat) (slip : Option Nat) : Task :=
  { x with
    mat := x.forked .matrix (forkProg (blockWord b 1))
    cpy := x.forked .copy (forkProg (blockWord b 2))
    vec := if forkVector b then (x.startVector (natBits (blockWord b 0) 0 32) slip).vec else x.vec }

/-- FORK over a block can start its V program, of this descriptor: the slip depth is in range, the sequencer is free, and s8 to s15 can be read. -/
structure StreamStarts (s : State) (x : Task) (b : Nat) (slip : Option Nat) : Prop where
  word : s.slipOf x (natBits (blockWord b 0) 0 32) = .ok slip
  depth : ∀ n ∈ slip, 1 ≤ n ∧ n ≤ 64
  free : x.vec.on = false
  ready : ∀ i < 8, Ready x (BitVec.ofNat 6 (8 + i))

theorem execFork_completes {s : State} {x : Task} {ext : BitVec 32} {b : Nat} {slip : Option Nat} (hx : Acts s x) (hsv : x.service = false)
    (hb : s.block x ext.toNat 64 64 = .ok b) (hok : forkBlockOk b = true) (hset : settled x = true)
    (hv : forkVector b → StreamStarts s x b slip)
    (hm : (forkProg (blockWord b 1)).valid = true → pendingPrograms x.mat < 4)
    (hc : (forkProg (blockWord b 2)).valid = true → pendingPrograms x.cpy < 4) :
    execFork ext s = s.completes (x.fork b slip) 8 := by
  refine State.issueTask_ok hx (taskForm_checks hsv) ?_
  unfold Task.fork
  simp only [hb, check_of hok, waitFor_of hset, waitFor_of_imp hm, waitFor_of_imp hc, Task.forkEngine_eq, Res.bind_ok]
  by_cases hon : forkVector b
  · have hst := hv hon
    have hsrc := Res.mapM_ok (f := fun i => x.src (BitVec.ofNat 6 (8 + i))) (l := List.range 8)
      (fun i hi => Task.src_ok (hst.ready i (List.mem_range.1 hi)).1 (hst.ready i (List.mem_range.1 hi)).2)
    simp only [beq_iff_eq.2 hon, if_pos hon, if_true, hst.word, hsrc, hst.free, Bool.and_false, Bool.not_false, waitFor_true, Res.bind_ok]
    cases slip with
    | none => rfl
    | some n =>
      have hdepth : (decide (1 ≤ n) && decide (n ≤ 64)) = true := by simpa using hst.depth n rfl
      simp only [check_of hdepth, Res.bind_ok]
      rfl
  · simp only [beq_eq_false_iff_ne.2 hon, if_neg hon, Bool.false_eq_true, if_false, Bool.false_and, Bool.not_false, waitFor_true, check_true,
      Res.bind_ok]
    rfl

/-! ### XQ (R179) -/

/-- The engine with an XQ record w behind its queue. -/
def Task.queuedXq (x : Task) (e : Engine) (w : BitVec 512) : Eng :=
  { x.eng e with queue := (x.eng e).queue ++ [newRecord x (x.eng e) ((x.eng e).issued + 1) none w true true], issued := (x.eng e).issued + 1 }

theorem Task.override_off (x : Task) (a : SReg) (i width : Nat) : x.override false a i width = .ok none := rfl

/-- A low bit of a word whose low bits are all zero. -/
theorem getLsbD_of_extractLsb'_eq_zero {w k i : Nat} {v : BitVec w} (h : v.extractLsb' 0 k = 0) (hi : i < k) : v.getLsbD i = false := by
  have hbit := congrArg (fun u => u.getLsbD i) h
  simpa [hi] using hbit

section
variable {s : State} {x : Task} {d a : SReg} {f8 : BitVec 8} {ext : BitVec 32} {n : Nat} {e : Engine} (hx : Acts s x)
  (hsv : x.service = false) (hd : Free x d) (hb : s.block x ext.toNat 64 64 = .ok n) (hf : f8.extractLsb' 0 3 = 0)
  (he : kindEngine (natBits n 56 8) f8 = some e) (hset : settled x = true)
include hx hsv hd hb hf he hset

/-- Without overrides XQ has the limit of its engine to wait for, and then its record to append. -/
theorem execXq_deliver : execXq d a f8 ext s = s.deliver s.cur x (do
    waitFor (pendingXq (x.eng e) < 64)
    s.done ((x.setEng e (x.queuedXq e (BitVec.ofNat 512 n))).wr d (word ((x.eng e).issued + 1))) 8) := by
  have hbit {i : Nat} (hi : i < 3) : f8.getLsbD i = false := getLsbD_of_extractLsb'_eq_zero hf hi
  unfold execXq State.issueTask
  rw [State.issue_deliver hx (taskForm_checks hsv)]
  simp only [Task.dst_ok hd, hb, he, hbit (i := 0) (by decide), hbit (i := 1) (by decide), hbit (i := 2) (by decide), Task.override_off,
    waitFor_of hset, Res.bind_ok, bind_assoc]
  rfl

theorem execXq_appends (hroom : pendingXq (x.eng e) < 64) : execXq d a f8 ext s =
    s.completes ((x.setEng e (x.queuedXq e (BitVec.ofNat 512 n))).wr d (word ((x.eng e).issued + 1))) 8 := by
  rw [execXq_deliver hx hsv hd hb hf he hset, waitFor_of (decide_eq_true hroom)]
  rfl

theorem execXq_waits (hfull : 64 ≤ pendingXq (x.eng e)) : execXq d a f8 ext s = .next s := by
  rw [execXq_deliver hx hsv hd hb hf he hset, decide_eq_false (Nat.not_lt.2 hfull)]
  rfl

end

/-- Settles O16: FORK leaves the programs' records behind the queues and its stream started; XQ appends its record, or waits. -/
theorem enginePrograms : Obligations.EnginePrograms := by
  unfold Obligations.EnginePrograms
  refine ⟨?fork, ?xq⟩
  case fork =>
    intro s x ext b slip hx hsv hb hok hset v vOn prog hv hm hc
    have hprog (i : Nat) (eng : Engine) : prog (blockWord b i) (x.eng eng) (x.forked eng (forkProg (blockWord b i))) := by
      by_cases hw : blockWord b i / 2 ^ 63 % 2 = 1
      · obtain ⟨kept, length, take, record⟩ := Task.forked_appended (x := x) (eng := eng) (forkProg_valid_iff.2 hw)
        rw [forkProg_off] at record
        exact (if_pos hw).mpr ⟨kept, length, take, record⟩
      · exact (if_neg hw).mpr (Task.forked_of_not_valid (mt forkProg_valid_iff.1 hw))
    have hoff : natBits v 0 32 = v % 2 ^ 32 := natBits_low v 32
    have hstart (hon : vOn) : StreamStarts s x b slip := by
      obtain ⟨hword, hdepth, hfree, hready⟩ := hv hon
      exact ⟨hoff ▸ hword, hdepth, hfree, hready⟩
    refine ⟨x.fork b slip, execFork_completes hx hsv hb hok hset hstart (fun h => hm (forkProg_valid_iff.1 h))
      (fun h => hc (forkProg_valid_iff.1 h)), rfl, hprog 1 .matrix, hprog 2 .copy, fun hnone => if_neg hnone, fun hon => ?_⟩
    have hvec : (x.fork b slip).vec = (x.startVector (v % 2 ^ 32) slip).vec := by rw [← hoff]; exact if_pos hon
    rw [hvec]
    exact ⟨rfl, fun i hi => ⟨x.startVector_scalar _ slip hi, x.startVector_box _ slip hi⟩⟩
  case xq =>
    intro s x d a f8 ext n e hx hsv hd hb hf he hset
    exact ⟨execXq_appends hx hsv hd hb hf he hset, execXq_waits hx hsv hd hb hf he hset⟩

end Sys2Proof.Machine
end

section
/-! PROOF. The device steps of the Sundial unit (06 R102, R105, R112 to R114): how a record takes its slot of the ring, and for each step one
lemma for each of its outcomes. -/

namespace Sys2Proof.Machine
open Sys2Proof

/-! ### A record takes a slot of the ring (R102) -/

/-- The ring of a stream holds a record in slot i, marked with the number of its source and that source's next sequence number. -/
def State.recordWritten (s : State) (source : Nat) (c : Source) (e : EStream) (bs : List Byte) (i : Nat) : State :=
  s.unitWrite e.launch e.ring (i * e.recSize) (recMark (bs.take e.recSize) (source % 1024) 0 c.seq)

/-- A stream after a record, the n-th to arrive on its die, has taken slot i: the write position moves to the slot after it. -/
def EStream.taken (e : EStream) (n i : Nat) : EStream :=
  { e with slots := SMap.put e.slots i 0, arrivals := e.arrivals ++ [(n, i)], wpos := (i + 1) % e.size }

section
variable {s : State} {source : Nat} {c : Source} {e : EStream} (hc : SMap.find s.sources source = some c)
  (he : SMap.find s.streams c.stream = some e)
include hc he

/-- A record enters while the tick is not over and a slot is free; what it changes of its source, its stream and memory. -/
theorem State.enterRecord_takes {i : Nat} (bs : List Byte) (hslot : e.freeSlot = some i) (hopen : s.tickDone (c.stream / 256) = false) :
    ∃ u : State, s.enterRecord source bs = some u ∧ SMap.find u.sources source = some { c with seq := c.seq + 1 } ∧
      SMap.find u.streams c.stream = some (e.taken ((s.recordWritten source c e bs i).die (c.stream / 256)).arrived i) ∧
      u.mem = (s.recordWritten source c e bs i).mem := by
  have hopen : s.tickDone (dieOfStream c.stream) = false := hopen
  unfold State.enterRecord
  simp only [hc, he, hopen, hslot]
  exact ⟨_, rfl, SMap.find_put_same .., SMap.find_put_same .., rfl⟩

/-- No record enters a full ring, nor one whose unit has done the tick's work. -/
theorem State.enterRecord_waits (bs : List Byte) (h : e.freeSlot = none ∨ s.tickDone (c.stream / 256) = true) :
    s.enterRecord source bs = none := by
  have hnone : (if s.tickDone (dieOfStream c.stream) then none else e.freeSlot) = none := by
    rcases h with hfull | hdone
    · rw [hfull]
      exact ite_self none
    · exact if_pos hdone
  unfold State.enterRecord
  simp only [hc, he, hnone]

/-! ### STREAM_RECORD_ENTRY (R102) -/

section
variable {bs : List Byte} {r : List (List Byte)} (hwait : c.waiting = bs :: r)
include hwait

/-- The oldest record that waits at a source enters, and waits no longer. -/
theorem execStreamRecordEntry_enters {i : Nat} (hslot : e.freeSlot = some i) (hopen : s.tickDone (c.stream / 256) = false) :
    ∃ u : State, execStreamRecordEntry source s = .next u ∧
      SMap.find u.sources source = some { c with seq := c.seq + 1, waiting := r } ∧
      SMap.find u.streams c.stream = some (e.taken ((s.recordWritten source c e bs i).die (c.stream / 256)).arrived i) ∧
      u.mem = (s.recordWritten source c e bs i).mem := by
  obtain ⟨u, hu, hsource, hstream, hmem⟩ := State.enterRecord_takes hc he bs hslot hopen
  unfold execStreamRecordEntry
  simp only [hc, hwait, hu, hsource, List.drop_succ_cons, List.drop_zero]
  exact ⟨_, rfl, SMap.find_put_same .., hstream, hmem⟩

/-- It waits on while no record may enter. -/
theorem execStreamRecordEntry_waits (h : e.freeSlot = none ∨ s.tickDone (c.stream / 256) = true) : execStreamRecordEntry source s = .next s := by
  unfold execStreamRecordEntry
  simp only [hc, hwait, State.enterRecord_waits hc he bs h]

end

/-! ### SOURCE_IDLE (R105 step 2) -/

/-- At a tick's end, with every record that has arrived applied, a source is what its silence makes of it. -/
theorem execSourceIdle_settles (harr : e.arrivals = []) (hend : s.cycle % 16 = 15) :
    execSourceIdle source s = .next { s with sources := SMap.put s.sources source (c.idleAt (s.cycle / 16)) } := by
  unfold execSourceIdle
  simp only [hc, he, harr, hend]
  rfl

end

/-- An Active source that has been silent for its timeout is Idle. -/
theorem Source.idleAt_silent {c : Source} {now : Nat} (ha : c.st = .active) (ht : c.last + c.timeout ≤ now) :
    c.idleAt now = { c with st := .idle } := if_pos (by simp [ha, ht])

/-- Any other source stays as it is. -/
theorem Source.idleAt_keeps {c : Source} {now : Nat} (h : c.st ≠ .active ∨ now < c.last + c.timeout) : c.idleAt now = c := by
  refine if_neg fun hidle => ?_
  obtain ⟨ha, ht⟩ : c.st = .active ∧ c.last + c.timeout ≤ now := by simpa using hidle
  rcases h with h | h
  · exact h ha
  · omega

/-! ### SUNDIAL_TICK (R105) -/

/-- A die has streams where one of the machine's streams has its number there. -/
theorem State.dieStreams_isEmpty_eq_false_iff (s : State) (die : Nat) : (s.dieStreams die).isEmpty = false ↔ ∃ p ∈ s.streams, p.1 / 256 = die := by
  simp [State.dieStreams, dieOfStream]

/-- When the unit of a die has the work of a tick's end before it. -/
theorem State.sundialDue_iff (s : State) (die : Nat) : s.sundialDue die = true ↔
    s.cycle % 16 = 15 ∧ (s.die die).ticked ≠ s.cycle / 16 + 1 ∧ (∃ p ∈ s.streams, p.1 / 256 = die) ∧ s.tickStalled die = false := by
  rw [← State.dieStreams_isEmpty_eq_false_iff]
  simp only [State.sundialDue, State.tick, Bool.and_eq_true, beq_iff_eq, bne_iff_ne, Bool.not_eq_true', and_assoc]

/-- Work that is due is done, and noted as done for the tick. -/
theorem execSundialTick_works {s : State} {die : Nat} (hdue : s.sundialDue die = true) :
    execSundialTick die s = .next ((s.sundialTick die).setDie die { (s.sundialTick die).die die with ticked := s.cycle / 16 + 1 }) := if_pos hdue

theorem execSundialTick_stays {s : State} {die : Nat} (hdue : ¬ s.sundialDue die = true) : execSundialTick die s = .next s := if_neg hdue

/-! ### WINDOW_PUBLICATION (R112 to R114) -/

section
variable {s : State} {t b k : Nat} {x : Task} (hx : s.task? t = some x) (hst : x.st = .returned) (hread : s.headerStalled b k = false)
include hx hst hread

/-- A firing that has returned is published once its slot's header can be read. -/
theorem execWindowPublication_firing (hk : x.r.kind = .firing b k) : execWindowPublication t s =
    .next (((s.delTask t).publishWindow b k false x.r.status).tryFinishLaunch x.r.launch) := by
  unfold execWindowPublication
  simp [hx, hst, hk, hread]

/-- So is an amendment; one that failed waits for the late records, which go to the drop ring. -/
theorem execWindowPublication_amendment (hk : x.r.kind = .amendment b k) (hlate : x.r.status = 0 ∨ s.tickStalled (b / 4 / 256) = false) :
    execWindowPublication t s = .next (((s.delTask t).publishWindow b k true x.r.status).tryFinishLaunch x.r.launch) := by
  have hgo : (s.headerStalled b k || (x.r.status != 0 && s.tickStalled (dieOfStream (b / 4)))) = false := by
    rcases hlate with h | h
    · simp [hread, h]
    · simp [hread, dieOfStream, h]
  unfold execWindowPublication
  simp [hx, hst, hk, hgo]

end

/-- Settles O44: each device step of the unit goes the way that the lemma of its outcome says. -/
theorem sundialEvents : Obligations.SundialEvents := by
  unfold Obligations.SundialEvents
  refine ⟨?entry, ?idle, ?tick, ?publication⟩
  case entry =>
    intro s source c e bs r hc hwait he
    refine ⟨fun i hslot hopen => ?_, execStreamRecordEntry_waits hc he hwait⟩
    obtain ⟨u, hu, hsource, hstream, hmem⟩ := execStreamRecordEntry_enters hc he hwait hslot hopen
    exact ⟨u, hu, hsource, ⟨_, hstream⟩, hmem⟩
  case idle =>
    intro s source c e hc he harr hend
    have hsettle : exec (.sourceIdle source) s = _ := execSourceIdle_settles hc he harr hend
    refine ⟨fun ha ht => ?_, fun h => ?_⟩
    · rw [hsettle, Source.idleAt_silent ha ht]
    · rw [hsettle, Source.idleAt_keeps h]
  case tick =>
    intro s die u due
    have hdue : s.sundialDue die = true ↔ due := s.sundialDue_iff die
    exact ⟨fun h => execSundialTick_works (hdue.2 h), fun h => execSundialTick_stays (mt hdue.1 h)⟩
  case publication =>
    intro s t b k x hx hst hread
    exact ⟨execWindowPublication_firing hx hst hread, execWindowPublication_amendment hx hst hread⟩

end Sys2Proof.Machine
end

section
/-! PROOF. The values after reset (06 R103; 07 R120; 18 R268; 20 R315; 23 R357): a unit that is not listed is in its own reset state, and what
exists only once it is created is not there. -/

namespace Sys2Proof.Machine
open Sys2Proof

/-! ### Units of the machine -/

@[simp] theorem State.cluster_reset (c : Nat) : State.reset.cluster c = Cluster.reset := rfl
@[simp] theorem State.die_reset (d : Nat) : State.reset.die d = Die.reset := rfl
@[simp] theorem State.stack_reset (k : Nat) : State.reset.stack k = Stack.reset := rfl
@[simp] theorem Stack.chan_reset (ch : Nat) : Stack.reset.chan ch = Chan.reset := rfl
@[simp] theorem State.cgroup_reset (g : Nat) : State.reset.cgroup g = CGroup.reset := rfl
@[simp] theorem State.hostFn_reset (vf : Nat) : State.reset.hostFn vf = HostFn.reset := rfl

/-! ### What is created later -/

@[simp] theorem State.task_reset (t : Nat) : State.reset.task? t = none := rfl
@[simp] theorem State.launch_reset (l : Nat) : State.reset.launch? l = none := rfl
@[simp] theorem State.part_reset (p : Nat) : State.reset.part? p = none := rfl

/-- Settles O58: each unit reads as its reset state, whose fields hold the values. -/
theorem resetValues : Obligations.ResetValues := by
  unfold Obligations.ResetValues
  refine ⟨?clusters, ?memory, ?groups, ?dies, State.task_reset, State.launch_reset, State.part_reset, rfl, ?hostFns⟩
  case clusters =>
    intro c
    rw [State.cluster_reset]
    exact ⟨rfl, rfl, rfl⟩
  case memory =>
    intro k
    rw [State.stack_reset]
    refine ⟨rfl, rfl, fun ch => ?_⟩
    rw [Stack.chan_reset]
    rfl
  case groups =>
    intro g
    rw [State.cgroup_reset]
    rfl
  case dies =>
    intro d
    rw [State.die_reset]
    exact ⟨rfl, rfl, rfl⟩
  case hostFns =>
    intro vf
    rw [State.hostFn_reset]
    exact ⟨rfl, rfl, rfl⟩

end Sys2Proof.Machine
end

section
/-! PROOF. The group forms and the group-tagged store (07 R120 to R122, R126; 10 R191, R192): the group that gopen takes, and for each form
one lemma for each of its outcomes. -/

namespace Sys2Proof.Machine
open Sys2Proof

/-! ### Small facts -/

/-- A message to another device leaves the acting task, the tasks and the groups as they are. -/
@[simp] theorem State.sendOn_cur (s : State) (part : Nat) (m : Message) : (s.sendOn part m).cur = s.cur := by
  unfold State.sendOn
  split
  · rfl
  · split <;> rfl
@[simp] theorem State.sendOn_tasks (s : State) (part : Nat) (m : Message) : (s.sendOn part m).tasks = s.tasks := by
  unfold State.sendOn
  split
  · rfl
  · split <;> rfl
@[simp] theorem State.sendOn_groups (s : State) (part : Nat) (m : Message) : (s.sendOn part m).groups = s.groups := by
  unfold State.sendOn
  split
  · rfl
  · split <;> rfl
@[simp] theorem State.task_sendOn (s : State) (part : Nat) (m : Message) (t : Nat) : (s.sendOn part m).task? t = s.task? t := by simp [State.task?]
@[simp] theorem State.cgroup_sendOn (s : State) (part : Nat) (m : Message) (g : Nat) : (s.sendOn part m).cgroup g = s.cgroup g := by
  simp [State.cgroup]

@[simp] theorem State.sendPacket_cur (s : State) (g t dest launch table : Nat) (st : Stream) (cls : BitVec 4) (h : Handle) (es : List RemoteElem) :
    (s.sendPacket g t dest launch table st cls h es).cur = s.cur := by
  unfold State.sendPacket
  dsimp only
  split
  · rfl
  · split
    · rfl
    · exact State.sendOn_cur ..

/-- A digest goes to a replica over a usable route. -/
def State.tellDigest (l g : Nat) (digest : List Byte) (u : State) (d : Nat) : State :=
  if u.groupRoute (u.launchPart l) d then u.sendOn (u.launchPart l) (.digest d g digest) else u

theorem State.tellDigest_keeps (l g : Nat) (digest : List Byte) (u : State) (d : Nat) :
    (u.tellDigest l g digest d).tasks = u.tasks ∧ (u.tellDigest l g digest d).groups = u.groups := by
  unfold State.tellDigest
  split <;> simp

theorem State.foldl_tellDigest_keeps (l g : Nat) (digest : List Byte) (devs : List Nat) (u : State) :
    (devs.foldl (State.tellDigest l g digest) u).tasks = u.tasks ∧ (devs.foldl (State.tellDigest l g digest) u).groups = u.groups :=
  List.foldlRecOn devs (motive := fun (v : State) => v.tasks = u.tasks ∧ v.groups = u.groups) _ ⟨rfl, rfl⟩ fun (v : State) hv d _ =>
    ⟨(v.tellDigest_keeps l g digest d).1.trans hv.1, (v.tellDigest_keeps l g digest d).2.trans hv.2⟩

/-- To a launch that has not opened it, and to every launch once it is Free, a group is Free (R120). -/
theorem State.ownGroup_none {s : State} {x : Task} {g : Nat} (h : (s.cgroup g).st = .free ∨ (s.cgroup g).launch ≠ x.r.launch) :
    s.ownGroup x g = none := by
  refine if_neg ?_
  rcases h with h | h <;> simp [h]

theorem State.ownGroup_some {s : State} {x : Task} {g : Nat} (hst : (s.cgroup g).st ≠ .free) (hl : (s.cgroup g).launch = x.r.launch) :
    s.ownGroup x g = some (s.cgroup g) := if_pos (by simp [hst, hl])

/-- The operand of gcommit holds a group's number and, in bit 8, whether the commit is replicated. -/
theorem getLsbD_commitOperand {v : Word} {g : Nat} {replicated : Bool} (hv : v.toNat = g + flag replicated * 256) (hg : g < 64) :
    v.getLsbD 8 = replicated := by
  have hbit : v.getLsbD 8 = decide (v.toNat / 2 ^ 8 % 2 = 1) := Nat.testBit_eq_decide_div_mod_eq
  rw [hbit, hv]
  cases replicated with
  | false => exact decide_eq_false (p := (g + 0 * 256) / 2 ^ 8 % 2 = 1) (by omega)
  | true => exact decide_eq_true (p := (g + 1 * 256) / 2 ^ 8 % 2 = 1) (by omega)

theorem toNat_commitOperand_mod {v : Word} {g : Nat} {replicated : Bool} (hv : v.toNat = g + flag replicated * 256) (hg : g < 64) :
    v.toNat % 64 = g := by omega

theorem check_commitOperand {v : Word} {g : Nat} {replicated : Bool} {b : HReg} (hv : v.toNat = g + flag replicated * 256)
    (hb : replicated = true ∨ b = 0) : check (v.toNat == g + flag replicated * 256 && (replicated || b == 0)) Flt.illegal = .ok () :=
  check_of (by simpa [hv] using hb) _

theorem flag_mul (b : Bool) (n : Nat) : flag b * n = if b then n else 0 := by cases b <;> simp [flag]

theorem groupOperand_ok {v : Word} (h : v.toNat < 64) : groupOperand v = .ok v.toNat := by
  unfold groupOperand
  rw [check_of (decide_eq_true h)]
  rfl

/-! ### gopen (R120, R191) -/

/-- The group that gopen takes when it asks for n (log 45). -/
def State.pickGroup (s : State) (n : Nat) : Option Nat :=
  if n < 64 then (if (s.cgroup n).st == .free then some n else none) else (List.range 64).find? (fun g => (s.cgroup g).st == .free)

theorem State.pickGroup_asked {s : State} {n : Nat} (hn : n < 64) (h : (s.cgroup n).st = .free) : s.pickGroup n = some n := by
  simp [State.pickGroup, hn, h]
theorem State.pickGroup_taken {s : State} {n : Nat} (hn : n < 64) (h : (s.cgroup n).st ≠ .free) : s.pickGroup n = none := by
  simp [State.pickGroup, hn, h]

/-- With 64 it is the lowest Free one. -/
theorem State.pickGroup_lowest {s : State} {g : Nat} (hg : g < 64) (h : (s.cgroup g).st = .free) (hlow : ∀ k < g, (s.cgroup k).st ≠ .free) :
    s.pickGroup 64 = some g := by
  refine (if_neg (Nat.lt_irrefl 64)).trans (List.find?_range_eq_some.2 ⟨by simpa using h, List.mem_range.2 hg, fun k hk => ?_⟩)
  simpa using hlow k hk
theorem State.pickGroup_none {s : State} (h : ∀ k < 64, (s.cgroup k).st ≠ .free) : s.pickGroup 64 = none := by
  refine (if_neg (Nat.lt_irrefl 64)).trans (List.find?_range_eq_none.2 fun k hk => ?_)
  simpa using h k hk

/-- Group g as launch l opens it at a tick, with a timeout. -/
def State.openedGroup (s : State) (g l timeout : Nat) : CGroup :=
  { CGroup.reset with st := .opened, launch := l, timeoutAt := s.cycle / 16 + timeout, opening := (s.cgroup g).opening + 1 }

section
variable {s : State} {x : Task} {d a b : SReg} (hx : Acts s x) (hsv : x.service = false) (ha : Ready x a)
include hx hsv ha

section
variable (hb : Ready x b) (hd : Free x d) (hlow : 1 ≤ (x.ctl.rd a).toNat) (hhigh : (x.ctl.rd a).toNat < 2 ^ 32) (hn : (x.ctl.rd b).toNat ≤ 64)
include hb hd hlow hhigh hn

/-- Past its checks gopen has its group to take. -/
theorem execGopen_deliver : execGopen d a b s = s.deliver s.cur x (match s.pickGroup (x.ctl.rd b).toNat with
    | none => s.done (x.wr d 64) 4
    | some g => (s.setCGroup g (s.openedGroup g x.r.launch (x.ctl.rd a).toNat)).done (x.wr d (word g)) 4) := by
  have hchecks : (decide (1 ≤ (x.ctl.rd a).toNat) && decide ((x.ctl.rd a).toNat < 2 ^ 32) && decide ((x.ctl.rd b).toNat ≤ 64)) = true := by
    simp only [hlow, hhigh, hn, decide_true, Bool.and_self]
  unfold execGopen
  rw [State.issue_deliver hx (taskForm_checks hsv)]
  simp only [Task.src_ok ha.1 ha.2, Task.src_ok hb.1 hb.2, Task.dst_ok hd, check_of hchecks, Res.bind_ok]
  rfl

theorem execGopen_opens {g : Nat} (hg : s.pickGroup (x.ctl.rd b).toNat = some g) : execGopen d a b s =
    .next ((s.setCGroup g (s.openedGroup g x.r.launch (x.ctl.rd a).toNat)).setTask s.cur ((x.wr d (word g)).retire 4)) := by
  rw [execGopen_deliver hx hsv ha hb hd hlow hhigh hn, hg]
  rfl

theorem execGopen_finds_none (hg : s.pickGroup (x.ctl.rd b).toNat = none) : execGopen d a b s = .next (s.setTask s.cur ((x.wr d 64).retire 4)) := by
  rw [execGopen_deliver hx hsv ha hb hd hlow hhigh hn, hg]
  rfl

end

/-! ### gcommit (R124, R127, R191) -/

section
variable {g : Nat} (hg : g < 64)
include hg

section
variable (hv : (x.ctl.rd a).toNat = g + flag false * 256) (hcmp : x.r.comparing = none)
include hv hcmp

/-- gcommit of one device takes a group that the task's launch has open, and waits for the task's earlier accesses. -/
theorem execGcommit_deliver : execGcommit a 0 s = s.deliver s.cur x (match s.ownGroup x g with
    | none => fault Flt.group
    | some c => do
      check (c.st == .opened) Flt.group
      waitFor (settled x)
      (s.setCGroup g { c with st := .preparing, committer := some s.cur }).done x 4) := by
  unfold execGcommit
  rw [State.issue_deliver hx (taskForm_checks hsv)]
  simp only [Task.src_ok ha.1 ha.2, getLsbD_commitOperand hv hg, toNat_commitOperand_mod hv hg, check_commitOperand hv (.inr rfl), hcmp, Res.bind_ok]
  rfl

theorem execGcommit_prepares (hst : (s.cgroup g).st = .opened) (hl : (s.cgroup g).launch = x.r.launch) (hset : settled x = true) :
    execGcommit a 0 s = .next ((s.setCGroup g { s.cgroup g with st := .preparing, committer := some s.cur }).setTask s.cur (x.retire 4)) := by
  have hown : s.ownGroup x g = some (s.cgroup g) := State.ownGroup_some (by simp [hst]) hl
  rw [execGcommit_deliver hx hsv ha hg hv hcmp, hown]
  simp only [hst, beq_self_eq_true, check_true, waitFor_of hset, Res.bind_ok]
  rfl

theorem execGcommit_faults (h : (s.cgroup g).st ≠ .opened ∨ (s.cgroup g).launch ≠ x.r.launch) :
    execGcommit a 0 s = s.raise s.cur x Flt.group 0 := by
  rw [execGcommit_deliver hx hsv ha hg hv hcmp]
  by_cases hnone : (s.cgroup g).st = .free ∨ (s.cgroup g).launch ≠ x.r.launch
  · rw [State.ownGroup_none hnone]
    rfl
  · obtain ⟨hfree, hl⟩ := not_or.1 hnone
    have hst : ((s.cgroup g).st == .opened) = false := beq_eq_false_iff_ne.2 (h.resolve_right hl)
    rw [State.ownGroup_some hfree (Decidable.not_not.1 hl)]
    simp only [hst, check_false]
    rfl

end

section
variable {h : HReg} (hv : (x.ctl.rd a).toNat = g + flag true * 256)
include hv

theorem execGcommit_compares (hcmp : x.r.comparing = none) (hst : (s.cgroup g).st = .opened) (hl : (s.cgroup g).launch = x.r.launch)
    (hset : settled x = true) {digest : List Byte} {devs : List Nat} (hparams : s.replicaParams x (x.ctl.hd h) = .ok (digest, devs)) :
    execGcommit a h s = .next ((devs.filter (fun d => d != s.deviceOf x.r.launch)).foldl (State.tellDigest x.r.launch g digest)
      ((s.setCGroup g { s.cgroup g with
        st := .preparing, committer := some s.cur, replicas := devs, digests := (s.deviceOf x.r.launch, digest) :: (s.cgroup g).digests }).setTask
        s.cur (x.mapRec (fun r => { r with comparing := some (g, false) })))) := by
  have hown : s.ownGroup x g = some (s.cgroup g) := State.ownGroup_some (by simp [hst]) hl
  refine State.issue_ok hx (taskForm_checks hsv) ?_
  simp only [Task.src_ok ha.1 ha.2, getLsbD_commitOperand hv hg, toNat_commitOperand_mod hv hg, check_commitOperand hv (.inl rfl), hcmp,
    hown, hst, hparams, waitFor_of hset, beq_self_eq_true, check_true, Res.bind_ok]
  rfl

theorem execGcommit_waits (hcmp : x.r.comparing = some (g, false)) : execGcommit a h s = .next s := by
  have hnot : (some (g, false) == some (g, true)) = false := by simp
  have hstill : (some (g, false) != some (g, false)) = false := by simp
  refine State.issue_stall hx (taskForm_checks hsv) ?_
  simp only [Task.src_ok ha.1 ha.2, getLsbD_commitOperand hv hg, toNat_commitOperand_mod hv hg, check_commitOperand hv (.inl rfl), hcmp, hnot, hstill,
    Bool.false_eq_true, if_false, waitFor_false, Res.bind_ok, Res.bind_error]

theorem execGcommit_goesOn (hcmp : x.r.comparing = some (g, true)) :
    execGcommit a h s = .next (s.setTask s.cur ((x.mapRec (fun r => { r with comparing := none })).retire 4)) := by
  refine State.issue_ok hx (taskForm_checks hsv) ?_
  simp only [Task.src_ok ha.1 ha.2, getLsbD_commitOperand hv hg, toNat_commitOperand_mod hv hg, check_commitOperand hv (.inl rfl), hcmp,
    beq_self_eq_true, if_true, Res.bind_ok]
  rfl

end

end

/-! ### gabort and gstat (R126, R191) -/

section
variable (hv : (x.ctl.rd a).toNat < 64)
include hv

theorem execGabort_skips (h : (s.cgroup (x.ctl.rd a).toNat).st = .free ∨ (s.cgroup (x.ctl.rd a).toNat).launch ≠ x.r.launch) :
    execGabort a s = .next (s.setTask s.cur (x.retire 4)) := by
  refine State.issue_ok hx (taskForm_checks hsv) ?_
  simp only [Task.src_ok ha.1 ha.2, groupOperand_ok hv, State.ownGroup_none h, Res.bind_ok]
  rfl

theorem execGabort_aborts (hst : (s.cgroup (x.ctl.rd a).toNat).st ≠ .free) (hl : (s.cgroup (x.ctl.rd a).toNat).launch = x.r.launch) :
    execGabort a s = .next ((s.abortGroup (x.ctl.rd a).toNat 1).modTask s.cur (fun y => y.retire 4)) := by
  refine State.issue_ok hx (taskForm_checks hsv) ?_
  simp only [Task.src_ok ha.1 ha.2, groupOperand_ok hv, State.ownGroup_some hst hl, Res.bind_ok]

/-- What gstat tells the launch that opened a group last. -/
def CGroup.statusWord (c : CGroup) : Word :=
  word (groupCode c.st + 8 + c.cause * 2 ^ 4 + (if c.done then 2 ^ 7 else 0) + c.discarded % 2 ^ 32 * 2 ^ 32)

theorem execGstat_reports (hd : Free x d) (hl : (s.cgroup (x.ctl.rd a).toNat).launch = x.r.launch)
    (h : (s.cgroup (x.ctl.rd a).toNat).st ≠ .free ∨ (s.cgroup (x.ctl.rd a).toNat).done = true) :
    execGstat d a s = .next (s.setTask s.cur ((x.wr d (s.cgroup (x.ctl.rd a).toNat).statusWord).retire 4)) := by
  refine State.issueScalar_ok hx (taskForm_checks hsv) hd ?_
  simp only [Task.src_ok ha.1 ha.2, groupOperand_ok hv, flag_mul, Res.bind_ok]
  exact if_pos (by simpa [hl] using h)

theorem execGstat_hides (hd : Free x d) (h : (s.cgroup (x.ctl.rd a).toNat).launch ≠ x.r.launch ∨
      ((s.cgroup (x.ctl.rd a).toNat).st = .free ∧ (s.cgroup (x.ctl.rd a).toNat).done = false)) :
    execGstat d a s = .next (s.setTask s.cur ((x.wr d 0).retire 4)) := by
  refine State.issueScalar_ok hx (taskForm_checks hsv) hd ?_
  simp only [Task.src_ok ha.1 ha.2, groupOperand_ok hv, Res.bind_ok]
  refine if_neg ?_
  rcases h with h | ⟨hst, hdone⟩
  · simp [h]
  · simp [hst, hdone]

end

end

/-! ### The group-tagged store (R121, R122, R192) -/

section
variable {s : State} {x : Task} {m : StG} {g dev : Nat} (hx : Acts s x) (hsv : x.service = false) (hs : Ready x m.s) (ha : Ready x m.a)
  (hi : Ready x m.idx) (hword : (x.ctl.rd m.a).toNat = g + dev * 2 ^ 16) (hg : g < 64) (hdev : dev < 2 ^ 16)
include hx hsv hs ha hi hword hg hdev

theorem execStG_faults (h : (s.cgroup g).st = .free ∨ (s.cgroup g).launch ≠ x.r.launch) : execStG m s = s.raise s.cur x Flt.group 0 := by
  have hgroup : (x.ctl.rd m.a).toNat % 64 = g := by omega
  have hdevice : (x.ctl.rd m.a).toNat / 2 ^ 16 % 2 ^ 16 = dev := by omega
  unfold execStG
  rw [State.issue_deliver hx (taskForm_checks hsv)]
  simp only [Task.src_ok hs.1 hs.2, Task.src_ok ha.1 ha.2, Task.src_ok hi.1 hi.2, hgroup, hdevice, check_of (beq_iff_eq.2 hword),
    State.ownGroup_none h, Res.bind_ok]
  rfl

/-- A store by a task of the group's launch sends its packet while the group is Open, and is discarded and counted past that. -/
theorem execStG_stores {p : List Nat} {l : Launch} (hst : (s.cgroup g).st ≠ .free) (hl : (s.cgroup g).launch = x.r.launch)
    (hbox : sharedLevel0 (x.ctl.hd m.h) = .ok ()) (helem : handleElem (x.ctl.hd m.h) (x.ctl.rd m.idx).toNat m.sz = .ok p)
    (hlaunch : s.launch? x.r.launch = some l) (hmesh : dev < l.meshDevices) (hquiet : s.withdrawing g s.cur = false) :
    execStG m s = s.deliver s.cur x (if (s.cgroup g).st == .opened then
        (s.sendPacket g s.cur dev x.r.launch (s.activeLaunch x) .control m.cls (x.ctl.hd m.h)
          [{ coord := regionCoord (x.ctl.hd m.h) p, hdr := false, v := (x.ctl.rd m.s).toNat }]).done x 8
      else (s.setCGroup g { s.cgroup g with discarded := (s.cgroup g).discarded + 1 }).done x 8) := by
  have hgroup : (x.ctl.rd m.a).toNat % 64 = g := by omega
  have hdevice : (x.ctl.rd m.a).toNat / 2 ^ 16 % 2 ^ 16 = dev := by omega
  unfold execStG
  rw [State.issue_deliver hx (taskForm_checks hsv)]
  simp only [Task.src_ok hs.1 hs.2, Task.src_ok ha.1 ha.2, Task.src_ok hi.1 hi.2, hgroup, hdevice, check_of (beq_iff_eq.2 hword),
    State.ownGroup_some hst hl, hbox, helem, hlaunch, check_of (decide_eq_true hmesh), hquiet, Bool.not_false, waitFor_true, Res.bind_ok]

end

/-- Settles O20: each form of a group goes the way that the lemma of its outcome says. -/
theorem commitGroups : Obligations.CommitGroups := by
  unfold Obligations.CommitGroups
  refine ⟨?forms, ?store⟩
  case forms =>
    intro s x d a b hx hsv ha v n
    refine ⟨fun hb hd hlow hhigh hn => ?gopen, fun hv => ?plain, fun hlow hhigh h => ?replicated⟩
    case gopen =>
      intro opens
      have hopens {g : Nat} (hg : s.pickGroup n = some g) : exec (.gopen d a b) s = opens g := execGopen_opens hx hsv ha hb hd hlow hhigh hn hg
      have hnone (hg : s.pickGroup n = none) : exec (.gopen d a b) s = .next (s.setTask s.cur ((x.wr d 64).retire 4)) :=
        execGopen_finds_none hx hsv ha hb hd hlow hhigh hn hg
      refine ⟨fun hlt hst => hopens (State.pickGroup_asked hlt hst), fun hlt hst => hnone (State.pickGroup_taken hlt hst),
        fun h64 g hg hst hlowest => hopens ?_, fun h64 hall => hnone ?_⟩
      · rw [h64]
        exact State.pickGroup_lowest hg hst hlowest
      · rw [h64]
        exact State.pickGroup_none hall
    case plain =>
      intro c
      have hword : (x.ctl.rd a).toNat = v + flag false * 256 := rfl
      refine ⟨fun hcmp => execGcommit_prepares hx hsv ha hv hword hcmp, fun hcmp => execGcommit_faults hx hsv ha hv hword hcmp,
        execGabort_skips hx hsv ha hv, fun hl hst => execGabort_aborts hx hsv ha hv hst hl,
        fun hd hl h _ => execGstat_reports hx hsv ha hv hd hl h, execGstat_hides hx hsv ha hv⟩
    case replicated =>
      intro g c me
      have hg : g < 64 := by omega
      have hword : (x.ctl.rd a).toNat = g + flag true * 256 := by simp only [flag, if_true]; omega
      refine ⟨fun hcmp hst hl hset digest devs hparams => ?_, execGcommit_waits hx hsv ha hg hword, execGcommit_goesOn hx hsv ha hg hword⟩
      have hkeeps := State.foldl_tellDigest_keeps x.r.launch g digest (devs.filter (fun d => d != me))
      refine ⟨_, execGcommit_compares hx hsv ha hg hword hcmp hst hl hset hparams, ?_, ?_⟩
      · rw [State.task?, (hkeeps _).1]
        exact State.task_setTask ..
      · rw [State.cgroup, (hkeeps _).2]
        exact State.cgroup_setCGroup ..
  case store =>
    intro s x m hx hsv hs ha hi t g dev c hlow hdev
    have hg : g < 64 := by omega
    have hword : t = g + dev * 2 ^ 16 := by omega
    refine ⟨execStG_faults hx hsv hs ha hi hword hg hdev, fun hst hl hbox p l helem hlaunch hmesh hquiet => ?_⟩
    have hstores : exec (.stG m) s = _ := execStG_stores hx hsv hs ha hi hword hg hdev hst hl hbox helem hlaunch hmesh hquiet
    rw [hstores]
    refine ⟨fun hopen => ?_, fun hopen => ?_⟩
    · rw [if_pos (beq_iff_eq.2 hopen), State.done, State.sendPacket_cur]
      rfl
    · rw [if_neg (mt beq_iff_eq.1 hopen)]
      rfl

end Sys2Proof.Machine
end

section
/-! PROOF. The turns of an engine (08 R141; 12 R231), and a pass of rcp, gcp, the collectives and enc (07 R122; 12 R248 to R250, R253): for each
kind one lemma for each of its outcomes. -/

namespace Sys2Proof.Machine
open Sys2Proof

/-! ### Small facts -/

/-- Values that are all there are those found. -/
theorem filterMap_of_map_eq {α β : Type} {f : α → Option β} {l : List α} {bs : List β} (h : l.map f = bs.map some) : l.filterMap f = bs := by
  have hid : (l.map f).filterMap id = l.filterMap f := List.filterMap_map
  rw [← hid, h, List.filterMap_map]
  exact List.filterMap_some

/-- Packets that leave one after another leave the acting task as it is. -/
theorem State.foldl_sendPacket_acting (n dev l : Nat) (h : Handle) (lines : List (List RemoteElem)) : ∀ s : State,
    lines.foldl (fun (u : State) es => u.sendPacket n u.cur dev l l .copy 0 h es) s =
      lines.foldl (fun (u : State) es => u.sendPacket n s.cur dev l l .copy 0 h es) s := by
  induction lines with
  | nil => exact fun _ => rfl
  | cons es lines ih =>
    intro s
    rw [List.foldl_cons, List.foldl_cons, ih, State.sendPacket_cur]

/-- Every participant but this device can be reached. -/
theorem State.peersReachable {s : State} {devs : List Nat} {me part : Nat} (h : ∀ dev ∈ devs, dev ≠ me → s.routeUp part dev = true) :
    devs.all (fun d => d == me || s.routeUp part d) = true := by
  refine List.all_eq_true.2 fun dev hdev => ?_
  by_cases hme : dev = me
  · simp [hme]
  · simp [h dev hdev hme]

/-! ### How a turn of an engine ends (R231) -/

section
variable {s s' : State} {x : Task} {e : Engine} {i : Nat} {q q' : QRec} {body : Task → QRec → Res (State × QRec)} (hw : Works s x e i q)
include hw

/-- A turn whose effect completes ends with that effect. -/
theorem State.issueTurn_ends (hb : body (q.view x) q = .ok (s', q')) : s.issueTurn e body = s.turnEnds s' e i q' := by
  obtain ⟨hx, hact, hstart, hquiet⟩ := hw
  unfold State.issueTurn
  simp only [hx, hact, hstart, hquiet, hb]
  rfl

/-- One that stalls changes nothing. -/
theorem State.issueTurn_stall (hb : body (q.view x) q = .error .stall) : s.issueTurn e body = .next s := by
  obtain ⟨hx, hact, hstart, hquiet⟩ := hw
  unfold State.issueTurn
  simp only [hx, hact, hstart, hquiet, hb]
  rfl

/-- A pass that a turn runs whole is counted. -/
theorem State.issuePass_ends (hb : body (q.view x) q = .ok (s', q')) :
    s.issuePass e body = s.turnEnds s' e i { q' with pass := q.pass + 1 } := by
  unfold State.issuePass
  refine State.issueTurn_ends hw ?_
  rw [hb]
  rfl

theorem State.issuePass_stall (hb : body (q.view x) q = .error .stall) : s.issuePass e body = .next s := by
  unfold State.issuePass
  refine State.issueTurn_stall hw ?_
  rw [hb]
  rfl

end

/-! ### rcp and gcp (R122, R248) -/

section
variable {s : State} {x : Task} {i : Nat} {q : QRec} {r : RecWord} (hw : Works s x .copy i q)
include hw

section
variable {g : Region} {h h1 : Handle} {d : Data} (hread : Reads s (q.view x) q r (q.sourceExt r) g h d) (hwin : q.remoteWindow r q.pass = .ok h1)
include hread hwin

/-- A pass of rcp to this device stores its window. -/
theorem execRcp_here {g1 : Region} {ws : List (List ByteWrite)} (hdev : w7 r 0 16 = s.deviceOf (q.view x).r.launch)
    (hg1 : s.regionOf (q.view x).own h1 = .ok g1) (hws : s.writeWindow (q.view x) g1 h1 d.vals d.hdrs = .ok ws) :
    execRcp r s = s.turnEnds (s.postRecord (q.view x) q r ws) .copy i { q with pass := q.pass + 1 } := by
  obtain ⟨hbox, hdata⟩ := hread
  refine State.issueTurn_ends hw ?_
  simp only [hbox, hwin, if_pos hdev, hg1, hdata, hws, Res.bind_ok]

/-- One to another device sends its window, -/
theorem execRcp_sends (hdev : w7 r 0 16 ≠ s.deviceOf (q.view x).r.launch) (hroute : s.routeUp (s.partOf (q.view x)) (w7 r 0 16) = true)
    (hcur : q.cursor ≤ q.pass) :
    execRcp r s = s.turnEnds (s.sendOn (s.partOf (q.view x)) (.remoteStore (w7 r 0 16)
      (remoteMessage (s.partOf (q.view x)) s.cur q.num (s.meshWord (q.view x).r.launch) (q.handle r 1) (windowElems h1 d)))) .copy i
      { q with cursor := q.pass + 1 } := by
  obtain ⟨hbox, hdata⟩ := hread
  refine State.issueTurn_ends hw ?_
  simp only [hbox, hwin, if_neg hdev, check_of hroute, if_pos hcur, hdata, Res.bind_ok]

/-- and ends with the acknowledgement. -/
theorem execRcp_acknowledged {p : PeerData × State} (hdev : w7 r 0 16 ≠ s.deviceOf (q.view x).r.launch)
    (hroute : s.routeUp (s.partOf (q.view x)) (w7 r 0 16) = true) (hcur : q.pass < q.cursor)
    (hack : s.takePeer (w7 r 0 16) ackKey (some (s.cur * 2 ^ 32 + q.num)) = some p) :
    execRcp r s = s.turnEnds p.2 .copy i { q with pass := q.pass + 1 } := by
  obtain ⟨hbox, hdata⟩ := hread
  refine State.issueTurn_ends hw ?_
  simp only [hbox, hwin, if_neg hdev, check_of hroute, if_neg (Nat.not_le.2 hcur), hack, Res.bind_ok]

/-- A pass of gcp sends a packet for every line while the group is Open, and counts what it discards past that. -/
theorem execGcp_stores {c : CGroup} (hown : s.ownGroup (q.view x) (w7 r 16 6) = some c) (hquiet : s.withdrawing (w7 r 16 6) s.cur = false) :
    let lines := s.remotePackets (q.view x) h1 (windowElems h1 d)
    execGcp r s = s.turnEnds (if c.st = .opened then
        lines.foldl (fun (u : State) es =>
          u.sendPacket (w7 r 16 6) s.cur (w7 r 0 16) (q.view x).r.launch (q.view x).r.launch .copy 0 (q.handle r 1) es) s
      else s.setCGroup (w7 r 16 6) { c with discarded := c.discarded + lines.length }) .copy i { q with pass := q.pass + 1 } := by
  obtain ⟨hbox, hdata⟩ := hread
  refine State.issuePass_ends hw (q' := q) ?_
  simp only [hbox, hwin, hown, hdata, hquiet, Bool.not_false, waitFor_true, Res.bind_ok, beq_iff_eq]
  split
  · exact congrArg (fun u => Except.ok (u, q)) (State.foldl_sendPacket_acting ..)
  · rfl

end

/-! ### Collectives (R249, R250) -/

/-- What one pass of a collective has: the key of its messages, the parameters that its participants compare, and its result, from the
sources that it got. -/
abbrev State.passKey (s : State) (x : Task) (q : QRec) (r : RecWord) (k : CollKind) : Nat :=
  collKey k r (nth q.named 0 0) q.pass x.r.wid (s.partOf x)
abbrev QRec.passParams (q : QRec) (r : RecWord) : Nat := collParams (Handle.fmt (q.handle r 0)) r (q.sourceExt r)
abbrev State.passResult (s : State) (x : Task) (q : QRec) (r : RecWord) (k : CollKind) (got : List PeerData) : List Nat × List Nat :=
  k.result r (Handle.fmt (q.handle r 0)) (q.sourceExt r) (s.collCoord x r)
    (got.map (fun p => dataOf (Handle.fmt (q.handle r 0)) (q.sourceExt r) p.bytes))

/-- The source of a pass that a participant has sent. -/
abbrev State.sentSource (s : State) (key dev : Nat) : Option PeerData := s.inbox.find? (fun p => p.dev == dev && p.key == key)

/-- A participant's source reaches one device. -/
def State.tellSource (me part key params : Nat) (bs : List Byte) (u : State) (dev : Nat) : State :=
  if dev = me then u.keepPeer me key params bs else u.sendOn part (.peer dev key params bs)

section
variable {k : CollKind} {g : Region} {h : Handle} (hbox : s.boxWindow (q.view x) q r 0 q.pass (q.sourceExt r) = .ok (g, h))
  (hroutes : ∀ dev ∈ s.participants (q.view x) r, dev ≠ s.deviceOf (q.view x).r.launch → s.routeUp (s.partOf (q.view x)) dev = true)
include hbox hroutes

/-- A pass first sends this device's source to every participant. -/
theorem State.collectivePass_sends {d : Data} (hcur : q.cursor ≤ q.pass) (hdata : s.readWindow (q.view x) g h = .ok d) :
    s.collectivePass r k = s.turnEnds ((s.participants (q.view x) r).foldl (State.tellSource (s.deviceOf (q.view x).r.launch) (s.partOf (q.view x))
      (s.passKey (q.view x) q r k) (q.passParams r) (dataBytes d)) s) .copy i { q with cursor := q.pass + 1 } := by
  have hup := State.peersReachable hroutes
  refine State.issueTurn_ends hw ?_
  simp only [hbox, check_of hup, if_pos hcur, hdata, Res.bind_ok, beq_iff_eq]
  rfl

section
variable (hcur : q.pass < q.cursor)
include hcur

/-- It then waits for theirs, -/
theorem State.collectivePass_waits
    (hlacks : ∃ dev ∈ s.participants (q.view x) r, ∀ p ∈ s.inbox, p.dev = dev → p.key ≠ s.passKey (q.view x) q r k) :
    s.collectivePass r k = .next s := by
  have hup := State.peersReachable hroutes
  obtain ⟨dev, hdev, hnone⟩ := hlacks
  have hfew : (((s.participants (q.view x) r).filterMap (s.sentSource (s.passKey (q.view x) q r k))).length
      == (s.participants (q.view x) r).length) = false := by
    refine beq_eq_false_iff_ne.2 (Nat.ne_of_lt (List.length_filterMap_lt_length_iff_exists.2 ⟨dev, hdev, List.find?_eq_none.2 fun p hp => ?_⟩))
    simpa using hnone p hp
  refine State.issueTurn_stall hw ?_
  simp only [hbox, check_of hup, if_neg (Nat.not_le.2 hcur), hfew, waitFor_false, Res.bind_ok, Res.bind_error]

/-- and writes its result once it has them all. -/
theorem State.collectivePass_writes {got : List PeerData} {ws : List (List ByteWrite)}
    (hgot : (s.participants (q.view x) r).map (s.sentSource (s.passKey (q.view x) q r k)) = got.map some)
    (hparams : ∀ p ∈ got, p.params = q.passParams r)
    (hws : Writes s (q.view x) q r (k.destExt (s.participants (q.view x) r).length (collDim r) (q.sourceExt r))
      (s.passResult (q.view x) q r k got).1 (s.passResult (q.view x) q r k got).2 ws) :
    s.collectivePass r k = s.turnEnds ({ s with
        inbox := s.inbox.filter (fun p => !(p.key == s.passKey (q.view x) q r k && (s.participants (q.view x) r).contains p.dev)) }.postRecord
      (q.view x) q r ws) .copy i { q with pass := q.pass + 1 } := by
  have hup := State.peersReachable hroutes
  obtain ⟨g1, h1, hbox1, hwrite⟩ := hws
  have hlen : (got.length == (s.participants (q.view x) r).length) = true := by
    have hlen := congrArg List.length hgot
    rw [List.length_map, List.length_map] at hlen
    exact beq_iff_eq.2 hlen.symm
  have hsame : got.all (fun p => p.params == q.passParams r) = true := by simpa using hparams
  refine State.issueTurn_ends hw ?_
  simp only [hbox, check_of hup, if_neg (Nat.not_le.2 hcur), filterMap_of_map_eq hgot, waitFor_of hlen, check_of hsame, hbox1, hwrite, Res.bind_ok]

end

end

/-! ### enc (R253) -/

/-- A frame that a record forwards, the n-th of its encoder. -/
def State.encFrame (s : State) (x : Task) (q : QRec) (r : RecWord) (g0 g1 g2 : Region) (n : Nat) : EncFrame :=
  ⟨s.cur, s.partOf x, r, q.handle r 0, q.handle r 1, q.handle r 2, g0, g1, g2, n, x.r.cls, x.r.deadline, false, false, [], [], false, false⟩

theorem execEnc_waits (hfull : 16 ≤ (s.encoder (dieOfTask (q.view x) * 4 + w7 r 0 2)).frames.length) : execEnc r s = .next s := by
  refine State.issuePass_stall hw ?_
  simp only [decide_eq_false (Nat.not_lt.2 hfull), waitFor_false, Res.bind_error]

theorem execEnc_forwards {g0 g1 g2 g : Region} {h : Handle} {ws : List (List ByteWrite)} {c : Encoder}
    (hc : s.encoder (dieOfTask (q.view x) * 4 + w7 r 0 2) = c) (hroom : c.frames.length < 16)
    (hg0 : s.regionOf (q.view x).own (q.handle r 0) = .ok g0) (hg1 : s.regionOf (q.view x).own (q.handle r 1) = .ok g1)
    (hg2 : s.regionOf (q.view x).own (q.handle r 2) = .ok g2)
    (hwin : s.window2 (q.view x) (q.handle r 1) (fun d => if d = 0 then 16 else 0) (fun d => if d = 0 then 8 else 1) = .ok (g, h))
    (hws : s.writeWindow (q.view x) g h ((natToBytes 8 (c.issued + 1)).map (fun b => b.toNat)) [] = .ok ws) :
    execEnc r s = s.turnEnds ((s.setEncoder (dieOfTask (q.view x) * 4 + w7 r 0 2)
      { c with frames := c.frames ++ [s.encFrame (q.view x) q r g0 g1 g2 (c.issued + 1)], issued := c.issued + 1 }).postRecord (q.view x) q r ws)
      .copy i { q with pass := q.pass + 1 } := by
  subst hc
  refine State.issuePass_ends hw (q' := q) ?_
  simp only [waitFor_of (decide_eq_true hroom), hg0, hg1, hg2, hwin, hws, Res.bind_ok]
  rfl

end

/-- Settles O39: a pass of each kind goes the way that the lemma of its outcome says. -/
theorem remoteRecords : Obligations.RemoteRecords := by
  unfold Obligations.RemoteRecords
  intro s x i q r hw y w ends next
  refine ⟨?copies, ?collective, ?encode, fun _ => rfl⟩
  case copies =>
    intro g h h1 d hread hwin es
    refine ⟨fun hdev g1 ws => execRcp_here hw hread hwin hdev, execRcp_sends hw hread hwin,
      fun hdev hroute hcur p => execRcp_acknowledged hw hread hwin hdev hroute hcur, fun c hown hquiet => ?_⟩
    have hstores : exec (.gcp r) s = _ := execGcp_stores hw hread hwin hown hquiet
    rw [hstores]
    exact ⟨fun hst => by rw [if_pos hst], fun hst => by rw [if_neg hst]⟩
  case collective =>
    intro k g h hbox me devs f key params record hroutes
    have hrecord : exec record s = s.collectivePass r k := by cases k <;> rfl
    rw [hrecord]
    exact ⟨fun d hcur hdata => State.collectivePass_sends hw hbox hroutes hcur hdata, State.collectivePass_waits hw hbox hroutes,
      fun got ws hcur hgot hparams => State.collectivePass_writes hw hbox hroutes hcur hgot hparams⟩
  case encode =>
    intro g0 g1 g2 g h ws hg0 hg1 hg2 e c hwin hws
    exact ⟨execEnc_waits hw, fun hroom => execEnc_forwards hw rfl hroom hg0 hg1 hg2 hwin hws⟩

end Sys2Proof.Machine
end

section
/-! PROOF. The device steps of the commit sequence (07 R121 to R127): for each one lemma for each of its outcomes. -/

namespace Sys2Proof.Machine
open Sys2Proof

/-! ### Staging at a destination (R121, R122) -/

/-- Writes that all reach one line are gathered as they are. -/
theorem byLine_of_sameLine {w : ByteWrite} {r : List ByteWrite} (h : ∀ v ∈ r, v.a / 64 = w.a / 64) : byLine (w :: r) = [w :: r] := by
  have hlines : r.foldl (fun (l : List Nat) v => if l.contains (v.a / 64) then l else l ++ [v.a / 64]) [w.a / 64] = [w.a / 64] := by
    induction r with
    | nil => rfl
    | cons v r ih =>
      have hv : [w.a / 64].contains (v.a / 64) = true := by simp [h v List.mem_cons_self]
      rw [List.foldl_cons, if_pos hv]
      exact ih fun u hu => h u (List.mem_cons_of_mem _ hu)
  have hall : (w :: r).filter (fun v => v.a / 64 == w.a / 64) = w :: r :=
    List.filter_eq_self.2 (List.forall_mem_cons.2 ⟨beq_self_eq_true _, fun v hv => beq_iff_eq.2 (h v hv)⟩)
  unfold byLine
  simp only [List.foldl_cons, List.contains_nil, Bool.false_eq_true, if_false, List.nil_append, hlines, List.map_cons, List.map_nil, hall]

/-- The entry that a packet's bytes in one line take in the buffer beside that line's stack. -/
def State.stagedEntry (s : State) (p : Packet) (w : ByteWrite) (r : List ByteWrite) : Staged :=
  { dev := p.dev, group := p.group, who := p.who, writes := w :: r, gran := match s.frameAt w.a with | some f => f.gran | none => 0 }

/-- A buffer with a free entry takes them. -/
theorem State.stageLine_of_free {s : State} (p : Packet) {w : ByteWrite} (r : List ByteWrite) (h : s.linesUsed (stackDie w.a) < 131072) :
    s.stageLine p (w :: r) = some { s with
      staged := SMap.put s.staged (stackDie w.a) (SMap.get s.staged (stackDie w.a) [] ++ [s.stagedEntry p w r]) } := by
  have hfree : decide (131072 ≤ s.linesUsed (stackDie w.a)) = false := decide_eq_false (Nat.not_le.2 h)
  unfold State.stageLine
  simp only [hfree, Bool.and_false, Bool.false_eq_true, if_false]
  rfl

/-- The bytes of a packet staged line by line; none where a buffer is full. -/
abbrev State.stageAll (s : State) (p : Packet) (ws : List ByteWrite) : Option State := (byLine ws).foldlM (fun (v : State) l => v.stageLine p l) s

theorem State.stageAll_of_sameLine {s : State} (p : Packet) {w : ByteWrite} {r : List ByteWrite} (hline : ∀ v ∈ r, v.a / 64 = w.a / 64)
    (h : s.linesUsed (stackDie w.a) < 131072) : s.stageAll p (w :: r) = some { s with
      staged := SMap.put s.staged (stackDie w.a) (SMap.get s.staged (stackDie w.a) [] ++ [s.stagedEntry p w r]) } := by
  unfold State.stageAll
  rw [byLine_of_sameLine hline, List.foldlM_cons, State.stageLine_of_free p r h]
  rfl

/-- A packet of an opening that has ended at its destination, of a group that is aborted there, or of a withdrawn run. -/
def State.dropsPacket (s : State) (p : Packet) : Bool :=
  (s.dest (p.dev * 64 + p.group)).decision == some false || s.endedHere (p.dev * 64 + p.group) p.opening
    || (s.dest (p.dev * 64 + p.group)).withdrawn.contains p.who

theorem State.dropsPacket_iff (s : State) (p : Packet) : s.dropsPacket p = true ↔
    (s.dest (p.dev * 64 + p.group)).decision = some false ∨ s.endedHere (p.dev * 64 + p.group) p.opening = true ∨
      p.who ∈ (s.dest (p.dev * 64 + p.group)).withdrawn := by
  simp [State.dropsPacket, or_assoc]

/-- What a destination keeps of a group once a packet of it has arrived; poisoned data, or a packet that names no bytes, poisons the group. -/
def DestGroup.receives (d : DestGroup) (p : Packet) : DestGroup :=
  { d with opening := p.opening, part := p.part, received := d.received ++ [p.who] }
def DestGroup.poisonedWith (d : DestGroup) (p : Packet) : DestGroup := { d with poisonedBy := d.poisonedBy ++ [p.who] }
def DestGroup.arrives (d : DestGroup) (p : Packet) : DestGroup := if p.bad = true then (d.receives p).poisonedWith p else d.receives p

/-- The k-th packet on its way has arrived. -/
abbrev State.withoutPacket (s : State) (k : Nat) : State := { s with packets := s.packets.eraseIdx k }

section
variable {s : State} {k : Nat} {p : Packet} (hp : s.packets[k]? = some p) (hfirst : firstOfStream s.packets k = true)
  (hreach : s.packetReachable p = true)
include hp hfirst hreach

theorem execOrangeryStaging_drops (h : s.dropsPacket p = true) : execOrangeryStaging k s = .next (s.withoutPacket k) := by
  unfold State.dropsPacket at h
  unfold execOrangeryStaging
  simp only [hp, hfirst, hreach]
  exact if_pos h

section
variable (hkeeps : s.dropsPacket p = false)
include hkeeps

/-- A packet that is kept poisons its group, is staged, or meets a full buffer. -/
theorem execOrangeryStaging_keeps : execOrangeryStaging k s =
    let u := s.withoutPacket k
    let key := p.dev * 64 + p.group
    match u.packetCells p true with
    | none => .next (u.setDest key (((s.dest key).receives p).poisonedWith p))
    | some ws =>
      .next (match (u.setDest key ((s.dest key).arrives p)).stageAll p ws with
        | some v => v
        | none => (u.setDest key ((s.dest key).arrives p)).reportFull p) := by
  unfold State.dropsPacket at hkeeps
  unfold execOrangeryStaging
  simp only [hp, hfirst, hreach]
  exact if_neg (Bool.eq_false_iff.1 hkeeps)

/-- One whose handle names no bytes here poisons its group. -/
theorem execOrangeryStaging_poisons (hcells : (s.withoutPacket k).packetCells p true = none) : execOrangeryStaging k s =
    .next ((s.withoutPacket k).setDest (p.dev * 64 + p.group) (((s.dest (p.dev * 64 + p.group)).receives p).poisonedWith p)) := by
  rw [execOrangeryStaging_keeps hp hfirst hreach hkeeps]
  simp only [hcells]

section
variable {ws : List ByteWrite} (hcells : (s.withoutPacket k).packetCells p true = some ws)
include hcells

/-- Any other is staged while the buffers have room, -/
theorem execOrangeryStaging_stages {v : State} (hroom :
      ((s.withoutPacket k).setDest (p.dev * 64 + p.group) ((s.dest (p.dev * 64 + p.group)).arrives p)).stageAll p ws = some v) :
    execOrangeryStaging k s = .next v := by
  rw [execOrangeryStaging_keeps hp hfirst hreach hkeeps]
  simp only [hcells, hroom]

/-- and aborts its group where they have none. -/
theorem execOrangeryStaging_overflows (hroom :
      ((s.withoutPacket k).setDest (p.dev * 64 + p.group) ((s.dest (p.dev * 64 + p.group)).arrives p)).stageAll p ws = none) :
    execOrangeryStaging k s =
      .next (((s.withoutPacket k).setDest (p.dev * 64 + p.group) ((s.dest (p.dev * 64 + p.group)).arrives p)).reportFull p) := by
  rw [execOrangeryStaging_keeps hp hfirst hreach hkeeps]
  simp only [hcells, hroom]

end

end

end

/-! ### PREPARE and the decision (R124) -/

/-- The timeout of a group has expired at the end of the tick that it names. -/
theorem State.groupExpired_iff (s : State) (g : Nat) :
    s.groupExpired g = true ↔ (s.cgroup g).undecided = true ∧ ¬ s.cycle < 16 * (s.cgroup g).timeoutAt + 15 := by
  simp [State.groupExpired]

theorem State.groupExpired_of_inTime {s : State} {g : Nat} (h : s.cycle < 16 * (s.cgroup g).timeoutAt + 15) : s.groupExpired g = false :=
  Bool.eq_false_iff.2 fun he => ((s.groupExpired_iff g).1 he).2 h

/-- No withdrawal of a group's stores has yet to go out. -/
theorem State.withdrawals_any_eq_false {s : State} {g : Nat} (h : ∀ p ∈ s.withdrawals, p.1 ≠ g) :
    s.withdrawals.any (fun p => p.1 == g) = false :=
  List.any_eq_false.2 fun p hp => mt beq_iff_eq.1 (h p hp)

/-- What PREPARE waits for: a group that is Preparing in time, its digests compared, no withdrawal before it, every packet sent over a
usable route, and every contributor but the issuing task returned. -/
structure PrepareReady (s : State) (g : Nat) (c : CGroup) : Prop where
  group : s.cgroup g = c
  preparing : c.st = .preparing
  inTime : s.cycle < 16 * c.timeoutAt + 15
  compared : c.replicas = [] ∨ c.compared = true
  quiet : ∀ p ∈ s.withdrawals, p.1 ≠ g
  sent : c.unsent = []
  routes : ∀ d ∈ c.dests, d = s.deviceOf c.launch ∨ s.groupRoute (s.launchPart c.launch) d = true
  returned : ∀ t ∈ c.contributors, c.committer = some t ∨ s.task? t = none ∨ ∃ y, s.task? t = some y ∧ y.st = .returned

/-- PREPARE reaches a destination with the count of the packets that were sent there. -/
def State.askDest (c : CGroup) (me g : Nat) (u : State) (d : Nat) : State :=
  if d = me then u.setDest (me * 64 + g) { u.dest (me * 64 + g) with expected := some (c.sentTo d), opening := c.opening }
  else u.sendControl (u.launchPart c.launch) d kindPrepare g c.opening (c.sentTo d)

theorem execPrepareSend_ready {s : State} {g : Nat} {c : CGroup} (h : PrepareReady s g c) : execPrepareSend g s =
    if c.dests.isEmpty then .next (s.freeGroup g)
    else .next (c.dests.foldl (State.askDest c (s.deviceOf c.launch) g) (s.setCGroup g { c with st := .deciding })) := by
  obtain ⟨rfl, hst, htime, hcmp, hquiet, hsent, hroutes, hret⟩ := h
  have hexp := State.groupExpired_of_inTime htime
  have hret : ∀ t ∈ (s.cgroup g).contributors,
      ((s.cgroup g).committer == some t || (match s.task? t with | some y => y.st == .returned | none => true)) = true := by
    intro t ht
    rcases hret t ht with h | h | ⟨y, hy, hy'⟩
    · simp [h]
    · simp [h]
    · simp [hy, hy']
  unfold execPrepareSend
  refine (if_neg ?_).trans ?_
  · simp only [Bool.not_eq_true', Bool.not_eq_false, Bool.and_eq_true, List.all_eq_true, hst, hexp, hsent, State.withdrawals_any_eq_false hquiet,
      beq_self_eq_true, List.isEmpty_nil, and_true, true_and]
    exact ⟨⟨by simpa using hcmp, by simpa using hroutes⟩, hret⟩
  · simp only [beq_iff_eq]
    rfl


section
variable {s : State} {g : Nat}

/-- The decision of a group that is Deciding, has no withdrawal before it and has time left. -/
theorem execGroupDecision_inTime (hst : (s.cgroup g).st = .deciding) (hquiet : ∀ p ∈ s.withdrawals, p.1 ≠ g)
    (htime : s.cycle < 16 * (s.cgroup g).timeoutAt + 15) : execGroupDecision g s =
    if (s.cgroup g).refused then .next (s.abortGroup g 6)
    else if (s.cgroup g).dests.all (fun d => (s.cgroup g).prepared.contains d) then
      .next ((s.setCGroup g { s.cgroup g with st := .publishing }).tellDests g true)
    else .next s := by
  have hexp := State.groupExpired_of_inTime htime
  unfold execGroupDecision
  refine if_neg ?_
  simp [hst, hexp, State.withdrawals_any_eq_false hquiet]

/-- After its timeout there is only the abort. -/
theorem execGroupDecision_expired (hst : (s.cgroup g).st = .deciding) (htime : ¬ s.cycle < 16 * (s.cgroup g).timeoutAt + 15) :
    execGroupDecision g s = .next s := by
  have hexp : s.groupExpired g = true := (s.groupExpired_iff g).2 ⟨by simp [CGroup.undecided, hst], htime⟩
  unfold execGroupDecision
  refine if_pos ?_
  simp [hexp]

/-! ### Acknowledgements and the timeout (R124, R126, R127) -/

/-- A decided group is Free once every destination has acknowledged, and waits until then. -/
theorem execGroupFree_decided (hst : (s.cgroup g).st = .publishing ∨ (s.cgroup g).st = .aborting) : execGroupFree g s =
    if (s.cgroup g).dests.all (fun d => (s.cgroup g).acked.contains d) then .next (s.freeGroup g) else .next s := by
  have hdec : ((s.cgroup g).st == .publishing || (s.cgroup g).st == .aborting) = true := by simpa using hst
  unfold execGroupFree
  simp only [hdec, Bool.true_and]

theorem execGroupTimeout_expired (h : s.groupExpired g = true) : execGroupTimeout g s = .next ((s.tellReplicas g).abortGroup g 2) := if_pos h
theorem execGroupTimeout_stays (h : ¬ s.groupExpired g = true) : execGroupTimeout g s = .next s := if_neg h

/-- Only the other replicas of a group whose digests are not compared are told. -/
theorem State.tellReplicas_of_settled (h : (s.cgroup g).compared = true ∨ (s.cgroup g).replicas = []) : s.tellReplicas g = s := by
  unfold State.tellReplicas
  rcases h with h | h
  · exact if_pos h
  · simp [h]

end

/-! ### Withdrawals (R123) -/

section
variable {s : State} {g t : Nat} {w : Nat × Nat} (hw : s.withdrawals.find? (fun w => w.1 == g && w.2 / 256 == t) = some w)
include hw

theorem execWithdrawal_decided (h : (s.cgroup g).undecided = false) :
    execWithdrawal g t s = .next { s with withdrawals := s.withdrawals.filter (fun p => p != w) } := by
  unfold execWithdrawal
  have hdecided : (!(s.cgroup g).undecided) = true := by rw [h]; rfl
  simp only [hw]
  exact if_pos hdecided

/-- What the originator still counts of a group once a contributor's packets are taken back. -/
def CGroup.without (c : CGroup) (t : Nat) : CGroup :=
  { c with sent := c.sent.filter (fun p => p.2 != t), unsent := c.unsent.filter (fun w => w != t) }

theorem execWithdrawal_undecided (h : (s.cgroup g).undecided = true) : execWithdrawal g t s =
    .next ({ s.cgroup g with sent := (s.cgroup g).sent.filter (fun p => p.2 == t) }.dests.foldl
      (fun (v : State) d => v.tellWithdrawal g w.2 ((s.cgroup g).without t) d)
      ({ s with withdrawals := s.withdrawals.filter (fun p => p != w) }.setCGroup g ((s.cgroup g).without t))) := by
  unfold execWithdrawal
  have hundecided : ¬ (!(s.cgroup g).undecided) = true := by simp [h]
  simp only [hw]
  exact if_neg hundecided

end

/-! ### The comparison of digests (R127) -/

/-- The code of a verdict in its message (log 25). -/
def Verdict.code : Verdict → Nat
  | .publish => 0
  | .minority => 1
  | .split => 2

/-- The coordinator's work, where the verdict for its own replica is not a split one: the others learn theirs, and its own acts. -/
theorem execReplicaDigestCompare_compares {s : State} {g : Nat} {c : CGroup} (hc : s.cgroup g = c) (hst : c.st = .preparing)
    (htime : s.cycle < 16 * c.timeoutAt + 15) (hfirst : c.replicas.head? = some (s.deviceOf c.launch)) (hcmp : c.compared = false)
    (hall : ∀ d ∈ c.replicas, ∃ p ∈ c.digests, p.1 = d) (hmine : verdict c.digests c.replicas.length (s.deviceOf c.launch) ≠ .split) :
    execReplicaDigestCompare g s = .next (((c.replicas.filter (fun d => d != s.deviceOf c.launch)).foldl (fun (v : State) d =>
      v.sendControl (s.launchPart c.launch) d kindVerdict g c.opening (verdict c.digests c.replicas.length d).code) s).applyVerdict g
        (verdict c.digests c.replicas.length (s.deviceOf c.launch))) := by
  subst hc
  have hexp := State.groupExpired_of_inTime htime
  have hne : (s.cgroup g).replicas ≠ [] := fun h => by rw [h] at hfirst; cases hfirst
  have hwaits : (s.cgroup g).awaitsCompare = true := by simp [CGroup.awaitsCompare, hst, hcmp, hne]
  have hdigests : (s.cgroup g).replicas.all (fun d => (s.cgroup g).digests.any (fun p => p.1 == d)) = true := by simpa using hall
  have hmine : (verdict (s.cgroup g).digests (s.cgroup g).replicas.length (s.deviceOf (s.cgroup g).launch) == .split) = false :=
    beq_eq_false_iff_ne.2 hmine
  unfold execReplicaDigestCompare
  refine (if_neg ?_).trans ?_
  · simp only [hwaits, hexp, hfirst, hdigests, beq_self_eq_true, Bool.not_false, Bool.and_self, Bool.not_true, Bool.false_eq_true,
      not_false_eq_true]
  · simp only [hmine, Bool.false_eq_true, if_false]
    rfl

/-! ### PREPARED at a destination (R124) -/

section
variable {s : State} {key dest n : Nat} (hexp : (s.dest key).expected = some n) (hprep : (s.dest key).prepared = false)
  (hdec : (s.dest key).decision = none) (hcount : (s.dest key).received.length = n)
include hexp hprep hdec hcount

/-- A poisoned group is refused, any other is prepared. -/
def State.decides (s : State) (key : Nat) : State :=
  if (s.dest key).poisonedBy.isEmpty then s.setDest key { s.dest key with prepared := true } else s.setDest key { s.dest key with expected := none }

/-- Once the packets that PREPARE counts are there, the answer goes to this device's own group, -/
theorem execPrepared_own {q : Nat × CGroup} (hown : s.groups.find? (fun q => s.groupKey q.1 == key && q.2.st != .free) = some q) :
    execPrepared key dest s = .next ((s.decides key).replyPrepared q.1 dest (!(s.dest key).poisonedBy.isEmpty)) := by
  unfold execPrepared State.decides
  cases hpois : (s.dest key).poisonedBy.isEmpty <;> simp [hexp, hprep, hdec, hcount, hown, hpois]

/-- or is sent to the originator. -/
theorem execPrepared_sends (hown : s.groups.find? (fun q => s.groupKey q.1 == key && q.2.st != .free) = none) :
    execPrepared key dest s = .next ((s.decides key).sendControl (s.dest key).part (key / 64)
      (if (s.dest key).poisonedBy.isEmpty then kindPrepared else kindRefused) (key % 64) (s.dest key).opening dest) := by
  unfold execPrepared State.decides
  cases hpois : (s.dest key).poisonedBy.isEmpty <;> simp [hexp, hprep, hdec, hcount, hown, hpois]

end

/-! ### PUBLISH and ABORT_DISCARD (R124) -/

section
variable {s : State} {key dest : Nat}

theorem execPublish_publishes (hdec : (s.dest key).decision = some true) (hon : ∀ e ∈ s.stagedOf key, ∀ w ∈ e.writes, s.online w.a = true) :
    execPublish key dest s = .next (((((s.stagedOf key).foldl (fun u e => u.publishEntry (s.dest key).part e) s).unstage
      (fun e => e.dev * 64 + e.group == key)).endDest key).sendAck key dest (s.dest key).part (s.dest key).opening) := by
  unfold execPublish
  refine if_neg ?_
  simpa [hdec] using hon

theorem execPublish_waits (h : (s.dest key).decision ≠ some true ∨ ¬ ∀ e ∈ s.stagedOf key, ∀ w ∈ e.writes, s.online w.a = true) :
    execPublish key dest s = .next s := by
  unfold execPublish
  refine if_pos ?_
  rcases h with h | h
  · exact Bool.or_eq_true_iff.2 (.inl (bne_iff_ne.2 h))
  · exact Bool.or_eq_true_iff.2 (.inr (by simpa using h))

/-- A destination that has discarded a group. -/
def State.discards (s : State) (key : Nat) : State :=
  let u := (s.unstage (fun e => e.dev * 64 + e.group == key)).endDest key
  { u with packets := u.packets.filter (fun p => p.dev * 64 + p.group != key) }

theorem execAbortDiscard_discards (hdec : (s.dest key).decision = some false) :
    execAbortDiscard key dest s = .next ((s.discards key).sendAck key dest (s.dest key).part (s.dest key).opening) := by
  unfold execAbortDiscard
  exact if_neg (by simp [hdec])

theorem SMap.find_del_same {α : Type} (m : SMap α) (k : Nat) : SMap.find (SMap.del m k) k = none :=
  SMap.find_filter_of_not k m (fun i => i != k) (by simp)

@[simp] theorem State.discards_mem (s : State) (key : Nat) : (s.discards key).mem = s.mem := rfl

theorem State.stagedOf_discards (s : State) (key : Nat) : (s.discards key).stagedOf key = [] := by
  simp [State.discards, State.stagedOf, State.unstage, State.endDest, List.flatMap_map]

theorem State.dests_discards (s : State) (key : Nat) : SMap.find (s.discards key).dests key = none := SMap.find_del_same ..

theorem State.endedHere_discards (s : State) (key : Nat) : (s.discards key).endedHere key (s.dest key).opening = true := by
  have hended : SMap.get (s.discards key).ended key 0 = max (SMap.get s.ended key 0) ((s.dest key).opening + 1) := SMap.get_put_same ..
  rw [State.endedHere, hended]
  exact decide_eq_true (by omega)

theorem State.packets_discards (s : State) (key : Nat) : ∀ p ∈ (s.discards key).packets, p.dev * 64 + p.group ≠ key := fun p hp => by
  simpa using (List.mem_filter.1 hp).2

end

/-- Settles O45: each step of the commit sequence goes the way that the lemma of its outcome says. -/
theorem groupEvents : Obligations.GroupEvents := by
  unfold Obligations.GroupEvents
  refine ⟨?staging, ?originator, ?destination⟩
  case staging =>
    intro s k p hp hfirst hreach key u d poisoned d' late
    have hlate : s.dropsPacket p = true ↔ late := s.dropsPacket_iff p
    refine ⟨fun h => execOrangeryStaging_drops hp hfirst hreach (hlate.2 h), fun h => ?_⟩
    have hkeeps : s.dropsPacket p = false := Bool.eq_false_iff.2 (mt hlate.1 h)
    refine ⟨execOrangeryStaging_poisons hp hfirst hreach hkeeps, fun ws => execOrangeryStaging_overflows hp hfirst hreach hkeeps,
      fun w r hcells hline hfree => execOrangeryStaging_stages hp hfirst hreach hkeeps hcells ?_⟩
    have hroom : (u.setDest key d').linesUsed (stackDie w.a) < 131072 := hfree
    exact State.stageAll_of_sameLine p hline hroom
  case originator =>
    intro s g c me part inTime
    refine ⟨?prepare, ?decide, ?free, ?timeout, State.tellReplicas_of_settled, ?running, ?withdrawal, ?compare⟩
    case prepare =>
      intro hst htime hcmp hquiet hsent hroutes hret
      have hready : exec (.prepareSend g) s = _ := execPrepareSend_ready ⟨rfl, hst, htime, hcmp, hquiet, hsent, hroutes, hret⟩
      rw [hready]
      exact ⟨fun h => if_pos (List.isEmpty_iff.2 h), fun h => if_neg (mt List.isEmpty_iff.1 h)⟩
    case decide =>
      intro hst hquiet
      refine ⟨fun htime href => ?_, fun htime href hall => ?_, ?_⟩
      · have h : exec (.groupDecision g) s = _ := execGroupDecision_inTime hst hquiet htime
        rw [h]
        exact if_pos href
      · have h : exec (.groupDecision g) s = _ := execGroupDecision_inTime hst hquiet htime
        have hall : c.dests.all (fun d => c.prepared.contains d) = true := by simpa using hall
        rw [h]
        exact (if_neg (Bool.eq_false_iff.1 href)).trans (if_pos hall)
      · rintro (h | ⟨href, d, hd, hnot⟩)
        · exact execGroupDecision_expired hst h
        · by_cases htime : inTime
          · have h : exec (.groupDecision g) s = _ := execGroupDecision_inTime hst hquiet htime
            have hall : ¬ c.dests.all (fun d => c.prepared.contains d) = true := fun hall => hnot (by simpa using List.all_eq_true.1 hall d hd)
            rw [h]
            exact (if_neg (Bool.eq_false_iff.1 href)).trans (if_neg hall)
          · exact execGroupDecision_expired hst htime
    case free =>
      intro hst
      have hfree : exec (.groupFree g) s = _ := execGroupFree_decided hst
      rw [hfree]
      refine ⟨fun hall => if_pos ?_, fun ⟨d, hd, hnot⟩ => if_neg fun hall => hnot ?_⟩
      · simpa using hall
      · simpa using List.all_eq_true.1 hall d hd
    case timeout => exact fun hund htime => execGroupTimeout_expired ((s.groupExpired_iff g).2 ⟨hund, htime⟩)
    case running =>
      intro h
      refine execGroupTimeout_stays fun hexp => ?_
      obtain ⟨hund, hlate⟩ := (s.groupExpired_iff g).1 hexp
      rcases h with h | h
      · exact Bool.false_ne_true (h.symm.trans hund)
      · exact hlate h
    case withdrawal => exact fun t w hw => ⟨execWithdrawal_decided hw, execWithdrawal_undecided hw⟩
    case compare =>
      intro hst htime hfirst hcmp hall u hu hmine
      subst hu
      exact execReplicaDigestCompare_compares rfl hst htime hfirst hcmp hall hmine
  case destination =>
    intro s key dest d
    refine ⟨?prepared, ?publish, fun hdec => ⟨s.discards key, execAbortDiscard_discards hdec, s.discards_mem key, s.stagedOf_discards key,
      s.dests_discards key, s.endedHere_discards key, s.packets_discards key⟩⟩
    case prepared =>
      intro n hexp hprep hdec hcount yes no own
      have hyes (h : d.poisonedBy = []) : s.decides key = yes := if_pos (List.isEmpty_iff.2 h)
      have hno (h : d.poisonedBy ≠ []) : s.decides key = no := if_neg (mt List.isEmpty_iff.1 h)
      refine ⟨fun hown => ?_, fun q hown => ?_⟩
      · have hsends : exec (.prepared key dest) s = _ := execPrepared_sends hexp hprep hdec hcount hown
        rw [hsends]
        refine ⟨fun h => ?_, fun h => ?_⟩
        · rw [hyes h, if_pos (List.isEmpty_iff.2 h)]
        · rw [hno h, if_neg (mt List.isEmpty_iff.1 h)]
      · have hreply : exec (.prepared key dest) s = _ := execPrepared_own hexp hprep hdec hcount hown
        rw [hreply]
        refine ⟨fun h => ?_, fun h => ?_⟩
        · rw [hyes h, List.isEmpty_iff.2 h]
          rfl
        · rw [hno h, Bool.eq_false_iff.2 (mt List.isEmpty_iff.1 h)]
          rfl
    case publish =>
      intro reachable
      exact ⟨execPublish_publishes, execPublish_waits⟩

end Sys2Proof.Machine
end

section
/-! SUPPORT. The fields of the words that the encoder packs (08 Tables 8.1, 8.5, 8.7): what the decoder reads from a word of each format,
and that a word is the one of its fields. -/

namespace Sys2Proof

/-! ### Bits of a concatenation -/

theorem bits_append_low {m n lo k : Nat} (x : BitVec m) (y : BitVec n) (h : lo + k ≤ n) : bits (x ++ y) lo k = bits y lo k :=
  BitVec.extractLsb'_append_eq_of_add_le h
theorem bits_append_high {m n lo k : Nat} (x : BitVec m) (y : BitVec n) (h : n ≤ lo) : bits (x ++ y) lo k = bits x (lo - n) k :=
  BitVec.extractLsb'_append_eq_of_le h
theorem bits_all {n : Nat} (x : BitVec n) : bits x 0 n = x := BitVec.extractLsb'_eq_self
theorem bits_bits {w lo k i n : Nat} (x : BitVec w) (h : i + n ≤ k) : bits (bits x lo k) i n = bits x (lo + i) n := by
  ext j hj
  simp [Nat.add_assoc, show i + j < k by omega]
theorem bits_join {w : Nat} (x : BitVec w) (lo k m : Nat) : bits x (lo + k) m ++ bits x lo k = bits x lo (m + k) :=
  BitVec.extractLsb'_append_extractLsb'_eq_extractLsb' rfl

/-- One bit of a word, as a field of width 1. -/
theorem getLsbD_of_bits {w k : Nat} {x : BitVec w} {b : Bool} (h : bits x k 1 = BitVec.ofBool b) : x.getLsbD k = b := by
  rw [bits] at h
  rw [BitVec.getLsbD_eq_extractLsb', h]
  cases b <;> rfl
theorem ofBool_getLsbD {w : Nat} (x : BitVec w) (k : Nat) : BitVec.ofBool (x.getLsbD k) = bits x k 1 := by
  ext i hi
  obtain rfl : i = 0 := by omega
  simp

/-! ### Control words (Table 8.1) -/

/-- The word of format C-R, and the first word of format C-W, with these fields. -/
def wordR (maj d a b : BitVec 6) (fn : BitVec 8) : BitVec 32 := maj ++ d ++ a ++ b ++ fn
/-- The word of format C-I or C-B. -/
def wordI (maj d a : BitVec 6) (imm : BitVec 14) : BitVec 32 := maj ++ d ++ a ++ imm
/-- The word of format C-M. -/
def wordM (maj : BitVec 6) (m : CMem) : BitVec 32 := maj ++ m.r ++ m.h ++ m.idx ++ m.cls ++ m.sc ++ m.sz

section
variable (maj d a b : BitVec 6) (fn : BitVec 8) (imm : BitVec 14) (m : CMem)

/-- The fields of a word of format C-R, all at once. -/
theorem wordR_fields : majorOf (wordR maj d a b fn) = maj ∧ bits (wordR maj d a b fn) 20 6 = d ∧ bits (wordR maj d a b fn) 14 6 = a ∧
    bits (wordR maj d a b fn) 8 6 = b ∧ bits (wordR maj d a b fn) 0 8 = fn := by
  rw [majorOf, wordR]
  refine ⟨?_, ?_, ?_, ?_, ?_⟩
  all_goals
    repeat rw [bits_append_high _ _ (by decide)]
    repeat rw [bits_append_low _ _ (by decide)]
    exact bits_all _
@[simp] theorem wordR_maj : majorOf (wordR maj d a b fn) = maj := (wordR_fields ..).1
@[simp] theorem wordR_d : bits (wordR maj d a b fn) 20 6 = d := (wordR_fields maj ..).2.1
@[simp] theorem wordR_a : bits (wordR maj d a b fn) 14 6 = a := (wordR_fields maj d ..).2.2.1
@[simp] theorem wordR_b : bits (wordR maj d a b fn) 8 6 = b := (wordR_fields maj d a ..).2.2.2.1
@[simp] theorem wordR_fn : bits (wordR maj d a b fn) 0 8 = fn := (wordR_fields maj d a b ..).2.2.2.2

theorem wordI_fields : majorOf (wordI maj d a imm) = maj ∧ bits (wordI maj d a imm) 20 6 = d ∧ bits (wordI maj d a imm) 14 6 = a ∧
    bits (wordI maj d a imm) 0 14 = imm := by
  rw [majorOf, wordI]
  refine ⟨?_, ?_, ?_, ?_⟩
  all_goals
    repeat rw [bits_append_high _ _ (by decide)]
    repeat rw [bits_append_low _ _ (by decide)]
    exact bits_all _
@[simp] theorem wordI_maj : majorOf (wordI maj d a imm) = maj := (wordI_fields ..).1
@[simp] theorem wordI_d : bits (wordI maj d a imm) 20 6 = d := (wordI_fields maj ..).2.1
@[simp] theorem wordI_a : bits (wordI maj d a imm) 14 6 = a := (wordI_fields maj d ..).2.2.1
@[simp] theorem wordI_imm : bits (wordI maj d a imm) 0 14 = imm := (wordI_fields maj d a ..).2.2.2

theorem wordM_fields : majorOf (wordM maj m) = maj ∧ cmemOf (wordM maj m) = m := by
  obtain ⟨r, h, idx, cls, sc, sz⟩ := m
  rw [majorOf, cmemOf, wordM]
  simp only [CMem.mk.injEq]
  refine ⟨?_, ?_, ?_, ?_, ?_, ?_, ?_⟩
  all_goals
    repeat rw [bits_append_high _ _ (by decide)]
    repeat rw [bits_append_low _ _ (by decide)]
    exact bits_all _
@[simp] theorem wordM_maj : majorOf (wordM maj m) = maj := (wordM_fields ..).1
@[simp] theorem cmemOf_wordM : cmemOf (wordM maj m) = m := (wordM_fields ..).2

end

theorem wordR_of_fields (w : BitVec 32) : wordR (majorOf w) (bits w 20 6) (bits w 14 6) (bits w 8 6) (bits w 0 8) = w := by
  rw [wordR, majorOf, bits_join w 20 6 6, bits_join w 14 6 12, bits_join w 8 6 18, bits_join w 0 8 24]
  exact bits_all w
theorem wordI_of_fields (w : BitVec 32) : wordI (majorOf w) (bits w 20 6) (bits w 14 6) (bits w 0 14) = w := by
  rw [wordI, majorOf, bits_join w 20 6 6, bits_join w 14 6 12, bits_join w 0 14 18]
  exact bits_all w
theorem wordM_of_fields (w : BitVec 32) : wordM (majorOf w) (cmemOf w) = w := by
  rw [wordM, majorOf, cmemOf, bits_join w 20 6 6, bits_join w 15 5 12, bits_join w 9 6 17, bits_join w 5 4 23, bits_join w 2 3 27,
    bits_join w 0 2 30]
  exact bits_all w

/-- The words of jal, of fence and of a hint. -/
def wordJ (maj d : BitVec 6) (off : BitVec 20) : BitVec 32 := maj ++ d ++ off
def wordF (maj z : BitVec 6) (mask : BitVec 16) (z1 : BitVec 1) (sc : BitVec 3) : BitVec 32 := maj ++ z ++ mask ++ z1 ++ sc
def wordH (maj : BitVec 6) (x : BitVec 26) : BitVec 32 := maj ++ x

@[simp] theorem wordJ_fields (maj d : BitVec 6) (off : BitVec 20) :
    majorOf (wordJ maj d off) = maj ∧ bits (wordJ maj d off) 20 6 = d ∧ bits (wordJ maj d off) 0 20 = off := by
  rw [majorOf, wordJ]
  refine ⟨?_, ?_, ?_⟩
  all_goals
    repeat rw [bits_append_high _ _ (by decide)]
    repeat rw [bits_append_low _ _ (by decide)]
    exact bits_all _

@[simp] theorem wordF_fields (maj z : BitVec 6) (mask : BitVec 16) (z1 : BitVec 1) (sc : BitVec 3) :
    majorOf (wordF maj z mask z1 sc) = maj ∧ bits (wordF maj z mask z1 sc) 20 6 = z ∧ bits (wordF maj z mask z1 sc) 4 16 = mask ∧
      bits (wordF maj z mask z1 sc) 3 1 = z1 ∧ bits (wordF maj z mask z1 sc) 0 3 = sc := by
  rw [majorOf, wordF]
  refine ⟨?_, ?_, ?_, ?_, ?_⟩
  all_goals
    repeat rw [bits_append_high _ _ (by decide)]
    repeat rw [bits_append_low _ _ (by decide)]
    exact bits_all _

@[simp] theorem wordH_fields (maj : BitVec 6) (x : BitVec 26) : majorOf (wordH maj x) = maj ∧ bits (wordH maj x) 0 26 = x :=
  ⟨BitVec.extractLsb'_append_eq_left, BitVec.extractLsb'_append_eq_right⟩

theorem wordJ_of_fields (w : BitVec 32) : wordJ (majorOf w) (bits w 20 6) (bits w 0 20) = w := by
  rw [wordJ, majorOf, bits_join w 20 6 6, bits_join w 0 20 12]
  exact bits_all w
theorem wordF_of_fields (w : BitVec 32) : wordF (majorOf w) (bits w 20 6) (bits w 4 16) (bits w 3 1) (bits w 0 3) = w := by
  rw [wordF, majorOf, bits_join w 20 6 6, bits_join w 4 16 12, bits_join w 3 1 28, bits_join w 0 3 29]
  exact bits_all w
theorem wordH_of_fields (w : BitVec 32) : wordH (majorOf w) (bits w 0 26) = w := by
  rw [wordH, majorOf, bits_join w 0 26 6]
  exact bits_all w

/-! ### Parts of a field -/

/-- A dimension number in a wider field. -/
@[simp] theorem dim_field (dim : BitVec 2) :
    dim.toNat % 64 < 4 ∧ (dim.setWidth 6).setWidth 2 = dim ∧ bits (dim.setWidth 8) 2 6 = 0 ∧ bits (dim.setWidth 8) 0 2 = dim := by
  revert dim
  decide

@[simp] theorem bits_shift_imm (k : BitVec 2) (z n : BitVec 6) :
    bits (k ++ z ++ n : BitVec 14) 12 2 = k ∧ bits (k ++ z ++ n : BitVec 14) 6 6 = z ∧ bits (k ++ z ++ n : BitVec 14) 0 6 = n := by
  refine ⟨?_, ?_, ?_⟩
  all_goals
    repeat rw [bits_append_high _ _ (by decide)]
    repeat rw [bits_append_low _ _ (by decide)]
    exact bits_all _

@[simp] theorem bits_frame_imm (off : BitVec 11) (k : BitVec 3) :
    bits (off ++ k : BitVec 14) 0 3 = k ∧ bits (off ++ k : BitVec 14) 3 11 = off :=
  ⟨BitVec.extractLsb'_append_eq_right, BitVec.extractLsb'_append_eq_left⟩

@[simp] theorem bits_shape_imm (shape : BitVec 8) (entry : BitVec 6) :
    bits (shape ++ entry : BitVec 14) 6 8 = shape ∧ bits (shape ++ entry : BitVec 14) 0 6 = entry :=
  ⟨BitVec.extractLsb'_append_eq_left, BitVec.extractLsb'_append_eq_right⟩

@[simp] theorem bits_sem_imm (k : BitVec 2) (j : BitVec 4) (i : BitVec 8) :
    bits (k ++ j ++ i : BitVec 14) 12 2 = k ∧ bits (k ++ j ++ i : BitVec 14) 8 4 = j ∧ bits (k ++ j ++ i : BitVec 14) 0 8 = i := by
  refine ⟨?_, ?_, ?_⟩
  all_goals
    repeat rw [bits_append_high _ _ (by decide)]
    repeat rw [bits_append_low _ _ (by decide)]
    exact bits_all _

@[simp] theorem bits_ecfg (eng z : BitVec 2) (slot : BitVec 4) :
    bits (eng ++ z ++ slot : BitVec 8) 6 2 = eng ∧ bits (eng ++ z ++ slot : BitVec 8) 4 2 = z ∧ bits (eng ++ z ++ slot : BitVec 8) 0 4 = slot := by
  refine ⟨?_, ?_, ?_⟩
  all_goals
    repeat rw [bits_append_high _ _ (by decide)]
    repeat rw [bits_append_low _ _ (by decide)]
    exact bits_all _

@[simp] theorem bits_enest (eng : BitVec 2) (z : BitVec 5) (lvl : BitVec 1) :
    bits (eng ++ z ++ lvl : BitVec 8) 6 2 = eng ∧ bits (eng ++ z ++ lvl : BitVec 8) 1 5 = z ∧ bits (eng ++ z ++ lvl : BitVec 8) 0 1 = lvl := by
  refine ⟨?_, ?_, ?_⟩
  all_goals
    repeat rw [bits_append_high _ _ (by decide)]
    repeat rw [bits_append_low _ _ (by decide)]
    exact bits_all _

@[simp] theorem bits_boxsub (reg : Bool) (z : BitVec 5) (dim : BitVec 2) :
    (BitVec.ofBool reg ++ z ++ dim : BitVec 8).getLsbD 7 = reg ∧ bits (BitVec.ofBool reg ++ z ++ dim : BitVec 8) 2 5 = z ∧
      bits (BitVec.ofBool reg ++ z ++ dim : BitVec 8) 0 2 = dim := by
  refine ⟨getLsbD_of_bits ?_, ?_, ?_⟩
  all_goals
    repeat rw [bits_append_high _ _ (by decide)]
    repeat rw [bits_append_low _ _ (by decide)]
    exact bits_all _

@[simp] theorem bits_boxnew (mode policy : BitVec 4) :
    bits (mode ++ policy : BitVec 8) 4 4 = mode ∧ bits (mode ++ policy : BitVec 8) 0 4 = policy :=
  ⟨BitVec.extractLsb'_append_eq_left, BitVec.extractLsb'_append_eq_right⟩

/-- F8 and EXT of an atomic, and of st.g (R188, R192). -/
def Amo.f8 (x : Amo) : BitVec 8 := x.sz ++ x.sc ++ BitVec.ofBool x.acq ++ BitVec.ofBool x.rel ++ (0 : BitVec 1)
def Amo.ext (x : Amo) : BitVec 32 := x.h ++ x.idx ++ x.b ++ x.cls ++ (0 : BitVec 11)
def StG.f8 (x : StG) : BitVec 8 := x.sz ++ x.cls ++ (0 : BitVec 2)
def StG.ext (x : StG) : BitVec 32 := x.h ++ x.idx ++ (0 : BitVec 21)

@[simp] theorem Amo.fields (x : Amo) : amoOf x.d x.a x.f8 x.ext = x ∧ x.f8.getLsbD 0 = false ∧ bits x.ext 0 11 = 0 := by
  obtain ⟨d, a, b, h, idx, cls, sc, sz, acq, rel⟩ := x
  rw [amoOf, Amo.f8, Amo.ext]
  simp only [Amo.mk.injEq, true_and]
  refine ⟨⟨?_, ?_, ?_, ?_, ?_, ?_, getLsbD_of_bits ?_, getLsbD_of_bits ?_⟩, getLsbD_of_bits ?_, ?_⟩
  all_goals
    repeat rw [bits_append_high _ _ (by decide)]
    repeat rw [bits_append_low _ _ (by decide)]
    exact bits_all _

theorem StG.fields (x : StG) : (bits x.f8 6 2 = x.sz ∧ bits x.f8 2 4 = x.cls ∧ bits x.f8 0 2 = 0) ∧
    bits x.ext 27 5 = x.h ∧ bits x.ext 21 6 = x.idx ∧ bits x.ext 0 21 = 0 := by
  rw [StG.f8, StG.ext]
  refine ⟨⟨?_, ?_, ?_⟩, ?_, ?_, ?_⟩
  all_goals
    repeat rw [bits_append_high _ _ (by decide)]
    repeat rw [bits_append_low _ _ (by decide)]
    exact bits_all _

theorem bits_one_of_getLsbD {w k : Nat} {x : BitVec w} (h : x.getLsbD k = false) : bits x k 1 = 0 := by
  rw [← ofBool_getLsbD, h]
  rfl

/-- F8 and EXT are those of the fields that an atomic or st.g takes from them. -/
theorem Amo.f8_amoOf (d a : SReg) {f8 : BitVec 8} (ext : BitVec 32) (h : f8.getLsbD 0 = false) : (amoOf d a f8 ext).f8 = f8 := by
  rw [Amo.f8, amoOf, ofBool_getLsbD, ofBool_getLsbD, ← bits_one_of_getLsbD h, bits_join f8 3 3 2, bits_join f8 2 1 5, bits_join f8 1 1 6,
    bits_join f8 0 1 7]
  exact bits_all f8
theorem Amo.ext_amoOf (d a : SReg) (f8 : BitVec 8) {ext : BitVec 32} (h : bits ext 0 11 = 0) : (amoOf d a f8 ext).ext = ext := by
  rw [Amo.ext, amoOf, ← h, bits_join ext 21 6 5, bits_join ext 15 6 11, bits_join ext 11 4 17, bits_join ext 0 11 21]
  exact bits_all ext
theorem stG_f8_of_bits {f8 : BitVec 8} (h : bits f8 0 2 = 0) : bits f8 6 2 ++ bits f8 2 4 ++ (0 : BitVec 2) = f8 := by
  rw [← h, bits_join f8 2 4 2, bits_join f8 0 2 6]
  exact bits_all f8
theorem stG_ext_of_bits {ext : BitVec 32} (h : bits ext 0 21 = 0) : bits ext 27 5 ++ bits ext 21 6 ++ (0 : BitVec 21) = ext := by
  rw [← h, bits_join ext 21 6 5, bits_join ext 0 21 11]
  exact bits_all ext

/-- The two halves of a system register's number. -/
theorem sr_halves (sr : BitVec 12) : bits sr 6 6 ++ bits sr 0 6 = sr := (bits_join sr 0 6 6).trans (bits_all sr)

/-- The kind of a hint record. -/
@[simp] theorem hint_kind (k : BitVec 4) : 0xF0 ≤ ((0xF : BitVec 4) ++ k : BitVec 8).toNat ∧ bits ((0xF : BitVec 4) ++ k : BitVec 8) 0 4 = k := by
  revert k
  decide

/-! ### Vector words (Table 8.5) -/

/-- The vector word with this opcode and these fields. -/
def wordV (op : BitVec 8) (w : VWord) : BitVec 64 := op ++ w.d ++ w.a ++ w.b ++ w.c ++ w.k ++ w.cls ++ w.fmt ++ w.rm ++ w.flg

@[simp] theorem wordV_fields (op : BitVec 8) (w : VWord) :
    bits (wordV op w) 56 8 = op ∧ vwordOf (wordV op w) = w ∧ (wordV op w).getLsbD 0 = w.flg.getLsbD 0 := by
  obtain ⟨d, a, b, c, k, cls, fmt, rm, flg⟩ := w
  rw [vwordOf, wordV]
  simp only [VWord.mk.injEq]
  refine ⟨?_, ⟨?_, ?_, ?_, ?_, ?_, ?_, ?_, ?_, ?_⟩,
    getLsbD_of_bits ((bits_append_low _ _ (by decide)).trans (ofBool_getLsbD flg 0).symm)⟩
  all_goals
    repeat rw [bits_append_high _ _ (by decide)]
    repeat rw [bits_append_low _ _ (by decide)]
    exact bits_all _

/-! ### Records (Tables 8.7 to 8.9) -/

/-- The record of this kind with these fields. -/
def wordRec (kind : BitVec 8) (r : RecWord) : BitVec 512 :=
  r.w7 ++ (r.o2 ++ r.o3) ++ (r.o0 ++ r.o1) ++ r.l4 ++ r.l3 ++ r.l2 ++ r.l1 ++ packRec0 kind r

theorem wordRec_words (kind : BitVec 8) (r : RecWord) : recWordAt (wordRec kind r) 0 = packRec0 kind r ∧ recWordAt (wordRec kind r) 1 = r.l1 ∧
    recWordAt (wordRec kind r) 2 = r.l2 ∧ recWordAt (wordRec kind r) 3 = r.l3 ∧ recWordAt (wordRec kind r) 4 = r.l4 ∧
    recWordAt (wordRec kind r) 5 = r.o0 ++ r.o1 ∧ recWordAt (wordRec kind r) 6 = r.o2 ++ r.o3 ∧ recWordAt (wordRec kind r) 7 = r.w7 := by
  simp only [recWordAt, wordRec]
  refine ⟨?_, ?_, ?_, ?_, ?_, ?_, ?_, ?_⟩
  all_goals
    repeat rw [bits_append_high _ _ (by decide)]
    repeat rw [bits_append_low _ _ (by decide)]
    exact bits_all _

@[simp] theorem wordRec_fields (kind : BitVec 8) (r : RecWord) : bits (wordRec kind r) 56 8 = kind ∧ recOf (wordRec kind r) = r := by
  have hkind : bits (wordRec kind r) 56 8 = bits (recWordAt (wordRec kind r) 0) 56 8 :=
    (bits_bits (lo := 0) (k := 64) (i := 56) (n := 8) _ (by decide)).symm
  obtain ⟨h0, h1, h2, h3, h4, h5, h6, h7⟩ := wordRec_words kind r
  obtain ⟨prof, shape, wsem, ssem, wthr, shp, rel, clr, wrap, scope, sig, kflags, l1, l2, l3, l4, o0, o1, o2, o3, w7⟩ := r
  simp only [hkind, recOf, h0, h1, h2, h3, h4, h5, h6, h7, packRec0, RecWord.mk.injEq, true_and, and_true]
  refine ⟨?_, ?_, ?_, ?_, ?_, ?_, getLsbD_of_bits ?_, getLsbD_of_bits ?_, getLsbD_of_bits ?_, getLsbD_of_bits ?_, ?_, getLsbD_of_bits ?_, ?_,
    ?_, ?_, ?_, ?_⟩
  all_goals
    repeat rw [bits_append_high _ _ (by decide)]
    repeat rw [bits_append_low _ _ (by decide)]
    exact bits_all _

end Sys2Proof
end

section
/-! PROOF. The decoder gives back what the encoder packs (08 R128 to R141): the parser of each format reads a packed word's fields, and
each form's code selects that form. -/

namespace Sys2Proof

/-! ### Small facts about the parsers -/

@[simp] theorem Decoded.bind_ok {α β : Type} (a : α) (f : α → Except DecodeError β) : (Except.ok a >>= f : Except DecodeError β) = f a := rfl
@[simp] theorem unusedZero_true (i : Instr) : unusedZero true i = .ok i := rfl

@[simp] theorem handleField_hfield (h : HReg) : handleField (hfield h) = .ok h := by
  have hlt : (hfield h).toNat < 32 := by
    rw [hfield, BitVec.toNat_setWidth]
    omega
  rw [handleField, if_pos hlt]
  exact congrArg Except.ok (BitVec.setWidth_setWidth_of_le h (by decide))

/-- A word whose parser gives a well-formed instruction decodes to it. -/
theorem checkFields_ok {i : Instr} (hwf : i.wellFormed = true) : checkFields (.ok i) = .ok i := if_pos hwf

theorem decode_word {w : BitVec 32} {i : Instr} (hwf : i.wellFormed = true) (hp : parseControl w 0 = .ok i) :
    decode (.word w) = some i := by
  rw [decode, decodeControl, hp, checkFields_ok hwf]
  rfl
theorem decode_packR {maj d a b : BitVec 6} {fn : BitVec 8} {i : Instr} (hwf : i.wellFormed = true)
    (hp : parseControl (wordR maj d a b fn) 0 = .ok i) : decode (packR maj d a b fn) = some i := decode_word hwf hp
theorem decode_packI {maj d a : BitVec 6} {imm : BitVec 14} {i : Instr} (hwf : i.wellFormed = true)
    (hp : parseControl (wordI maj d a imm) 0 = .ok i) : decode (packI maj d a imm) = some i := decode_word hwf hp
theorem decode_packM {maj : BitVec 6} {m : CMem} {i : Instr} (hwf : i.wellFormed = true)
    (hp : parseControl (wordM maj m) 0 = .ok i) : decode (packM maj m) = some i := decode_word hwf hp
theorem decode_packW {wop d a : BitVec 6} {f8 : BitVec 8} {ext : BitVec 32} {i : Instr} (hwf : i.wellFormed = true)
    (hp : parseWide wop d a f8 ext = .ok i) : decode (packW wop d a f8 ext) = some i := by
  have hparse : parseControl (wordR 0x3E wop d a f8) ext = .ok i := by simpa [parseControl] using hp
  show (decodeControl (wordR 0x3E wop d a f8) ext).toOption = some i
  rw [decodeControl, hparse, checkFields_ok hwf]
  rfl
theorem decode_packAmo {wop : BitVec 6} {x : Amo} {i : Instr} (hwf : i.wellFormed = true)
    (hp : parseWide wop x.d x.a x.f8 x.ext = .ok i) : decode (packAmo wop x) = some i := decode_packW hwf hp
theorem decode_packV {op : BitVec 8} {w : VWord} {i : Instr} (hwf : i.wellFormed = true) (hp : parseVector (wordV op w) = .ok i) :
    decode (packV op w) = some i := by
  show (decodeVector (wordV op w)).toOption = some i
  rw [decodeVector, hp, checkFields_ok hwf]
  rfl
theorem decode_packRec {kind : BitVec 8} {r : RecWord} {i : Instr} (hwf : i.wellFormed = true) (hp : parseRecord (wordRec kind r) = .ok i) :
    decode (packRec kind r) = some i := by
  show (decodeRecord (wordRec kind r)).toOption = some i
  rw [decodeRecord, hp, checkFields_ok hwf]
  rfl

/-! ### The parsers on packed words -/

theorem parseVector_wordV {op : BitVec 8} {w : VWord} {f : VWord → Instr} (hf : lookupForm vecForms op.toNat = .ok f)
    (hlt : op.toNat < 0xF0) (hop : op ≠ 0x31 ∧ op ≠ 0x71 ∧ op ≠ 0x79) : parseVector (wordV op w) = .ok (f w) := by
  have hne (c : Nat) (h : op ≠ BitVec.ofNat 8 c) (hc : c < 256) : op.toNat ≠ c := fun e => h (BitVec.eq_of_toNat_eq (by simpa [Nat.mod_eq_of_lt hc] using e))
  simp only [parseVector, wordV_fields, hf]
  rw [if_neg (by omega), if_neg (hne _ hop.1 (by decide)), if_neg (hne _ hop.2.1 (by decide)), if_neg (hne _ hop.2.2 (by decide))]
  rfl
theorem parseRecord_wordRec {kind : BitVec 8} {r : RecWord} {f : RecWord → Instr} (hf : lookupForm recForms kind.toNat = .ok f)
    (hlt : kind.toNat < 0xF0) : parseRecord (wordRec kind r) = .ok (f r) := by
  simp only [parseRecord, wordRec_fields, hf]
  rw [if_neg (by omega)]
  rfl


/-- The parsers that the majors of format C-R and C-I select (Table 8.2). -/
theorem parseControl_wordR (d a b : BitVec 6) (fn : BitVec 8) (ext : BitVec 32) :
    parseControl (wordR 0x01 d a b fn) ext = parseAlu d a b fn ∧
    parseControl (wordR 0x02 d a b fn) ext = (do .ok ((← selectForm mulForms fn.toNat) d a b)) ∧
    parseControl (wordR 0x23 d a b fn) ext = parseCounter d a b fn ∧
    parseControl (wordR 0x24 d a b fn) ext = parseTask d a b fn ∧
    parseControl (wordR 0x25 d a b fn) ext = parseBox d a b fn ∧
    parseControl (wordR 0x28 d a b fn) ext = parseEngine d a b fn ∧
    parseControl (wordR 0x29 d a b fn) ext = parseSundial d a b fn ∧
    parseControl (wordR 0x2A d a b fn) ext = parseGroup d a b fn ∧
    parseControl (wordR 0x38 d a b fn) ext = parsePriv38 d a b fn ∧
    parseControl (wordR 0x39 d a b fn) ext = parsePriv39 d a b fn ∧
    parseControl (wordR 0x3A d a b fn) ext = parsePriv3A d a b fn ∧
    parseControl (wordR 0x3E d a b fn) ext = parseWide d a b fn ext := by
  refine ⟨?_, ?_, ?_, ?_, ?_, ?_, ?_, ?_, ?_, ?_, ?_, ?_⟩
  all_goals
    unfold parseControl
    rw [wordR_maj, wordR_d, wordR_a, wordR_b, wordR_fn]
    rfl

theorem parseControl_imm (d a : SReg) (imm : BitVec 14) :
    parseControl (wordI 0x03 d a imm) 0 = .ok (.addi d a imm) ∧ parseControl (wordI 0x04 d a imm) 0 = .ok (.andi d a imm) ∧
    parseControl (wordI 0x05 d a imm) 0 = .ok (.ori d a imm) ∧ parseControl (wordI 0x06 d a imm) 0 = .ok (.xori d a imm) ∧
    parseControl (wordI 0x07 d a imm) 0 = .ok (.slti d a imm) ∧ parseControl (wordI 0x08 d a imm) 0 = .ok (.sltiu d a imm) ∧
    parseControl (wordI 0x21 d a imm) 0 = .ok (.jalr d a imm) ∧
    parseControl (wordI 0x2C 0 0 imm) 0 = .ok (.trap imm) ∧ parseControl (wordI 0x2D 0 0 imm) 0 = .ok (.brk imm) := by
  refine ⟨?_, ?_, ?_, ?_, ?_, ?_, ?_, ?_, ?_⟩
  all_goals
    unfold parseControl
    rw [wordI_maj, wordI_d, wordI_a, wordI_imm]
    rfl
theorem parseControl_branch (a b : SReg) (off : BitVec 14) :
    parseControl (wordI 0x18 a b off) 0 = .ok (.beq a b off) ∧ parseControl (wordI 0x19 a b off) 0 = .ok (.bne a b off) ∧
    parseControl (wordI 0x1A a b off) 0 = .ok (.blt a b off) ∧ parseControl (wordI 0x1B a b off) 0 = .ok (.bge a b off) ∧
    parseControl (wordI 0x1C a b off) 0 = .ok (.bltu a b off) ∧ parseControl (wordI 0x1D a b off) 0 = .ok (.bgeu a b off) ∧
    parseControl (wordI 0x1E a b off) 0 = .ok (.loop a b off) := by
  refine ⟨?_, ?_, ?_, ?_, ?_, ?_, ?_⟩
  all_goals
    unfold parseControl
    rw [wordI_maj, wordI_d, wordI_a, wordI_imm]
    rfl
theorem parseControl_shift {k : BitVec 2} {f : Form3} (d a n : BitVec 6) (hf : selectForm shiftForms k.toNat = .ok f) :
    parseControl (wordI 0x09 d a (k ++ (0 : BitVec 6) ++ n)) 0 = .ok (f d a n) := by simp [parseControl, hf]
theorem parseControl_frame (d a : SReg) (h : HReg) (off : BitVec 11) :
    parseControl (wordI 0x0B d a (off ++ (0 : BitVec 3))) 0 = .ok (.ldf d a off) ∧
    parseControl (wordI 0x0B (hfield h) a (off ++ (1 : BitVec 3))) 0 = .ok (.ldfHandle h a off) ∧
    parseControl (wordI 0x0C d a (off ++ (0 : BitVec 3))) 0 = .ok (.stf d a off) ∧
    parseControl (wordI 0x0C (hfield h) a (off ++ (1 : BitVec 3))) 0 = .ok (.stfHandle h a off) := by
  refine ⟨?_, ?_, ?_, ?_⟩
  all_goals
    unfold parseControl
    rw [wordI_maj, wordI_d, wordI_a, wordI_imm]
    simp only [handleField_hfield, bits_frame_imm]
    rfl
theorem parseControl_sem (d a : SReg) (k : BitVec 2) (j : BitVec 4) (i : BitVec 8) :
    parseControl (wordI 0x26 d a (k ++ j ++ i)) 0 = parseSem d a (k ++ j ++ i) := by simp [parseControl]
theorem parseControl_mem (m : CMem) :
    parseControl (wordM 0x10 m) 0 = .ok (.ldS m) ∧ parseControl (wordM 0x11 m) 0 = .ok (.ldZ m) ∧
    parseControl (wordM 0x12 m) 0 = .ok (.st m) ∧ parseControl (wordM 0x13 m) 0 = .ok (.ldAcqS m) ∧
    parseControl (wordM 0x14 m) 0 = .ok (.ldAcqZ m) ∧ parseControl (wordM 0x15 m) 0 = .ok (.stRel m) := by
  refine ⟨?_, ?_, ?_, ?_, ?_, ?_⟩
  all_goals
    unfold parseControl
    rw [wordM_maj, cmemOf_wordM]
    rfl

/-- An atomic's word gives it back: F8[0] and EXT[10:0] are zero (R188). -/
theorem parseWide_atomic {wop : BitVec 6} {x : Amo} {f : Amo → Instr}
    (hparse : ∀ (d a : SReg) (f8 : BitVec 8) (ext : BitVec 32),
      parseWide wop d a f8 ext = unusedZero (f8.getLsbD 0 == false && bits ext 0 11 == 0) (f (amoOf d a f8 ext))) :
    parseWide wop x.d x.a x.f8 x.ext = .ok (f x) := by
  obtain ⟨hx, hf8, hext⟩ := x.fields
  rw [hparse, hx, hf8, hext]
  rfl

/-- kmov has no flag, and kmov.pfx has FLG[0] (Table 11.5). -/
theorem parseVector_kmov {w : VWord} (hwf : (Instr.kmov w).wellFormed = true) : parseVector (wordV 0x31 w) = .ok (.kmov w) := by
  have hflg : w.flg = 0 := by
    simp only [Instr.wellFormed, Machine.fieldsOk, Machine.vrule, Bool.and_eq_true, beq_iff_eq] at hwf
    obtain ⟨⟨_, hflg⟩, _⟩ := hwf
    exact (BitVec.and_allOnes ..).symm.trans hflg
  simp only [parseVector, wordV_fields, hflg]
  rfl
theorem parseVector_kmovPfx {w : VWord} (hwf : (Instr.kmovPfx w).wellFormed = true) : parseVector (wordV 0x31 w) = .ok (.kmovPfx w) := by
  have hflg : w.flg = 1 := by
    simp only [Instr.wellFormed, Machine.fieldsOk, Bool.and_eq_true, beq_iff_eq] at hwf
    exact hwf.2
  simp only [parseVector, wordV_fields, hflg]
  rfl

/-- Settles O56: each form by its format; the parser reads back the fields that the encoder packed, and the code selects the form. -/
theorem decodeEncode : Obligations.DecodeEncode := by
  unfold Obligations.DecodeEncode
  intro i hwf hword
  cases i with
  | add | sub | and | or | xor | andn | sll | srl | sra | rotl | slt | sltu | min | max | minu | maxu | clz | popc
  | mul | mulh | mulhu | mulhsu | div | divu | rem | remu | rdcyc | rdtick | rdcore | join | endTask | yield | jstat | wid | dslice
  | claim | release | rdv | vqsend | vqrecv | tret | tretEnd | phyrd | phywr | halt =>
    exact decode_packR hwf (by simp only [parseControl_wordR]; rfl)
  | boxext | boxorg => exact decode_packR hwf (by simp only [parseControl_wordR]; simp [parseBox])
  | boxrank | boxfmt | boxmode | boxmov | boxclr | boxroot => exact decode_packR hwf (by simp only [parseControl_wordR, parseBox, handleField_hfield]; rfl)
  | stopen | stsrc | stbind | strec | stclose =>
    exact decode_packR hwf (by simp only [parseControl_wordR, parseSundial, handleField_hfield]; rfl)
  | gopen | gcommit | gabort | gstat => exact decode_packR hwf (by simp only [parseControl_wordR, parseGroup, handleField_hfield]; rfl)
  | mfsr | mtsr => exact decode_packR hwf (by simp only [parseControl_wordR, parsePriv38, sr_halves]; rfl)
  | ctxsave | ctxload | preempt | qadmit | qrelease | qcancel | partset | tlbinv | isend | corefence =>
    exact decode_packR hwf (by simp only [parseControl_wordR, parsePriv39, handleField_hfield]; rfl)
  | shardcoord => exact decode_packR hwf (by simp [parseControl])
  | addi | andi | ori | xori | slti | sltiu | jalr => exact decode_packI hwf (by simp only [parseControl_imm])
  | trap | brk => exact decode_packI hwf (by simp only [parseControl_imm 0 0])
  | beq | bne | blt | bge | bltu | bgeu | loop => exact decode_packI hwf (by simp only [parseControl_branch])
  | slli d a n | srli d a n | srai d a n | rotli d a n => exact decode_packI hwf (parseControl_shift d a n rfl)
  | ldf d a | stf d a => exact decode_packI hwf (by simp only [parseControl_frame d a 0])
  | ldfHandle h a | stfHandle h a => exact decode_packI hwf (by simp only [parseControl_frame 0 a h])
  | shpld => exact decode_packI hwf (by simp [parseControl])
  | semset | semadd | semsub | semrd =>
    exact decode_packI hwf (by simp only [parseControl_sem, parseSem, bits_sem_imm]; rfl)
  | ldS | ldZ | st | ldAcqS | ldAcqZ | stRel => exact decode_packM hwf (by simp only [parseControl_mem])
  | jal d off => exact decode_word (w := wordJ 0x20 d off) hwf (by simp [parseControl])
  | fence mask sc => exact decode_word (w := wordF 0x27 0 mask 0 sc) hwf (by simp [parseControl])
  | hint x => exact decode_word (w := wordH 0x3C x) hwf (by simp [parseControl])
  | li | liu | lih | waitAny | waitAll | fork | xq | spawn | spawnDown | dspawn => exact decode_packW hwf rfl
  | ecfg | enest => exact decode_packW hwf (by simp only [parseWide, bits_ecfg, bits_enest]; rfl)
  | boxsub | boxnew => exact decode_packW hwf (by simp only [parseWide, bits_boxsub, bits_boxnew, handleField_hfield]; rfl)
  | amoadd | amoand | amoor | amoxor | amomin | amomax | amominu | amomaxu | amoswap | amocas | amofadd | incw | faddb
  | redadd | redand | redor | redxor | redmin | redmax | redminu | redmaxu | redfadd =>
    exact decode_packAmo hwf (parseWide_atomic (fun _ _ _ _ => rfl))
  | stG x => exact decode_packW (f8 := x.f8) (ext := x.ext) hwf (by simp only [parseWide, x.fields]; rfl)
  | kmov w => exact decode_packV hwf (parseVector_kmov hwf)
  | kmovPfx w => exact decode_packV hwf (parseVector_kmovPfx hwf)
  | vendl | vend | vnop => rfl
  | vadd | vsub | vmul | vfma | vfms | vfnma | vdiv | vsqrt | vmin | vmax | vabs | vneg | vadds | vsubs | vmulh | vand | vor | vxor | vnot | vsll
  | vsrl | vsra | vexp | vlog | vrcp | vrsqrt | vtanh | vsigm | vsin | vcos | vcmp | vsel | kand | kor | kxor | kandn | knot | kpop | kfirst
  | vcvt | vcvtb | vrng | vredsum | vredmax | vredmin | vredand | vredor | vbcast | vperm | vslide | vrot | vzip | vunzip | vbcastel | vpart
  | vgather | vscatter | vcompress | vexpand | vld | vst | vaccrd | vaccwr | acczero | aadd | asub | amul | ashl | amov | ali | vloop | vpush
  | vpop | vfset | vfwait | vsig | vswait | vfence => exact decode_packV hwf (parseVector_wordV rfl (by decide) (by decide))
  | mmul | copy | copyl | trans | perm | fill | gather | scatter | edec | vqx | cbload | shpf | gcp | rcp | allred | allgath | bcast | rdscat
  | digest | enc => exact decode_packRec hwf (parseRecord_wordRec rfl (by decide))
  | hintRecord k r => exact decode_packRec hwf (by simp only [parseRecord, wordRec_fields, hint_kind]; rfl)
  | _ => exact absurd rfl hword
end Sys2Proof
end

section
/-! PROOF. No bit of a control word is dropped (08 R128 to R132): each parser answers only with an instruction that is encoded as the fields
that it was given. -/

namespace Sys2Proof

/-! ### What the parsers' checks tell -/

theorem Decoded.bind_eq_ok {α β : Type} {x : Except DecodeError α} {f : α → Except DecodeError β} {b : β} :
    (x >>= f) = .ok b ↔ ∃ a, x = .ok a ∧ f a = .ok b := by
  cases x with
  | error e => exact ⟨nofun, nofun⟩
  | ok a => exact ⟨fun h => ⟨a, rfl, h⟩, fun ⟨_, ha, h⟩ => Except.ok.inj ha ▸ h⟩

theorem unusedZero_eq_ok {ok : Bool} {i j : Instr} : unusedZero ok i = .ok j ↔ ok = true ∧ i = j := by
  cases ok <;> simp [unusedZero]

theorem handleField_eq_ok {x : BitVec 6} {h : HReg} : handleField x = .ok h ↔ x = hfield h := by
  constructor
  · intro hx
    unfold handleField at hx
    split at hx
    · next hlt =>
      obtain rfl := Except.ok.inj hx
      refine BitVec.eq_of_toNat_eq ?_
      rw [hfield, BitVec.toNat_setWidth, BitVec.toNat_setWidth, Nat.mod_eq_of_lt hlt, Nat.mod_eq_of_lt x.isLt]
    · cases hx
  · rintro rfl
    exact handleField_hfield h

theorem eq_ofNat_of_toNat {w n : Nat} {x : BitVec w} (h : x.toNat = n) : x = BitVec.ofNat w n := by
  rw [← h, BitVec.ofNat_toNat, BitVec.setWidth_eq]

/-- A field below 4 holds a dimension number. -/
theorem dim_of_lt {n : Nat} {x : BitVec n} (h : x.toNat < 4) : (x.setWidth 2).setWidth n = x := by
  refine BitVec.eq_of_toNat_eq ?_
  rw [BitVec.toNat_setWidth, BitVec.toNat_setWidth, Nat.mod_eq_of_lt h, Nat.mod_eq_of_lt x.isLt]

theorem dim_byte {x : BitVec 8} (h : bits x 2 6 = 0) : (bits x 0 2).setWidth 8 = x := by
  have hx : (0 : BitVec 6) ++ bits x 0 2 = x := by
    rw [← h, bits_join x 0 2 6]
    exact bits_all x
  exact (BitVec.setWidth_eq_append (by decide)).trans hx

/-- A form that a code selects has what the list has at every place. -/
theorem selectForm_elim {α : Type} {l : List α} {n : Nat} {f : α} (h : selectForm l n = .ok f) {P : α → Nat → Prop}
    (hl : ∀ (k : Nat) (hk : k < l.length), P l[k] k) : P f n := by
  unfold selectForm at h
  split at h
  · next g hg =>
    obtain ⟨hn, rfl⟩ := List.getElem?_eq_some_iff.1 hg
    obtain rfl := Except.ok.inj h
    exact hl n hn
  · cases h

/-- The form of a list in code order is encoded with its code. -/
theorem encode_of_selectForm {l : List Form3} {maj d a b : BitVec 6} {fn : BitVec 8} {i : Instr}
    (hl : ∀ (k : Nat) (hk : k < l.length), encode (l[k] d a b) = packR maj d a b (BitVec.ofNat 8 k))
    (h : (do .ok ((← selectForm l fn.toNat) d a b)) = Except.ok (ε := DecodeError) i) : encode i = packR maj d a b fn := by
  obtain ⟨f, hf, hi⟩ := Decoded.bind_eq_ok.1 h
  obtain rfl := Except.ok.inj hi
  simpa using selectForm_elim hf (P := fun f k => encode (f d a b) = packR maj d a b (BitVec.ofNat 8 k)) hl

section
variable {d a b : BitVec 6} {fn : BitVec 8} {i : Instr}

theorem encode_of_parseAlu (h : parseAlu d a b fn = .ok i) : encode i = packR 0x01 d a b fn := by
  unfold parseAlu at h
  split at h
  · next hfn =>
    obtain ⟨hb, rfl⟩ := unusedZero_eq_ok.1 h
    obtain rfl : fn = 0x10 := BitVec.eq_of_toNat_eq hfn
    simp_all [encode]
  · split at h
    · next hfn =>
      obtain ⟨hb, rfl⟩ := unusedZero_eq_ok.1 h
      obtain rfl : fn = 0x11 := BitVec.eq_of_toNat_eq hfn
      simp_all [encode]
    · refine encode_of_selectForm (fun k hk => ?_) h
      change k < 16 at hk
      match k, hk with
      | 0, _ | 1, _ | 2, _ | 3, _ | 4, _ | 5, _ | 6, _ | 7, _ | 8, _ | 9, _ | 10, _ | 11, _ | 12, _ | 13, _ | 14, _ | 15, _ => rfl
      | k + 16, hk => exact absurd hk (by omega)

theorem encode_of_parseTask (h : parseTask d a b fn = .ok i) : encode i = packR 0x24 d a b fn := by
  unfold parseTask at h
  split at h
  all_goals simp only [unusedZero_eq_ok, Bool.and_eq_true, beq_iff_eq, reduceCtorEq] at h
  case h_1 hfn | h_2 hfn | h_3 hfn =>
    obtain rfl := eq_ofNat_of_toNat hfn
    obtain ⟨⟨⟨rfl, rfl⟩, rfl⟩, rfl⟩ := h
    rfl
  case h_4 hfn | h_5 hfn | h_6 hfn =>
    obtain rfl := eq_ofNat_of_toNat hfn
    obtain ⟨rfl, rfl⟩ := h
    rfl

theorem encode_of_parseBox (h : parseBox d a b fn = .ok i) : encode i = packR 0x25 d a b fn := by
  unfold parseBox at h
  split at h
  all_goals simp only [Decoded.bind_eq_ok, handleField_eq_ok, unusedZero_eq_ok, Bool.and_eq_true, beq_iff_eq, decide_eq_true_eq, reduceCtorEq] at h
  case h_1 hfn | h_2 hfn =>
    obtain rfl := eq_ofNat_of_toNat hfn
    obtain ⟨r, rfl, hdim, rfl⟩ := h
    rw [encode, dim_of_lt hdim]
    rfl
  case h_3 hfn | h_4 hfn | h_5 hfn | h_8 hfn =>
    obtain rfl := eq_ofNat_of_toNat hfn
    obtain ⟨r, rfl, rfl, rfl⟩ := h
    rfl
  case h_6 hfn =>
    obtain rfl := eq_ofNat_of_toNat hfn
    obtain ⟨r, rfl, q, rfl, rfl, rfl⟩ := h
    rfl
  case h_7 hfn =>
    obtain rfl := eq_ofNat_of_toNat hfn
    obtain ⟨r, rfl, ⟨rfl, rfl⟩, rfl⟩ := h
    rfl

theorem encode_of_parseEngine (h : parseEngine d a b fn = .ok i) : encode i = packR 0x28 d a b fn := by
  unfold parseEngine at h
  split at h
  all_goals simp only [unusedZero_eq_ok, Bool.and_eq_true, beq_iff_eq, reduceCtorEq] at h
  case h_1 hfn | h_2 hfn | h_4 hfn | h_5 hfn =>
    obtain rfl := eq_ofNat_of_toNat hfn
    obtain ⟨⟨rfl, rfl⟩, rfl⟩ := h
    rfl
  case h_3 hfn =>
    obtain rfl := eq_ofNat_of_toNat hfn
    obtain ⟨⟨⟨rfl, rfl⟩, rfl⟩, rfl⟩ := h
    rfl

theorem encode_of_parseSundial (h : parseSundial d a b fn = .ok i) : encode i = packR 0x29 d a b fn := by
  unfold parseSundial at h
  split at h
  all_goals simp only [Decoded.bind_eq_ok, handleField_eq_ok, unusedZero_eq_ok, Bool.and_eq_true, beq_iff_eq, Except.ok.injEq, reduceCtorEq] at h
  case h_1 hfn | h_3 hfn | h_4 hfn =>
    obtain rfl := eq_ofNat_of_toNat hfn
    obtain ⟨r, rfl, rfl⟩ := h
    rfl
  case h_2 hfn =>
    obtain rfl := eq_ofNat_of_toNat hfn
    obtain rfl := h
    rfl
  case h_5 hfn =>
    obtain rfl := eq_ofNat_of_toNat hfn
    obtain ⟨⟨rfl, rfl⟩, rfl⟩ := h
    rfl

theorem encode_of_parseGroup (h : parseGroup d a b fn = .ok i) : encode i = packR 0x2A d a b fn := by
  unfold parseGroup at h
  split at h
  all_goals simp only [Decoded.bind_eq_ok, handleField_eq_ok, unusedZero_eq_ok, Bool.and_eq_true, beq_iff_eq, Except.ok.injEq, reduceCtorEq] at h
  case h_1 hfn =>
    obtain rfl := eq_ofNat_of_toNat hfn
    obtain rfl := h
    rfl
  case h_2 hfn =>
    obtain rfl := eq_ofNat_of_toNat hfn
    obtain ⟨r, rfl, rfl, rfl⟩ := h
    rfl
  case h_3 hfn =>
    obtain rfl := eq_ofNat_of_toNat hfn
    obtain ⟨⟨rfl, rfl⟩, rfl⟩ := h
    rfl
  case h_4 hfn =>
    obtain rfl := eq_ofNat_of_toNat hfn
    obtain ⟨rfl, rfl⟩ := h
    rfl

theorem encode_of_parsePriv39 (h : parsePriv39 d a b fn = .ok i) : encode i = packR 0x39 d a b fn := by
  unfold parsePriv39 at h
  split at h
  all_goals simp only [Decoded.bind_eq_ok, handleField_eq_ok, unusedZero_eq_ok, Bool.and_eq_true, beq_iff_eq, Except.ok.injEq, reduceCtorEq] at h
  case h_1 hfn | h_2 hfn | h_3 hfn | h_8 hfn | h_9 hfn | h_10 hfn =>
    obtain rfl := eq_ofNat_of_toNat hfn
    obtain ⟨rfl, rfl⟩ := h
    rfl
  case h_4 hfn =>
    obtain rfl := eq_ofNat_of_toNat hfn
    obtain ⟨r, rfl, rfl, rfl⟩ := h
    rfl
  case h_5 hfn | h_6 hfn =>
    obtain rfl := eq_ofNat_of_toNat hfn
    obtain ⟨⟨rfl, rfl⟩, rfl⟩ := h
    rfl
  case h_7 hfn =>
    obtain rfl := eq_ofNat_of_toNat hfn
    obtain ⟨r, rfl, rfl⟩ := h
    rfl

theorem encode_of_parsePriv3A (h : parsePriv3A d a b fn = .ok i) : encode i = packR 0x3A d a b fn := by
  unfold parsePriv3A at h
  split at h
  all_goals simp only [unusedZero_eq_ok, Bool.and_eq_true, beq_iff_eq, reduceCtorEq] at h
  case h_1 hfn | h_2 hfn =>
    obtain rfl := eq_ofNat_of_toNat hfn
    obtain ⟨rfl, rfl⟩ := h
    rfl
  case h_3 hfn =>
    obtain rfl := eq_ofNat_of_toNat hfn
    obtain ⟨⟨⟨rfl, rfl⟩, rfl⟩, rfl⟩ := h
    rfl

theorem bits_append_halves (a b : BitVec 6) : bits (a ++ b) 6 6 = a ∧ bits (a ++ b) 0 6 = b :=
  ⟨BitVec.extractLsb'_append_eq_left, BitVec.extractLsb'_append_eq_right⟩

theorem encode_of_parsePriv38 (h : parsePriv38 d a b fn = .ok i) : encode i = packR 0x38 d a b fn := by
  obtain ⟨ha, hb⟩ := bits_append_halves a b
  unfold parsePriv38 at h
  split at h
  case h_1 hfn | h_2 hfn =>
    obtain rfl := eq_ofNat_of_toNat hfn
    obtain rfl := Except.ok.inj h
    rw [encode, ha, hb]
    rfl
  case h_3 hfn =>
    obtain rfl := eq_ofNat_of_toNat hfn
    split at h
    case isTrue h0 =>
      simp only [unusedZero_eq_ok, Bool.and_eq_true, beq_iff_eq] at h h0
      obtain ⟨⟨rfl, rfl⟩, rfl⟩ := h
      rw [h0]
      rfl
    case isFalse =>
      split at h
      case isTrue h1 =>
        simp only [unusedZero_eq_ok, Bool.and_eq_true, beq_iff_eq] at h h1
        obtain ⟨⟨rfl, rfl⟩, rfl⟩ := h
        rw [h1]
        rfl
      case isFalse => cases h
  case h_4 => cases h

theorem encode_of_parseCounter (h : parseCounter d a b fn = .ok i) : encode i = packR 0x23 d a b fn := by
  unfold parseCounter at h
  simp only [Decoded.bind_eq_ok, unusedZero_eq_ok, Bool.and_eq_true, beq_iff_eq] at h
  obtain ⟨f, hf, ⟨rfl, rfl⟩, rfl⟩ := h
  have hcode := selectForm_elim hf (P := fun f k => encode (f d) = packR 0x23 d 0 0 (BitVec.ofNat 8 k)) (fun k hk => by
    change k < 3 at hk
    match k, hk with
    | 0, _ | 1, _ | 2, _ => rfl
    | k + 3, hk => exact absurd hk (by omega))
  simpa using hcode

theorem encode_of_parseSem {imm : BitVec 14} (h : parseSem d a imm = .ok i) : encode i = packI 0x26 d a imm := by
  have himm : bits imm 12 2 ++ bits imm 8 4 ++ bits imm 0 8 = imm := by
    rw [bits_join imm 8 4 2, bits_join imm 0 8 6]
    exact bits_all imm
  unfold parseSem at h
  split at h
  case h_1 hk | h_2 hk | h_3 hk =>
    obtain rfl := Except.ok.inj h
    rw [eq_ofNat_of_toNat hk] at himm
    exact congrArg (packI 0x26 d a) himm
  case h_4 h0 h1 h2 =>
    obtain ⟨hz, rfl⟩ := unusedZero_eq_ok.1 h
    simp only [Bool.and_eq_true, beq_iff_eq] at hz
    obtain ⟨rfl, hj⟩ := hz
    have hk : ∀ k : BitVec 2, k.toNat ≠ 0 → k.toNat ≠ 1 → k.toNat ≠ 2 → k = 3 := by decide
    rw [hk _ h0 h1 h2, hj] at himm
    exact congrArg (packI 0x26 d 0) himm

/-- Every atomic's code selects its form (R188, R189). -/
theorem encode_of_atomic {l : List (Amo → Instr)} {n base : Nat} {wop : BitVec 6} {f8 : BitVec 8} {ext : BitVec 32} {f : Amo → Instr} (hn : wop.toNat = n)
    (hbase : base ≤ n) (hl : ∀ (k : Nat) (hk : k < l.length) (x : Amo), encode (l[k] x) = packAmo (BitVec.ofNat 6 (base + k)) x)
    (hf : selectForm l (n - base) = .ok f) (hf8 : f8.getLsbD 0 = false) (hext : bits ext 0 11 = 0) :
    encode (f (amoOf d a f8 ext)) = packW wop d a f8 ext := by
  have hcode := selectForm_elim hf (P := fun f k => ∀ x : Amo, encode (f x) = packAmo (BitVec.ofNat 6 (base + k)) x) hl
  rw [hcode, Nat.add_sub_cancel' hbase, ← hn, BitVec.ofNat_toNat, BitVec.setWidth_eq]
  show packW wop d a (amoOf d a f8 ext).f8 (amoOf d a f8 ext).ext = packW wop d a f8 ext
  rw [Amo.f8_amoOf d a ext hf8, Amo.ext_amoOf d a f8 hext]

theorem encode_amoForms (k : Nat) (hk : k < amoForms.length) (x : Amo) : encode (amoForms[k] x) = packAmo (BitVec.ofNat 6 (0x18 + k)) x := by
  change k < 13 at hk
  match k, hk with
  | 0, _ | 1, _ | 2, _ | 3, _ | 4, _ | 5, _ | 6, _ | 7, _ | 8, _ | 9, _ | 10, _ | 11, _ | 12, _ => rfl
  | k + 13, hk => exact absurd hk (by omega)
theorem encode_redForms (k : Nat) (hk : k < redForms.length) (x : Amo) : encode (redForms[k] x) = packAmo (BitVec.ofNat 6 (0x28 + k)) x := by
  change k < 9 at hk
  match k, hk with
  | 0, _ | 1, _ | 2, _ | 3, _ | 4, _ | 5, _ | 6, _ | 7, _ | 8, _ => rfl
  | k + 9, hk => exact absurd hk (by omega)

theorem encode_of_parseWide {wop : BitVec 6} {f8 : BitVec 8} {ext : BitVec 32} (h : parseWide wop d a f8 ext = .ok i) :
    encode i = packW wop d a f8 ext := by
  unfold parseWide at h
  split at h
  case h_16 =>
    dsimp only at h
    split at h
    case isTrue hamo =>
      obtain ⟨f, hf, h⟩ := Decoded.bind_eq_ok.1 h
      simp only [unusedZero_eq_ok, Bool.and_eq_true, beq_iff_eq] at h
      obtain ⟨⟨hf8, hext⟩, rfl⟩ := h
      exact encode_of_atomic rfl hamo.1 encode_amoForms hf hf8 hext
    case isFalse =>
      split at h
      case isTrue hred =>
        obtain ⟨f, hf, h⟩ := Decoded.bind_eq_ok.1 h
        simp only [unusedZero_eq_ok, Bool.and_eq_true, beq_iff_eq] at h
        obtain ⟨⟨hf8, hext⟩, rfl⟩ := h
        exact encode_of_atomic rfl hred.1 encode_redForms hf hf8 hext
      case isFalse => cases h
  all_goals simp only [Decoded.bind_eq_ok, handleField_eq_ok, unusedZero_eq_ok, Bool.and_eq_true, beq_iff_eq, Except.ok.injEq] at h
  case h_1 hwop | h_2 hwop =>
    obtain rfl := eq_ofNat_of_toNat hwop
    obtain ⟨⟨rfl, rfl⟩, rfl⟩ := h
    rfl
  case h_3 hwop | h_4 hwop | h_5 hwop | h_10 hwop | h_11 hwop | h_12 hwop =>
    obtain rfl := eq_ofNat_of_toNat hwop
    obtain ⟨rfl, rfl⟩ := h
    rfl
  case h_6 hwop =>
    obtain rfl := eq_ofNat_of_toNat hwop
    obtain ⟨⟨⟨rfl, rfl⟩, rfl⟩, rfl⟩ := h
    rfl
  case h_7 hwop =>
    obtain rfl := eq_ofNat_of_toNat hwop
    obtain rfl := h
    rfl
  case h_8 hwop =>
    obtain rfl := eq_ofNat_of_toNat hwop
    obtain ⟨⟨rfl, hz⟩, rfl⟩ := h
    rw [encode, ← hz, bits_join f8 4 2 2, bits_join f8 0 4 4, bits_all]
    rfl
  case h_9 hwop =>
    obtain rfl := eq_ofNat_of_toNat hwop
    obtain ⟨hz, rfl⟩ := h
    rw [encode, ← hz, bits_join f8 1 5 2, bits_join f8 0 1 7, bits_all]
    rfl
  case h_13 hwop =>
    obtain rfl := eq_ofNat_of_toNat hwop
    obtain ⟨r, rfl, q, rfl, hz, rfl⟩ := h
    rw [encode, ofBool_getLsbD, ← hz, bits_join f8 2 5 1, bits_join f8 0 2 6, bits_all]
    rfl
  case h_14 hwop =>
    obtain rfl := eq_ofNat_of_toNat hwop
    obtain ⟨r, rfl, q, rfl, rfl, rfl⟩ := h
    rw [encode, bits_join f8 0 4 4, bits_all]
    rfl
  case h_15 hwop =>
    obtain rfl := eq_ofNat_of_toNat hwop
    obtain ⟨⟨hf8, hext⟩, rfl⟩ := h
    rw [encode, stG_f8_of_bits hf8, stG_ext_of_bits hext]
    rfl
end

section
variable {w ext : BitVec 32} {i : Instr}

/-- A word of one control word is encoded as it stands; only major 0x3E takes an extension word (R128). -/
theorem code_of_narrow {n : Nat} {c : Code} (hmaj : (majorOf w).toNat = n) (hn : n ≠ 0x3E) (hc : c = .word w) :
    c = if isWide w then .wide w ext else .word w := by
  have hwide : isWide w = false := by
    rw [isWide, beq_eq_false_iff_ne]
    rintro h
    exact hn (hmaj ▸ congrArg BitVec.toNat h)
  rw [hwide, hc]
  rfl

theorem packR_of_word {n : Nat} (hmaj : (majorOf w).toNat = n) :
    packR (BitVec.ofNat 6 n) (bits w 20 6) (bits w 14 6) (bits w 8 6) (bits w 0 8) = .word w :=
  eq_ofNat_of_toNat hmaj ▸ congrArg Code.word (wordR_of_fields w)
theorem packI_of_word {n : Nat} (hmaj : (majorOf w).toNat = n) :
    packI (BitVec.ofNat 6 n) (bits w 20 6) (bits w 14 6) (bits w 0 14) = .word w :=
  eq_ofNat_of_toNat hmaj ▸ congrArg Code.word (wordI_of_fields w)
theorem packM_of_word {n : Nat} (hmaj : (majorOf w).toNat = n) : packM (BitVec.ofNat 6 n) (cmemOf w) = .word w :=
  eq_ofNat_of_toNat hmaj ▸ congrArg Code.word (wordM_of_fields w)

/-- The forms of consecutive majors, in code order, of format C-I and of format C-M. -/
theorem encode_of_immForms {l : List (SReg → SReg → BitVec 14 → Instr)} {n base : Nat} {d a : SReg} {imm : BitVec 14} (hbase : base ≤ n)
    (hl : ∀ (k : Nat) (hk : k < l.length) (d a : SReg) (imm : BitVec 14), encode (l[k] d a imm) = packI (BitVec.ofNat 6 (base + k)) d a imm)
    (h : (do .ok ((← selectForm l (n - base)) d a imm)) = Except.ok (ε := DecodeError) i) : encode i = packI (BitVec.ofNat 6 n) d a imm := by
  obtain ⟨f, hf, hi⟩ := Decoded.bind_eq_ok.1 h
  obtain rfl := Except.ok.inj hi
  have hcode := selectForm_elim hf (P := fun f k => ∀ (d a : SReg) (imm : BitVec 14), encode (f d a imm) = packI (BitVec.ofNat 6 (base + k)) d a imm) hl
  rw [hcode, Nat.add_sub_cancel' hbase]

theorem encode_immForms (k : Nat) (hk : k < immForms.length) (d a : SReg) (imm : BitVec 14) :
    encode (immForms[k] d a imm) = packI (BitVec.ofNat 6 (3 + k)) d a imm := by
  change k < 6 at hk
  match k, hk with
  | 0, _ | 1, _ | 2, _ | 3, _ | 4, _ | 5, _ => rfl
  | k + 6, hk => exact absurd hk (by omega)
theorem encode_branchForms (k : Nat) (hk : k < branchForms.length) (a b : SReg) (off : BitVec 14) :
    encode (branchForms[k] a b off) = packI (BitVec.ofNat 6 (0x18 + k)) a b off := by
  change k < 7 at hk
  match k, hk with
  | 0, _ | 1, _ | 2, _ | 3, _ | 4, _ | 5, _ | 6, _ => rfl
  | k + 7, hk => exact absurd hk (by omega)
theorem encode_of_memForms {n : Nat} {m : CMem} (hbase : 0x10 ≤ n)
    (h : (do .ok ((← selectForm memForms (n - 0x10)) m)) = Except.ok (ε := DecodeError) i) : encode i = packM (BitVec.ofNat 6 n) m := by
  obtain ⟨f, hf, hi⟩ := Decoded.bind_eq_ok.1 h
  obtain rfl := Except.ok.inj hi
  have hcode := selectForm_elim hf (P := fun f k => encode (f m) = packM (BitVec.ofNat 6 (0x10 + k)) m) (fun k hk => by
    change k < 6 at hk
    match k, hk with
    | 0, _ | 1, _ | 2, _ | 3, _ | 4, _ | 5, _ => rfl
    | k + 6, hk => exact absurd hk (by omega))
  rw [hcode, Nat.add_sub_cancel' hbase]

theorem encode_of_shift {d a : SReg} {imm : BitVec 14}
    (h : (do unusedZero (bits imm 6 6 == 0) ((← selectForm shiftForms (bits imm 12 2).toNat) d a (bits imm 0 6))) = .ok i) :
    encode i = packI 0x09 d a imm := by
  have himm : bits imm 12 2 ++ bits imm 6 6 ++ bits imm 0 6 = imm := by
    rw [bits_join imm 6 6 2, bits_join imm 0 6 8]
    exact bits_all imm
  obtain ⟨f, hf, h⟩ := Decoded.bind_eq_ok.1 h
  obtain ⟨hz, rfl⟩ := unusedZero_eq_ok.1 h
  have hcode := selectForm_elim hf
    (P := fun f k => ∀ n : BitVec 6, encode (f d a n) = packI 0x09 d a (BitVec.ofNat 2 k ++ (0 : BitVec 6) ++ n)) (fun k hk n => by
      change k < 4 at hk
      match k, hk with
      | 0, _ | 1, _ | 2, _ | 3, _ => rfl
      | k + 4, hk => exact absurd hk (by omega))
  rw [hcode, BitVec.ofNat_toNat, BitVec.setWidth_eq, ← eq_of_beq hz, himm]

/-- The frame forms' offset and form bits. -/
theorem frame_imm {imm : BitVec 14} {k : Nat} (hk : (bits imm 0 3).toNat = k) : bits imm 3 11 ++ BitVec.ofNat 3 k = imm := by
  rw [← eq_ofNat_of_toNat hk, bits_join imm 0 3 11]
  exact bits_all imm

/-- A control word whose parser answers is the word of its instruction. -/
theorem encode_of_parseControl (h : parseControl w ext = .ok i) : encode i = if isWide w then .wide w ext else .word w := by
  unfold parseControl at h
  split at h
  case h_1 hmaj => exact code_of_narrow hmaj (by decide) ((encode_of_parseAlu h).trans (packR_of_word hmaj))
  case h_2 hmaj =>
    refine code_of_narrow hmaj (by decide) ((encode_of_selectForm (fun k hk => ?_) h).trans (packR_of_word hmaj))
    change k < 8 at hk
    match k, hk with
    | 0, _ | 1, _ | 2, _ | 3, _ | 4, _ | 5, _ | 6, _ | 7, _ => rfl
    | k + 8, hk => exact absurd hk (by omega)
  case h_3 hmaj | h_4 hmaj | h_5 hmaj | h_6 hmaj | h_7 hmaj | h_8 hmaj =>
    rw [hmaj] at h
    exact code_of_narrow hmaj (by decide) ((encode_of_immForms (by decide) encode_immForms h).trans (packI_of_word hmaj))
  case h_9 hmaj => exact code_of_narrow hmaj (by decide) ((encode_of_shift h).trans (packI_of_word hmaj))
  case h_10 hmaj | h_11 hmaj =>
    refine code_of_narrow hmaj (by decide) (Eq.trans ?_ (packI_of_word hmaj))
    dsimp only at h
    split at h
    case h_1 hk =>
      obtain rfl := Except.ok.inj h
      rw [encode]
      exact congrArg (packI _ _ _) (frame_imm hk)
    case h_2 hk =>
      obtain ⟨r, hr, h⟩ := Decoded.bind_eq_ok.1 h
      obtain rfl := Except.ok.inj h
      rw [encode, handleField_eq_ok.1 hr]
      exact congrArg (packI _ _ _) (frame_imm hk)
    case h_3 => cases h
  case h_12 hmaj | h_13 hmaj | h_14 hmaj | h_15 hmaj | h_16 hmaj | h_17 hmaj =>
    rw [hmaj] at h
    exact code_of_narrow hmaj (by decide) ((encode_of_memForms (by decide) h).trans (packM_of_word hmaj))
  case h_18 hmaj | h_19 hmaj | h_20 hmaj | h_21 hmaj | h_22 hmaj | h_23 hmaj | h_24 hmaj =>
    rw [hmaj] at h
    exact code_of_narrow hmaj (by decide) ((encode_of_immForms (by decide) encode_branchForms h).trans (packI_of_word hmaj))
  case h_25 hmaj =>
    obtain rfl := Except.ok.inj h
    have hw := wordJ_of_fields w
    rw [eq_ofNat_of_toNat hmaj] at hw
    exact code_of_narrow hmaj (by decide) (congrArg Code.word hw)
  case h_26 hmaj =>
    obtain rfl := Except.ok.inj h
    exact code_of_narrow hmaj (by decide) (packI_of_word hmaj)
  case h_27 hmaj =>
    obtain rfl := Except.ok.inj h
    refine code_of_narrow hmaj (by decide) (Eq.trans ?_ (packI_of_word hmaj))
    rw [encode, bits_join (bits w 0 14) 0 6 8, bits_all]
    rfl
  case h_28 hmaj => exact code_of_narrow hmaj (by decide) ((encode_of_parseCounter h).trans (packR_of_word hmaj))
  case h_29 hmaj => exact code_of_narrow hmaj (by decide) ((encode_of_parseTask h).trans (packR_of_word hmaj))
  case h_30 hmaj => exact code_of_narrow hmaj (by decide) ((encode_of_parseBox h).trans (packR_of_word hmaj))
  case h_31 hmaj => exact code_of_narrow hmaj (by decide) ((encode_of_parseSem h).trans (packI_of_word hmaj))
  case h_32 hmaj =>
    obtain ⟨hz, rfl⟩ := unusedZero_eq_ok.1 h
    simp only [Bool.and_eq_true, beq_iff_eq] at hz
    have hw := wordF_of_fields w
    rw [eq_ofNat_of_toNat hmaj, hz.1, hz.2] at hw
    exact code_of_narrow hmaj (by decide) (congrArg Code.word hw)
  case h_33 hmaj => exact code_of_narrow hmaj (by decide) ((encode_of_parseEngine h).trans (packR_of_word hmaj))
  case h_34 hmaj => exact code_of_narrow hmaj (by decide) ((encode_of_parseSundial h).trans (packR_of_word hmaj))
  case h_35 hmaj => exact code_of_narrow hmaj (by decide) ((encode_of_parseGroup h).trans (packR_of_word hmaj))
  case h_36 hmaj =>
    refine code_of_narrow hmaj (by decide) (Eq.trans ?_ (packR_of_word hmaj))
    obtain ⟨r, hr, h⟩ := Decoded.bind_eq_ok.1 h
    obtain ⟨hz, rfl⟩ := unusedZero_eq_ok.1 h
    rw [encode, handleField_eq_ok.1 hr, dim_byte (eq_of_beq hz)]
    rfl
  case h_37 hmaj | h_38 hmaj =>
    obtain ⟨hz, rfl⟩ := unusedZero_eq_ok.1 h
    simp only [Bool.and_eq_true, beq_iff_eq] at hz
    refine code_of_narrow hmaj (by decide) (Eq.trans ?_ (packI_of_word hmaj))
    rw [hz.1, hz.2]
    rfl
  case h_39 hmaj => exact code_of_narrow hmaj (by decide) ((encode_of_parsePriv38 h).trans (packR_of_word hmaj))
  case h_40 hmaj => exact code_of_narrow hmaj (by decide) ((encode_of_parsePriv39 h).trans (packR_of_word hmaj))
  case h_41 hmaj => exact code_of_narrow hmaj (by decide) ((encode_of_parsePriv3A h).trans (packR_of_word hmaj))
  case h_42 hmaj =>
    obtain rfl := Except.ok.inj h
    have hw := wordH_of_fields w
    rw [eq_ofNat_of_toNat hmaj] at hw
    exact code_of_narrow hmaj (by decide) (congrArg Code.word hw)
  case h_43 hmaj =>
    have hw := wordR_of_fields w
    rw [eq_ofNat_of_toNat hmaj] at hw
    rw [isWide, eq_ofNat_of_toNat hmaj, encode_of_parseWide h]
    exact congrArg (Code.wide · ext) hw
  case h_44 => cases h
end

theorem checkFields_eq_ok {x : Decoded} {i : Instr} (h : checkFields x = .ok i) : x = .ok i := by
  unfold checkFields at h
  split at h
  · split at h
    · exact h
    · cases h
  · cases h

/-- Settles O57: the parser of each major answers only with an instruction that is encoded as the word's own fields. -/
theorem encodeDecode : Obligations.EncodeDecode := by
  unfold Obligations.EncodeDecode
  intro w ext i h
  exact encode_of_parseControl (checkFields_eq_ok h)
end Sys2Proof
end

section
/-! PROOF. The loops of a record (08 R139; 12 R228): the loop indices of a pass are the digits of its number, and the offset of a box
operand is a sum over the levels. -/

namespace Sys2Proof.Machine
open Sys2Proof

@[simp] theorem nth_cons_zero {α : Type} (a : α) (l : List α) (d : α) : nth (a :: l) 0 d = a := rfl
@[simp] theorem nth_cons_succ {α : Type} (a : α) (l : List α) (k : Nat) (d : α) : nth (a :: l) (k + 1) d = nth l k d := rfl

/-- Each digit is below its trip count. -/
theorem loopIndices_lt {ts : List Nat} (hpos : ∀ t ∈ ts, 0 < t) (p : Nat) {j : Nat} (hj : j < ts.length) :
    nth (loopIndices p ts) j 0 < nth ts j 0 := by
  induction ts generalizing p j with
  | nil => cases hj
  | cons t ts ih =>
    cases j with
    | zero => exact Nat.mod_lt p (hpos t (List.mem_cons_self ..))
    | succ j => exact ih (fun u hu => hpos u (List.mem_cons_of_mem _ hu)) (p / t) (Nat.lt_of_succ_lt_succ hj)

theorem sum_map_mul_left (n : Nat) (f : Nat → Nat) (l : List Nat) : (l.map (fun j => n * f j)).sum = n * (l.map f).sum := by
  induction l with
  | nil => rfl
  | cons j l ih => rw [List.map_cons, List.map_cons, List.sum_cons, List.sum_cons, ih, Nat.mul_add]

/-- The digits, each times the product of the inner counts, give the number back. -/
theorem loopIndices_sum {ts : List Nat} {p : Nat} (hp : p < ts.prod) :
    ((List.range ts.length).map (fun j => nth (loopIndices p ts) j 0 * (ts.take j).prod)).sum = p := by
  induction ts generalizing p with
  | nil => exact (Nat.lt_one_iff.1 hp).symm
  | cons t ts ih =>
    have houter : p / t < ts.prod := Nat.div_lt_of_lt_mul (by rwa [List.prod_cons] at hp)
    have hstep (j : Nat) : nth (loopIndices p (t :: ts)) (j + 1) 0 * ((t :: ts).take (j + 1)).prod =
        t * (nth (loopIndices (p / t) ts) j 0 * (ts.take j).prod) := by
      rw [loopIndices, nth_cons_succ, List.take_succ_cons, List.prod_cons, Nat.mul_left_comm]
    rw [List.length_cons, List.range_succ_eq_map, List.map_cons, List.map_map, List.sum_cons]
    simp only [Function.comp_def, Nat.succ_eq_add_one, hstep, sum_map_mul_left, ih houter]
    simp [loopIndices, Nat.mod_add_div]

/-- A fold that adds some of the levels' terms is a sum over all of them. -/
theorem foldl_add_eq_sum {c : Nat → Prop} [DecidablePred c] (f : Nat → Int) (l : List Nat) (n : Int) :
    l.foldl (fun n k => if c k then n + f k else n) n = n + (l.map (fun k => if c k then f k else 0)).sum := by
  induction l generalizing n with
  | nil => simp
  | cons k l ih =>
    rw [List.foldl_cons, ih, List.map_cons, List.sum_cons]
    split <;> omega

/-- Settles O35: by induction on the trip counts for the digits; the offset is a fold over the levels. -/
theorem recordLoops : Obligations.RecordLoops := by
  unfold Obligations.RecordLoops
  refine ⟨fun ts p hpos hp => ⟨fun j hj => loopIndices_lt hpos p hj, loopIndices_sum hp⟩, fun q r k p d => ?_⟩
  rw [QRec.offset, foldl_add_eq_sum, Int.zero_add]
  rfl

end Sys2Proof.Machine
end

section
/-! PROOF. Words that the spec writes out (08 R128 to R141). -/

namespace Sys2Proof

/-- Settles O55: each word is decoded. -/
theorem decodedWords : Obligations.DecodedWords := by
  unfold Obligations.DecodedWords
  decide +kernel

end Sys2Proof
end

section
/-! PROOF. The control of the vector stream (08 R137; 11 R220 to R226): the stream scalars, the queues, flags, semaphores, timelines and the
fence, each with the condition that it waits for, and the counted loop. -/

namespace Sys2Proof.Machine
open Sys2Proof

/-! ### Small facts -/

theorem shiftLeft_eq_ofNat (a : Word) (n : Nat) : a <<< n = BitVec.ofNat 64 (a.toNat * 2 ^ n) := by
  refine BitVec.eq_of_toNat_eq ?_
  rw [BitVec.toNat_shiftLeft, BitVec.toNat_ofNat, Nat.shiftLeft_eq]
theorem ushiftRight_eq_ofNat (a : Word) (n : Nat) : a >>> n = BitVec.ofNat 64 (a.toNat / 2 ^ n) := by
  refine BitVec.eq_of_toNat_eq ?_
  rw [BitVec.toNat_ushiftRight, BitVec.toNat_ofNat, Nat.shiftRight_eq_div_pow, Nat.mod_eq_of_lt (Nat.lt_of_le_of_lt (Nat.div_le_self ..) a.isLt)]
theorem sshiftRight_eq_ofInt (a : Word) (n : Nat) : a.sshiftRight n = BitVec.ofInt 64 (a.toInt / 2 ^ n) := by
  rw [BitVec.sshiftRight, Int.shiftRight_eq_div_pow]
  rfl
/-- The shift that ashl makes (R220). -/
def scalarShift (w : VWord) (a : Word) (n : Nat) : Word := if w.flg == 0 then a <<< n else if w.flg == 1 then a >>> n else a.sshiftRight n

theorem mul_eq_ofNat (a b : Word) : a * b = BitVec.ofNat 64 (a.toNat * b.toNat) := by
  rw [BitVec.ofNat_mul, BitVec.ofNat_toNat, BitVec.ofNat_toNat, BitVec.setWidth_eq, BitVec.setWidth_eq]

theorem noFormat_ok {w : VWord} (h : w.fmt = Fm.none) : noFormat w = .ok () := check_of (beq_iff_eq.2 h) _

theorem vectorSettled_iff {x : Task} : vectorSettled x = true ↔ ∀ a ∈ x.pend, a.stream ≠ .vector := by simp [vectorSettled]

/-- The flags after vfset (R223). -/
def flagsSet (w : VWord) (flags : BitVec 16) : BitVec 16 :=
  if w.flg.getLsbD 0 then flags &&& ~~~((1 : BitVec 16) <<< w.c.toNat) else flags ||| (1 : BitVec 16) <<< w.c.toNat

/-- How often the body of vloop runs, the register that receives the index, and the stream past vloop and past vendl (R221). -/
def Vec.loopCount (v : Vec) (w : VWord) : Nat := if w.flg.getLsbD 0 then w.c.toNat else (v.scalar w.a.toNat).toNat
def loopReg (w : VWord) : Option Nat := if w.flg.getLsbD 1 then some w.d.toNat else none
def Vec.enterLoop (v : Vec) (w : VWord) (stop : Nat) : Vec :=
  let e : VLoop := { start := v.pc + 8, stop := stop, left := v.loopCount w - 1, index := 0, reg := loopReg w }
  { v.setIndex (loopReg w) 0 with pc := v.pc + 8, loops := e :: v.loops }
def Vec.nextPass (v : Vec) (e : VLoop) (r : List VLoop) : Vec :=
  { v.setIndex e.reg (e.index + 1) with pc := e.start, loops := { e with left := e.left - 1, index := e.index + 1 } :: r }

theorem Vec.setIndex_a (v : Vec) (r : Option Nat) (i : Nat) :
    (v.setIndex r i).a = match r with | some d => SMap.put v.a d (word i) | none => v.a := by
  cases r <;> rfl

theorem State.endsInVendl_ok {s : State} {x : Task} {off : Nat} (h : s.codeNat x.own off 8 = .ok (0x71 * 2 ^ 56)) :
    s.endsInVendl x off = .ok () := by
  unfold State.endsInVendl
  rw [h]
  rfl

section
variable {s : State} {x : Task} {w : VWord} (hx : Acts s x)
include hx

theorem State.issueVector_error {e : Exit} {body : Task → Res State} (hb : body x = .error e) :
    s.issueVector body = s.deliverStream s.cur x .vector (.error e) := by
  unfold State.issueVector
  rw [hx]
  dsimp only
  rw [hb]

/-! ### Forms that wait for a condition (R222 to R226) -/

/-- An instruction that waits for a condition completes once it holds, and changes nothing before. -/
theorem State.issueVector_waits {ok : Bool} {s' : State} {body : Task → Res State} (hb : body x = (do waitFor ok; .ok s')) :
    s.issueVector body = if ok = true then .next s' else .next s := by
  cases ok with
  | true => exact State.issueVector_ok hx hb
  | false => exact State.issueVector_stall hx hb
theorem State.issueVec_waits {ok : Bool} {v : Vec} {body : Task → Res Vec} (hb : body x = (do waitFor ok; .ok v)) :
    s.issueVec body = if ok = true then s.vecCompletes x v else .next s := by
  cases ok with
  | true => exact State.issueVec_ok hx hb
  | false => exact State.issueVec_stall hx hb

theorem exec_vnop : exec .vnop s = s.vecCompletes x x.vec := State.issueVec_ok hx rfl
theorem exec_vend : exec .vend s = if vectorSettled x = true
    then s.vecCompletes x { x.vec with on := false, done := x.vec.done + 1, loops := [] } else .next s := State.issueVec_waits hx rfl
theorem exec_vfence : exec (.vfence w) s = if classesSettled x .vector (vfenceMask w) = true then s.vecCompletes x x.vec else .next s :=
  State.issueVec_waits hx rfl

section
variable (hnone : w.fmt = Fm.none)
include hnone

theorem exec_vpush : exec (.vpush w) s = if (vectorSettled x && decide (x.vec.vq.length < 64)) = true
    then s.vecCompletes x { x.vec with vq := x.vec.vq ++ [x.vec.scalar w.a.toNat] } else .next s :=
  State.issueVec_waits hx (by rw [noFormat_ok hnone]; rfl)
theorem exec_vpop_word {q : Word} {r : List Word} (hq : x.vec.cq = q :: r) :
    exec (.vpop w) s = s.vecCompletes x ({ x.vec with cq := r }.setScalar w.d.toNat q) :=
  State.issueVec_ok hx (by rw [noFormat_ok hnone, hq]; rfl)
theorem exec_vpop_empty (hq : x.vec.cq = []) : exec (.vpop w) s = .next s :=
  State.issueVec_stall hx (by rw [noFormat_ok hnone, hq]; rfl)
theorem exec_vfset : exec (.vfset w) s = if (w.flg.getLsbD 0 || vectorSettled x) = true
    then s.vecCompletes x { x.vec with flags := flagsSet w x.vec.flags } else .next s :=
  State.issueVec_waits hx (by rw [noFormat_ok hnone]; rfl)
theorem exec_vsig : exec (.vsig w) s = if (vectorSettled x && x.semInOrder s.cycle 2 w.c.toNat) = true
    then s.vecCompletes ((x.setSem w.c.toNat (semPlus (x.sem w.c.toNat) ((x.vec.scalar w.a.toNat).toNat % 2 ^ 32))).noteSem s.cycle 2 w.c.toNat) x.vec
    else .next s :=
  State.issueVector_waits hx (by rw [noFormat_ok hnone]; rfl)
theorem exec_vswait : exec (.vswait w) s = if (x.vec.scalar w.a.toNat).toNat % 2 ^ 32 ≤ (x.sem w.c.toNat).toNat
    then s.vecCompletes x x.vec else .next s := by
  rw [← ite_congr decide_eq_true_eq (fun _ => rfl) (fun _ => rfl)]
  exact State.issueVec_waits hx (by rw [noFormat_ok hnone]; rfl)
theorem exec_vfwait : exec (.vfwait w) s = if (x.vec.scalar w.a.toNat).toNat ≤ (if w.c == 1 then x.mat.done else x.cpy.done)
    then s.vecCompletes x x.vec else .next s := by
  rw [← ite_congr decide_eq_true_eq (fun _ => rfl) (fun _ => rfl)]
  exact State.issueVec_waits hx (by rw [noFormat_ok hnone]; rfl)

/-! ### Stream scalars (R220) -/

theorem State.scalarForm_completes (f : Word → Word → Word) : s.scalarForm w f =
    s.vecCompletes x (x.vec.setScalar w.d.toNat (f (x.vec.scalar w.a.toNat) (x.vec.scalar w.b.toNat))) :=
  State.issueVec_ok hx (by rw [noFormat_ok hnone, Res.bind_ok])

theorem exec_aadd : exec (.aadd w) s =
    s.vecCompletes x (x.vec.setScalar w.d.toNat (x.vec.scalar w.a.toNat + scalarSecond w (x.vec.scalar w.b.toNat))) :=
  State.scalarForm_completes hx hnone (fun a b => a + scalarSecond w b)
theorem exec_asub : exec (.asub w) s =
    s.vecCompletes x (x.vec.setScalar w.d.toNat (x.vec.scalar w.a.toNat - scalarSecond w (x.vec.scalar w.b.toNat))) :=
  State.scalarForm_completes hx hnone (fun a b => a - scalarSecond w b)
theorem exec_ashl : exec (.ashl w) s =
    s.vecCompletes x (x.vec.setScalar w.d.toNat (scalarShift w (x.vec.scalar w.a.toNat) ((x.vec.scalar w.b.toNat).toNat % 64))) :=
  State.scalarForm_completes hx hnone (fun a b => scalarShift w a (b.toNat % 64))

end

/-! ### Counted loops (R221) -/

section
variable {stop : Nat} (hstop : stop = x.vec.pc + 8 * w.b.toNat) (hnone : w.fmt = Fm.none)
  (hend : s.codeNat x.own stop 8 = .ok (0x71 * 2 ^ 56)) (hfits : vloopFits stop x.vec.loops = true)
include hstop hnone hend hfits

theorem exec_vloop (hroom : x.vec.loops.length < 4) : exec (.vloop w) s = .next (s.setTask s.cur { x with
    vec := if x.vec.loopCount w = 0 then { x.vec with pc := stop + 8 } else x.vec.enterLoop w stop }) := by
  subst hstop
  refine State.issueVector_ok hx ?_
  dsimp only
  rw [State.endsInVendl_ok hend, Res.bind_ok, check_of hfits, Res.bind_ok, noFormat_ok hnone, Res.bind_ok, check_of (decide_eq_true hroom)]
  rfl

theorem exec_vloop_full (hfull : 4 ≤ x.vec.loops.length) :
    exec (.vloop w) s = s.deliverStream s.cur x .vector (.error (.flt Flt.capacity 0)) := by
  subst hstop
  refine State.issueVector_error hx ?_
  dsimp only
  rw [State.endsInVendl_ok hend, Res.bind_ok, check_of hfits, Res.bind_ok, noFormat_ok hnone, Res.bind_ok,
    decide_eq_false (Nat.not_lt.2 hfull)]
  rfl

end

theorem exec_vendl {e : VLoop} {r : List VLoop} (hl : x.vec.loops = e :: r) (hstop : e.stop = x.vec.pc) :
    exec .vendl s = .next (s.setTask s.cur { x with
      vec := if e.left = 0 then { x.vec with pc := x.vec.pc + 8, loops := r } else x.vec.nextPass e r }) := by
  refine State.issueVector_ok hx ?_
  dsimp only
  rw [hl]
  dsimp only
  rw [if_neg (fun hne => hne hstop)]
  rfl

theorem exec_vendl_outside (hl : ∀ (e : VLoop) (r : List VLoop), x.vec.loops = e :: r → e.stop ≠ x.vec.pc) :
    exec .vendl s = s.deliverStream s.cur x .vector (.error (.flt Flt.illegal 0)) := by
  refine State.issueVector_error hx ?_
  dsimp only
  cases h : x.vec.loops with
  | nil => rfl
  | cons e r =>
    dsimp only
    rw [if_pos (hl e r h)]
    rfl

end

/-- Settles O34: each form by what it does once its condition holds. -/
theorem vectorControlAndLoops : Obligations.VectorControlAndLoops := by
  unfold Obligations.VectorControlAndLoops
  refine ⟨fun s x w hx => ?forms, fun s x w hx => ?loops⟩
  case forms =>
    intro A scalar settled imm low
    have hsettled : vectorSettled x = true ↔ settled := vectorSettled_iff
    have hpush : (vectorSettled x && decide (x.vec.vq.length < 64)) = true ↔ settled ∧ x.vec.vq.length < 64 := by
      rw [Bool.and_eq_true, hsettled, decide_eq_true_iff]
    have hsig : (vectorSettled x && x.semInOrder s.cycle 2 w.c.toNat) = true ↔ settled ∧ x.semInOrder s.cycle 2 w.c.toNat = true := by
      rw [Bool.and_eq_true, hsettled]
    refine ⟨fun hnone => ⟨fun hflg => ?plain, fun hflg => ?imm, fun hflg => ?sra, ?mul, ?mov, ?ali, ?push, ?pushWaits, ?pop, ?popWaits,
      ?clear, ?set, ?sig, ?sigWaits, ?swait, ?fwait⟩, ?fence, exec_vnop hx, ?vend, ?vendWaits⟩
    case plain =>
      have hsecond : scalarSecond w (A w.b) = A w.b := by rw [scalarSecond, hflg]; rfl
      have hshift : scalarShift w (A w.a) ((A w.b).toNat % 64) = A w.a <<< ((A w.b).toNat % 64) := by rw [scalarShift, hflg]; rfl
      refine ⟨?_, ?_, ?_⟩
      · exact (exec_aadd hx hnone).trans (by rw [hsecond])
      · exact (exec_asub hx hnone).trans (by rw [hsecond])
      · exact (exec_ashl hx hnone).trans (by rw [hshift, shiftLeft_eq_ofNat])
    case imm =>
      have hsecond : scalarSecond w (A w.b) = imm := by rw [scalarSecond, hflg]; rfl
      have hshift : scalarShift w (A w.a) ((A w.b).toNat % 64) = A w.a >>> ((A w.b).toNat % 64) := by rw [scalarShift, hflg]; rfl
      refine ⟨?_, ?_, ?_⟩
      · exact (exec_aadd hx hnone).trans (by rw [hsecond])
      · exact (exec_asub hx hnone).trans (by rw [hsecond])
      · exact (exec_ashl hx hnone).trans (by rw [hshift, ushiftRight_eq_ofNat])
    case sra =>
      have hshift : scalarShift w (A w.a) ((A w.b).toNat % 64) = (A w.a).sshiftRight ((A w.b).toNat % 64) := by rw [scalarShift, hflg]; rfl
      exact (exec_ashl hx hnone).trans (by rw [hshift, sshiftRight_eq_ofInt])
    case mul => exact (State.scalarForm_completes hx hnone (fun a b => a * b)).trans (by rw [mul_eq_ofNat])
    case mov => exact State.scalarForm_completes hx hnone (fun a _ => a)
    case ali => exact State.scalarForm_completes hx hnone (fun _ _ => sext64 (w.a ++ w.b ++ w.c))
    case push => exact fun h hroom => (exec_vpush hx hnone).trans (if_pos (hpush.2 ⟨h, hroom⟩))
    case pushWaits =>
      exact fun h => (exec_vpush hx hnone).trans (if_neg (mt hpush.1 (fun ⟨hs, hroom⟩ => h.elim (fun hn => hn hs) (Nat.not_le.2 hroom))))
    case pop => exact fun q r hq => exec_vpop_word hx hnone hq
    case popWaits => exact exec_vpop_empty hx hnone
    case clear =>
      intro hflg
      exact (exec_vfset hx hnone).trans (by rw [flagsSet, hflg]; rfl)
    case set =>
      intro hflg h
      exact (exec_vfset hx hnone).trans (by rw [flagsSet, hflg, hsettled.2 h]; rfl)
    case sig => exact fun h horder => (exec_vsig hx hnone).trans (if_pos (hsig.2 ⟨h, horder⟩))
    case sigWaits =>
      exact fun h => (exec_vsig hx hnone).trans (if_neg (mt hsig.1 (fun ⟨hs, horder⟩ =>
        h.elim (fun hn => hn hs) (fun hno => Bool.false_ne_true (hno.symm.trans horder)))))
    case swait => exact exec_vswait hx hnone
    case fwait =>
      rintro done (⟨hc, rfl⟩ | ⟨hc, rfl⟩)
      · exact (exec_vfwait hx hnone).trans (by rw [hc]; rfl)
      · exact (exec_vfwait hx hnone).trans (by rw [hc]; rfl)
    case fence =>
      intro h
      refine (exec_vfence hx).trans (if_pos (List.all_eq_true.2 fun a ha => ?_))
      cases hst : a.stream != .vector with
      | true => rfl
      | false => rw [Bool.false_or, vfenceMask, h a ha (by simpa using hst)]; rfl
    case vend => exact fun h => (exec_vend hx).trans (if_pos (hsettled.2 h))
    case vendWaits => exact fun h => (exec_vend hx).trans (if_neg (mt hsettled.1 h))
  case loops =>
    intro v stop count
    refine ⟨fun hnone hend hfits => ⟨fun hroom => ?enter, exec_vloop_full hx rfl hnone hend hfits⟩, fun e r hl hstop => ?endOfPass,
      exec_vendl_outside hx⟩
    case enter =>
      have hloop := exec_vloop hx rfl hnone hend hfits hroom
      refine ⟨fun h0 => ?_, fun hpos => ⟨v.enterLoop w stop, ?_, rfl, rfl, ?_⟩⟩
      · rwa [if_pos (show x.vec.loopCount w = 0 from h0)] at hloop
      · rwa [if_neg (show ¬ x.vec.loopCount w = 0 from Nat.ne_of_gt hpos)] at hloop
      · refine (v.setIndex_a (loopReg w) 0).trans ?_
        rw [loopReg]
        cases w.flg.getLsbD 1 <;> rfl
    case endOfPass =>
      have hendl := exec_vendl hx hl hstop
      refine ⟨fun h0 => ?_, fun hpos => ⟨v.nextPass e r, ?_, rfl, rfl, fun d hd => ?_, fun hd => ?_⟩⟩
      · rwa [if_pos h0] at hendl
      · rwa [if_neg (Nat.ne_of_gt hpos)] at hendl
      · exact (v.setIndex_a e.reg (e.index + 1)).trans (by rw [hd])
      · exact (v.setIndex_a e.reg (e.index + 1)).trans (by rw [hd])

end Sys2Proof.Machine
end

section
/-! PROOF. FLT_PRIV and FLT_DSLOT at issue (08 R134, R142; 18 R278): what the word of a form asks is what its issue checks, and a check that
fails raises its fault. -/

namespace Sys2Proof.Machine
open Sys2Proof

/-! ### The privilege level that a word needs -/

theorem privilegeOf_of_major {w : BitVec 32} {maj : BitVec 6} (hmaj : majorOf w = maj)
    (h : maj.toNat ≠ 0x38 ∧ maj.toNat ≠ 0x39 ∧ maj.toNat ≠ 0x3A) : privilegeOf w = 0 := by
  obtain ⟨h38, h39, h3A⟩ := h
  rw [privilegeOf, hmaj]
  split
  · contradiction
  · contradiction
  · contradiction
  · rfl

theorem privilegeOf_wordR (maj d a b : BitVec 6) (fn : BitVec 8) : privilegeOf (wordR maj d a b fn) = privilegeOf (wordR maj 0 0 0 fn) := by
  rw [privilegeOf, privilegeOf, wordR_maj, wordR_maj, wordR_fn, wordR_fn]

theorem privilegeOf_wordI {maj : BitVec 6} (d a : BitVec 6) (imm : BitVec 14)
    (h : maj.toNat ≠ 0x38 ∧ maj.toNat ≠ 0x39 ∧ maj.toNat ≠ 0x3A) : privilegeOf (wordI maj d a imm) = 0 :=
  privilegeOf_of_major (wordI_maj ..) h

theorem privilegeOf_wordM {maj : BitVec 6} (m : CMem) (h : maj.toNat ≠ 0x38 ∧ maj.toNat ≠ 0x39 ∧ maj.toNat ≠ 0x3A) :
    privilegeOf (wordM maj m) = 0 :=
  privilegeOf_of_major (wordM_maj ..) h

/-- The word of a form asks for the level that the form's issue checks; only control words of one word ask for one. -/
theorem privilegeOf_encode {i : Instr} {w : BitVec 32} (h : encode i = .word w) : privilegeOf w = (formOf i).pl := by
  cases i with
  | add | sub | and | or | xor | andn | sll | srl | sra | rotl | slt | sltu | min | max | minu | maxu | clz | popc | mul | mulh | mulhu
  | mulhsu | div | divu | rem | remu | rdcyc | rdtick | rdcore | join | endTask | yield | jstat | wid | dslice | boxext | boxorg | boxrank
  | boxfmt | boxmode | boxmov | boxclr | boxroot | claim | release | rdv | vqsend | vqrecv | stopen | stsrc | stbind | strec | stclose | gopen
  | gcommit | gabort | gstat | shardcoord =>
    cases h
    exact privilegeOf_of_major (wordR_maj ..) (by decide)
  | addi | andi | ori | xori | slti | sltiu | slli | srli | srai | rotli | ldf | ldfHandle | stf | stfHandle | beq | bne | blt | bge | bltu
  | bgeu | loop | jalr | shpld | semset | semadd | semsub | semrd | trap | brk =>
    cases h
    exact privilegeOf_wordI _ _ _ (by decide)
  | ldS | ldZ | st | ldAcqS | ldAcqZ | stRel =>
    cases h
    exact privilegeOf_wordM _ (by decide)
  | jal d off =>
    cases h
    exact privilegeOf_of_major (wordJ_fields 0x20 d off).1 (by decide)
  | fence mask sc =>
    cases h
    exact privilegeOf_of_major (wordF_fields 0x27 0 mask 0 sc).1 (by decide)
  | hint x =>
    cases h
    exact privilegeOf_of_major (wordH_fields 0x3C x).1 (by decide)
  | mfsr | mtsr | tret | tretEnd | ctxsave | ctxload | preempt | qadmit | qrelease | qcancel | partset | tlbinv | isend | corefence | phyrd
  | phywr | halt =>
    cases h
    exact privilegeOf_wordR ..
  | _ => cases h

/-! ### The checks at issue that fail -/

theorem Form.checks_priv {f : Form} {x : Task} (h : x.ctl.pl < f.pl) : f.checks x = .error (.flt Flt.priv 0) := by
  rw [Form.checks, decide_eq_false (Nat.not_le.2 h)]
  rfl

theorem Form.checks_dslot {f : Form} {x : Task} (hpl : f.pl ≤ x.ctl.pl) (hs : x.service = false) (ht : f.transfer = true)
    (hd : x.ctl.delay.isSome = true) : f.checks x = .error (.flt Flt.dslot 0) := by
  rw [Form.checks, decide_eq_true hpl, hs, ht, hd, Bool.not_false, Bool.or_true]
  rfl

/-- An instruction with a check that fails raises that check's fault, and its effect does not take place. -/
theorem State.issue_fault {s : State} {f : Form} {x : Task} {code : Nat} {val : Word} (body : Task → Res State) (hx : s.task? s.cur = some x)
    (hf : f.checks x = .error (.flt code val)) : s.issue f body = s.raise s.cur x code val := by
  rw [State.issue, hx]
  simp only [hf, Res.bind_error]
  rfl

/-! ### The forms that have such checks -/

/-- A form that a privilege level guards is issued with its checks. -/
theorem exec_privileged {i : Instr} (h : 0 < (formOf i).pl) (s : State) : ∃ body, exec i s = s.issue (formOf i) body := by
  cases i with
  | mfsr | mtsr | tret | tretEnd | ctxsave | ctxload | preempt | qadmit | qrelease | qcancel | partset | tlbinv | isend | corefence | phyrd
  | phywr | halt => exact ⟨_, rfl⟩
  | _ => exact absurd h (Nat.lt_irrefl 0)

theorem formOf_transfer {i : Instr} (h : isTransfer i = true) : (formOf i).transfer = true := by
  cases i with
  | beq | bne | blt | bge | bltu | bgeu | jal | jalr | trap | brk | join | endTask | yield | waitAny | waitAll | tret | tretEnd => rfl
  | _ => cases h

/-- Only the returns from a trap are transfers that a privilege level guards. -/
theorem formOf_pl_of_transfer {i : Instr} {pl : Nat} (h : isTransfer i = true) (hret : i = .tret ∨ i = .tretEnd → 1 ≤ pl) :
    (formOf i).pl ≤ pl := by
  cases i with
  | beq | bne | blt | bge | bltu | bgeu | jal | jalr | trap | brk | join | endTask | yield | waitAny | waitAll => exact Nat.zero_le _
  | tret => exact hret (.inl rfl)
  | tretEnd => exact hret (.inr rfl)
  | _ => cases h

/-- A control transfer whose checks fail raises that check's fault. -/
theorem exec_transfer_fault {s : State} {x : Task} {i : Instr} {code : Nat} {val : Word} (hx : s.task? s.cur = some x)
    (h : isTransfer i = true) (hf : (formOf i).checks x = .error (.flt code val)) : exec i s = s.raise s.cur x code val := by
  cases i with
  | beq | bne | blt | bge | bltu | bgeu | jal | jalr | join | endTask | yield | waitAny | waitAll | tret | tretEnd =>
    exact State.issue_fault _ hx hf
  | trap c =>
    show execTrap c s = _
    rw [execTrap, hx]
    simp only [show transferForm.checks x = _ from hf]
    rfl
  | brk c =>
    show execBrk c s = _
    rw [execBrk, hx]
    simp only [show transferForm.checks x = _ from hf]
    rfl
  | _ => cases h

/-- Settles O22: the word's privilege level is the one that the form's issue checks first; a transfer's last check is that of the slot. -/
theorem privilegeAndDelaySlot : Obligations.PrivilegeAndDelaySlot := by
  refine ⟨fun s x i w hx hw hpl => ?priv, fun s x i hx hi hd hs hret => ?dslot⟩
  case priv =>
    rw [privilegeOf_encode hw] at hpl
    obtain ⟨body, hexec⟩ := exec_privileged (Nat.zero_lt_of_lt hpl) s
    rw [hexec]
    exact State.issue_fault body hx (Form.checks_priv hpl)
  case dslot =>
    exact exec_transfer_fault hx hi (Form.checks_dslot (formOf_pl_of_transfer hi hret) hs (formOf_transfer hi) hd)

end Sys2Proof.Machine
end

section
/-! PROOF. The turn of an agent (08 R128 to R142; log 1): what each turn runs once its tests pass, and what the step adds to it. -/

namespace Sys2Proof.Machine
open Sys2Proof

/-! ### Fetch and decoding -/

section
variable {s : State} {x : Task} {n : Nat} (hal : x.ctl.pc % 4 = 0) (hw : s.codeNat x x.ctl.pc 4 = .ok n)
include hal hw

theorem State.fetch_narrow (hwide : isWide (BitVec.ofNat 32 n) = false) : s.fetch x = controlInstr x.ctl.pl (BitVec.ofNat 32 n) 0 := by
  rw [State.fetch, State.fetchControl, hal, hw]
  simp [hwide]

theorem State.fetch_wide {m : Nat} (hwide : isWide (BitVec.ofNat 32 n) = true) (hm : s.codeNat x (x.ctl.pc + 4) 4 = .ok m) :
    s.fetch x = controlInstr x.ctl.pl (BitVec.ofNat 32 n) (BitVec.ofNat 32 m) := by
  rw [State.fetch, State.fetchControl, hal, hw]
  simp [hwide, hm]

end

theorem controlInstr_ok {pl : Nat} {w ext : BitVec 32} {i : Instr} (h : decodeControl w ext = .ok i) : controlInstr pl w ext = .ok i := by
  rw [controlInstr, h]

theorem controlInstr_error {pl : Nat} {w ext : BitVec 32} {e : DecodeError} (h : decodeControl w ext = .error e) :
    controlInstr pl w ext = .error (.flt (if privilegeOf w ≤ pl then Flt.illegal else Flt.priv) 0) := by
  rw [controlInstr, h]
  simp only [fault]
  split <;> rfl

/-- No first word of a wide instruction asks for a privilege level. -/
theorem privilegeOf_wide {w : BitVec 32} (h : isWide w = true) : privilegeOf w = 0 :=
  privilegeOf_of_major (beq_iff_eq.1 h) (by decide)

section
variable {s : State} {x : Task} {n : Nat} (hn : s.codeNat x.own x.vec.pc 8 = .ok n)
include hn

theorem State.fetchVector_ok {i : Instr} (hi : decodeVector (BitVec.ofNat 64 n) = .ok i) : s.fetchVector x = .ok i := by
  rw [State.fetchVector, hn]
  simp only [Res.bind_ok, hi]

theorem State.fetchVector_error {e : DecodeError} (he : decodeVector (BitVec.ofNat 64 n) = .error e) :
    s.fetchVector x = .error (.flt Flt.illegal 0) := by
  rw [State.fetchVector, hn]
  simp only [Res.bind_ok, he, fault]

end

/-! ### The agenda, and what a step adds to a turn -/

theorem step_of_agenda {s : State} {p : Pick} {r : List Pick} (h : s.agenda = p :: r) : step s = act { s with agenda := r } p := by
  rw [step, State.nextTurn, h]

theorem step_of_agenda_nil {s : State} (h : s.agenda = []) :
    step s = act { s with turns := s.turns + 1 } (Config.nextPick s.turns) := by
  rw [step, State.nextTurn, h]

theorem State.using_some {s v : State} {t : Nat} {l : List Nat} (turn : State → Out) (h : s.touch t l = some v) :
    s.using t l turn = s.admitted t (s.claimed t (turn v)) := by
  rw [State.using, h]

theorem State.using_none {s : State} {t : Nat} {l : List Nat} (turn : State → Out) (h : s.touch t l = none) : s.using t l turn = .next s := by
  rw [State.using, h]

/-- A task whose units have all been loaded uses them as they are (R304). -/
theorem State.touch_loaded {s : State} {t : Nat} {x : Task} (hx : s.task? t = some x) (hlazy : x.r.lazy = 0) (l : List Nat) :
    s.touch t l = some s := by
  have hneed : (List.range 64).filter (fun i => l.contains i && x.r.lazy.getLsbD i) = [] :=
    List.filter_eq_nil_iff.2 fun i _ => by simp [hlazy]
  rw [State.touch, hx]
  simp only [hneed, List.isEmpty_nil, if_true]

theorem State.settleLink_outside {s : State} {t : Nat} {x : Task} (h : x.ctl.delay = none) : s.settleLink t x = s := by
  rw [State.settleLink, h]

/-- Where no unit is wanted and no claim stands, a turn claims none (R304). -/
theorem State.claimed_free {s v : State} {t : Nat} {y : Task} (hy : v.task? t = some y)
    (h : ∀ core : Nat, y.r.core = some core → v.unitShort core y = none ∧ (v.core core).claim = none) :
    s.claimed t (.next v) = .next v := by
  rw [State.claimed]
  simp only [hy]
  cases hcore : y.r.core with
  | none => rfl
  | some core =>
    obtain ⟨hshort, hclaim⟩ := h core hcore
    simp only [hshort, hclaim, Option.isSome_none, Bool.false_eq_true, if_false]

/-- A turn that adds no request, or keeps to the limit, goes on (R1). -/
theorem State.admitted_within {s v : State} {t : Nat} {y : Task} (hy : v.task? t = some y)
    (h : v.requests (coreOfTask y) ≤ 1024 ∨ v.requests (coreOfTask y) ≤ s.requests (coreOfTask y)) : s.admitted t (.next v) = .next v := by
  rw [State.admitted]
  simp only [hy]
  refine if_neg fun hover => ?_
  simp only [Bool.and_eq_true, decide_eq_true_eq, maxRequests] at hover
  omega

/-- A turn after which no fault comes before its time stands (R197). -/
theorem State.faultsInOrder_next {s v : State} {t : Nat} {x : Task} {earlier : List Queued}
    (h : earlier = [] ∨ x.pendFault.isSome = true ∨ ∀ z : Task, v.task? t = some z → z.pendFault = none) :
    s.faultsInOrder t x earlier (.next v) = .next v := by
  refine if_neg fun hearly => ?_
  simp only [Bool.and_eq_true, Bool.not_eq_true', Option.any_eq_true_iff_get] at hearly
  obtain ⟨⟨hqueue, hfirst⟩, hsome, hfault⟩ := hearly
  rcases h with rfl | hx | hnone
  · cases hqueue
  · rw [Option.isNone_iff_eq_none.1 hfirst] at hx
    cases hx
  · rw [hnone _ (Option.some_get hsome).symm] at hfault
    cases hfault

/-- Those that wait in the queues count no instruction where none has completed, or none waits (R196). -/
theorem State.passed_next {s : State} {t : Nat} {y : Task} {v : Vec} (hy : s.task? t = some y)
    (h : (y.vec.pc = v.pc ∧ y.vec.loops = v.loops) ∨ y.vec.queued = []) : State.passed t v (.next s) = .next s := by
  rw [State.passed]
  simp only [hy]
  exact if_pos h

/-! ### The turn of a control stream -/

section
variable {s : State} {t : Nat} {x : Task} {i : Instr}

theorem controlStep_issue (hx : s.task? t = some x) (hruns : controlRuns s x = true) (hplace : x.placed = true ∨ x.ctl.act = true)
    (hb : s.boundary x = .issue) : controlStep s t = s.controlIssue t x := by
  have hback : (!x.placed && !x.ctl.act && x.pendFault.isNone) = false := by
    rcases hplace with h | h <;> simp [h]
  rw [controlStep, hx]
  simp only [hruns, hback, hb, Bool.not_true, Bool.false_eq_true, if_false]

theorem State.controlIssue_error {code : Nat} {v : Word} (hf : s.fetch x = .error (.flt code v)) :
    s.controlIssue t x = s.raise t x code v := by
  rw [State.controlIssue, hf]
  rfl

theorem State.controlIssue_flaw {code : Nat} {v : Word} (hf : s.fetch x = .ok i)
    (hflaw : x.controlFlaw i (awaited x) = .error (.flt code v)) : s.controlIssue t x = s.raise t x code v := by
  rw [State.controlIssue, hf]
  simp only [hflaw]
  rfl

theorem State.controlIssue_runs (hf : s.fetch x = .ok i) (hflaw : x.controlFlaw i (awaited x) = .ok ()) :
    s.controlIssue t x = State.followed t (s.using t (controlSections x i) (fun v => exec i { v.settleLink t x with cur := t })) := by
  rw [State.controlIssue, hf]
  simp only [hflaw]

end

/-! ### The turn of a vector stream -/

section
variable {s : State} {t : Nat} {x : Task} {i : Instr}

theorem State.vectorIssue_flaw {code : Nat} {v : Word} (h : x.vectorFlaw i = .error (.flt code v)) :
    s.vectorIssue t x i = s.deliverStream t x .vector (.error (.flt code v)) := by
  rw [State.vectorIssue, h]

/-- A tile form starts on its entries (R53). -/
theorem State.vectorIssue_starts (h : x.vectorFlaw i = .ok ()) (huses : vectorUses i ≠ []) (hopen : x.vec.opened = false) {v : State} {y : Task}
    (hv : s.touch t (vectorSections i) = some v) (hy : v.task? t = some y) :
    s.vectorIssue t x i = s.admitted t (s.claimed t (v.startTileForm t y (vectorUses i))) := by
  have hstart : (!(vectorUses i).isEmpty && !x.vec.opened) = true := by simp [huses, hopen]
  rw [State.vectorIssue, h]
  simp only [hstart, if_true]
  rw [State.using_some _ hv]
  simp only [hy]

section
variable (h : x.vectorFlaw i = .ok ()) (huses : vectorUses i = [] ∨ x.vec.opened = true)
include h huses

theorem State.vectorIssue_open : s.vectorIssue t x i = if x.endInOrder s.cycle (vectorUses i) then
    s.using t (vectorSections i) (fun v => exec i { v with cur := t }) else .next s := by
  have hstart : (!(vectorUses i).isEmpty && !x.vec.opened) = false := by rcases huses with h | h <;> simp [h]
  rw [State.vectorIssue, h]
  simp only [hstart, Bool.false_eq_true, if_false]

/-- One that names no entry, or has started on them, executes. -/
theorem State.vectorIssue_runs (hends : x.endInOrder s.cycle (vectorUses i) = true) {v : State} (hv : s.touch t (vectorSections i) = some v) :
    s.vectorIssue t x i = s.admitted t (s.claimed t (exec i { v with cur := t })) :=
  (State.vectorIssue_open h huses).trans ((if_pos hends).trans (State.using_some _ hv))

theorem State.vectorIssue_waits (hends : x.endInOrder s.cycle (vectorUses i) = false) : s.vectorIssue t x i = .next s :=
  (State.vectorIssue_open h huses).trans (if_neg (ne_true_of_eq_false hends))

end

section
variable (hx : s.task? t = some x) (hon : x.vec.on = true) (hruns : streamRuns x .vector = true)
include hx hon hruns

theorem vectorStep_error {code : Nat} (hf : s.fetchVector x = .error (.flt code 0)) :
    vectorStep s t = s.faultsInOrder t x x.vec.queued (s.deliverStream t x .vector (.error (.flt code 0))) := by
  rw [vectorStep, hx]
  simp only [hon, hruns, hf, Bool.and_true, Bool.not_true, Bool.false_eq_true, if_false]

theorem vectorStep_ok (hf : s.fetchVector x = .ok i) : vectorStep s t =
    if x.mayIssue i then State.passed t x.vec (s.faultsInOrder t x x.vec.queued (s.vectorIssue t x i)) else .next s := by
  rw [vectorStep, hx]
  simp only [hon, hruns, hf, Bool.and_true, Bool.not_true, Bool.false_eq_true, if_false]
  cases x.mayIssue i <;> rfl

/-- The sequencer decodes the word at its pc into a queue, unless it stays there (R196). -/
theorem decodeStep_ok {n : Nat} (hn : s.codeNat x.own x.vec.pc 8 = .ok n) (hi : decodeVector (BitVec.ofNat 64 n) = .ok i) :
    decodeStep s t = if staysAtPc i then .next s else .next (s.setTask t { x with vec := x.vec.enqueue (BitVec.ofNat 64 n) }) := by
  rw [decodeStep, hx]
  simp only [hon, hruns, hn, hi, Bool.and_true, Bool.not_true, Bool.false_eq_true, if_false]

theorem decodeStep_error {n : Nat} {e : DecodeError} (hn : s.codeNat x.own x.vec.pc 8 = .ok n)
    (he : decodeVector (BitVec.ofNat 64 n) = .error e) : decodeStep s t = .next s := by
  rw [decodeStep, hx]
  simp only [hon, hruns, hn, he, Bool.and_true, Bool.not_true, Bool.false_eq_true, if_false]

section
variable {k : Nat} {q : Queued} (hq : x.vec.queued[k]? = some q) (hi : decodeVector q.word = .ok i)
include hq hi

theorem queuedStep_waits (h : x.mayIssueAfter i (x.vec.queued.take k) q.behind = false) : queuedStep s t k = .next s := by
  rw [queuedStep, hx]
  simp only [hon, hruns, hq, hi, h, Bool.and_true, Bool.not_true, Bool.false_eq_true, if_false, Bool.not_false, if_true]

/-- A queued instruction that issues, and what the stream is after its turn. -/
theorem queuedStep_issues {w : State} (h : x.mayIssueAfter i (x.vec.queued.take k) q.behind = true)
    (hissue : (s.setTask t { x with vec := x.vec.issuing q }).vectorIssue t { x with vec := x.vec.issuing q } i = .next w)
    (hfault : x.vec.queued.take k = [] ∨ x.pendFault.isSome = true ∨ ∀ z : Task, w.task? t = some z → z.pendFault = none) :
    queuedStep s t k = .next (w.modTask t (fun z => { z with vec := z.vec.after k q x.vec })) := by
  rw [queuedStep, hx]
  simp only [hon, hruns, hq, hi, h, Bool.and_true, Bool.not_true, Bool.false_eq_true, if_false, hissue, State.faultsInOrder_next hfault]

end
end
end

/-! ### The turn of an engine -/

section
variable {s : State} {t : Nat} {x : Task} {e : Engine} {k : Nat} {q : QRec} {i : Instr}

theorem engineTurn_pass (hdone : mayComplete x e = false) (hact : activeRecord e (x.eng e).queue = some (k, q)) (hstart : q.started = true)
    (hi : decodeRecord q.w = .ok i) : engineTurn x e = .pass i := by
  rw [engineTurn, hdone, hact]
  simp only [hstart, hi, Bool.not_true, Bool.false_eq_true, if_false]

section
variable (hx : s.task? t = some x) (hruns : streamRuns x (streamOf e) = true) (hturn : engineTurn x e = .pass i)
  (hact : activeRecord e (x.eng e).queue = some (k, q))
include hx hruns hturn hact

/-- A pass starts on the entries that it names. -/
theorem engineStep_starts (hopen : q.opened = false) (huses : q.uses x ≠ []) {v : State} {y : Task} (hv : s.touch t (x.workOn e) = some v)
    (hy : v.task? t = some y) : engineStep s t e = s.admitted t (s.claimed t (v.startPass t y e)) := by
  have hclosed : x.passClosed e = true := by
    rw [Task.passClosed, hact]
    simp [hopen, huses]
  rw [engineStep, hx]
  simp only [hruns, hturn, hclosed, Bool.not_true, Bool.false_eq_true, if_false, if_true]
  rw [State.using_some _ hv]
  simp only [hy]

/-- One that names none, or has started on them, runs once it may end. -/
theorem engineStep_open (h : q.opened = true ∨ q.uses x = []) : engineStep s t e =
    if x.endInOrder s.cycle (q.uses x) then s.using t (x.workOn e) (fun v => exec i { v with cur := t }) else .next s := by
  have hclosed : x.passClosed e = false := by
    rw [Task.passClosed, hact]
    rcases h with h | h <;> simp [h]
  have hends : x.passMayEnd e s.cycle = x.endInOrder s.cycle (q.uses x) := by rw [Task.passMayEnd, hact]
  rw [engineStep, hx]
  simp only [hruns, hturn, hclosed, hends, Bool.not_true, Bool.false_eq_true, if_false]

omit hact in
/-- An engine whose record's sections cannot be read yet waits (R304). -/
theorem engineStep_untouched (h : s.touch t (x.workOn e) = none) : engineStep s t e = .next s := by
  rw [engineStep, hx]
  simp only [hruns, hturn, State.using_none _ h, ite_self, Bool.not_true, Bool.false_eq_true]

end
end

/-! ### Device steps -/

theorem act_event (s : State) (i : Instr) : act s (.event i) = if encode i = .event then exec i s else .next s := by
  rw [act, isEvent]
  cases encode i <;> simp

/-! ### The step -/

/-- Settles O54: the step takes the next pick off the agenda, and its turn is the one that the lemmas above give, clause by clause. -/
theorem stepRunsDecoded : Obligations.StepRunsDecoded := by
  intro s r t x u taken runs
  refine ⟨fun ha hx hcr hplace hb hal n hn => ?control, fun v y hy hfree hreq => ?followed,
    fun hx hlazy => State.touch_loaded hx hlazy, fun hd v => State.settleLink_outside hd, fun ha hx hon hsr => ?vector,
    fun ha hx hon hsr n hn => ?decode, fun k q i ha hx hon hsr hq hi => ?queued, fun e k q i ha hx hsr hdone hact hstart hi => ?engine,
    fun i ha => (step_of_agenda ha).trans (act_event u i), fun n ha => step_of_agenda ha, fun a e ha => step_of_agenda ha,
    fun die k e ha => step_of_agenda ha, step_of_agenda_nil⟩
  case control =>
    intro w
    have hstep : step s = u.controlIssue t x := (step_of_agenda ha).trans (controlStep_issue hx hcr hplace hb)
    have hrun (i : Instr) (hf : u.fetch x = .ok i) : runs i := by
      refine ⟨fun hflaw => ⟨fun v hv => ?_, fun hv => ?_⟩, fun code v hflaw => hstep.trans (State.controlIssue_flaw hf hflaw)⟩
      · rw [hstep, State.controlIssue_runs hf hflaw, State.using_some _ hv]
      · rw [hstep, State.controlIssue_runs hf hflaw, State.using_none _ hv]
    refine ⟨fun i hnarrow hi => hrun i ?_, fun e hnarrow he => ?_, fun m hwide hm => ⟨fun i hi => hrun i ?_, fun e he => ?_⟩⟩
    · exact (State.fetch_narrow hal hn hnarrow).trans (controlInstr_ok hi)
    · exact hstep.trans (State.controlIssue_error ((State.fetch_narrow hal hn hnarrow).trans (controlInstr_error he)))
    · exact (State.fetch_wide hal hn hwide hm).trans (controlInstr_ok hi)
    · have hillegal := (State.fetch_wide hal hn hwide hm).trans (controlInstr_error he)
      rw [if_pos (Nat.le_trans (Nat.le_of_eq (privilegeOf_wide hwide)) (Nat.zero_le _))] at hillegal
      exact hstep.trans (State.controlIssue_error hillegal)
  case followed =>
    have htaken : taken (.next v) = .next v :=
      (congrArg (u.admitted t) (State.claimed_free hy hfree)).trans (State.admitted_within hy hreq)
    exact ⟨htaken, congrArg (State.followed t) htaken⟩
  case vector =>
    replace hx : u.task? t = some x := hx
    intro turn n hn
    have hself : turn (.next u) = .next u := by
      have hfault : u.faultsInOrder t x x.vec.queued (.next u) = .next u := State.faultsInOrder_next (.inr ?_)
      · exact (congrArg _ hfault).trans (State.passed_next hx (.inl ⟨rfl, rfl⟩))
      · cases hp : x.pendFault with
        | some f => exact .inl rfl
        | none => exact .inr fun z hz => by rwa [← Option.some.inj (hx.symm.trans hz)]
    refine ⟨fun i hi => ?word, fun e he => ?illegal, fun v y hy hxq hyq => ?quiet⟩
    case word =>
      have hstep : step s = if x.mayIssue i then turn (u.vectorIssue t x i) else .next u :=
        (step_of_agenda ha).trans (vectorStep_ok hx hon hsr (State.fetchVector_ok hn hi))
      refine ⟨fun hmay => hstep.trans (if_neg (ne_true_of_eq_false hmay)), fun hmay => ?_⟩
      rw [if_pos hmay] at hstep
      refine ⟨fun code v hflaw => ?_, fun hflaw v hv => ⟨fun y huses hopen hy => ?_, fun huses hends => ?_⟩, fun huses hflaw hends => ?_⟩
      · rw [hstep, State.vectorIssue_flaw hflaw]
      · rw [hstep, State.vectorIssue_starts hflaw huses hopen hv hy]
      · rw [hstep, State.vectorIssue_runs hflaw huses hends hv]
      · rw [hstep, State.vectorIssue_waits hflaw huses hends, hself]
    case illegal =>
      exact (step_of_agenda ha).trans (vectorStep_error hx hon hsr (State.fetchVector_error hn he))
    case quiet =>
      exact (congrArg _ (State.faultsInOrder_next (.inl hxq))).trans (State.passed_next hy (.inr hyq))
  case decode =>
    replace hx : u.task? t = some x := hx
    intro w
    refine ⟨fun i hi => ?_, fun e he => (step_of_agenda ha).trans (decodeStep_error hx hon hsr hn he)⟩
    have hstep := (step_of_agenda ha).trans (decodeStep_ok hx hon hsr hn hi)
    exact ⟨fun hstays => hstep.trans (if_pos hstays), fun hstays => hstep.trans (if_neg (ne_true_of_eq_false hstays))⟩
  case queued =>
    replace hx : u.task? t = some x := hx
    intro y v
    refine ⟨fun hmay => (step_of_agenda ha).trans (queuedStep_waits hx hon hsr hq hi hmay), fun hmay hflaw huses hends p w hp hw hfault => ?_⟩
    have hissue : v.vectorIssue t y i = .next w := (State.vectorIssue_runs (s := v) hflaw huses hends hp).trans hw
    refine (step_of_agenda ha).trans (queuedStep_issues hx hon hsr hq hi hmay hissue ?_)
    exact hfault.imp_left fun hk => by rw [hk, List.take_zero]
  case engine =>
    replace hx : u.task? t = some x := hx
    have hturn := engineTurn_pass hdone hact hstart hi
    have hstep : step s = engineStep u t e := step_of_agenda ha
    refine ⟨fun v hv => ⟨fun y hopen huses hy => ?_, fun hopen hends => ?_⟩, fun hopen hends => ?_, fun hv => ?_⟩
    · exact hstep.trans (engineStep_starts hx hsr hturn hact hopen huses hv hy)
    · exact hstep.trans ((engineStep_open hx hsr hturn hact hopen).trans ((if_pos hends).trans (State.using_some _ hv)))
    · exact hstep.trans ((engineStep_open hx hsr hturn hact hopen).trans (if_neg (ne_true_of_eq_false hends)))
    · exact hstep.trans (engineStep_untouched hx hsr hturn hv)

end Sys2Proof.Machine
end

section
/-! PROOF. Hint words (09 R165), and what the words of formats C-R, C-I and C-W give at a privilege level (08 R128 to R132, R142). -/

namespace Sys2Proof.Machine
open Sys2Proof

/-! ### The instruction of a word -/

section
variable {pl : Nat} {w ext : BitVec 32} {i : Instr}

theorem decodeControl_ok (hp : parseControl w ext = .ok i) (hwf : i.wellFormed = true) : decodeControl w ext = .ok i := by
  rw [decodeControl, hp, checkFields_ok hwf]

theorem controlInstr_of_parse (hp : parseControl w ext = .ok i) (hwf : i.wellFormed = true) : controlInstr pl w ext = .ok i :=
  controlInstr_ok (decodeControl_ok hp hwf)

/-- A word outside the privileged majors that its parser refuses is FLT_ILLEGAL. -/
theorem controlInstr_illegal {e : DecodeError} (hp : parseControl w ext = .error e) (hpriv : privilegeOf w = 0) :
    controlInstr pl w ext = .error (.flt Flt.illegal 0) := by
  have hd : decodeControl w ext = .error e := by rw [decodeControl, hp]; rfl
  rw [controlInstr_error hd, hpriv, if_pos (Nat.zero_le pl)]

/-- A form with fields that must be zero: its instruction, or FLT_ILLEGAL. -/
theorem controlInstr_unusedZero {ok : Bool} (hp : parseControl w ext = unusedZero ok i) (hpriv : privilegeOf w = 0) (hwf : i.wellFormed = true) :
    controlInstr pl w ext = if ok = true then .ok i else .error (.flt Flt.illegal 0) := by
  cases ok with
  | true => exact controlInstr_of_parse hp hwf
  | false => exact controlInstr_illegal hp hpriv

end

/-! ### Hints (R165) -/

/-- Settles O50: the major alone selects the hint, which decodes for every other bit. -/
theorem hints : Obligations.Hints := by
  unfold Obligations.Hints
  have hhint (maj : BitVec 6) (n : BitVec 26) (ext : BitVec 32) (hmaj : maj = 0x3C) : decodeControl (wordH maj n) ext = .ok (.hint n) := by
    subst hmaj
    refine decodeControl_ok ?_ rfl
    unfold parseControl
    rw [(wordH_fields 0x3C n).1, (wordH_fields 0x3C n).2]
    rfl
  refine ⟨fun w ext (hw : majorOf w = 0x3C) => ⟨?_, bits w 0 26, ?_⟩, fun ext => hhint 0x3C 0 ext rfl, fun n s x => ⟨rfl, fun hx => ?_⟩⟩
  · rw [isWide, hw]
    rfl
  · rw [← hhint (majorOf w) (bits w 0 26) ext hw, wordH_of_fields]
  · exact State.issueTask_ok hx (plainForm_checks x) rfl

end Sys2Proof.Machine
end

section
/-! SUPPORT. The integer results of the control forms in plain arithmetic (09 R148 to R152): each operation of the model as a number that the
rule names. -/

namespace Sys2Proof.Machine
open Sys2Proof

/-! ### Sums, comparisons and selections (R148) -/

theorem add_eq_ofNat (p q : Word) : p + q = BitVec.ofNat 64 (p.toNat + q.toNat) := by
  rw [BitVec.ofNat_add, BitVec.ofNat_toNat, BitVec.ofNat_toNat, BitVec.setWidth_eq, BitVec.setWidth_eq]
theorem add_eq_ofInt (p q : Word) : p + q = BitVec.ofInt 64 (p.toInt + q.toInt) := by
  rw [BitVec.ofInt_add, BitVec.ofInt_toInt, BitVec.ofInt_toInt]
theorem sub_eq_ofInt (p q : Word) : p - q = BitVec.ofInt 64 (p.toInt - q.toInt) := by
  refine BitVec.eq_of_toInt_eq ?_
  rw [BitVec.toInt_sub, BitVec.toInt_ofInt]

theorem boolWord_condLt (p q : Word) : boolWord (condLt p q) = bit (p.toInt < q.toInt) := by simp [boolWord, condLt, bit, BitVec.slt]
theorem boolWord_condLtu (p q : Word) : boolWord (condLtu p q) = bit (p.toNat < q.toNat) := by simp [boolWord, condLtu, bit, BitVec.ult]

theorem ite_lt_eq_ite_le {α : Type} (m n : Int) (a b : α) : (if n < m then b else a) = if m ≤ n then a else b := by
  simp only [← Int.not_le, ite_not]

theorem minSigned_eq (p q : Word) : minSigned p q = if p.toInt ≤ q.toInt then p else q := by
  simpa [minSigned, BitVec.slt] using ite_lt_eq_ite_le p.toInt q.toInt p q
theorem minUnsigned_eq (p q : Word) : minUnsigned p q = if p.toNat ≤ q.toNat then p else q := by
  simpa [minUnsigned, BitVec.ult] using ite_lt_eq_ite_le p.toNat q.toNat p q
/-- Where two words are equal as numbers, either is their maximum. -/
theorem maxSigned_eq (p q : Word) : maxSigned p q = if p.toInt ≤ q.toInt then q else p := by
  rcases Int.lt_trichotomy p.toInt q.toInt with h | h | h
  · simp [maxSigned, BitVec.slt, h, Int.le_of_lt h]
  · simp [maxSigned, BitVec.toInt_inj.1 h]
  · simp [maxSigned, BitVec.slt, Int.not_le.2 h, Int.not_lt.2 (Int.le_of_lt h)]
theorem maxUnsigned_eq (p q : Word) : maxUnsigned p q = if p.toNat ≤ q.toNat then q else p := by
  rcases Nat.lt_trichotomy p.toNat q.toNat with h | h | h
  · simp [maxUnsigned, BitVec.ult, h, Nat.le_of_lt h]
  · simp [maxUnsigned, BitVec.toNat_inj.1 h]
  · simp [maxUnsigned, BitVec.ult, Nat.not_le.2 h, Nat.not_lt.2 (Nat.le_of_lt h)]

/-! ### Leading zeros (R148) -/

theorem leadingZeros_eq_findIdx (p : Word) : leadingZeros p = (List.range 64).findIdx (fun i => p.getLsbD (63 - i)) := by
  simp only [leadingZeros, List.takeWhile_eq_take_findIdx_not, Bool.not_not, List.length_take]
  exact Nat.min_eq_left List.findIdx_le_length

theorem leadingZeros_eq (p : Word) : leadingZeros p = if p = 0 then 64 else 63 - Nat.log2 p.toNat := by
  rw [leadingZeros_eq_findIdx]
  split
  · next h => rw [h, List.findIdx_eq_length_of_false (by simp), List.length_range]
  · next h =>
    have hn : p.toNat ≠ 0 := fun hz => h (BitVec.eq_of_toNat_eq hz)
    have hlog : Nat.log2 p.toNat < 64 := (Nat.log2_lt hn).2 p.isLt
    rw [List.findIdx_eq (by rw [List.length_range]; omega)]
    refine ⟨?_, fun j hj => ?_⟩
    · rw [List.getElem_range, Nat.sub_sub_self (by omega), BitVec.getLsbD, Nat.testBit_log2 hn]
    · rw [List.getElem_range, BitVec.getLsbD]
      exact Nat.testBit_lt_two_pow ((Nat.log2_lt hn).1 (by omega))

/-! ### Products and quotients (R149) -/

/-- The overflow of -2^63 / -1 wraps to -2^63, as the exact quotient does. -/
theorem quotSigned_eq (p q : Word) : quotSigned p q = if q = 0 then BitVec.allOnes 64 else BitVec.ofInt 64 (p.toInt.tdiv q.toInt) := by
  rw [quotSigned]
  split
  · rfl
  · split
    · next h =>
      rw [h.1, h.2]
      decide
    · rfl
theorem remSigned_eq (p q : Word) :
    remSigned p q = if q = 0 then p else BitVec.ofInt 64 (p.toInt - p.toInt.tdiv q.toInt * q.toInt) := by
  rw [remSigned]
  split
  · rfl
  · split
    · next h =>
      rw [h.1, h.2]
      decide
    · rfl

theorem highHalf_toNat (p q : Word) : highHalf p.toNat q.toNat = BitVec.ofNat 64 (p.toNat * q.toNat / 2 ^ 64) := by
  have h : ((p.toNat : Int) * (q.toNat : Int) / 2 ^ 64) = ((p.toNat * q.toNat / 2 ^ 64 : Nat) : Int) := by norm_cast
  rw [highHalf, h, BitVec.ofInt_natCast]

/-! ### Immediates (R150 to R152) -/

theorem sext64_eq_ofInt {w : Nat} (imm : BitVec w) : sext64 imm = BitVec.ofInt 64 imm.toInt := rfl
theorem toInt_sext64 {w : Nat} (hw : w ≤ 64) (imm : BitVec w) : (sext64 imm).toInt = imm.toInt := BitVec.toInt_signExtend_of_le hw

theorem zext64_eq_ofNat {w : Nat} (x : BitVec w) : zext64 x = BitVec.ofNat 64 x.toNat := (BitVec.ofNat_toNat ..).symm

theorem append_low_half (ext : BitVec 32) (p : Word) : (ext ++ p.setWidth 32 : BitVec 64) = BitVec.ofNat 64 (ext.toNat * 2 ^ 32 + p.toNat % 2 ^ 32) := by
  refine BitVec.eq_of_toNat_eq ?_
  rw [BitVec.toNat_append, BitVec.toNat_setWidth, BitVec.toNat_ofNat, ← Nat.shiftLeft_add_eq_or_of_lt (Nat.mod_lt _ (by decide)), Nat.shiftLeft_eq]
  omega

end Sys2Proof.Machine
end

section
/-! PROOF. The integer forms of the control stream (09 R148 to R152): their words, the values they complete with, and what they leave
unchanged. -/

namespace Sys2Proof.Machine
open Sys2Proof

theorem Task.src_ready {x : Task} {r : SReg} (h : Ready x r) : x.src r = .ok (x.ctl.rd r) := Task.src_ok h.1 h.2

/-! ### The shapes of the integer forms -/

section
variable {s : State} {x : Task} {d a b : SReg} {i : Instr} {v : Word}

/-- A form that writes s[D] with a value that it computes completes with that value. -/
theorem exec_completes_of_scalar {len : Nat} {val : Task → Res Word} (hx : Acts s x) (hd : Free x d)
    (hi : exec i s = s.issueScalar plainForm len d val) (hv : val x = .ok v) : exec i s = s.completes (x.wr d v) len :=
  hi.trans (State.issueScalar_ok hx (plainForm_checks x) hd hv)

/-- A form over two registers that awaits neither operand completes with its result. -/
theorem exec_completes_of_alu2 {f : Word → Word → Word} (hx : Acts s x) (ha : Ready x a) (hb : Ready x b) (hd : Free x d)
    (hi : exec i s = s.alu2 d a b f) (hv : f (x.ctl.rd a) (x.ctl.rd b) = v) : exec i s = s.completes (x.wr d v) 4 :=
  hv ▸ hi.trans (State.alu2_ok hx (Task.src_ready ha) (Task.src_ready hb) hd)

/-- The same for a form over one register. -/
theorem exec_completes_of_alu1 {len : Nat} {f : Word → Word} (hx : Acts s x) (ha : Ready x a) (hd : Free x d)
    (hi : exec i s = s.alu1 len d a f) (hv : f (x.ctl.rd a) = v) : exec i s = s.completes (x.wr d v) len :=
  hv ▸ hi.trans (State.alu1_ok hx (Task.src_ready ha) hd)

end

/-! ### Words of format C-R -/

theorem selectForm_of_length_le {α : Type} {l : List α} {n : Nat} (h : l.length ≤ n) : selectForm l n = .error .unassignedSelector := by
  rw [selectForm, List.getElem?_eq_none h]

section
variable {pl : Nat} {d a b : SReg} {fn : BitVec 8} {ext : BitVec 32} {i : Instr}

/-- A word of major 0x01. -/
theorem controlInstr_alu (hp : parseAlu d a b fn = .ok i) (hwf : i.wellFormed = true) : controlInstr pl (wordR 0x01 d a b fn) ext = .ok i :=
  controlInstr_of_parse (((parseControl_wordR d a b fn ext).1).trans hp) hwf
theorem controlInstr_alu_illegal {e : DecodeError} (hp : parseAlu d a b fn = .error e) :
    controlInstr pl (wordR 0x01 d a b fn) ext = .error (.flt Flt.illegal 0) :=
  controlInstr_illegal (((parseControl_wordR d a b fn ext).1).trans hp) (privilegeOf_of_major (wordR_maj ..) (by decide))

theorem parseAlu_unassigned (h : 0x12 ≤ fn.toNat) : parseAlu d a b fn = .error .unassignedSelector := by
  rw [parseAlu, if_neg (by omega), if_neg (by omega), selectForm_of_length_le (l := aluForms) (Nat.le_trans (by decide) h)]
  rfl

theorem parseAlu_oneOperand (hb : b ≠ 0) (h : fn = 0x10 ∨ fn = 0x11) : parseAlu d a b fn = .error .unusedField := by
  have hz : (b == 0) = false := beq_eq_false_iff_ne.2 hb
  rcases h with rfl | rfl
  all_goals
    rw [parseAlu, hz]
    rfl

/-- A word of major 0x02. -/
theorem controlInstr_mul {f : Form3} (hf : selectForm mulForms fn.toNat = .ok f) (hwf : (f d a b).wellFormed = true) :
    controlInstr pl (wordR 0x02 d a b fn) ext = .ok (f d a b) := by
  obtain ⟨-, hparse, -⟩ := parseControl_wordR d a b fn ext
  exact controlInstr_of_parse (hparse.trans (by rw [hf]; rfl)) hwf
theorem controlInstr_mul_illegal (h : 8 ≤ fn.toNat) : controlInstr pl (wordR 0x02 d a b fn) ext = .error (.flt Flt.illegal 0) := by
  obtain ⟨-, hparse, -⟩ := parseControl_wordR d a b fn ext
  refine controlInstr_illegal (e := .unassignedSelector) (hparse.trans ?_) (privilegeOf_of_major (wordR_maj ..) (by decide))
  rw [selectForm_of_length_le (l := mulForms) h]
  rfl

end

/-- Settles O1: each form is the model's operation on the two operands, which is the rule's result in plain arithmetic. -/
theorem integerAlu : Obligations.IntegerAlu := by
  unfold Obligations.IntegerAlu
  intro s x d a b hx ha hd p q n gives
  refine ⟨fun hb => ?results, ?_, ?_, fun ext => ?words⟩
  case results =>
    have two {i : Instr} {f : Word → Word → Word} {v : Word} (hi : exec i s = s.alu2 d a b f) (hv : f p q = v) : gives i v :=
      exec_completes_of_alu2 hx ha hb hd hi hv
    exact ⟨two rfl (add_eq_ofNat p q), two rfl (sub_eq_ofInt p q), two rfl rfl, two rfl rfl, two rfl rfl, two rfl rfl,
      two rfl (shiftLeft_eq_ofNat p n), two rfl (ushiftRight_eq_ofNat p n), two rfl (sshiftRight_eq_ofInt p n),
      two rfl (BitVec.rotateLeft_eq_rotateLeftAux_of_lt (Nat.mod_lt _ (by decide))), two rfl (boolWord_condLt p q),
      two rfl (boolWord_condLtu p q), two rfl (minSigned_eq p q), two rfl (maxSigned_eq p q), two rfl (minUnsigned_eq p q),
      two rfl (maxUnsigned_eq p q)⟩
  · exact exec_completes_of_alu1 hx ha hd rfl (congrArg word (leadingZeros_eq p))
  · exact exec_completes_of_alu1 hx ha hd rfl rfl
  case words =>
    intro coded
    have form {b : SReg} {fn : BitVec 8} {i : Instr} (hp : parseAlu d a b fn = .ok i) (hwf : i.wellFormed = true) : coded b fn = .ok i :=
      controlInstr_alu hp hwf
    exact ⟨form rfl rfl, form rfl rfl, form rfl rfl, form rfl rfl, form rfl rfl, form rfl rfl, form rfl rfl, form rfl rfl, form rfl rfl,
      form rfl rfl, form rfl rfl, form rfl rfl, form rfl rfl, form rfl rfl, form rfl rfl, form rfl rfl, form rfl rfl, form rfl rfl,
      fun hb => ⟨controlInstr_alu_illegal (parseAlu_oneOperand hb (.inl rfl)), controlInstr_alu_illegal (parseAlu_oneOperand hb (.inr rfl))⟩,
      fun fn hfn => controlInstr_alu_illegal (parseAlu_unassigned hfn)⟩

/-- Settles O2: the same, and the one overflow of a quotient wraps as its exact value does. -/
theorem multiplyDivide : Obligations.MultiplyDivide := by
  unfold Obligations.MultiplyDivide
  intro s x d a b hx ha hb hd p q gives
  have two {i : Instr} {f : Word → Word → Word} {v : Word} (hi : exec i s = s.alu2 d a b f) (hv : f p q = v) : gives i v :=
    exec_completes_of_alu2 hx ha hb hd hi hv
  refine ⟨two rfl (mul_eq_ofNat p q), two rfl rfl, two rfl (highHalf_toNat p q), two rfl rfl, two rfl (quotSigned_eq p q), two rfl rfl,
    two rfl (remSigned_eq p q), two rfl rfl, fun ext => ?_⟩
  intro coded
  have form {fn : BitVec 8} {f : Form3} (hf : selectForm mulForms fn.toNat = .ok f) (hwf : (f d a b).wellFormed = true) :
      coded fn = .ok (f d a b) := controlInstr_mul hf hwf
  exact ⟨form rfl rfl, form rfl rfl, form rfl rfl, form rfl rfl, form rfl rfl, form rfl rfl, form rfl rfl, form rfl rfl,
    fun fn hfn => controlInstr_mul_illegal hfn⟩

/-! ### Words of formats C-I and C-W -/

/-- Only the wide major reads the word after it (R128). -/
theorem parseControl_narrow {w : BitVec 32} (h : isWide w = false) (ext : BitVec 32) : parseControl w ext = parseControl w 0 := by
  have hmaj : (majorOf w).toNat ≠ 0x3E := fun hm => by
    rw [isWide, eq_ofNat_of_toNat hm] at h
    cases h
  unfold parseControl
  split
  case h_43 hm => exact absurd hm hmaj
  all_goals rfl

section
variable {pl : Nat} {d a : SReg} {ext : BitVec 32} {i : Instr}

/-- A word of a narrow major of format C-I. -/
theorem controlInstr_imm {maj : BitVec 6} {imm : BitVec 14} (hp : parseControl (wordI maj d a imm) 0 = .ok i) (hwf : i.wellFormed = true)
    (hmaj : maj ≠ 0x3E) : controlInstr pl (wordI maj d a imm) ext = .ok i := by
  have hnarrow : isWide (wordI maj d a imm) = false := by rw [isWide, wordI_maj, beq_eq_false_iff_ne]; exact hmaj
  exact controlInstr_of_parse ((parseControl_narrow hnarrow ext).trans hp) hwf

/-- A word of major 0x09: the bits between the form and the amount are zero (R151). -/
theorem controlInstr_shift {k : BitVec 2} {z n : BitVec 6} {f : Form3} (hf : selectForm shiftForms k.toNat = .ok f)
    (hwf : (f d a n).wellFormed = true) :
    controlInstr pl (wordI 0x09 d a (k ++ z ++ n)) ext = if z = 0 then .ok (f d a n) else .error (.flt Flt.illegal 0) := by
  have hp : parseControl (wordI 0x09 d a (k ++ z ++ n)) ext = unusedZero (z == 0) (f d a n) := by simp [parseControl, hf]
  simpa only [beq_iff_eq] using controlInstr_unusedZero hp (privilegeOf_wordI (maj := 0x09) d a _ (by decide)) hwf

/-- A word of major 0x3E whose form has fields that must be zero (R152). -/
theorem controlInstr_wide {wop : BitVec 6} {f8 : BitVec 8} {ok : Bool} {p : Prop} [Decidable p]
    (hp : parseWide wop d a f8 ext = unusedZero ok i) (hwf : i.wellFormed = true) (hok : ok = true ↔ p) :
    controlInstr pl (wordR 0x3E wop d a f8) ext = if p then .ok i else .error (.flt Flt.illegal 0) := by
  have hparse : parseControl (wordR 0x3E wop d a f8) ext = unusedZero ok i := by rw [← hp]; simp only [parseControl_wordR]
  simpa only [hok] using controlInstr_unusedZero hparse (privilegeOf_of_major (wordR_maj ..) (by decide)) hwf

end

/-- Settles O3: the immediate is sign-extended and then as an operand of the register form; lih reads the low half of s[A] whatever s[D] is. -/
theorem immediates : Obligations.Immediates := by
  unfold Obligations.Immediates
  intro s x d a imm n ext hx hd p gives
  refine ⟨fun ha => ?results, ?_, ?_, ?narrow, fun f8 => ?wide⟩
  case results =>
    have one {i : Instr} {len : Nat} {f : Word → Word} {v : Word} (hi : exec i s = s.alu1 len d a f) (hv : f p = v) : gives i v len :=
      exec_completes_of_alu1 hx ha hd hi hv
    have himm : (sext64 imm).toInt = imm.toInt := toInt_sext64 (by decide) imm
    exact ⟨one rfl (himm ▸ add_eq_ofInt p (sext64 imm)), one rfl rfl, one rfl rfl, one rfl rfl, one rfl (himm ▸ boolWord_condLt p (sext64 imm)),
      one rfl (boolWord_condLtu p (sext64 imm)), one rfl (shiftLeft_eq_ofNat p n.toNat), one rfl (ushiftRight_eq_ofNat p n.toNat),
      one rfl (sshiftRight_eq_ofInt p n.toNat), one rfl (BitVec.rotateLeft_eq_rotateLeftAux_of_lt n.isLt), one rfl (append_low_half ext p)⟩
  · exact exec_completes_of_scalar hx hd rfl rfl
  · exact exec_completes_of_scalar hx hd rfl (congrArg Except.ok (zext64_eq_ofNat ext))
  case narrow =>
    intro coded
    have form {maj : BitVec 6} {i : Instr} (hp : parseControl (wordI maj d a imm) 0 = .ok i) (hwf : i.wellFormed = true) (hmaj : maj ≠ 0x3E) :
        coded maj imm = .ok i := controlInstr_imm hp hwf hmaj
    obtain ⟨haddi, handi, hori, hxori, hslti, hsltiu, -⟩ := parseControl_imm d a imm
    exact ⟨form haddi rfl (by decide), form handi rfl (by decide), form hori rfl (by decide), form hxori rfl (by decide),
      form hslti rfl (by decide), form hsltiu rfl (by decide),
      fun z => ⟨controlInstr_shift rfl rfl, controlInstr_shift rfl rfl, controlInstr_shift rfl rfl, controlInstr_shift rfl rfl⟩⟩
  case wide =>
    intro coded
    exact ⟨controlInstr_wide rfl rfl (by simp), controlInstr_wide rfl rfl (by simp), controlInstr_wide rfl rfl (by simp)⟩

end Sys2Proof.Machine
end

section
/-! PROOF. How an instruction completes (08 R133; 09 R155, R156): the back-edge by the entry that stands first, the register that it writes, and
what completion leaves of the task; and with that, what the forms that write one scalar register leave unchanged. -/

namespace Sys2Proof.Machine
open Sys2Proof

/-! ### The back-edge (R155) -/

section
variable {next pc : Nat} {e : LoopEntry} {r l : List LoopEntry}

theorem backEdge_outside (h : ∀ f ∈ e :: r, f.stop ≠ pc) : backEdge next pc (e :: r) = (next, keepLoops next (e :: r), none) := by
  have hany : r.any (fun f => f.stop == pc) = false := List.any_eq_false.2 fun f hf => by simpa using h f (List.mem_cons_of_mem e hf)
  rw [backEdge, if_pos (h e List.mem_cons_self), hany]
  rfl

theorem backEdge_enclosing (he : e.stop ≠ pc) (h : ∃ f ∈ r, f.stop = pc) : backEdge next pc (e :: r) = backEdge next pc r := by
  rw [backEdge, if_pos he, if_pos (by simpa using h)]

theorem backEdge_again (he : e.stop = pc) (hleft : 0 < e.left) : backEdge next pc (e :: r) =
    (e.start, { e with left := e.left - 1, index := e.index + 1 } :: r, some (e.reg, word (e.index + 1))) := by
  rw [backEdge, if_neg (fun hne => hne he), if_pos hleft]

theorem backEdge_last (he : e.stop = pc) (hleft : e.left = 0) : backEdge next pc (e :: r) = backEdge next pc r := by
  rw [backEdge, if_neg (fun hne => hne he), hleft, if_neg (Nat.lt_irrefl 0)]

/-- The register that a back-edge writes is the index register of one of the loops. -/
theorem backEdge_index_mem : ∀ {l : List LoopEntry} {w : SReg × Word}, (backEdge next pc l).2.2 = some w → ∃ e ∈ l, e.reg = w.1
  | [], _, h => by cases h
  | e :: r, w, h => by
    have htail (h : (backEdge next pc r).2.2 = some w) : ∃ f ∈ e :: r, f.reg = w.1 :=
      (backEdge_index_mem h).imp fun f hf => ⟨List.mem_cons_of_mem e hf.1, hf.2⟩
    rw [backEdge] at h
    split at h
    · split at h
      · exact htail h
      · cases h
    · split at h
      · exact ⟨e, List.mem_cons_self, congrArg Prod.fst (Option.some.inj h)⟩
      · exact htail h

end

/-! ### Completion (R133, R155, R156) -/

section
variable {c : Ctl}

theorem Ctl.retire_slot {w : Delay} (h : c.delay = some w) (n : Nat) :
    c.retire n = { c with pc := w.target, delay := none, loops := keepLoops w.target c.loops } := by rw [Ctl.retire, h]

/-- The context after a back-edge: s0, which keeps its value, stands for no index register. -/
def Ctl.along (c : Ctl) (b : Nat × List LoopEntry × Option (SReg × Word)) : Ctl :=
  { c with pc := b.1, loops := b.2.1 }.wr (b.2.2.getD (0, 0)).1 (b.2.2.getD (0, 0)).2

/-- Outside a delay slot completion follows the back-edge of its loop stack. -/
theorem Ctl.retire_sequential (h : c.delay = none) (n : Nat) : c.retire n = c.along (backEdge (c.pc + n) c.pc c.loops) := by
  rw [Ctl.retire, h, Ctl.along]
  dsimp only
  split
  · next hw => rw [hw, ← h]; rfl
  · next hw => rw [hw, ← h]; rfl

theorem Ctl.indexWritten_sequential (h : c.delay = none) (n : Nat) :
    c.indexWritten n = ((backEdge (c.pc + n) c.pc c.loops).2.2.getD (0, 0)).1 := by
  rw [Ctl.indexWritten, h]
  dsimp only
  split
  · next hw => rw [hw]; rfl
  · next hw => rw [hw]; rfl

/-- Where two loop stacks have the same back-edge, completion is the same. -/
theorem Ctl.retire_of_backEdge_eq (h : c.delay = none) (n : Nat) {l : List LoopEntry}
    (hl : backEdge (c.pc + n) c.pc c.loops = backEdge (c.pc + n) c.pc l) : c.retire n = { c with loops := l }.retire n := by
  rw [Ctl.retire_sequential h, hl, Ctl.retire_sequential (c := { c with loops := l }) h]
  rfl

/-- Completion moves the pc, clears the pending target and changes the loop stack; it writes at most one scalar register. -/
theorem Ctl.retire_eq_wr (c : Ctl) (n : Nat) :
    ∃ (pc : Nat) (loops : List LoopEntry) (v : Word), c.retire n = { c with pc := pc, delay := none, loops := loops }.wr (c.indexWritten n) v := by
  cases hd : c.delay with
  | some w =>
    rw [Ctl.retire_slot hd, Ctl.indexWritten, hd]
    exact ⟨_, _, 0, rfl⟩
  | none =>
    rw [Ctl.retire_sequential hd, Ctl.indexWritten_sequential hd, Ctl.along, ← hd]
    exact ⟨_, _, _, rfl⟩

theorem Ctl.indexWritten_mem (c : Ctl) (n : Nat) : c.indexWritten n = 0 ∨ ∃ e ∈ c.loops, e.reg = c.indexWritten n := by
  cases hd : c.delay with
  | some w => exact .inl (by rw [Ctl.indexWritten, hd])
  | none =>
    rw [Ctl.indexWritten_sequential hd]
    cases hw : (backEdge (c.pc + n) c.pc c.loops).2.2 with
    | none => exact .inl rfl
    | some w => exact .inr (backEdge_index_mem hw)

end

/-! ### Registers across completion -/

theorem Ctl.wr_eq (c : Ctl) (r : SReg) (v : Word) : c.wr r v = { c with s := (c.wr r v).s, bad := (c.wr r v).bad, own := (c.wr r v).own } := by
  unfold Ctl.wr
  split
  · rfl
  · rfl

theorem Ctl.mem_bad_wr_other {c : Ctl} {r : SReg} {v : Word} {q : SReg} (h : q ≠ r) : q.toNat ∈ (c.wr r v).bad ↔ q.toNat ∈ c.bad := by
  have hn : q.toNat ≠ r.toNat := fun e => h (BitVec.eq_of_toNat_eq e)
  unfold Ctl.wr
  split
  · rfl
  · simp [hn]

/-- The two contexts differ in registers and in the place of the control stream only. -/
def Ctl.SameOutside (c e : Ctl) : Prop :=
  e = { c with s := e.s, bad := e.bad, own := e.own, pc := e.pc, delay := e.delay, loops := e.loops }

theorem Ctl.sameOutside_trans {c e f : Ctl} (hce : c.SameOutside e) (hef : e.SameOutside f) : c.SameOutside f := by
  rw [Ctl.SameOutside] at hce hef ⊢
  rw [hce] at hef
  exact hef

theorem Ctl.sameOutside_wr (c : Ctl) (r : SReg) (v : Word) : c.SameOutside (c.wr r v) := by
  rw [Ctl.SameOutside, Ctl.wr_pc, Ctl.wr_delay, Ctl.wr_loops]
  exact c.wr_eq r v

theorem Ctl.sameOutside_retire (c : Ctl) (n : Nat) : c.SameOutside (c.retire n) := by
  obtain ⟨pc, loops, v, hc⟩ := c.retire_eq_wr n
  rw [hc]
  exact Ctl.sameOutside_trans (e := { c with pc := pc, delay := none, loops := loops }) rfl (Ctl.sameOutside_wr ..)

/-- Completion leaves every register but the index registers of the loops. -/
theorem Ctl.retire_frame (c : Ctl) (n : Nat) {r : SReg} (hr : ∀ e ∈ c.loops, e.reg ≠ r) :
    (c.retire n).rd r = c.rd r ∧ (r.toNat ∈ (c.retire n).bad ↔ r.toNat ∈ c.bad) := by
  obtain ⟨pc, loops, v, hc⟩ := c.retire_eq_wr n
  by_cases hi : r = c.indexWritten n
  · rcases c.indexWritten_mem n with h0 | ⟨e, he, hreg⟩
    · rw [hc, h0]
      exact ⟨rfl, Iff.rfl⟩
    · exact absurd (hreg.trans hi.symm) (hr e he)
  · rw [hc]
    exact ⟨Ctl.rd_wr_other _ _ _ _ hi, Ctl.mem_bad_wr_other hi⟩

/-! ### Loads that an index register overtakes (R145) -/

theorem Task.overtake_eq (x : Task) (r : SReg) : x.overtake r = { x with pend := (x.overtake r).pend } := by
  unfold Task.overtake
  split
  · rfl
  · rfl

@[simp] theorem Task.overtake_zero (x : Task) : x.overtake 0 = x := rfl
theorem Task.overtake_wr (x : Task) (d : SReg) (v : Word) (r : SReg) : ((x.wr d v).overtake r).pend = (x.overtake r).pend := by
  unfold Task.overtake
  split
  · next h => rw [if_pos (show awaited x r = true from h)]; rfl
  · next h => rw [if_neg (show ¬ awaited x r = true from h)]; rfl

/-! ### The frame of the forms that write one scalar register -/

/-- The instruction completes with s[D] written at most: the registers of the loops are the only others that may have changed. -/
def State.WritesRegister (s : State) (x : Task) (d : SReg) (o : Out) : Prop :=
  ∃ y : Task, o = .next (s.setTask s.cur y) ∧
    y = { x with ctl := { x.ctl with s := y.ctl.s, bad := y.ctl.bad, own := y.ctl.own, pc := y.ctl.pc, delay := y.ctl.delay, loops := y.ctl.loops },
                 pend := y.pend } ∧
    (y.pend = x.pend ∨ ∃ e ∈ x.ctl.loops, y.pend = (x.overtake e.reg).pend) ∧ y.ctl.rd 0 = 0 ∧
    (∀ r : SReg, r ≠ d → (∀ e ∈ x.ctl.loops, e.reg ≠ r) → y.ctl.rd r = x.ctl.rd r ∧ (r.toNat ∈ y.ctl.bad ↔ r.toNat ∈ x.ctl.bad)) ∧
    (∀ p : Nat, Memory.read (s.setTask s.cur y).mem p = Memory.read s.mem p) ∧ (∀ k : Nat, k ≠ s.cur → (s.setTask s.cur y).task? k = s.task? k)

theorem State.writesRegister_completes (s : State) (x : Task) (d : SReg) (v : Word) (n : Nat) : s.WritesRegister x d (s.completes (x.wr d v) n) := by
  refine ⟨(x.wr d v).retire n, rfl, ?same, ?pend, rfl, fun r hrd hr => ?registers, fun p => rfl, fun k hk => State.task_setTask_other _ _ _ _ hk⟩
  case same =>
    have hctl : x.ctl.SameOutside ((x.ctl.wr d v).retire n) := Ctl.sameOutside_trans (Ctl.sameOutside_wr ..) (Ctl.sameOutside_retire ..)
    have htask : (x.wr d v).retire n = { x with ctl := (x.ctl.wr d v).retire n, pend := ((x.wr d v).retire n).pend } := by
      rw [Task.retire, Task.overtake_eq]
      rfl
    exact htask.trans (congrArg (fun c => { x with ctl := c, pend := ((x.wr d v).retire n).pend }) hctl)
  case pend =>
    have hpend : ((x.wr d v).retire n).pend = (x.overtake ((x.ctl.wr d v).indexWritten n)).pend := x.overtake_wr d v _
    rw [hpend]
    rcases (x.ctl.wr d v).indexWritten_mem n with h0 | ⟨e, he, hreg⟩
    · exact .inl (by rw [h0]; rfl)
    · exact .inr ⟨e, by rwa [Ctl.wr_loops] at he, by rw [hreg]⟩
  case registers =>
    obtain ⟨hread, hbad⟩ := (x.ctl.wr d v).retire_frame n (r := r) (by rwa [Ctl.wr_loops])
    exact ⟨hread.trans (Ctl.rd_wr_other _ _ _ _ hrd), hbad.trans (Ctl.mem_bad_wr_other hrd)⟩

/-- Settles O52: each of the forms completes with its task after a write of s[D]. -/
theorem registerFrame : Obligations.RegisterFrame := by
  unfold Obligations.RegisterFrame
  intro s x d a b h imm n ext dim hx ha hb hd
  simp only [List.forall_mem_append, List.forall_mem_cons]
  have frame {i : Instr} {len : Nat} {v : Word} (hi : exec i s = s.completes (x.wr d v) len) : s.WritesRegister x d (exec i s) :=
    hi ▸ s.writesRegister_completes x d v len
  have two {i : Instr} {f : Word → Word → Word} (hi : exec i s = s.alu2 d a b f) := frame (exec_completes_of_alu2 hx ha hb hd hi rfl)
  have one {i : Instr} {len : Nat} {f : Word → Word} (hi : exec i s = s.alu1 len d a f) := frame (exec_completes_of_alu1 hx ha hd hi rfl)
  have reads {i : Instr} {len : Nat} {val : Task → Res Word} {v : Word} (hi : exec i s = s.issueScalar plainForm len d val) (hv : val x = .ok v) :=
    frame (exec_completes_of_scalar hx hd hi hv)
  refine ⟨⟨⟨?alu, ?mul⟩, ?imm⟩, ?reads⟩
  case alu =>
    exact ⟨two rfl, two rfl, two rfl, two rfl, two rfl, two rfl, two rfl, two rfl, two rfl, two rfl, two rfl, two rfl, two rfl, two rfl,
      two rfl, two rfl, one rfl, one rfl, List.forall_mem_nil _⟩
  case mul => exact ⟨two rfl, two rfl, two rfl, two rfl, two rfl, two rfl, two rfl, two rfl, List.forall_mem_nil _⟩
  case imm =>
    exact ⟨one rfl, one rfl, one rfl, one rfl, one rfl, one rfl, one rfl, one rfl, one rfl, one rfl, reads rfl rfl, reads rfl rfl, one rfl,
      List.forall_mem_nil _⟩
  case reads =>
    exact ⟨reads rfl rfl, reads rfl rfl, reads rfl rfl, reads rfl rfl, reads rfl rfl, reads rfl rfl, reads rfl rfl, reads rfl rfl,
      List.forall_mem_nil _⟩

/-! ### The hardware loop (R155) -/

theorem loopFits_of {stop : Nat} {l : List LoopEntry} (h : ∀ e ∈ l.head?, stop ≤ e.stop) : loopFits stop l = true := by
  cases l with
  | nil => rfl
  | cons e r => exact decide_eq_true (h e rfl)

/-- The address after the last word of a body whose word is there. -/
theorem State.after_word {s : State} {x : Task} {off : Nat} {w : BitVec 32} (h : s.peek x off = some w) :
    s.after x off = .ok (off + if isWide w then 8 else 4) := by
  rw [State.after, State.lengthAt, h]
/-- Beyond the image it is the next word. -/
theorem State.after_beyond {s : State} {x : Task} {off : Nat} {v : Word} (h : s.peek x off = none) (hb : s.codeNat x off 4 = .error (.flt Flt.bounds v)) :
    s.after x off = .ok (off + 4) := by
  rw [State.after, h, hb]
  rfl

section
variable {s : State} {x : Task} {a b : SReg} {off : BitVec 14} (hx : Acts s x) (hoff : 0 < off.toInt)
include hx hoff

theorem execLoop_full (hfull : 4 ≤ x.ctl.loops.length) : execLoop a b off s = s.raise s.cur x Flt.capacity 0 := by
  rw [execLoop, State.issue_deliver hx (plainForm_checks x)]
  simp only [decide_eq_true hoff, decide_eq_false (Nat.not_lt.2 hfull), check_true, check_false, Res.bind_ok, Res.bind_error]
  rfl

section
variable (hroom : x.ctl.loops.length < 4) (hfits : ∀ e ∈ x.ctl.loops.head?, x.ctl.pc + 4 * off.toNat ≤ e.stop)
  (ha : Ready x a) (hb : Free x b) (hd : x.ctl.delay = none)
include hroom hfits ha hb hd

/-- What loop does once its checks pass: it skips the body, or enters it. -/
theorem execLoop_deliver : execLoop a b off s = s.deliver s.cur x
    (if x.ctl.rd a = 0 then (do let t ← s.after x (x.ctl.pc + 4 * off.toNat); .ok (s.setTask s.cur (x.mapCtl (fun c => c.goTo t))))
     else s.done { x with ctl := { x.ctl.wr b 0 with
       loops := { start := x.ctl.pc + 4, stop := x.ctl.pc + 4 * off.toNat, left := (x.ctl.rd a).toNat - 1, index := 0, reg := b } :: x.ctl.loops } } 4) := by
  rw [execLoop, State.issue_deliver hx (plainForm_checks x)]
  simp only [decide_eq_true hoff, decide_eq_true hroom, loopFits_of hfits, Task.src_ready ha, Task.dst_ok hb, hd, check_true, Res.bind_ok]

theorem execLoop_enters (hn : x.ctl.rd a ≠ 0) : execLoop a b off s = s.completes
    { x with ctl := { x.ctl.wr b 0 with
      loops := { start := x.ctl.pc + 4, stop := x.ctl.pc + 4 * off.toNat, left := (x.ctl.rd a).toNat - 1, index := 0, reg := b } :: x.ctl.loops } } 4 := by
  rw [execLoop_deliver hx hoff hroom hfits ha hb hd, if_neg hn]
  rfl

theorem execLoop_skips (hn : x.ctl.rd a = 0) {t : Nat} (ht : s.after x (x.ctl.pc + 4 * off.toNat) = .ok t) :
    execLoop a b off s = .next (s.setTask s.cur (x.mapCtl (fun c => c.goTo t))) := by
  rw [execLoop_deliver hx hoff hroom hfits ha hb hd, if_pos hn, ht]
  rfl

end
end

/-- Settles O5: loop by its two ends; completion by what stands first in the loop stack and where it stops. -/
theorem loopsAndCompletion : Obligations.LoopsAndCompletion := by
  unfold Obligations.LoopsAndCompletion
  refine ⟨fun s x a b off hx hd hoff ha hb => ?loop, fun c n => ⟨fun w hw => ?slot, fun hd hl => ?straight, fun e r hd hl => ?body⟩⟩
  case loop =>
    exact ⟨fun hroom hfits => ⟨fun hn => execLoop_enters hx hoff hroom hfits ha hb hd hn,
        fun hn => ⟨fun w hw => execLoop_skips hx hoff hroom hfits ha hb hd hn (State.after_word hw),
          fun v hnone hbeyond => execLoop_skips hx hoff hroom hfits ha hb hd hn (State.after_beyond hnone hbeyond)⟩⟩,
      fun hfull => execLoop_full hx hoff hfull⟩
  case slot =>
    rw [Ctl.retire_slot hw]
    exact ⟨rfl, rfl, rfl⟩
  case straight =>
    have hback : backEdge (c.pc + n) c.pc c.loops = (c.pc + n, c.loops, none) := by
      rw [hl]
      rfl
    rw [Ctl.retire_sequential hd, hback]
    rfl
  case body =>
    have hsame {l : List LoopEntry} (h : backEdge (c.pc + n) c.pc (e :: r) = backEdge (c.pc + n) c.pc l) : c.retire n = { c with loops := l }.retire n :=
      Ctl.retire_of_backEdge_eq hd n (hl ▸ h)
    refine ⟨fun hout => ?_, fun he hin => hsame (backEdge_enclosing he hin), fun he hleft => ?_, fun he hleft => hsame (backEdge_last he hleft)⟩
    · rw [Ctl.retire_sequential hd, hl, backEdge_outside (hl ▸ hout)]
      rfl
    · rw [Ctl.retire_sequential hd, hl, backEdge_again he hleft]
      rfl

end Sys2Proof.Machine
end

section
/-! PROOF. Branches and jumps (09 R153, R154; 08 R133): a branch by its condition, and what jal and jalr make of the task. -/

namespace Sys2Proof.Machine
open Sys2Proof

/-! ### Addresses -/

/-- A register plus a scaled displacement, as the rules write it. -/
theorem add_mul_sext64 {w : Nat} {k : Word} {n : Int} (hk : k.toInt = n) (p : Word) (imm : BitVec w) :
    p + k * sext64 imm = BitVec.ofInt 64 (p.toInt + n * imm.toInt) := by
  rw [BitVec.ofInt_add, BitVec.ofInt_mul, BitVec.ofInt_toInt, ← hk, BitVec.ofInt_toInt]
  rfl

/-! ### Conditional branches (R153) -/

section
variable {s : State} {x : Task} {a b : SReg} (hx : Acts s x) (hd : x.ctl.delay = none) (ha : Ready x a) (hb : Ready x b) (off : BitVec 14)
include hx hd ha hb

/-- A branch outside a delay slot by its condition. -/
theorem State.branchIf_eq (cond : Word → Word → Bool) : s.branchIf a b off cond =
    if cond (x.ctl.rd a) (x.ctl.rd b) = true then .next (s.setTask s.cur (x.mapCtl (fun c => c.branch (relative c.pc off.toInt) none)))
    else s.completes x 4 := by
  rw [State.branchIf, State.issue_deliver hx (transferForm_checks hd), Task.src_ready ha, Task.src_ready hb, Res.bind_ok, Res.bind_ok]
  split
  · rfl
  · rfl

end

/-! ### Jumps (R154) -/

section
variable {s : State} {x : Task} {d a : SReg} (hx : Acts s x) (hd : x.ctl.delay = none) (hfree : Free x d)
include hx hd hfree

theorem execJal_links (off : BitVec 20) : execJal d off s =
    .next (s.setTask s.cur (x.mapCtl (fun c => c.branch (relative c.pc off.toInt) (some (d, s.linkOf x))))) := by
  rw [execJal, State.issue_deliver hx (transferForm_checks hd), Task.dst_ok hfree]
  rfl

/-- jalr once its operands are read: its target, and whether that is a multiple of 4. -/
theorem execJalr_deliver (ha : Ready x a) {imm : BitVec 14} {target : Nat} (ht : (x.ctl.rd a + 4 * sext64 imm).toNat = target) :
    execJalr d a imm s = s.deliver s.cur x (do
      check (target % 4 == 0) Flt.illegal
      .ok (s.setTask s.cur (x.mapCtl (fun c => c.branch target (some (d, s.linkOf x)))))) := by
  rw [execJalr, State.issue_deliver hx (transferForm_checks hd), Task.src_ready ha, Task.dst_ok hfree]
  subst ht
  rfl

end

/-- Settles O4: the six conditions are the model's tests of the two operands; a jump's target is its register and displacement as one sum. -/
theorem branchesAndJumps : Obligations.BranchesAndJumps := by
  unfold Obligations.BranchesAndJumps
  refine ⟨fun s x a b off hx hd ha hb => ?branches, fun s x d a off imm hx hd hfree => ?jumps⟩
  case branches =>
    intro p q target taken goes
    have branch {i : Instr} {cond : Word → Word → Bool} {c : Prop} (hi : exec i s = s.branchIf a b off cond) (hc : cond p q = true ↔ c) :
        goes i c :=
      ⟨fun h => hi.trans ((State.branchIf_eq hx hd ha hb off cond).trans (if_pos (hc.2 h))),
        fun h => hi.trans ((State.branchIf_eq hx hd ha hb off cond).trans (if_neg (mt hc.1 h)))⟩
    exact ⟨branch rfl beq_iff_eq, branch rfl bne_iff_ne, branch rfl BitVec.slt_iff_toInt_lt, branch rfl (by simp [condGe, BitVec.slt]),
      branch rfl BitVec.ult_iff_toNat_lt, branch rfl (by simp [condGeu, BitVec.ult])⟩
  case jumps =>
    intro link after
    refine ⟨execJal_links hx hd hfree off, fun ha => ?_⟩
    intro target
    have hsum : x.ctl.rd a + 4 * sext64 imm = target := add_mul_sext64 rfl (x.ctl.rd a) imm
    have hjalr := execJalr_deliver hx hd hfree ha (congrArg BitVec.toNat hsum)
    refine ⟨fun hal => hjalr.trans ?_, fun hal => hjalr.trans ?_⟩
    · rw [check_of (beq_iff_eq.2 hal)]
      rfl
    · rw [beq_eq_false_iff_ne.2 hal]
      rfl

end Sys2Proof.Machine
end

section
/-! PROOF. Frame loads and stores (09 R158; 18 R271): the address, the bytes and the poison of an access to the frame of the privilege level. -/

namespace Sys2Proof.Machine
open Sys2Proof

theorem ite_beq_zero {α : Type} (n : Nat) (a b : α) : (if (n == 0) = true then a else b) = if n = 0 then a else b := by
  simp only [beq_iff_eq]

/-! ### Addresses and bytes -/

/-- Bytes of the frame that ldf and stf reach (R271). -/
def Task.frameLimit (x : Task) : Nat := if x.ctl.pl = 0 then (x.r.fsize + 1) * 4096 else 4096

/-- An aligned address in the frame. -/
theorem State.frameAddress_ok {x : Task} {a : SReg} {off : BitVec 11} {size fa : Nat} (ha : Ready x a)
    (hfa : (x.ctl.rd a + 8 * sext64 off).toNat = fa) (hal : fa % size = 0) (hin : fa + size ≤ x.frameLimit) :
    State.frameAddress x a off size = .ok fa := by
  have hin' : decide (fa + size ≤ if (x.ctl.pl == 0) = true then (x.r.fsize + 1) * 4096 else 4096) = true :=
    decide_eq_true (by rwa [ite_beq_zero, ← Task.frameLimit])
  subst hfa
  rw [State.frameAddress, Task.src_ready ha, Res.bind_ok]
  dsimp only
  rw [hin', check_of (beq_iff_eq.2 hal)]
  rfl

theorem length_natToBytes (n v : Nat) : (natToBytes n v).length = n := by
  induction n generalizing v with
  | zero => rfl
  | succ n ih => rw [natToBytes, List.length_cons, ih]

/-- The words of a frame that stay poisoned when n bytes are written. -/
theorem State.writeFrame_eq (s : State) (x : Task) (fa n v : Nat) : s.writeFrame x fa (natToBytes n v) =
    if x.ctl.pl = 0 then (s, { x with frame := Memory.write x.frame fa (natToBytes n v), frameBad := keptWords x.frameBad fa n })
    else (s.setCore (coreOfTask x) { s.core (coreOfTask x) with
      sframe := Memory.write (s.core (coreOfTask x)).sframe fa (natToBytes n v),
      sframeBad := keptWords (s.core (coreOfTask x)).sframeBad fa n }, x) := by
  rw [State.writeFrame, ite_beq_zero, length_natToBytes]
  rfl

/-! ### The forms -/

/-- The task after a load from the frame. -/
def State.frameLoaded (s : State) (x : Task) (d : SReg) (fa : Nat) : Task :=
  let y := x.wr d (word (Memory.readNat (s.frameOf x) fa 8))
  if s.frameFlawed x fa 8 then y.takeFlaw d else y
def State.frameLoadedHandle (s : State) (x : Task) (h : HReg) (fa : Nat) : Task :=
  let y := x.mapCtl (fun c => c.hw h (BitVec.ofNat 256 (Memory.readNat (s.frameOf x) fa 32)))
  if s.frameFlawed x fa 32 then y.takeHandleFlaw h else y

/-- How a store of n bytes to the frame ends: it changes the task's own frame, or the supervisor frame of its core. -/
def State.frameStored (s : State) (x : Task) (fa n v : Nat) : Out :=
  if x.ctl.pl = 0 then s.completes { x with frame := Memory.write x.frame fa (natToBytes n v), frameBad := keptWords x.frameBad fa n } 4
  else s.completesFrom
    (s.setCore (coreOfTask x) { s.core (coreOfTask x) with
      sframe := Memory.write (s.core (coreOfTask x)).sframe fa (natToBytes n v),
      sframeBad := keptWords (s.core (coreOfTask x)).sframeBad fa n })
    x 4

theorem State.deliver_writeFrame (s : State) (x : Task) (fa n v : Nat) :
    s.deliver s.cur x ((s.writeFrame x fa (natToBytes n v)).1.done (s.writeFrame x fa (natToBytes n v)).2 4) = s.frameStored x fa n v := by
  rw [State.writeFrame_eq, State.frameStored]
  split
  · rfl
  · rfl

theorem State.frameOf_eq (s : State) (x : Task) : s.frameOf x = if x.ctl.pl = 0 then x.frame else (s.core (coreOfTask x)).sframe := ite_beq_zero ..

section
variable {s : State} {x : Task} {d a : SReg} {h : HReg} {off : BitVec 11} {fa : Nat} (hx : Acts s x) (ha : Ready x a)
  (hfa : (x.ctl.rd a + 8 * sext64 off).toNat = fa)
include hx ha hfa

theorem execLdf_completes (hd : Free x d) (hal : fa % 8 = 0) (hin : fa + 8 ≤ x.frameLimit) :
    execLdf d a off s = s.completes (s.frameLoaded x d fa) 4 :=
  State.issueTask_ok hx (plainForm_checks x) (by rw [Task.dst_ok hd, State.frameAddress_ok ha hfa hal hin]; rfl)

theorem execLdfHandle_completes (hal : fa % 32 = 0) (hin : fa + 32 ≤ x.frameLimit) :
    execLdfHandle h a off s = s.completes (s.frameLoadedHandle x h fa) 4 :=
  State.issueTask_ok hx (plainForm_checks x) (by rw [State.frameAddress_ok ha hfa hal hin]; rfl)

theorem execStf_stores (hd : Ready x d) (hal : fa % 8 = 0) (hin : fa + 8 ≤ x.frameLimit) :
    execStf d a off s = s.frameStored x fa 8 (x.ctl.rd d).toNat := by
  rw [execStf, State.issue_deliver hx (plainForm_checks x), Task.src_ready hd, State.frameAddress_ok ha hfa hal hin]
  exact s.deliver_writeFrame x fa 8 _

theorem execStfHandle_stores (hal : fa % 32 = 0) (hin : fa + 32 ≤ x.frameLimit) :
    execStfHandle h a off s = s.frameStored x fa 32 (x.ctl.hd h).toNat := by
  rw [execStfHandle, State.issue_deliver hx (plainForm_checks x), State.frameAddress_ok ha hfa hal hin]
  exact s.deliver_writeFrame x fa 32 _

end

/-- Settles O6: the address is the register and the displacement as one sum; what each form does with it is said above. -/
theorem frameAccesses : Obligations.FrameAccesses := by
  unfold Obligations.FrameAccesses
  intro s x d a h off hx ha fa size frame stored
  have hfa : (x.ctl.rd a + 8 * sext64 off).toNat = fa := congrArg BitVec.toNat (add_mul_sext64 rfl (x.ctl.rd a) off)
  have hframe : s.frameOf x = frame := s.frameOf_eq x
  refine ⟨fun hal hin => ⟨fun hd => ?_, fun hd => execStf_stores hx ha hfa hd hal hin⟩,
    fun hal hin => ⟨?_, execStfHandle_stores hx ha hfa hal hin⟩⟩
  · rw [← hframe]
    exact execLdf_completes hx ha hfa hd hal hin
  · rw [← hframe]
    exact execLdfHandle_completes hx ha hfa hal hin

end Sys2Proof.Machine
end

section
/-! PROOF. Trap entry by trap and break (09 R164; 18 R270, R271, R273): what the context of a handler holds, outside and in a delay slot. -/

namespace Sys2Proof.Machine
open Sys2Proof

/-! ### The context of a handler (R271) -/

/-- The two registers of a handler, of which one that is zero is not listed. -/
theorem get_handlerRegs (ts val : Word) (r : SReg) :
    SMap.get (if val = 0 then [(4, ts)] else [(4, ts), (5, val)]) r.toNat 0 = if r = 4 then ts else if r = 5 then val else 0 := by
  by_cases h4 : r = 4
  · subst h4
    split
    · rfl
    · rfl
  · have hn4 : 4 ≠ r.toNat := fun h => h4 (BitVec.eq_of_toNat_eq h.symm)
    by_cases h5 : r = 5
    · subst h5
      split
      · next hv => exact hv.symm
      · rfl
    · have hn5 : 5 ≠ r.toNat := fun h => h5 (BitVec.eq_of_toNat_eq h.symm)
      rw [if_neg h4, if_neg h5]
      split
      · simp [SMap.get, SMap.find, hn4]
      · simp [SMap.get, SMap.find, hn4, hn5]

section
variable (c : Ctl) (code : Nat) (int : Bool) (addr resume : Nat) (val trec : Word) (roots : SMap Handle) (svec : Nat)

/-- s4 and s5 hold TSTATE and TVAL; every other register reads zero. -/
theorem Ctl.rd_enter (r : SReg) : (c.enter code int addr resume val trec roots svec).rd r =
    if r = 4 then (c.enter code int addr resume val trec roots svec).tstate else if r = 5 then val else 0 := by
  by_cases h0 : r = 0
  · subst h0
    rfl
  · rw [Ctl.rd, if_neg h0]
    exact get_handlerRegs ..

/-- In a delay slot TADDR and TRESUME name the branch, and DS is set (R273). -/
theorem Ctl.enter_slot {d : Delay} (hd : c.delay = some d) :
    (c.enter code int addr resume val trec roots svec).taddr = word d.branch ∧
    (c.enter code int addr resume val trec roots svec).tresume = word d.branch ∧
    (c.enter code int addr resume val trec roots svec).tstate = tstateWord code true int c.pl c.ie := by
  simp only [Ctl.enter, hd, Option.isSome_some, and_self]

/-- There the trap frame holds the link register as it was before the branch (R273). -/
theorem Ctl.enter_link {d : Delay} {link : SReg} {old : Word} (hd : c.delay = some d) (hl : d.link = some (link, old)) (h0 : link ≠ 0) :
    SMap.get (c.enter code int addr resume val trec roots svec).tframe.s link.toNat 0 = old := by
  obtain ⟨branch, target, l⟩ := d
  subst hl
  have hbefore : c.beforeLink = c.wr link old := by rw [Ctl.beforeLink, hd]
  have hread : (c.wr link old).rd link = old := Ctl.rd_wr_same c link old h0
  rw [Ctl.rd, if_neg h0, ← hbefore] at hread
  exact hread

end

/-- DS is bit 8 of TSTATE (Table 18.2). -/
theorem getLsbD_tstateWord_slot {code : Nat} (hcode : code < 256) (int : Bool) (pl : Nat) (ie : Bool) :
    (tstateWord code true int pl ie).getLsbD 8 = true := by
  have hbit : (code + 2 ^ 8 + flag int * 2 ^ 9 + pl * 2 ^ 10 + flag ie * 2 ^ 12) / 2 ^ 8 % 2 = 1 := by omega
  rw [tstateWord, BitVec.getLsbD_ofNat, Nat.testBit_eq_decide_div_mod_eq]
  simpa [flag] using hbit

/-! ### The entry -/

/-- A trap that can be taken is, whatever address it resumes at: the task goes on in the handler. -/
theorem State.trapEntry_resumes {s : State} {x : Task} {l : Launch} (t code : Nat) (resume : Nat) (val : Word) (h : s.Handles x l) :
    s.trapEntry t x code false x.ctl.pc resume val = .next ((s.dropMisses t).setTask t { x with
      ctl := x.ctl.enter code false x.ctl.pc resume val (word x.r.pa) (s.rootBoxes l) ((s.core (coreOfTask x)).svec.toNat % 2 ^ 32) }.follow) := by
  obtain ⟨sv, hsv, hl, hfault, hreach, huser, hagrees, hloads, hact⟩ := h
  have haside : x.setAside = x := by simp [Task.setAside, hloads]
  have hlaunch : (if x.service then some x.r.launch else s.supervisorOf (s.partOf x)).bind s.launch? = some l := by simp [huser, hsv, hl]
  unfold State.trapEntry
  simp only [hact, hagrees, hloads, hlaunch, hfault, hreach, haside]
  rfl

section
variable {s : State} {x : Task} (hx : Acts s x) (hd : x.ctl.delay = none) (code : BitVec 14)
include hx hd

theorem exec_trap : exec (.trap code) s = s.trapEntry s.cur x Flt.trap false x.ctl.pc (x.ctl.pc + 4) (zext64 code) := by
  show execTrap code s = _
  rw [execTrap, hx]
  simp only [transferForm_checks hd]
theorem exec_brk : exec (.brk code) s = s.trapEntry s.cur x Flt.brk false x.ctl.pc x.ctl.pc (zext64 code) := by
  show execBrk code s = _
  rw [execBrk, hx]
  simp only [transferForm_checks hd]

end

/-- Settles O7: both forms enter the handler with their own code and resume address; in a delay slot the same context is read off the
pending branch. -/
theorem trapEntry : Obligations.TrapEntry := by
  unfold Obligations.TrapEntry
  refine ⟨fun s x sv l code hx hd hact hservice hloads hsv hl hfault hagrees hreach => ?takes,
    fun c d link old code addr resume val trec roots svec hcode hd hl h0 => ?slot⟩
  case takes =>
    intro saved u takes
    have hhandles : s.Handles x l := ⟨sv, hsv, hl, hfault, hreach, hservice, hagrees, hloads, hact⟩
    have enters {i : Instr} {flt resume : Nat} (hi : exec i s = s.trapEntry s.cur x flt false x.ctl.pc resume (zext64 code)) :
        takes i flt resume := by
      have hlink : x.ctl.beforeLink = x.ctl := by rw [Ctl.beforeLink, hd]
      refine ⟨_, hi.trans (State.trapEntry_resumes s.cur flt resume _ hhandles), rfl, ?_, ?_, ?_, ?_, zext64_eq_ofNat code, rfl, rfl, rfl, rfl,
        rfl, rfl, rfl, Ctl.rd_enter .., Ctl.rd_enter .., fun r h4 h5 => ?_, rfl⟩
      · simp only [Task.follow, Ctl.enter, hlink, saved]
      · simp only [Task.follow, Ctl.enter, hd, Option.isSome_none]
        exact tstateWord_sequential flt false x.ctl.pl x.ctl.ie
      · simp only [Task.follow, Ctl.enter, hd]
      · simp only [Task.follow, Ctl.enter, hd]
      · exact (Ctl.rd_enter ..).trans ((if_neg h4).trans (if_neg h5))
    exact ⟨enters (exec_trap hx hd code), enters (exec_brk hx hd code)⟩
  case slot =>
    intro e
    obtain ⟨haddr, hresume, hstate⟩ := c.enter_slot code false addr resume val trec roots svec hd
    exact ⟨haddr, hresume, hstate ▸ getLsbD_tstateWord_slot hcode false c.pl c.ie, c.enter_link code false addr resume val trec roots svec hd hl h0,
      rfl, rfl⟩

end Sys2Proof.Machine
end

section
/-! PROOF. What a task reads of the machine and of itself (09 R157, R163; 10 R170, R172, R173, R193): each form's value. -/

namespace Sys2Proof.Machine
open Sys2Proof

theorem useHandle_ok {h : Handle} (h0 : h ≠ 0) (hf : handleFieldsOk h = true) : useHandle h = .ok () := by
  rw [useHandle, check_of (bne_iff_ne.2 h0), check_of hf]
  rfl

theorem foldl_add_eq_sum_map (f : Nat → Nat) (l : List Nat) : l.foldl (fun n i => n + f i) 0 = (l.map f).sum := by
  rw [List.sum_eq_foldl, List.foldl_map]

/-! ### The forms -/

section
variable {s : State} {x : Task} {d a : SReg} {h : HReg} {sel : BitVec 6} (hx : Acts s x) (hd : Free x d)
include hx hd

theorem execWid_reads {l : Launch} (hl : s.launch? x.r.launch = some l) : execWid d sel s = s.completes (x.wr d (if l.fields ≤ sel.toNat then 0
    else BitVec.ofNat 64 (x.r.wid / 2 ^ ((List.range sel.toNat).map l.width).sum % 2 ^ l.width sel.toNat))) 4 := by
  refine exec_completes_of_scalar (i := .wid d sel) hx hd rfl ?_
  rw [hl]
  dsimp only
  split
  · rfl
  · rw [foldl_add_eq_sum_map]
    rfl

/-- Field 4 + k of a deterministic slice is trip count k, 1 beyond them (R170). -/
theorem execDslice_trip {c : Slice} (hc : x.r.slice = some c) {k : Nat} (hk : sel.toNat = 4 + k) :
    execDslice d sel s = s.completes (x.wr d (BitVec.ofNat 64 ((c.trips[k]?).getD 1))) 4 := by
  refine exec_completes_of_scalar (i := .dslice d sel) hx hd rfl ?_
  rw [hc]
  dsimp only
  rw [hk, Nat.add_comm]
  rfl

theorem execShpld_reads {shape : BitVec 8} {entry : BitVec 6} {v : Nat} (ha : Ready x a)
    (hv : s.shapeEntry x shape.toNat ((x.ctl.rd a).toNat + entry.toNat) = .ok v) :
    execShpld d a shape entry s = s.completes (x.wr d (BitVec.ofNat 64 v)) 4 := by
  refine exec_completes_of_scalar (i := .shpld d a shape entry) hx hd rfl ?_
  rw [Task.src_ready ha, Res.bind_ok, hv]
  rfl

theorem execShardcoord_reads {dim : BitVec 2} {g : List Int} (ha : Ready x a) (h0 : x.ctl.hd h ≠ 0) (hf : handleFieldsOk (x.ctl.hd h) = true)
    (hext : ∀ k ∈ dims, Handle.ext (x.ctl.hd h) k ≠ 0)
    (hg : s.shardGlobal x (x.ctl.hd h) (splitIndex (x.ctl.hd h) (x.ctl.rd a).toNat) = .ok g) :
    execShardcoord d h a dim s = s.completes (x.wr d (BitVec.ofInt 64 (nth g dim.toNat 0))) 4 := by
  refine exec_completes_of_scalar (i := .shardcoord d h a dim) hx hd rfl ?_
  have hexts : dims.all (fun k => Handle.ext (x.ctl.hd h) k != 0) = true := List.all_eq_true.2 fun k hk => bne_iff_ne.2 (hext k hk)
  rw [Task.src_ready ha, Res.bind_ok]
  dsimp only
  rw [useHandle_ok h0 hf, Res.bind_ok, check_of hexts, Res.bind_ok, hg]
  rfl

end

/-- Settles O12: each form completes with the field that its rule names. -/
theorem taskReads : Obligations.TaskReads := by
  unfold Obligations.TaskReads
  intro s x d a h sel entry shape dim hx hd gives
  have reads {i : Instr} {val : Task → Res Word} {v : Word} (hi : exec i s = s.issueScalar plainForm 4 d val) (hv : val x = .ok v) : gives i v :=
    exec_completes_of_scalar hx hd hi hv
  refine ⟨reads rfl rfl, reads rfl rfl, reads rfl rfl, fun l hl => execWid_reads hx hd hl, ?join0, ?join1, ?join2, ?join3,
    fun c hc => ⟨?first, ?last, ?n, ?p, fun k _ hk => execDslice_trip hx hd hc hk⟩,
    fun v ha hv => execShpld_reads hx hd ha hv, fun g ha h0 hf hext hg => execShardcoord_reads hx hd ha h0 hf hext hg⟩
  case join0 | join1 | join2 | join3 =>
    rintro rfl
    exact reads rfl rfl
  case first | last | n | p =>
    rintro rfl
    exact reads rfl (by rw [hc]; rfl)

end Sys2Proof.Machine
end

section
/-! PROOF. Box loads and stores (09 R159 to R162; 03 R35 to R38; 05 R84, R88): the element that a linear index names, the access that enters
the list, and what an access does when it performs. -/

namespace Sys2Proof.Machine
open Sys2Proof

/-! ### The element (R35 to R38, R159) -/

theorem add_mul_mod_div {c e : Nat} (h : c < e) (q : Nat) : (c + e * q) % e = c ∧ (c + e * q) / e = q := by
  constructor
  · rw [Nat.add_mul_mod_self_left, Nat.mod_eq_of_lt h]
  · rw [Nat.add_mul_div_left _ _ (Nat.zero_lt_of_lt h), Nat.div_eq_of_lt h, Nat.zero_add]

/-- A linear index gives back the coordinates that it was made of, dimension 0 fastest. -/
theorem splitIndex_linear {h : Handle} {c0 c1 c2 : Nat} (h0 : c0 < Handle.ext h 0) (h1 : c1 < Handle.ext h 1) (h2 : c2 < Handle.ext h 2) (c3 : Nat) :
    splitIndex h (c0 + Handle.ext h 0 * (c1 + Handle.ext h 1 * (c2 + Handle.ext h 2 * c3))) = [c0, c1, c2, c3] := by
  obtain ⟨hm0, hd0⟩ := add_mul_mod_div h0 (c1 + Handle.ext h 1 * (c2 + Handle.ext h 2 * c3))
  obtain ⟨hm1, hd1⟩ := add_mul_mod_div h1 (c2 + Handle.ext h 2 * c3)
  obtain ⟨hm2, hd2⟩ := add_mul_mod_div h2 c3
  simp only [splitIndex, hm0, hd0, hm1, hd1, hm2, hd2]

theorem blockHandleOk_of_not_block {h : Handle} (hb : fmtIsBlock (Handle.fmt h) = false) : blockHandleOk h = true := by
  rw [fmtIsBlock, Bool.or_eq_false_iff, beq_eq_false_iff_ne, beq_eq_false_iff_ne] at hb
  rw [blockHandleOk]
  split
  · next hk => exact absurd hk hb.1
  · next hk => exact absurd hk hb.2
  · rfl

/-- The handle names region g of the task's table and holds a box of it: R36, R68. -/
structure State.Names (s : State) (x : Task) (h : Handle) (g : Region) : Prop where
  find : SMap.find (s.regionTable x (Handle.level h)) (Handle.region h) = some g
  valid : g.valid = true
  fmt : Handle.fmt h = g.fmt
  layout : Handle.layout h = g.layout.toNat
  rank : Handle.rank h = g.rank.toNat
  level : Handle.level h = g.level.toNat
  within : ∀ d ∈ dims, Handle.org h d + Handle.ext h d ≤ nth g.size d 1

theorem State.regionOf_ok {s : State} {x : Task} {h : Handle} {g : Region} (hg : s.Names x h g) (hb : fmtIsBlock (Handle.fmt h) = false) :
    s.regionOf x h = .ok g := by
  have hfields : (Handle.fmt h == g.fmt && Handle.layout h == g.layout.toNat && Handle.rank h == g.rank.toNat &&
      Handle.level h == g.level.toNat && blockHandleOk h) = true := by
    rw [hg.fmt, hg.layout, hg.rank, hg.level, blockHandleOk_of_not_block hb]
    simp
  have hwithin : dims.all (fun d => decide (Handle.org h d + Handle.ext h d ≤ nth g.size d 1)) = true :=
    List.all_eq_true.2 fun d hd => decide_eq_true (hg.within d hd)
  rw [State.regionOf, hg.find]
  dsimp only
  rw [check_of hg.valid, check_of hfields, check_of hwithin]
  rfl

theorem State.scalarElem_ok {s : State} {x : Task} {h : Handle} {g : Region} {c0 c1 c2 c3 : Nat} {sz : BitVec 2} {stores : Bool} (hne : h ≠ 0)
    (hf : handleFieldsOk h = true) (hmode : stores = true → Handle.mode h ≠ 0 ∧ Handle.mode h ≠ 4) (hb : fmtIsBlock (Handle.fmt h) = false)
    (hw : fmtWidth (Handle.fmt h) = 8 * 2 ^ sz.toNat) (h0 : c0 < Handle.ext h 0) (h1 : c1 < Handle.ext h 1) (h2 : c2 < Handle.ext h 2)
    (h3 : c3 < Handle.ext h 3) (hg : s.Names x h g) :
    s.scalarElem x h (c0 + Handle.ext h 0 * (c1 + Handle.ext h 1 * (c2 + Handle.ext h 2 * c3))) sz stores =
      .ok (g, [Handle.org h 0 + c0, Handle.org h 1 + c1, Handle.org h 2 + c2, Handle.org h 3 + c3]) := by
  have hwrite : (!(stores && readOnly h)) = true := by
    cases stores with
    | false => rfl
    | true =>
      obtain ⟨hin, hview⟩ := hmode rfl
      rw [readOnly, beq_eq_false_iff_ne.2 hin, beq_eq_false_iff_ne.2 hview]
      rfl
  have hwidth : (!fmtIsBlock (Handle.fmt h) && fmtWidth (Handle.fmt h) == sizeBits sz) = true := by
    rw [hb, hw, sizeBits]
    simp
  have hexts : dims.all (fun d => Handle.ext h d != 0) = true := by
    simp only [dims, List.all_cons, List.all_nil, Bool.and_true, Bool.and_eq_true, bne_iff_ne]
    omega
  have hcoords : dims.all (fun d => decide (nth [c0, c1, c2, c3] d 0 < Handle.ext h d)) = true := by
    simp [dims, nth, h0, h1, h2, h3]
  rw [State.scalarElem, useHandle_ok hne hf, check_of hwrite, check_of hwidth, check_of hexts, splitIndex_linear h0 h1 h2]
  simp only [Res.bind_ok]
  rw [State.boxElem, check_of hcoords, Res.bind_ok, State.regionOf_ok hg hb]
  rfl

/-! ### Entering the access list (R88, R146, R161) -/

section
variable {s : State} {x : Task} {m : CMem} {g : Region} {p : List Nat} (hx : Acts s x) (hidx : Ready x m.idx)
include hx hidx

theorem State.boxLoad_enters (he : s.scalarElem x (x.ctl.hd m.h) (x.ctl.rd m.idx).toNat m.sz false = .ok (g, p)) (hr : Free x m.r)
    (hroom : loadsInFlight x < 16) {cells : List Nat} (hcells : s.regionBytes x g (elemBytes g p).1 (elemBytes g p).2 wantsRead = .ok cells)
    (signed acq : Bool) : s.boxLoad m signed acq = s.completes
      { x with pend := x.pend ++ [{ stream := .control, cls := m.cls, scope := m.sc, acq := acq, rel := false,
                                    load := some { reg := m.r, signed := signed }, cells := cells, writes := [], num := 0 }] } 4 := by
  refine State.issueTask_ok hx (plainForm_checks x) ?_
  rw [Task.dst_ok hr, State.cmemElem, Task.src_ready hidx, Res.bind_ok, Res.bind_ok, he, Res.bind_ok, hcells, Res.bind_ok, postLoad,
    waitFor_of (decide_eq_true hroom)]
  rfl

theorem State.boxStore_enters (he : s.scalarElem x (x.ctl.hd m.h) (x.ctl.rd m.idx).toNat m.sz true = .ok (g, p)) (hr : Ready x m.r)
    (hroom : storesPosted x < 32) {ws : List ByteWrite} (hws : s.writeElem x g p (x.ctl.rd m.r).toNat = .ok ws) (rel : Bool) :
    s.boxStore m rel = s.completes
      { x with pend := x.pend ++ [{ stream := .control, cls := m.cls, scope := m.sc, acq := false, rel := rel, load := none,
                                    cells := [], writes := ws, num := 0 }] } 4 := by
  refine State.issueTask_ok hx (plainForm_checks x) ?_
  rw [Task.src_ready hr, State.cmemElem, Task.src_ready hidx, Res.bind_ok, Res.bind_ok, he, Res.bind_ok, hws, Res.bind_ok, postStore,
    waitFor_of (decide_eq_true hroom)]
  rfl

end

/-! ### Performing (R84, R159, R161) -/

/-- Replacing the masked bits twice is replacing them once. -/
theorem masked_twice (b mask v : Byte) : ((b &&& ~~~mask ||| v &&& mask) &&& ~~~mask ||| v &&& mask) = (b &&& ~~~mask ||| v &&& mask) := by
  refine BitVec.eq_of_getLsbD_eq fun i hi => ?_
  simp only [BitVec.getLsbD_or, BitVec.getLsbD_and, BitVec.getLsbD_not, hi]
  cases mask.getLsbD i with
  | false => simp
  | true => simp

/-- A byte that one write of a store names takes the masked bits of its value, also where the store names it twice with the same write. -/
theorem Memory.read_applyAll_mem {m : Memory} {ws : List ByteWrite} {w : ByteWrite} (hw : w ∈ ws) (hone : ∀ v ∈ ws, v.a = w.a → v = w) :
    Memory.read (Memory.applyAll m ws) w.a = (Memory.read m w.a &&& ~~~w.mask) ||| (w.v &&& w.mask) := by
  induction ws generalizing m with
  | nil => cases hw
  | cons u r ih =>
    have htail : ∀ v ∈ r, v.a = w.a → v = w := fun v hv => hone v (List.mem_cons_of_mem u hv)
    rw [Memory.applyAll]
    by_cases hr : w ∈ r
    · rw [ih hr htail, Memory.read_apply]
      by_cases hu : u.a = w.a
      · obtain rfl := hone u List.mem_cons_self hu
        rw [if_pos rfl, masked_twice]
      · rw [if_neg (Ne.symm hu)]
    · obtain rfl : u = w := by
        rcases List.mem_cons.1 hw with h | h
        · exact h.symm
        · exact absurd h hr
      have hother : ∀ v ∈ r, v.a ≠ u.a := fun v hv ha => hr (htail v hv ha ▸ hv)
      rw [Memory.read_applyAll_other _ _ _ hother, Memory.read_apply, if_pos rfl]

theorem State.store_mem {s : State} {ws : List ByteWrite} : (s.store ws).mem = Memory.applyAll s.mem ws := by
  cases ws with
  | nil => rfl
  | cons w r => rfl

section
variable {s : State} {t k : Nat} {x : Task} {a : Access}

/-- A load without poison writes its register. -/
theorem State.performAccess_load {d : LoadDst} (hl : a.load = some d) (hv : d.vector = none) (hm : a.rmw = none)
    (hsound : ∀ b ∈ a.cells, s.isBad b = false) : s.performAccess t x k a = s.setTask t { x with
      pend := x.pend.eraseIdx k, ctl := x.ctl.wr d.reg (loadValue d.signed a.cells.length (s.readCells a.cells)),
      bel := if d.reg = 0 then x.bel else { x.bel with
        loads := x.bel.loads ++ [(d.reg.toNat, loadValue d.signed a.cells.length (s.readCells a.cells))] } } := by
  have hbad : a.cells.any s.isBad = false := List.any_eq_false.2 fun b hb => by simp [hsound b hb]
  rw [State.performAccess, hl]
  dsimp only
  rw [hv, hm, hbad]
  rfl

/-- A store changes the storage alone. -/
theorem State.performAccess_store (hl : a.load = none) (hm : a.rmw = none) :
    s.performAccess t x k a = (s.store a.writes).setTask t (x.unpost k) := by
  rw [State.performAccess, hl]
  dsimp only
  rw [State.effect, hm]

end

/-- Settles O9: the element from the index's digits; the access as the model's posts make it; the storage by the laws of byte memory. -/
theorem boxAccesses : Obligations.BoxAccesses := by
  unfold Obligations.BoxAccesses
  refine ⟨fun s x h g c0 c1 c2 c3 sz stores hne hf hmode hb hw h0 h1 h2 h3 hfind hvalid hfmt hlayout hrank hlevel hwithin => ?element,
    fun s x m g p hx hidx => ⟨fun he hr hroom cells hcells => ?load, fun he hr hroom ws hws => ?store⟩,
    fun s t k x a hx hk => ⟨fun d hl hv hm hsound => ?loads, fun hl hm => ?stores⟩⟩
  case element =>
    exact State.scalarElem_ok hne hf hmode hb hw h0 h1 h2 h3 ⟨hfind, hvalid, hfmt, hlayout, hrank, hlevel, hwithin⟩
  case load =>
    intro loads
    have form {i : Instr} {signed acq : Bool} (hi : exec i s = s.boxLoad m signed acq) : loads i signed acq :=
      hi.trans (State.boxLoad_enters hx hidx he hr hroom hcells signed acq)
    exact ⟨form rfl, form rfl, form rfl, form rfl⟩
  case store =>
    exact ⟨State.boxStore_enters hx hidx he hr hroom hws false, State.boxStore_enters hx hidx he hr hroom hws true⟩
  case loads => exact State.performAccess_load hl hv hm hsound
  case stores =>
    rw [State.performAccess_store hl hm]
    refine ⟨State.task_setTask .., fun b hb => State.read_store_other s a.writes b hb, fun w hw hone => ?_⟩
    show Memory.read (s.store a.writes).mem w.a = _
    rw [State.store_mem]
    exact Memory.read_applyAll_mem hw hone

end Sys2Proof.Machine
end

section
/-! PROOF. What the storing forms leave unchanged (09 R158, R159; 10 R188, R189): the bytes that a posted store and an atomic name, and the
frame outside the stored bytes. -/

namespace Sys2Proof.Machine
open Sys2Proof

/-! ### The bytes of an element's write -/

theorem nth_mem {α : Type} {l : List α} {i : Nat} (h : i < l.length) (d : α) : nth l i d ∈ l := by
  rw [nth, List.getElem?_eq_getElem h]
  exact List.getElem_mem h

/-- The write of an element names its own bytes. -/
theorem bitWrites_mem {cells : List Nat} {off w v : Nat} {b : ByteWrite} (hb : b ∈ bitWrites cells off w v) : b.a ∈ cells := by
  obtain ⟨i, hi, rfl⟩ := List.mem_map.1 hb
  exact nth_mem (List.mem_range.1 hi) 0

theorem State.writeElem_ok {s : State} {x : Task} {g : Region} {p cells : List Nat}
    (hcells : s.regionBytes x g (elemBytes g p).1 (elemBytes g p).2 wantsWrite = .ok cells) (v : Nat) :
    s.writeElem x g p v = .ok (bitWrites cells (locate g p % 8) (fmtWidth g.fmt) v) := by
  rw [State.writeElem, State.elemCells, hcells]
  rfl

/-! ### Atomics (R93, R188) -/

/-- An atomic on integers that reaches its element enters the accesses in flight. -/
theorem State.amo_enters {s : State} {x : Task} {m : Amo} {fn : AmoFn} {g : Region} {p cells : List Nat} (hx : Acts s x) (hservice : x.service = false)
    (he : s.amoElem x m (fn == .fadd) = .ok (g, p)) (hcells : s.regionBytes x g (elemBytes g p).1 (elemBytes g p).2 wantsBoth = .ok cells)
    (hd : Free x m.d) (hd1 : Free x (m.d + 1)) (ha : Ready x m.a) (hb : Ready x m.b) :
    s.amo m fn = s.completes (x.post (amoAccess m fn g.fmt (x.ctl.rd m.a) (x.ctl.rd m.b) cells)) 8 := by
  refine State.issueTask_ok hx (taskForm_checks hservice) ?_
  have hrest : (do
      let a ← x.src m.a
      let b ← x.src m.b
      let e ← s.amoElem x m (fn == .fadd)
      let cells ← s.regionBytes x e.1 (elemBytes e.1 e.2).1 (elemBytes e.1 e.2).2 wantsBoth
      .ok (x.post (amoAccess m fn e.1.fmt a b cells))) = Except.ok (ε := Exit) (x.post (amoAccess m fn g.fmt (x.ctl.rd m.a) (x.ctl.rd m.b) cells)) := by
    rw [Task.src_ready ha, Task.src_ready hb, Res.bind_ok, Res.bind_ok, he, Res.bind_ok, hcells, Res.bind_ok]
  rw [Task.dst_ok hd, Res.bind_ok]
  split
  · rw [Task.dst_ok hd1]
    exact hrest
  · exact hrest

/-- What an atomic in flight does when it performs: nothing, a change of its task, or a change of its task and of bytes of its element. -/
theorem State.performAccess_atomic_cases (s : State) (t k : Nat) (z : Task) {a : Access} (hm : a.rmw ≠ none) (hl : a.load ≠ none) :
    s.performAccess t z k a = s ∨ (∃ y : Task, s.performAccess t z k a = s.setTask t y) ∨
    ∃ (w v : Nat) (y : Task), s.performAccess t z k a = (s.store (bitWrites a.cells 0 w v)).setTask t y := by
  obtain ⟨d, hd⟩ := Option.ne_none_iff_exists'.1 hl
  obtain ⟨m, hm⟩ := Option.ne_none_iff_exists'.1 hm
  rw [State.performAccess, hd, hm]
  dsimp only
  cases d.vector with
  | some l => exact .inr (.inl ⟨_, rfl⟩)
  | none =>
    dsimp only
    rw [State.performAtomic, State.effect, hm]
    split
    · split
      · exact .inl rfl
      · exact .inr (.inl ⟨_, rfl⟩)
    · exact .inr (.inr ⟨_, _, _, rfl⟩)

@[simp] theorem State.task_store (s : State) (ws : List ByteWrite) (j : Nat) : (s.store ws).task? j = s.task? j := by
  cases ws with
  | nil => rfl
  | cons w r => rfl

section
variable (s : State) (t k : Nat) (z : Task) {a : Access} (hm : a.rmw ≠ none) (hl : a.load ≠ none)
include hm hl

/-- An atomic that performs leaves every byte outside its element, -/
theorem State.read_performAccess_outside {b : Nat} (hb : b ∉ a.cells) :
    Memory.read (s.performAccess t z k a).mem b = Memory.read s.mem b := by
  rcases s.performAccess_atomic_cases t k z hm hl with h | ⟨y, h⟩ | ⟨w, v, y, h⟩
  · rw [h]
  · rw [h]
    rfl
  · rw [h]
    exact State.read_store_other s _ b fun u hu hub => hb (hub ▸ bitWrites_mem hu)

/-- and every other task. -/
theorem State.task_performAccess_other {j : Nat} (hj : j ≠ t) : (s.performAccess t z k a).task? j = s.task? j := by
  rcases s.performAccess_atomic_cases t k z hm hl with h | ⟨y, h⟩ | ⟨w, v, y, h⟩
  · rw [h]
  · rw [h]
    exact State.task_setTask_other _ _ _ _ hj
  · rw [h]
    exact (State.task_setTask_other _ _ _ _ hj).trans (s.task_store _ j)

end

/-! ### The frame (R158) -/

/-- Completion does not look at the frame. -/
theorem Task.retire_withFrame (x : Task) (m : Memory) (bad : List Nat) (n : Nat) :
    { x with frame := m, frameBad := bad }.retire n = { x.retire n with frame := m, frameBad := bad } := by
  have hovertake (r : SReg) : { x with frame := m, frameBad := bad }.overtake r = { x.overtake r with frame := m, frameBad := bad } := by
    unfold Task.overtake
    split
    · next h => rw [if_pos (show awaited x r = true from h)]
    · next h => rw [if_neg (show ¬ awaited x r = true from h)]
  rw [Task.retire, hovertake]
  rfl

/-- A store to the task's own frame leaves its other bytes. -/
theorem State.frameStored_frame (s : State) (x : Task) (hpl : x.ctl.pl = 0) (fa n v : Nat) :
    ∃ y : Task, s.frameStored x fa n v = .next (s.setTask s.cur y) ∧ y = { x.retire 4 with frame := y.frame, frameBad := y.frameBad } ∧
      ∀ b : Nat, b < fa ∨ fa + n ≤ b → Memory.read y.frame b = Memory.read x.frame b := by
  rw [State.frameStored, if_pos hpl]
  refine ⟨_, rfl, ?_, fun b hb => ?_⟩
  · rw [Task.retire_withFrame]
  · rw [Task.retire_frame]
    exact Memory.read_write_other _ _ _ _ (by rwa [length_natToBytes])

/-- Settles O53: posts and atomics enter the access list; an atomic that performs writes bits of its own cells; the frame by the laws of byte
memory. -/
theorem storeFrame : Obligations.StoreFrame := by
  unfold Obligations.StoreFrame
  intro s x hx
  refine ⟨fun m g p cells rel hr hidx hroom he hcells => ?posted, fun m g p cells hservice he hcells hd ha hb hd1 => ?atomics,
    fun t k z a hm hl => ⟨fun b hb => s.read_performAccess_outside t k z hm hl hb, fun j hj => s.task_performAccess_other t k z hm hl hj⟩,
    fun d a h off wide hpl hd ha => ?frame⟩
  case posted =>
    have hpost (rel : Bool) := State.boxStore_enters hx hidx he hr hroom (State.writeElem_ok hcells (x.ctl.rd m.r).toNat) rel
    cases rel with
    | true => exact ⟨_, _, hpost true, rfl, rfl, fun w hw => bitWrites_mem hw, fun b => rfl⟩
    | false => exact ⟨_, _, hpost false, rfl, rfl, fun w hw => bitWrites_mem hw, fun b => rfl⟩
  case atomics =>
    simp only [List.forall_mem_cons]
    have enters {i : Instr} (fn : AmoFn) (hi : exec i s = s.amo m fn) (hfn : (fn == .fadd) = false) :
        ∃ (y : Task) (a : Access), exec i s = .next (s.setTask s.cur y) ∧ y = { x with pend := x.pend ++ [a] }.retire 8 ∧ a.cells = cells ∧
          a.writes = [] ∧ ∀ b : Nat, Memory.read (s.setTask s.cur y).mem b = Memory.read s.mem b :=
      ⟨_, _, hi.trans (State.amo_enters hx hservice (hfn ▸ he) hcells hd hd1 ha hb), rfl, rfl, rfl, fun b => rfl⟩
    exact ⟨enters .add rfl rfl, enters .and rfl rfl, enters .or rfl rfl, enters .xor rfl rfl, enters .min rfl rfl, enters .max rfl rfl,
      enters .minu rfl rfl, enters .maxu rfl rfl, enters .swap rfl rfl, enters .cas rfl rfl, enters .incw rfl rfl, enters .faddb rfl rfl,
      enters .add rfl rfl, enters .and rfl rfl, enters .or rfl rfl, enters .xor rfl rfl, enters .min rfl rfl, enters .max rfl rfl,
      enters .minu rfl rfl, enters .maxu rfl rfl, List.forall_mem_nil _⟩
  case frame =>
    intro fa n hal hin
    have hfa : (x.ctl.rd a + 8 * sext64 off).toNat = fa := congrArg BitVec.toNat (add_mul_sext64 rfl (x.ctl.rd a) off)
    have hin' : fa + n ≤ x.frameLimit := by rwa [Task.frameLimit, if_pos hpl]
    cases wide with
    | true =>
      obtain ⟨y, hy, hrest⟩ := s.frameStored_frame x hpl fa 32 (x.ctl.hd h).toNat
      exact ⟨y, (execStfHandle_stores hx ha hfa hal hin').trans hy, hrest⟩
    | false =>
      obtain ⟨y, hy, hrest⟩ := s.frameStored_frame x hpl fa 8 (x.ctl.rd d).toNat
      exact ⟨y, (execStf_stores hx ha hfa hd hal hin').trans hy, hrest⟩

end Sys2Proof.Machine
end

section
/-! PROOF. The device steps of memory (09 R146, R161; 20 R310; 21 R333, R336, R338): for each one lemma for each of its outcomes. -/

namespace Sys2Proof.Machine
open Sys2Proof

/-! ### Accesses that perform (R146, R161) -/

/-- An access that may perform was not abandoned. -/
theorem State.again_none_of_ready {s : State} {x : Task} {k : Nat} {a : Access} (h : s.ready x k a = true) : a.again = none := by
  simp only [State.ready, Bool.and_eq_true] at h
  obtain ⟨⟨⟨⟨⟨_, hagain⟩, _⟩, _⟩, _⟩, _⟩ := h
  exact Option.isNone_iff_eq_none.1 hagain

section
variable {s : State} {t k : Nat} {ecc : Ecc} {x y : Task} {a : Access} (hx : s.task? t = some x) (ha : x.pend[k]? = some a)
  (hready : s.ready x k a = true)
include hx ha hready

theorem execLoadDataReturn_performs {c : Nat} {r : List Nat} (hl : a.load.isSome = true) (hc : a.cells = c :: r)
    (hy : (s.noteEcc ecc c).task? t = some y) : execLoadDataReturn t k ecc s = .next ((s.noteEcc ecc c).performAccess t y k a) := by
  rw [execLoadDataReturn, hx]
  dsimp only
  rw [ha]
  dsimp only
  rw [State.again_none_of_ready hready, hl, hready, hc]
  dsimp only
  rw [hy]
  rfl

theorem execPostedStorePerform_performs {w : ByteWrite} {r : List ByteWrite} (hl : a.load = none) (hw : a.writes = w :: r)
    (hy : (s.noteEcc ecc w.a).task? t = some y) : execPostedStorePerform t k ecc s = .next ((s.noteEcc ecc w.a).performAccess t y k a) := by
  rw [execPostedStorePerform, hx]
  dsimp only
  rw [ha]
  dsimp only
  rw [State.again_none_of_ready hready, hl, hready, hw]
  dsimp only
  rw [hy]
  rfl

end

/-! ### The scrubber (R336, R338) -/

section
variable {s : State} {a : Nat}

theorem State.noteEcc_corrected {c : Nat} (ha : 2 ^ 46 ≤ a) (hc : scratchOwner a = some c) : s.noteEcc .corrected a = s.countEvent c Flt.ce 0 := by
  have hdram : isDram a = false := by
    rw [isDram, decide_eq_false (by omega)]
    rfl
  rw [State.noteEcc, hdram, hc]
  rfl

theorem State.noteEcc_uncorrectable : s.noteEcc .uncorrectable a =
    ((scratchOwner a).bind (fun c => s.poisonScratch c ((a - scratchpad 0) % 2 ^ 21))).getD (s.poisonUnit a) := by
  rw [State.noteEcc]
  split
  · next h => rw [h]; rfl
  · next h => rw [h]; rfl

theorem execScrubSweep_memory (ha : 2 ^ 46 ≤ a) (hb : a < 2 ^ 48) (ecc : Ecc) : execScrubSweep a ecc s = .next (s.noteEcc ecc a) := by
  rw [execScrubSweep, if_neg (by omega), if_pos hb]

/-- An address from 2^48 on names a word of a core and the task whose registers are meant (log 32). -/
theorem execScrubSweep_register {holder c w : Nat} (hc : c < 2 ^ 11) (hw : w < 2 ^ 20) (ecc : Ecc) :
    execScrubSweep (2 ^ 48 + holder * 2 ^ 31 + c * 2 ^ 20 + w) ecc s = .next (s.scrubRegister c holder w ecc) := by
  have hcore : (2 ^ 48 + holder * 2 ^ 31 + c * 2 ^ 20 + w - 2 ^ 48) / 2 ^ 20 % 2 ^ 11 = c := by omega
  have hholder : (2 ^ 48 + holder * 2 ^ 31 + c * 2 ^ 20 + w - 2 ^ 48) / 2 ^ 31 = holder := by omega
  have hword : (2 ^ 48 + holder * 2 ^ 31 + c * 2 ^ 20 + w - 2 ^ 48) % 2 ^ 20 = w := by omega
  rw [execScrubSweep, if_neg (by omega), if_neg (by omega), hcore, hholder, hword]

section
variable {holder c w : Nat}

theorem State.scrubRegister_buffer (h : 8192 ≤ w) (h' : w < 12288) : s.scrubRegister c holder w .uncorrectable = s.poisonBuffer c w := by
  rw [State.scrubRegister, if_pos (by simp only [Bool.and_eq_true, decide_eq_true_eq]; omega)]

theorem State.scrubRegister_frame (h : 12288 ≤ w) (h' : w < 12800) : s.scrubRegister c holder w .uncorrectable =
    s.setCore c { s.core c with sframeBad := mark (s.core c).sframeBad (w - 12288) } := by
  rw [State.scrubRegister, if_neg (by simp only [Bool.and_eq_true, decide_eq_true_eq]; omega),
    if_pos (by simp only [Bool.and_eq_true, decide_eq_true_eq]; omega)]
  rfl

theorem State.scrubRegister_task (h : w < 8192 ∨ 12800 ≤ w) {t : Nat} {x : Task} (hx : s.scrubbed c holder = some (t, x)) :
    s.scrubRegister c holder w .uncorrectable = s.setTask t (poisonRegister x w) := by
  rw [State.scrubRegister, if_neg (by simp only [Bool.and_eq_true, decide_eq_true_eq]; omega),
    if_neg (by simp only [Bool.and_eq_true, decide_eq_true_eq]; omega), hx]

end
end

/-! ### Belvedere (R332, R333) -/

section
variable {s : State} {t : Nat} {x : Task} (hx : s.task? t = some x)
include hx

theorem execBelvedereMismatch_elsewhere {st : Stream} (h : st ≠ .control ∨ controlRuns s x = false) : execBelvedereMismatch t st s = .next s := by
  rw [execBelvedereMismatch, hx]
  exact if_pos (by rcases h with h | h <;> simp [h])

theorem execBelvedereMismatch_control (hr : controlRuns s x = true) : execBelvedereMismatch t .control s =
    if s.compares x = true then s.raise t x Flt.check 0 else .next (s.setTask t { x with bel := { x.bel with struck := true } }) := by
  rw [execBelvedereMismatch, hx]
  exact if_neg (by simp [hr])

end

/-- FLT_CHECK outside a handler rolls the node back and counts against the core. -/
theorem State.raise_check {s : State} {t : Nat} {x : Task} (h : x.ctl.act = false) :
    s.raise t x Flt.check 0 = .next ((s.rollback t Flt.check true 0).countEvent (coreOfTask x) Flt.check 0) := by
  rw [State.raise, h]
  rfl
/-- In a handler it is a double trap. -/
theorem State.raise_check_handler {s : State} {t : Nat} {x : Task} (h : x.ctl.act = true) :
    s.raise t x Flt.check 0 = .next ((s.doubleTrap t x Flt.check).countEvent (coreOfTask x) Flt.check 0) := by
  rw [State.raise, h]
  rfl

/-! ### The walker of a die (R310) -/

/-- Giving out free walks changes the state of dies alone. -/
theorem State.startWalks_eq (die n : Nat) : ∀ s : State, ∃ dies : SMap Die, s.startWalks die n = { s with dies := dies } := by
  induction n with
  | zero => exact fun s => ⟨s.dies, rfl⟩
  | succ n ih =>
    intro s
    rw [State.startWalks]
    split
    · exact ⟨_, rfl⟩
    · split
      · exact ⟨_, rfl⟩
      · next q hq =>
        obtain ⟨dies, h⟩ := ih (State.setDie (s.setDie die _) die _)
        exact ⟨dies, h⟩

/-- A list without repetitions. -/
def addDistinct (l : List Nat) (c : Nat) : List Nat := if l.contains c then l else c :: l

theorem mem_addDistinct {l : List Nat} {c d : Nat} : c ∈ addDistinct l d ↔ c = d ∨ c ∈ l := by
  unfold addDistinct
  split
  · next h =>
    refine ⟨.inr, fun hc => ?_⟩
    rcases hc with rfl | hc
    · exact List.contains_iff_mem.1 h
    · exact hc
  · exact List.mem_cons

theorem mem_foldl_addDistinct {l acc : List Nat} {c : Nat} : c ∈ l.foldl addDistinct acc ↔ c ∈ l ∨ c ∈ acc := by
  induction l generalizing acc with
  | nil => simp
  | cons d r ih => rw [List.foldl_cons, ih, mem_addDistinct, List.mem_cons, ← or_assoc, or_comm (a := c ∈ r)]

/-- A translation enters the box translation cache of a core. -/
def enterTlb (e : TlbEntry) (l : List TlbEntry) (c : Nat) : List TlbEntry :=
  keepNewest 256 (l.filter (fun o => o.core == c)) { e with core := c } ++ l.filter (fun o => o.core != c)

theorem State.cacheLeaf_tlb (s : State) (cores : List Nat) (e : TlbEntry) : (s.cacheLeaf cores e).tlb = cores.foldl (enterTlb e) s.tlb := rfl

theorem mem_enterTlb_same (e : TlbEntry) (l : List TlbEntry) (c : Nat) : { e with core := c } ∈ enterTlb e l c :=
  List.mem_append_left _ List.mem_cons_self
theorem mem_enterTlb_other {e o : TlbEntry} {l : List TlbEntry} {c : Nat} (ho : o ∈ l) (hc : o.core ≠ c) : o ∈ enterTlb e l c :=
  List.mem_append_right _ (List.mem_filter.2 ⟨ho, bne_iff_ne.2 hc⟩)

/-- A translation that enters the caches of some cores stands in each of theirs. -/
theorem mem_foldl_enterTlb {e : TlbEntry} {cores : List Nat} {l : List TlbEntry} {c : Nat} (h : c ∈ cores ∨ { e with core := c } ∈ l) :
    { e with core := c } ∈ cores.foldl (enterTlb e) l := by
  induction cores generalizing l with
  | nil => simpa using h
  | cons d r ih =>
    refine ih ?_
    by_cases hcd : c = d
    · subst hcd
      exact .inr (mem_enterTlb_same e l c)
    · rcases h with h | h
      · exact .inl ((List.mem_cons.1 h).resolve_left hcd)
      · exact .inr (mem_enterTlb_other h hcd)

/-- The misses that a walk for a miss serves, which are those of its page. -/
def State.servedMisses (s : State) (die part : Nat) (m : Miss) (w : Walked) : List Miss :=
  s.misses.filter (s.sharesWalk die part (m.va / 2 ^ w.shift * 2 ^ w.shift) (2 ^ w.shift))

/-- The state after a walk has found a leaf: the misses that it serves are gone, and the leaf stands in the caches of their cores. -/
def State.walkServed (s : State) (die part : Nat) (m : Miss) (w : Walked) : State :=
  let size := 2 ^ w.shift
  let page := m.va / size * size
  let served := s.servedMisses die part m w
  let d := s.die die
  let v := s.setDie die { d with
    walks := d.walks.filter (fun k => !(k.1 == part && page ≤ k.2 * 65536 && k.2 * 65536 < page + size)),
    nonleaf := (w.nonleaf ++ d.nonleaf).take 1024 }
  { v with misses := v.misses.filter (fun n => !served.contains n) }.cacheLeaf
    ((served.filterMap (fun (n : Miss) => (s.task? n.task).map coreOfTask)).foldl addDistinct [])
    { core := 0, part := part, page := page, size := size, leaf := word w.leaf }

section
variable (s : State) {x : Task} {m : Miss} (w : Walked) (hx : s.task? m.task = some x) (hm : m ∈ s.misses)
include hx hm

/-- A miss is among those that its own walk serves. -/
theorem State.mem_servedMisses : m ∈ s.servedMisses (dieOfTask x) (s.partOf x) m w := by
  refine List.mem_filter.2 ⟨hm, ?_⟩
  have hlow : m.va / 2 ^ w.shift * 2 ^ w.shift ≤ m.va := Nat.div_mul_le_self ..
  have hhigh : m.va < m.va / 2 ^ w.shift * 2 ^ w.shift + 2 ^ w.shift := by
    have := Nat.lt_div_mul_add (a := m.va) (Nat.two_pow_pos w.shift)
    exact this
  rw [State.sharesWalk, hx]
  simp [hlow, hhigh]

theorem State.not_mem_walkServed : m ∉ (s.walkServed (dieOfTask x) (s.partOf x) m w).misses := by
  intro h
  have hnot := (List.mem_filter.1 h).2
  rw [List.contains_iff_mem.2 (s.mem_servedMisses w hx hm)] at hnot
  cases hnot

theorem State.mem_walkServed_tlb : ⟨coreOfTask x, s.partOf x, m.va / 2 ^ w.shift * 2 ^ w.shift, 2 ^ w.shift, BitVec.ofNat 64 w.leaf⟩ ∈
    (s.walkServed (dieOfTask x) (s.partOf x) m w).tlb := by
  refine mem_foldl_enterTlb (e := ⟨0, s.partOf x, m.va / 2 ^ w.shift * 2 ^ w.shift, 2 ^ w.shift, BitVec.ofNat 64 w.leaf⟩)
    (.inl (mem_foldl_addDistinct.2 (.inl (List.mem_filterMap.2 ⟨m, s.mem_servedMisses w hx hm, ?_⟩))))
  rw [hx]
  rfl

end

section
variable {s : State} {t : Nat} {st : Stream} {x : Task} {m : Miss} (hx : s.task? t = some x)
  (hm : s.misses.find? (fun m => m.task == t && m.stream == st) = some m)
include hx hm

/-- A walk for a miss, once free walks have been given out. -/
theorem execPageWalk_eq {v : State} (hv : s.startWalks (dieOfTask x) 64 = v) : execPageWalk t st s =
    if ((v.die (dieOfTask x)).walks.contains (s.partOf x, m.va / 65536) && v.walkable (v.die (dieOfTask x)).nonleaf (s.partOf x) m.va) = true then
      match v.walkBy (v.die (dieOfTask x)).nonleaf (s.partOf x) m.va m.wants with
      | .error code => v.walkFault m x code
      | .ok w => .next (v.walkServed (dieOfTask x) (s.partOf x) m w)
    else .next v := by
  rw [execPageWalk, hm, hx]
  dsimp only
  rw [hv]
  cases (v.die (dieOfTask x)).walks.contains (s.partOf x, m.va / 65536) && v.walkable (v.die (dieOfTask x)).nonleaf (s.partOf x) m.va
  case false => rfl
  case true =>
    rw [if_neg (by decide), if_pos rfl]
    cases v.walkBy (v.die (dieOfTask x)).nonleaf (s.partOf x) m.va m.wants with
    | error code => rfl
    | ok w => rfl

end

/-- Settles O40, a clause for each device step, by what each of its outcomes is; a walk removes its miss because the miss is in its own page. -/
theorem memoryEvents : Obligations.MemoryEvents := by
  unfold Obligations.MemoryEvents
  refine ⟨fun s t k ecc x y a hx ha hready => ⟨fun c r hl hc hy => execLoadDataReturn_performs hx ha hready hl hc hy,
      fun w r hl hw hy => execPostedStorePerform_performs hx ha hready hl hw hy⟩,
    fun s a ha hb => ?memory, fun s holder c w hc hw => ?register, fun s t x hx => ?belvedere, fun s t st x m hx hm => ?walk⟩
  case memory =>
    have sweep (ecc : Ecc) {u : State} (h : s.noteEcc ecc a = u) : exec (.scrubSweep a ecc) s = .next u :=
      (execScrubSweep_memory ha hb ecc).trans (congrArg _ h)
    refine ⟨sweep .clean rfl, fun hnone => sweep .uncorrectable ?_, fun c hc => ⟨sweep .corrected (State.noteEcc_corrected ha hc),
      fun u hu => sweep .uncorrectable ?_, fun hnone => sweep .uncorrectable ?_⟩⟩
    · rw [State.noteEcc_uncorrectable, hnone]
      rfl
    · rw [State.noteEcc_uncorrectable, hc, Option.bind_some, hu]
      rfl
    · rw [State.noteEcc_uncorrectable, hc, Option.bind_some, hnone]
      rfl
  case register =>
    intro word
    have sweep (ecc : Ecc) {u : State} (h : s.scrubRegister c holder w ecc = u) : exec (.scrubSweep word ecc) s = .next u :=
      (execScrubSweep_register hc hw ecc).trans (congrArg _ h)
    exact ⟨sweep .corrected rfl, fun t x hw hx => sweep .uncorrectable (State.scrubRegister_task hw hx),
      fun h h' => sweep .uncorrectable (State.scrubRegister_buffer h h'), fun h h' => sweep .uncorrectable (State.scrubRegister_frame h h')⟩
  case belvedere =>
    refine ⟨fun hr hc hact => ?_, fun hr hc hact => ?_, fun hr hc => ?_, fun hr => execBelvedereMismatch_elsewhere hx (.inr hr),
      fun st hst => execBelvedereMismatch_elsewhere hx (.inl hst)⟩
    · exact (execBelvedereMismatch_control hx hr).trans ((if_pos hc).trans (State.raise_check hact))
    · exact (execBelvedereMismatch_control hx hr).trans ((if_pos hc).trans (State.raise_check_handler hact))
    · exact (execBelvedereMismatch_control hx hr).trans (if_neg (ne_true_of_eq_false hc))
  case walk =>
    intro die v kept walks
    have hm_mem : m ∈ s.misses := List.mem_of_find?_eq_some hm
    have hm_task : m.task = t := by
      have := List.find?_some hm
      simp only [Bool.and_eq_true, beq_iff_eq] at this
      exact this.1
    have hwalks : ((v.die die).walks.contains (s.partOf x, m.va / 65536) && v.walkable kept (s.partOf x) m.va) = true ↔ walks := by
      rw [Bool.and_eq_true, List.contains_iff_mem]
    have hexec := execPageWalk_eq hx hm (v := v) rfl
    refine ⟨fun h => hexec.trans (if_neg (mt hwalks.1 h)), fun code h hcode => hexec.trans ?_, fun w h hw => ?_⟩
    · rw [if_pos (hwalks.2 h), hcode]
    · obtain ⟨dies, hdies⟩ : ∃ dies, v = { s with dies := dies } := State.startWalks_eq die 64 s
      have hvx : v.task? m.task = some x := by rw [hm_task, hdies]; exact hx
      have hvm : m ∈ v.misses := by rw [hdies]; exact hm_mem
      have hpart : s.partOf x = v.partOf x := by rw [hdies]; rfl
      refine ⟨v.walkServed die (s.partOf x) m w, ?_, ?_, ?_, ?_, ?_⟩
      · exact hexec.trans (by rw [if_pos (hwalks.2 h), hw])
      · rw [hpart]; exact v.not_mem_walkServed w hvx hvm
      · rw [hdies]; rfl
      · rw [hdies]; rfl
      · rw [hpart]; exact v.mem_walkServed_tlb w hvx hvm

end Sys2Proof.Machine
end

section
/-! PROOF. Atomics and reductions (05 R93, R94; 10 R188, R189; 21 R337): the access that enters the list, and what it does to its element, its
registers and, where the element is poisoned, to neither, when it performs. -/

namespace Sys2Proof.Machine
open Sys2Proof

/-! ### The new values in plain arithmetic (R188, R189) -/

/-- Of two values that are told apart by a number, the one with the larger number, said with < and with ≤. -/
theorem ite_lt_eq_ite_le_of_injective {α β : Type} [LinearOrder β] {f : α → β} (hf : Function.Injective f) (p q : α) :
    (if f p < f q then q else p) = if f p ≤ f q then q else p := by
  by_cases heq : f p = f q
  · rw [hf heq, ite_self, ite_self]
  · simp only [lt_iff_le_and_ne, ne_eq, heq, not_false_eq_true, and_true]

section
variable {n : Nat} (p q : BitVec n)

theorem minSigned_eq_ite_le : minSigned p q = if p.toInt ≤ q.toInt then p else q := by
  simpa [minSigned, BitVec.slt] using ite_lt_eq_ite_le p.toInt q.toInt p q

theorem minUnsigned_eq_ite_le : minUnsigned p q = if p.toNat ≤ q.toNat then p else q := by
  simpa [minUnsigned, BitVec.ult] using ite_lt_eq_ite_le p.toNat q.toNat p q

theorem maxSigned_eq_ite_le : maxSigned p q = if p.toInt ≤ q.toInt then q else p := by
  simpa [maxSigned, BitVec.slt] using ite_lt_eq_ite_le_of_injective (fun _ _ => BitVec.eq_of_toInt_eq) p q

theorem maxUnsigned_eq_ite_le : maxUnsigned p q = if p.toNat ≤ q.toNat then q else p := by
  simpa [maxUnsigned, BitVec.ult] using ite_lt_eq_ite_le_of_injective BitVec.toNat_injective p q

theorem wrapIncrement_eq (bound : BitVec n) : wrapIncrement p bound = if bound.toNat ≤ p.toNat then 0 else p + 1 := by
  simp only [wrapIncrement, BitVec.ule, decide_eq_true_eq]

theorem boundedAdd_fst (bound : BitVec n) : (boundedAdd p q bound).1 = if p.toNat + q.toNat ≤ bound.toNat then p + q else p := by
  rw [boundedAdd, BitVec.ofNat_add, BitVec.ofNat_toNat, BitVec.ofNat_toNat, BitVec.setWidth_eq, BitVec.setWidth_eq, apply_ite Prod.fst]

theorem boolWord_boundedAdd_snd (bound : BitVec n) :
    boolWord (boundedAdd p q bound).2 = if p.toNat + q.toNat ≤ bound.toNat then 0 else 1 := by
  rw [boundedAdd, apply_ite Prod.snd, apply_ite boolWord]
  rfl

end

section
variable {f : Fmt} {old : Nat} (hold : old < 2 ^ fmtWidth f) (a b : Nat)

theorem amoSum_eq_toNat : amoSum f old a = (BitVec.ofNat (fmtWidth f) old + BitVec.ofNat (fmtWidth f) a).toNat := by
  rw [← BitVec.ofNat_add, BitVec.toNat_ofNat, amoSum]

include hold

theorem amoAnd_eq_toNat : amoAnd f old a = (BitVec.ofNat (fmtWidth f) old &&& BitVec.ofNat (fmtWidth f) a).toNat := by
  rw [BitVec.toNat_and, BitVec.toNat_ofNat, BitVec.toNat_ofNat, Nat.mod_eq_of_lt hold, amoAnd]

theorem amoOr_eq_toNat : amoOr f old a = (BitVec.ofNat (fmtWidth f) old ||| BitVec.ofNat (fmtWidth f) a).toNat := by
  rw [BitVec.toNat_or, BitVec.toNat_ofNat, BitVec.toNat_ofNat, Nat.mod_eq_of_lt hold, amoOr]

theorem amoXor_eq_toNat : amoXor f old a = (BitVec.ofNat (fmtWidth f) old ^^^ BitVec.ofNat (fmtWidth f) a).toNat := by
  rw [BitVec.toNat_xor, BitVec.toNat_ofNat, BitVec.toNat_ofNat, Nat.mod_eq_of_lt hold, amoXor]

theorem amoCompare_eq_toNat : amoCompare f old a b = (if BitVec.ofNat (fmtWidth f) old = BitVec.ofNat (fmtWidth f) b
    then BitVec.ofNat (fmtWidth f) a else BitVec.ofNat (fmtWidth f) old).toNat := by
  have hsame : BitVec.ofNat (fmtWidth f) old = BitVec.ofNat (fmtWidth f) b ↔ old = b % 2 ^ fmtWidth f := by
    rw [← BitVec.toNat_inj, BitVec.toNat_ofNat, BitVec.toNat_ofNat, Nat.mod_eq_of_lt hold]
  rw [amoCompare, apply_ite BitVec.toNat, BitVec.toNat_ofNat, BitVec.toNat_ofNat, Nat.mod_eq_of_lt hold,
    ite_congr (propext hsame) (fun _ => rfl) (fun _ => rfl)]

end

/-! ### Entering the access list (R188) -/

/-- An atomic that reaches its element enters the accesses in flight; only faddb asks for a second register. -/
theorem State.amo_posts {s : State} {x : Task} {m : Amo} {fn : AmoFn} {g : Region} {p cells : List Nat} (hx : Acts s x) (hservice : x.service = false)
    (he : s.amoElem x m (fn == .fadd) = .ok (g, p)) (hcells : s.regionBytes x g (elemBytes g p).1 (elemBytes g p).2 wantsBoth = .ok cells)
    (hd : Free x m.d) (ha : Ready x m.a) (hb : Ready x m.b) (hd2 : fn = .faddb → Free x (m.d + 1)) :
    s.amo m fn = s.completes (x.post (amoAccess m fn g.fmt (x.ctl.rd m.a) (x.ctl.rd m.b) cells)) 8 := by
  refine State.issueTask_ok hx (taskForm_checks hservice) ?_
  simp only [Task.dst_ok hd, Task.src_ready ha, Task.src_ready hb, he, hcells, Res.bind_ok]
  split
  · next h => rw [Task.dst_ok (hd2 (beq_iff_eq.1 h)), Res.bind_ok]
  · rfl

/-! ### Performing (R93, R337) -/

theorem State.soundCells_ok {s : State} {x : Task} {cells : List Nat} (h : ∀ c ∈ cells, s.isBad c = false) : s.soundCells x cells = .ok () := by
  rw [State.soundCells, List.filter_eq_nil_iff.2 fun c hc => ne_true_of_eq_false (h c hc)]

theorem State.soundCells_bad {s : State} {cells : List Nat} (h : ∃ c ∈ cells, s.isBad c = true) (x : Task) :
    ∃ val : Word, s.soundCells x cells = .error (.flt Flt.ue val) := by
  obtain ⟨c, hc, hbad⟩ := h
  rw [State.soundCells]
  split
  · next hnone => exact absurd (hnone ▸ List.mem_filter.2 ⟨hc, hbad⟩) List.not_mem_nil
  · exact ⟨_, rfl⟩

section
variable {s : State} {t k : Nat} {x : Task} {e : Access} {d : LoadDst} {m : Rmw}

theorem State.performAccess_atomic (hl : e.load = some d) (hv : d.vector = none) (hm : e.rmw = some m) :
    s.performAccess t x k e = s.performAtomic t x k e d m := by
  rw [State.performAccess, hl]
  dsimp only
  rw [hv, hm]

/-- On an element without poison an atomic writes the new value and fetches the old one, in one step. -/
theorem State.performAtomic_sound (hm : e.rmw = some m) (h : ∀ c ∈ e.cells, s.isBad c = false) : s.performAtomic t x k e d m =
    (s.store (bitWrites e.cells 0 (fmtWidth m.fmt) (m.new (s.readCells e.cells)))).setTask t
      (((x.unpost k).fetched d.reg (extendElem m.fmt (s.readCells e.cells))).fetched d.reg2 (m.refused (s.readCells e.cells))) := by
  rw [State.performAtomic, State.soundCells_ok h, State.effect, hm]

/-- A poisoned element is consumed: the storage stays, and the fault waits for the next boundary. -/
theorem State.performAtomic_poisoned (h : ∃ c ∈ e.cells, s.isBad c = true) (hp : x.pendFault = none) :
    ∃ val : Word, s.performAtomic t x k e d m = s.setTask t { x.unpost k with pendFault := some { code := Flt.ue, val := val } } := by
  obtain ⟨val, hval⟩ := State.soundCells_bad h x
  exact ⟨val, by rw [State.performAtomic, hval, hp]; rfl⟩

end

/-- Settles O10: each form posts its access; an atomic that performs does so by its operation, which is the rule's in plain arithmetic. -/
theorem atomics : Obligations.Atomics := by
  unfold Obligations.Atomics
  refine ⟨fun s x m g p cells float hx hservice he hcells hd ha hb => ?enters, fun s t k x e d m _ _ hl hv hm => ?performs⟩
  case enters =>
    intro enters
    have posts {i : Instr} (fn : AmoFn) (hi : exec i s = s.amo m fn) (hfloat : float = (fn == .fadd)) (hd2 : fn = .faddb → Free x (m.d + 1)) :
        enters i fn (if fn == .faddb then m.d + 1 else 0) :=
      hi.trans (State.amo_posts hx hservice (hfloat ▸ he) hcells hd ha hb hd2)
    refine ⟨?integers, ?floats⟩
    case integers =>
      rintro rfl
      exact ⟨posts .add rfl rfl nofun, posts .and rfl rfl nofun, posts .or rfl rfl nofun, posts .xor rfl rfl nofun, posts .min rfl rfl nofun,
        posts .max rfl rfl nofun, posts .minu rfl rfl nofun, posts .maxu rfl rfl nofun, posts .swap rfl rfl nofun, posts .cas rfl rfl nofun,
        posts .incw rfl rfl nofun, fun hd2 => posts .faddb rfl rfl fun _ => hd2, posts .add rfl rfl nofun, posts .and rfl rfl nofun,
        posts .or rfl rfl nofun, posts .xor rfl rfl nofun, posts .min rfl rfl nofun, posts .max rfl rfl nofun, posts .minu rfl rfl nofun,
        posts .maxu rfl rfl nofun⟩
    case floats =>
      rintro rfl
      exact ⟨posts .fadd rfl rfl nofun, posts .fadd rfl rfl nofun⟩
  case performs =>
    intro n read old a b takes performs
    have hatomic := State.performAccess_atomic (s := s) (t := t) (k := k) (x := x) hl hv hm
    refine ⟨fun hsound hread => ?sound, fun hbad hp => hatomic ▸ State.performAtomic_poisoned hbad hp⟩
    case sound =>
      have becomes {v : Nat} {flag : Word} (hnew : m.new read = v) (hflag : m.refused read = flag) : performs v flag := by
        rw [← hnew, ← hflag]
        exact hatomic.trans (State.performAtomic_sound hm hsound)
      obtain ⟨fn, f, opA, opB⟩ := m
      refine ⟨?add, ?and, ?or, ?xor, ?min, ?max, ?minu, ?maxu, ?swap, ?cas, ?incw, ?faddb, ?fadd⟩
      all_goals rintro rfl
      case add => exact becomes (amoSum_eq_toNat _) rfl
      case and => exact becomes (amoAnd_eq_toNat hread _) rfl
      case or => exact becomes (amoOr_eq_toNat hread _) rfl
      case xor => exact becomes (amoXor_eq_toNat hread _) rfl
      case min => exact becomes (congrArg BitVec.toNat (minSigned_eq_ite_le _ _)) rfl
      case max => exact becomes (congrArg BitVec.toNat (maxSigned_eq_ite_le _ _)) rfl
      case minu => exact becomes (congrArg BitVec.toNat (minUnsigned_eq_ite_le _ _)) rfl
      case maxu => exact becomes (congrArg BitVec.toNat (maxUnsigned_eq_ite_le _ _)) rfl
      case swap => exact becomes (BitVec.toNat_ofNat ..).symm rfl
      case cas => exact becomes (amoCompare_eq_toNat hread _ _) rfl
      case incw => exact becomes (congrArg BitVec.toNat (wrapIncrement_eq _ _)) rfl
      case faddb => exact becomes (congrArg BitVec.toNat (boundedAdd_fst _ _ _)) (boolWord_boundedAdd_snd _ _ _)
      case fadd => exact becomes rfl rfl

end Sys2Proof.Machine
end

section
/-! PROOF. Box queries and derived handles (03 R35, R40; 10 R174 to R177; 24 R361): the fields of a handle as digits of its number, the handle
that each form writes, and the fault of a service core. -/

namespace Sys2Proof.Machine
open Sys2Proof

/-! ### The fields of a handle (Table 3.1) -/

theorem toNat_extractLsb'_eq_div_mod {w : Nat} (v : BitVec w) (lo n : Nat) : (v.extractLsb' lo n).toNat = v.toNat / 2 ^ lo % 2 ^ n := by
  rw [BitVec.extractLsb'_toNat, Nat.shiftRight_eq_div_pow]

section
variable (h : Handle)

theorem Handle.ext_eq (d : Nat) : Handle.ext h d = h.toNat / 2 ^ (52 * d) % 2 ^ 24 := toNat_extractLsb'_eq_div_mod ..

theorem Handle.org_eq (d : Nat) : Handle.org h d = h.toNat / 2 ^ (52 * d) / 2 ^ 24 % 2 ^ 28 := by
  rw [Handle.org, toNat_extractLsb'_eq_div_mod, Nat.pow_add, Nat.div_div_eq_div_mul]

theorem Handle.rank_eq : Handle.rank h = h.toNat / 2 ^ 244 % 4 := toNat_extractLsb'_eq_div_mod ..
theorem Handle.level_eq : Handle.level h = h.toNat / 2 ^ 246 % 4 := toNat_extractLsb'_eq_div_mod ..
theorem Handle.layout_eq : Handle.layout h = h.toNat / 2 ^ 234 % 16 := toNat_extractLsb'_eq_div_mod ..
theorem Handle.toNat_fmt : (Handle.fmt h).toNat = h.toNat / 2 ^ 238 % 64 := toNat_extractLsb'_eq_div_mod ..
theorem Handle.toNat_mode : (Handle.mode h).toNat = h.toNat / 2 ^ 252 % 16 := toNat_extractLsb'_eq_div_mod ..
theorem Handle.toNat_policy : (Handle.policy h).toNat = h.toNat / 2 ^ 248 % 16 := toNat_extractLsb'_eq_div_mod ..

theorem Handle.org_lt (d : Nat) : Handle.org h d < 2 ^ 28 := BitVec.isLt _

end

/-- What boxmode gives of a handle: MODE, POLICY, LEVEL and LAYOUT (R176). -/
def modeWord (h : Handle) : Word :=
  word ((Handle.mode h).toNat + (Handle.policy h).toNat * 2 ^ 4 + Handle.level h * 2 ^ 8 + Handle.layout h * 2 ^ 10)
theorem execBoxmode_eq (d : SReg) (a : HReg) (s : State) : execBoxmode d a s = s.boxQuery d a modeWord := rfl

/-! ### What box_sub accepts (R40) -/

/-- The narrowing of one dimension to extent w from origin o fits the handle: within the extent, the origin still in its field, and no
dimension above the rank in use. -/
structure Handle.Fits (h : Handle) (dim o w : Nat) : Prop where
  within : o + w ≤ Handle.ext h dim
  origin : Handle.org h dim + o < 2 ^ 28
  rank : ∀ d ∈ dims, Handle.rank h < d → (if d = dim then o = 0 ∧ w = 1 else Handle.ext h d = 1)

/-- The handle with one dimension narrowed. -/
def Handle.narrowed (h : Handle) (dim o w : Nat) : Handle :=
  Handle.withDims h (fun d => Handle.org h d + (if d = dim then o else 0)) (fun d => if d = dim then w else Handle.ext h d)

/-- The other dimensions of a narrowing keep their origins and extents, and so pass the tests of R40. -/
theorem boxSub_one {h : Handle} {dim o w : Nat} (hfit : Handle.Fits h dim o w) :
    boxSub h (fun d => if d = dim then o else 0) (fun d => if d = dim then w else Handle.ext h d) = .ok (Handle.narrowed h dim o w) := by
  have hwithin : dims.all (fun d => decide ((if d = dim then o else 0) + (if d = dim then w else Handle.ext h d) ≤ Handle.ext h d)) = true := by
    refine List.all_eq_true.2 fun d _ => decide_eq_true ?_
    split
    · next hd => exact hd ▸ hfit.within
    · exact Nat.le_of_eq (Nat.zero_add _)
  have horigin : dims.all (fun d => decide (Handle.org h d + (if d = dim then o else 0) ≤ 2 ^ 28 - 1)) = true := by
    refine List.all_eq_true.2 fun d _ => decide_eq_true (Nat.le_sub_one_of_lt ?_)
    split
    · next hd => exact hd ▸ hfit.origin
    · exact Handle.org_lt h d
  have hrank : dims.all (fun d => decide (d ≤ Handle.rank h) ||
      ((if d = dim then o else 0) == 0 && (if d = dim then w else Handle.ext h d) == 1)) = true := by
    refine List.all_eq_true.2 fun d hd => ?_
    rcases Nat.lt_or_ge (Handle.rank h) d with hlt | hle
    · have hone := hfit.rank d hd hlt
      split at hone
      · next heq => simp [heq, hone]
      · next hne => simp [hne, hone]
    · simp [hle]
  rw [boxSub, check_of hwithin, check_of horigin, check_of hrank]
  rfl

/-- A policy that does not fold, or a format that folds (R47, R49). -/
theorem policyFits_eq_true {policy : BitVec 4} {f : Fmt}
    (h : (policy.toNat < 2 ∨ 4 < policy.toNat) ∨ (fmtKind f ≠ .hs ∧ fmtIsBlock f = false)) :
    (!isReduce policy || reduceFormatOk f) = true := by
  rw [Bool.or_eq_true]
  rcases h with hkeeps | ⟨hkind, hblock⟩
  · left
    simp only [isReduce, Bool.not_eq_true', Bool.and_eq_false_iff, decide_eq_false_iff_not]
    omega
  · right
    simp [reduceFormatOk, hkind, hblock]

/-! ### The forms -/

section
variable {s : State} {x : Task} {e a : HReg} {len : Nat} {val : Task → Res Handle} {v : Handle} (hx : Acts s x)
include hx

/-- A form that writes a handle register with a handle that it computes completes with it. -/
theorem State.issueHandle_completes {f : Form} (hf : f.checks x = .ok ()) (hv : val x = .ok v) :
    s.issueHandle f len e val = s.completes { x with ctl := x.ctl.hw e v } len := State.issueHandle_ok hx hf hv

/-- A form that a service core lacks is FLT_ILLEGAL there (R361). -/
theorem State.issueHandle_service (hs : x.service = true) :
    s.issueHandle taskForm len e val = s.raise s.cur x Flt.illegal 0 := by
  refine State.issue_fault _ hx ?_
  rw [Form.checks, hs]
  rfl

section
variable {dim : BitVec 2} {ext : BitVec 32} (hs : x.service = false) (h0 : x.ctl.hd a ≠ 0) (hf : handleFieldsOk (x.ctl.hd a) = true)
include hs h0 hf

/-- Bounds of a narrowing as immediates. -/
theorem execBoxsub_immediate (hfit : Handle.Fits (x.ctl.hd a) dim.toNat (ext.toNat / 2 ^ 16) (ext.toNat % 2 ^ 16)) :
    execBoxsub e a dim false ext s =
      s.completes { x with ctl := x.ctl.hw e (Handle.narrowed (x.ctl.hd a) dim.toNat (ext.toNat / 2 ^ 16) (ext.toNat % 2 ^ 16)) } 8 := by
  refine State.issueHandle_completes hx (taskForm_checks hs) ?_
  have ho : (zext64 (ext.extractLsb' 16 16)).toNat = ext.toNat / 2 ^ 16 := by
    rw [zext64, BitVec.toNat_setWidth_of_le (by decide), toNat_extractLsb'_eq_div_mod]
    exact Nat.mod_eq_of_lt (Nat.div_lt_of_lt_mul ext.isLt)
  have he : (zext64 (ext.extractLsb' 0 16)).toNat = ext.toNat % 2 ^ 16 := by
    rw [zext64, BitVec.toNat_setWidth_of_le (by decide), toNat_extractLsb'_eq_div_mod, Nat.pow_zero, Nat.div_one]
  simp only [Bool.false_eq_true, if_false, Res.bind_ok, useHandle_ok h0 hf, ho, he]
  exact boxSub_one hfit

/-- Bounds of a narrowing in registers. -/
theorem execBoxsub_register (ho : Ready x (ext.extractLsb' 8 6)) (he : Ready x (ext.extractLsb' 0 6))
    (hfit : Handle.Fits (x.ctl.hd a) dim.toNat (x.ctl.rd (ext.extractLsb' 8 6)).toNat (x.ctl.rd (ext.extractLsb' 0 6)).toNat) :
    execBoxsub e a dim true ext s = s.completes { x with ctl := x.ctl.hw e (Handle.narrowed (x.ctl.hd a) dim.toNat
      (x.ctl.rd (ext.extractLsb' 8 6)).toNat (x.ctl.rd (ext.extractLsb' 0 6)).toNat) } 8 := by
  refine State.issueHandle_completes hx (taskForm_checks hs) ?_
  simp only [if_true, Task.src_ready ho, Task.src_ready he, Res.bind_ok, useHandle_ok h0 hf]
  exact boxSub_one hfit

theorem execBoxnew_completes {mode policy : BitVec 4} (hmode : modeAllowed (Handle.mode (x.ctl.hd a)) mode = true) (hpolicy : policy.toNat < 5)
    (hfmt : (!isReduce policy || reduceFormatOk (Handle.fmt (x.ctl.hd a))) = true) :
    execBoxnew e a mode policy s = s.completes { x with ctl := x.ctl.hw e (Handle.withRights (x.ctl.hd a) mode policy) } 8 := by
  refine State.issueHandle_completes hx (taskForm_checks hs) ?_
  dsimp only
  rw [useHandle_ok h0 hf, check_of hmode, check_of (decide_eq_true hpolicy), check_of hfmt]
  rfl

end

theorem execBoxroot_completes {n : SReg} {l : Launch} {v : Nat} (hl : s.launch? (s.activeLaunch x) = some l) (hn : Ready x n)
    (hlt : (x.ctl.rd n).toNat < l.nbox) (hv : s.tableNat x l (l.boxtab + 128 * (x.ctl.rd n).toNat + 64) 32 = .ok v) :
    execBoxroot e n s = s.completes { x with ctl := x.ctl.hw e (BitVec.ofNat 256 v) } 4 := by
  refine State.issueHandle_completes hx (plainForm_checks x) ?_
  rw [Task.src_ready hn, Res.bind_ok, hl]
  dsimp only
  rw [check_of (decide_eq_true hlt), Res.bind_ok, hv]
  rfl

end

/-- Settles O11: a query gives its field's digits; a derivation writes the handle that its checks let through. -/
theorem boxForms : Obligations.BoxForms := by
  unfold Obligations.BoxForms
  refine ⟨fun s x d e a dim hx => ?queries, fun s x e a dim mode policy ext n hx => ?derivations⟩
  case queries =>
    intro h dimWord asks writes
    have query {i : Instr} {v : Nat} (f : Handle → Word) (hi : exec i s = s.boxQuery d a f) (hv : f h = BitVec.ofNat 64 v) : asks i v :=
      fun hd => exec_completes_of_scalar hx hd hi (congrArg Except.ok hv)
    have write {i : Instr} {val : Task → Res Handle} {v : Handle} (hi : exec i s = s.issueHandle plainForm 4 e val) (hv : val x = .ok v) :
        writes i v := hi.trans (State.issueHandle_completes hx (plainForm_checks x) hv)
    refine ⟨query (fun h => word (Handle.ext h dim.toNat)) rfl ?ext, query (fun h => word (Handle.org h dim.toNat)) rfl ?org,
      query (fun h => word (Handle.rank h + 1)) rfl ?rank, query (fun h => zext64 (Handle.fmt h)) rfl ?fmt,
      query modeWord (execBoxmode_eq d a s) ?mode, write rfl rfl, write rfl rfl⟩
    case ext => rw [Handle.ext_eq]
    case org => rw [Handle.org_eq]
    case rank => rw [Handle.rank_eq]
    case fmt => rw [zext64_eq_ofNat, Handle.toNat_fmt]
    case mode => rw [modeWord, Handle.toNat_mode, Handle.toNat_policy, Handle.level_eq, Handle.layout_eq]
  case derivations =>
    intro h writes narrowed fits
    have hfits {o w : Nat} : fits o w → Handle.Fits h dim.toNat o w := fun ⟨within, origin, rank⟩ => ⟨within, origin, rank⟩
    refine ⟨fun hs => ⟨State.issueHandle_service hx hs, State.issueHandle_service hx hs, State.issueHandle_service hx hs⟩,
      fun h0 hf hs => ⟨fun hfit => ?immediates, fun ho he hfit => ?registers, fun hmode hpolicy hfmt => ?rights⟩,
      fun l v hl hn hlt hv => execBoxroot_completes hx hl hn hlt hv⟩
    case immediates => exact execBoxsub_immediate hx hs h0 hf (hfits hfit)
    case registers => exact execBoxsub_register hx hs h0 hf ho he (hfits hfit)
    case rights => exact execBoxnew_completes hx hs h0 hf hmode hpolicy (policyFits_eq_true hfmt)

end Sys2Proof.Machine
end

section
/-! PROOF. Engine configuration and synchronisation (05 R86; 10 R180 to R183, R186, R187, R373): how a control form that waits, or faults, ends, and
with that the values and conditions of each form. -/

namespace Sys2Proof.Machine
open Sys2Proof

/-! ### How a form on the task alone ends -/

section
variable {s : State} {x y : Task} {f : Form} {n : Nat} {body : Task → Res Task} (hx : Acts s x) (hf : f.checks x = .ok ())
include hx hf

theorem State.issueTask_stall (hb : body x = .error .stall) : s.issueTask f n body = .next s := by
  rw [State.issueTask]
  exact State.issue_stall hx hf (by rw [hb]; rfl)

/-- A form that waits for a condition completes once it holds, and changes nothing before. -/
theorem State.issueTask_waits {ok : Bool} (hb : body x = (do waitFor ok; .ok y)) :
    s.issueTask f n body = if ok = true then s.completes y n else .next s := by
  cases ok with
  | true => exact State.issueTask_ok hx hf hb
  | false => exact State.issueTask_stall hx hf hb

theorem State.issueTask_fault {code : Nat} {val : Word} (hb : body x = .error (.flt code val)) :
    s.issueTask f n body = s.raise s.cur x code val := by
  rw [State.issueTask, State.issue_deliver hx hf, hb]
  rfl

end

theorem check_of_false {ok : Bool} (h : ok = false) (code : Nat) : check ok code = .error (.flt code 0) := by rw [h, check_false]

/-! ### Engine configuration (R180, R181) -/

section
variable {s : State} {x : Task} {d a : SReg} {eng : BitVec 2} {ext : BitVec 32} (hx : Acts s x) (hs : x.service = false) (ha : Ready x a)

/-- The operand of both forms: s[A], or the immediate when A is 0. -/
def Task.immediateOr (x : Task) (a : SReg) (v : Word) : Word := if a = 0 then v else x.ctl.rd a

include ha in
/-- A form that reads one or the other goes on with it. -/
theorem Task.immediateOr_bind {α : Type} (v : Word) (k : Word → Res α) :
    (if a == 0 then Except.ok v >>= k else x.src a >>= k) = k (x.immediateOr a v) := by
  rw [Task.src_ready ha, Task.immediateOr]
  by_cases h0 : a = 0
  · rw [if_pos (beq_iff_eq.2 h0), if_pos h0, Res.bind_ok]
  · rw [if_neg (mt beq_iff_eq.1 h0), if_neg h0, Res.bind_ok]

theorem Task.toNat_immediateOr_zext64 : (x.immediateOr a (zext64 ext)).toNat = if a = 0 then ext.toNat else (x.ctl.rd a).toNat := by
  rw [Task.immediateOr, apply_ite BitVec.toNat, zext64, BitVec.toNat_setWidth_of_le (by decide)]

/-- An outer level of these steps: three 16-bit fields, the first one highest. -/
def nestOf (trip : Nat) (steps : Word) : Nest :=
  { trip := trip, s0 := steps.extractLsb' 32 16, s1 := steps.extractLsb' 16 16, s2 := steps.extractLsb' 0 16 }

/-- An engine with one of its outer levels replaced. -/
def Eng.withLevel (e : Eng) (lvl : BitVec 1) (n : Nest) : Eng := if lvl == 0 then { e with n5 := n } else { e with n6 := n }

include hx hs ha

theorem execEcfg_completes (slot : BitVec 4) : execEcfg a eng slot ext s = s.completes (x.setEng (engineOf eng)
    { x.eng (engineOf eng) with cfg := SMap.put (x.eng (engineOf eng)).cfg slot.toNat (x.immediateOr a (sext64 ext)) }) 8 := by
  refine State.issueTask_ok hx (taskForm_checks hs) ?_
  dsimp only
  rw [Task.immediateOr_bind ha]

variable {trip : Nat} (htrip : (x.immediateOr a (zext64 ext)).toNat = trip) (hd : Ready x d) (hsteps : (x.ctl.rd d).toNat < 2 ^ 48)
include htrip hd hsteps

/-- Up to its check of the trip count, enest has read its operands. -/
theorem execEnest_deliver (lvl : BitVec 1) : execEnest d a eng lvl ext s = s.deliver s.cur x (do
    check (trip < 65536) Flt.bounds
    s.done (x.setEng (engineOf eng) ((x.eng (engineOf eng)).withLevel lvl (nestOf trip (x.ctl.rd d)))) 8) := by
  have hzero : ((x.ctl.rd d).extractLsb' 48 16 == (0 : BitVec 16)) = true := by
    refine beq_iff_eq.2 (BitVec.eq_of_toNat_eq ?_)
    rw [toNat_extractLsb'_eq_div_mod, Nat.div_eq_of_lt hsteps]
    rfl
  rw [execEnest, State.issueTask, State.issue_deliver hx (taskForm_checks hs)]
  dsimp only
  rw [Task.src_ready hd, Res.bind_ok, Task.immediateOr_bind ha, check_of hzero, Res.bind_ok, htrip, bind_assoc]
  rfl

theorem execEnest_completes (lvl : BitVec 1) (hlt : trip < 65536) : execEnest d a eng lvl ext s =
    s.completes (x.setEng (engineOf eng) ((x.eng (engineOf eng)).withLevel lvl (nestOf trip (x.ctl.rd d)))) 8 := by
  rw [execEnest_deliver hx hs ha htrip hd hsteps, check_of (decide_eq_true hlt)]
  rfl

theorem execEnest_bounds (lvl : BitVec 1) (hge : 65536 ≤ trip) : execEnest d a eng lvl ext s = s.raise s.cur x Flt.bounds 0 := by
  rw [execEnest_deliver hx hs ha htrip hd hsteps, check_of_false (decide_eq_false (Nat.not_lt.2 hge))]
  rfl

end

/-- Settles O14: both forms write the engine of their field; enest checks its trip count last. -/
theorem engineConfiguration : Obligations.EngineConfiguration := by
  unfold Obligations.EngineConfiguration
  intro s x d a slot ext hx hs ha v trip steps nest
  have htrip : (x.immediateOr a (zext64 ext)).toNat = trip := Task.toNat_immediateOr_zext64
  refine ⟨execEcfg_completes hx hs ha slot, execEcfg_completes hx hs ha slot, fun hd hsteps hlt => ?levels, fun hd hsteps hge => ?bounds⟩
  case levels =>
    have level (eng : BitVec 2) (lvl : BitVec 1) := execEnest_completes (eng := eng) hx hs ha htrip hd hsteps lvl hlt
    exact ⟨level 0 0, level 0 1, level 1 0, level 1 1⟩
  case bounds => exact execEnest_bounds hx hs ha htrip hd hsteps 0 hge

/-! ### Semaphores (R186) -/

section
variable {s : State} {x : Task} {d a : SReg} {i : BitVec 8} (hx : Acts s x) (hs : x.service = false) (hd : Free x d)
include hx hs hd

/-- A change of a semaphore waits for what R96 and R186 put before it. -/
theorem State.semChange_eq (ha : Ready x a) (j : BitVec 4) (signal : Bool) (f : BitVec 32 → Nat → BitVec 32) : s.semChange d a j i signal f =
    if ((!signal || settled x) && x.semInOrder s.cycle 3 i.toNat) = true
    then s.completes (((x.setSem i.toNat (f (x.sem i.toNat) (semOperand (x.ctl.rd a) j))).noteSem s.cycle 3 i.toNat).wr d
      (BitVec.ofNat 64 (x.sem i.toNat).toNat)) 4
    else .next s := by
  refine State.issueTask_waits hx (taskForm_checks hs) ?_
  rw [Task.src_ready ha, Task.dst_ok hd, ← zext64_eq_ofNat]
  rfl

theorem execSemrd_completes : execSemrd d i s = s.completes (x.wr d (BitVec.ofNat 64 (x.sem i.toNat).toNat)) 4 :=
  State.issueScalar_ok hx (taskForm_checks hs) hd (congrArg Except.ok (zext64_eq_ofNat _))

end

/-! ### The fence (R86, R187) -/

/-- An access that a fence waits for: of a named class, or, from .dev on, a write of core scope (R92). -/
def Access.HoldsFence (p : Access) (mask : BitVec 16) (sc : BitVec 3) : Prop :=
  p.stream = .control ∧ (mask.getLsbD p.cls.toNat = true ∨ (3 ≤ sc.toNat ∧ (p.load = none ∨ p.rmw ≠ none) ∧ p.scope = 0))

theorem coreWritesVisible_iff {x : Task} {sc : BitVec 3} : coreWritesVisible x sc = true ↔
    ∀ p ∈ x.pend, ¬ (p.stream = .control ∧ 3 ≤ sc.toNat ∧ (p.load = none ∨ p.rmw ≠ none) ∧ p.scope = 0) := by
  rcases Nat.lt_or_ge sc.toNat 3 with hcore | hdev
  · simp [coreWritesVisible, hcore, Nat.not_le.2 hcore]
  · simp [coreWritesVisible, hdev, Nat.not_lt.2 hdev, imp_iff_not_or, or_assoc, Option.isSome_iff_ne_none]

theorem fenceSettled_iff {x : Task} {mask : BitVec 16} {sc : BitVec 3} :
    fenceSettled x mask sc = true ↔ mask = 0 ∨ ∀ p ∈ x.pend, ¬ p.HoldsFence mask sc := by
  have hclasses : classesSettled x .control mask = true ↔ ∀ p ∈ x.pend, ¬ (p.stream = .control ∧ mask.getLsbD p.cls.toNat = true) := by
    simp [classesSettled, imp_iff_not_or]
  rw [fenceSettled, Bool.or_eq_true, beq_iff_eq, Bool.and_eq_true, hclasses, coreWritesVisible_iff, ← forall₂_and]
  simp only [Access.HoldsFence, and_or_left, not_or]

theorem execFence_eq {s : State} {x : Task} (hx : Acts s x) (mask : BitVec 16) (sc : BitVec 3) :
    execFence mask sc s = if fenceSettled x mask sc = true then s.completes x 4 else .next s :=
  State.issueTask_waits hx (plainForm_checks x) rfl

/-! ### The rendezvous and the queues (R182, R373) -/

theorem rdvReady_iff {x : Task} : rdvReady x = true ↔ x.vec.on = false ∧ x.mat.done = x.mat.issued ∧ x.cpy.done = x.cpy.issued := by
  simp [rdvReady, and_assoc]

section
variable {s : State} {x : Task} (hx : Acts s x) (hs : x.service = false)
include hx hs

theorem execRdv_eq : execRdv s = if rdvReady x = true then s.completes x 4 else .next s :=
  State.issueTask_waits hx (taskForm_checks hs) rfl

theorem execVqsend_eq {a : SReg} (ha : Ready x a) : execVqsend a s = if (settled x && decide (x.vec.cq.length < 64)) = true
    then s.completes { x with vec := { x.vec with cq := x.vec.cq ++ [x.ctl.rd a] } } 4 else .next s :=
  State.issueTask_waits hx (taskForm_checks hs) (by rw [Task.src_ready ha]; rfl)

theorem execVqrecv_word {d : SReg} (hd : Free x d) {v : Word} {r : List Word} (hq : x.vec.vq = v :: r) :
    execVqrecv d s = s.completes ({ x with vec := { x.vec with vq := r } }.wr d v) 4 :=
  State.issueTask_ok hx (taskForm_checks hs) (by rw [Task.dst_ok hd, hq]; rfl)

theorem execVqrecv_empty {d : SReg} (hd : Free x d) (hq : x.vec.vq = []) : execVqrecv d s = .next s :=
  State.issueTask_stall hx (taskForm_checks hs) (by rw [Task.dst_ok hd, hq]; rfl)

end

/-! ### Tile entries (R183) -/

/-- Entries of a task changed one after another, each in the same way. -/
def Task.mapTiles (x : Task) (f : Tile → Tile) (ids : List Nat) : Task := ids.foldl (fun x t => x.setTile t (f (x.tile t))) x

theorem Task.tile_setTile (x : Task) (id : Nat) (v : Tile) (t : Nat) : (x.setTile id v).tile t = if t = id then v else x.tile t := by
  split
  · next h => rw [h, Task.tile_setTile_same]
  · next h => exact SMap.get_put_other _ _ _ _ _ h

theorem Task.mapTiles_eq (x : Task) (f : Tile → Tile) (ids : List Nat) : x.mapTiles f ids = { x with tiles := (x.mapTiles f ids).tiles } := by
  induction ids generalizing x with
  | nil => rfl
  | cons id ids ih => exact ih (x.setTile id (f (x.tile id)))

/-- Where a second change of an entry adds nothing, the named entries are changed and the others stay. -/
theorem Task.tile_mapTiles (x : Task) {f : Tile → Tile} (hf : ∀ v, f (f v) = f v) (ids : List Nat) (t : Nat) :
    (x.mapTiles f ids).tile t = if t ∈ ids then f (x.tile t) else x.tile t := by
  induction ids generalizing x with
  | nil => rfl
  | cons id ids ih =>
    have hstep : (x.mapTiles f (id :: ids)).tile t = if t ∈ ids then f ((x.setTile id (f (x.tile id))).tile t)
      else (x.setTile id (f (x.tile id))).tile t := ih _
    rw [hstep, Task.tile_setTile]
    by_cases h : t = id
    · simp [h, hf]
    · simp [h]

/-- An entry that is the task's (R56). -/
def Tile.claim (v : Tile) : Tile := { v with claimed := true }

section
variable {s : State} {x : Task} {a : SReg} (hx : Acts s x) (hs : x.service = false) (ha : Ready x a)
include hx hs ha

section
variable (hdecl : ∀ t ∈ maskTiles (x.ctl.rd a), x.declared t = true)
include hdecl

theorem execClaim_completes : execClaim a s = s.completes (x.mapTiles Tile.claim (maskTiles (x.ctl.rd a))) 4 := by
  refine State.issueTask_ok hx (taskForm_checks hs) ?_
  rw [Task.src_ready ha, Res.bind_ok, check_of (List.all_eq_true.2 hdecl)]
  rfl

theorem execRelease_completes
    (hfree : ∀ t ∈ maskTiles (x.ctl.rd a), (x.tile t).readers = 0 ∧ ((x.tile t).st = .empty ∨ (x.tile t).st = .ready)) :
    execRelease a s = s.completes (x.mapTiles (fun _ => Tile.empty) (maskTiles (x.ctl.rd a))) 4 := by
  have hst : (maskTiles (x.ctl.rd a)).all (fun t => (x.tile t).st == .empty || (x.tile t).st == .ready) = true :=
    List.all_eq_true.2 fun t ht => by simpa using (hfree t ht).2
  have hread : (maskTiles (x.ctl.rd a)).all (fun t => (x.tile t).readers == 0) = true :=
    List.all_eq_true.2 fun t ht => beq_iff_eq.2 (hfree t ht).1
  refine State.issueTask_ok hx (taskForm_checks hs) ?_
  rw [Task.src_ready ha, Res.bind_ok]
  dsimp only
  rw [check_of (List.all_eq_true.2 hdecl), check_of hst, waitFor_of hread]
  rfl

end

theorem execClaim_execRelease_undeclared (h : ∃ t ∈ maskTiles (x.ctl.rd a), x.declared t = false) :
    execClaim a s = s.raise s.cur x Flt.illegal 0 ∧ execRelease a s = s.raise s.cur x Flt.illegal 0 := by
  have hnot : (maskTiles (x.ctl.rd a)).all x.declared = false := by
    obtain ⟨t, ht, hfalse⟩ := h
    exact List.all_eq_false.2 ⟨t, ht, ne_true_of_eq_false hfalse⟩
  constructor
  all_goals
    refine State.issueTask_fault hx (taskForm_checks hs) ?_
    simp only [Task.src_ready ha, Res.bind_ok, check_of_false hnot, Res.bind_error]

end

/-- Settles O13: each form completes, or waits at issue, by the condition that the lemma of its form says. -/
theorem semaphoresAndSynchronisation : Obligations.SemaphoresAndSynchronisation := by
  unfold Obligations.SemaphoresAndSynchronisation
  refine ⟨fun s x d a j i hx hs hd => ?semaphores, fun s x d a mask sc hx => ?others⟩
  case semaphores =>
    intro old v becomes turn
    have hchange (ha : Ready x a) (signal : Bool) (f : BitVec 32 → Nat → BitVec 32) := State.semChange_eq (i := i) hx hs hd ha j signal f
    have hset (ha : Ready x a) := hchange ha true fun _ v => BitVec.ofNat 32 v
    have hadd (ha : Ready x a) := hchange ha true semPlus
    have hsub (ha : Ready x a) := hchange ha false semMinus
    refine ⟨fun ha => ⟨fun hsettled hturn => ?signals, fun hwait => ?signalsWait, fun hturn => ?takes, fun hwait => ?takesWait⟩,
      execSemrd_completes hx hs hd⟩
    case signals =>
      have hready : ((!true || settled x) && x.semInOrder s.cycle 3 i.toNat) = true := by rw [hsettled]; exact hturn
      exact ⟨(hset ha).trans (if_pos hready), (hadd ha).trans (if_pos hready)⟩
    case signalsWait =>
      have hnot : ¬ ((!true || settled x) && x.semInOrder s.cycle 3 i.toNat) = true := by
        rw [Bool.not_true, Bool.false_or, Bool.and_eq_true]
        rintro ⟨hsettled, hturn⟩
        rcases hwait with h | h
        · exact ne_true_of_eq_false h hsettled
        · exact ne_true_of_eq_false h hturn
      exact ⟨(hset ha).trans (if_neg hnot), (hadd ha).trans (if_neg hnot)⟩
    case takes => exact (hsub ha).trans (if_pos hturn)
    case takesWait => exact (hsub ha).trans (if_neg (ne_true_of_eq_false hwait))
  case others =>
    intro named held
    have hfence : fenceSettled x mask sc = true ↔ mask = 0 ∨ ∀ p ∈ x.pend, ¬ held p := fenceSettled_iff
    refine ⟨fun h => ?fence, fun hmask hheld => ?fenceWaits, fun hs => ⟨fun hon hmat hcpy => ?rdv, fun hbusy => ?rdvWaits,
      fun ha hset hroom => ?send, fun ha hwait => ?sendWaits, fun v r hd hq => execVqrecv_word hx hs hd hq,
      fun hd hq => execVqrecv_empty hx hs hd hq, fun ha hdecl => ⟨?claim, fun hfree => ?release⟩,
      fun ha hnot => execClaim_execRelease_undeclared hx hs ha hnot⟩⟩
    case fence => exact (execFence_eq hx mask sc).trans (if_pos (hfence.2 h))
    case fenceWaits =>
      obtain ⟨p, hp, hholds⟩ := hheld
      refine (execFence_eq hx mask sc).trans (if_neg fun hset => ?_)
      rcases hfence.1 hset with h0 | hnone
      · exact hmask h0
      · exact hnone p hp hholds
    case rdv => exact (execRdv_eq hx hs).trans (if_pos (rdvReady_iff.2 ⟨hon, hmat, hcpy⟩))
    case rdvWaits =>
      refine (execRdv_eq hx hs).trans (if_neg fun hready => ?_)
      obtain ⟨hon, hmat, hcpy⟩ := rdvReady_iff.1 hready
      rcases hbusy with h | h | h
      · rw [hon] at h
        cases h
      · exact h hmat
      · exact h hcpy
    case send => exact (execVqsend_eq hx hs ha).trans (if_pos (Bool.and_eq_true_iff.2 ⟨hset, decide_eq_true hroom⟩))
    case sendWaits =>
      refine (execVqsend_eq hx hs ha).trans (if_neg fun hready => ?_)
      obtain ⟨hset, hroom⟩ := Bool.and_eq_true_iff.1 hready
      rcases hwait with h | h
      · rw [hset] at h
        cases h
      · exact Nat.not_lt.2 h (of_decide_eq_true hroom)
    case claim =>
      exact ⟨_, execClaim_completes hx hs ha hdecl, x.mapTiles_eq Tile.claim _, x.tile_mapTiles (f := Tile.claim) (fun _ => rfl) _⟩
    case release =>
      exact ⟨_, execRelease_completes hx hs ha hdecl hfree, x.mapTiles_eq (fun _ => Tile.empty) _,
        x.tile_mapTiles (f := fun _ => Tile.empty) (fun _ => rfl) _⟩

end Sys2Proof.Machine
end

section
/-! PROOF. The elementwise forms of the vector stream (11 R201 to R204): each as the values that the active elements receive, on float
formats by one rounding and on integer formats modulo 2^w, clamped, or bit by bit. -/

namespace Sys2Proof.Machine
open Sys2Proof

/-! ### The shapes of one, two and three sources -/

section
variable {s : State} {x : Task} {w : VWord} (hx : Acts s x)
include hx

/-- An elementwise form whose sources may be read gives each active element its value. -/
theorem State.elementwise_lanes {accepts : Bool} {srcs : List (BitVec 9)} (f : (Nat → Nat) → Nat) (hok : accepts = true)
    (hf : w.fmt ≠ Fm.none) (hs : ∀ r ∈ srcs, Sourced x r w.fmt) : s.elementwise w accepts srcs f =
      s.lanes x w (fun i => f (fun j => (nth (srcs.map (fun r => x.vec.reg r.toNat)) j VReg.empty).elem (fmtWidth w.fmt) i)) :=
  State.elementwise_ok hx hok hf (fun r hr => (hs r hr).2)

variable (ha : Sourced x w.a w.fmt)
include ha

theorem State.vunary_lanes {accepts : Bool} (f : Nat → Nat) (hok : accepts = true) :
    s.vunary w accepts f = s.lanes x w (fun i => f (lane x w w.a i)) :=
  State.elementwise_lanes hx (fun e => f (e 0)) hok ha.1 (by simpa using ha)

variable (hb : Sourced x w.b w.fmt)
include hb

theorem State.vbinary_lanes {accepts : Bool} (f : Nat → Nat → Nat) (hok : accepts = true) :
    s.vbinary w accepts f = s.lanes x w (fun i => f (lane x w w.a i) (lane x w w.b i)) :=
  State.elementwise_lanes hx (fun e => f (e 0) (e 1)) hok ha.1 (by simpa using ⟨ha, hb⟩)

theorem State.vfused_lanes (hc : Sourced x w.c w.fmt) (prod addend : Val → Val) (hf : fmtIsFloat w.fmt = true) :
    s.vfused w prod addend = s.lanes x w (fun i => (floatLayout w.fmt).ofVal w.rm.toNat
      ((prod (((floatLayout w.fmt).value (lane x w w.a i)).mul ((floatLayout w.fmt).value (lane x w w.b i)))).add w.rm.toNat
        (addend ((floatLayout w.fmt).value (lane x w w.c i))))) := by
  unfold State.vfused
  exact State.elementwise_lanes hx _ hf ha.1 (by simpa using ⟨ha, hb, hc⟩)

end

/-! ### Formats -/

theorem acceptsFI_of_float {f : Fmt} (h : fmtIsFloat f = true) : acceptsFI f = true := by simp [acceptsFI, h]
theorem acceptsFI_of_int {f : Fmt} (h : fmtIsInt f = true) : acceptsFI f = true := by simp [acceptsFI, h]

/-- No format is both a float and an integer format, and each float format has a layout (Tables 4.1 and 4.2). -/
theorem fmtIsFloat_of_int : ∀ {f : Fmt}, fmtIsInt f = true → fmtIsFloat f = false := by decide
theorem floatOf_of_float : ∀ {f : Fmt}, fmtIsFloat f = true → floatOf f = some (floatLayout f) := by decide

section
variable {f : Fmt} (hf : fmtIsFloat f = true)
include hf

theorem floatOp2_of_float (rm : Rm) (op : Val → Val → Val) (a b : Nat) :
    floatOp2 f rm op a b = (floatLayout f).ofVal rm (op ((floatLayout f).value a) ((floatLayout f).value b)) := by
  rw [floatOp2, floatOf_of_float hf]

theorem lane2_of_float (rm : BitVec 3) (fop : Val → Val → Val) (iop : Int → Int → Int) (a b : Nat) :
    lane2 f rm fop iop a b = (floatLayout f).ofVal rm.toNat (fop ((floatLayout f).value a) ((floatLayout f).value b)) := by
  rw [lane2, if_pos hf, floatOp2_of_float hf]

end

theorem lane2_of_int {f : Fmt} (hf : fmtIsInt f = true) (rm : BitVec 3) (fop : Val → Val → Val) (iop : Int → Int → Int) (a b : Nat) :
    lane2 f rm fop iop a b = codeOf (fmtWidth f) (iop (intElem f a) (intElem f b)) := by
  rw [lane2, fmtIsFloat_of_int hf]
  rfl

/-- Between bounds in their order, clamping is the maximum with the lower one of the minimum with the upper one. -/
theorem clampInt_eq_max_min {lo hi : Int} (h : lo ≤ hi) (i : Int) : clampInt lo hi i = max lo (min hi i) := by
  unfold clampInt
  split
  · omega
  · split <;> omega

theorem intBounds_le (f : Fmt) : (intBounds f).1 ≤ (intBounds f).2 := by
  have hhalf : (0 : Int) < 2 ^ (fmtWidth f - 1) := by positivity
  have hfull : (0 : Int) < 2 ^ fmtWidth f := by positivity
  unfold intBounds
  split <;> simp only <;> omega

theorem satLane_eq (f : Fmt) (i : Int) :
    satLane f i = codeOf (fmtWidth f) (max (intBounds f).1 (min (intBounds f).2 i)) := by
  rw [satLane, clampInt_eq_max_min (intBounds_le f)]

/-! ### Float formats (R201, R202, R204) -/

section
variable {s : State} {x : Task} {w : VWord} (hx : Acts s x) (hf : fmtIsFloat w.fmt = true) (ha : Sourced x w.a w.fmt)
include hx hf ha

/-- A form of two sources on a float format rounds its result once. -/
theorem State.vbinary_float (hb : Sourced x w.b w.fmt) (rm : BitVec 3) (fop : Val → Val → Val) (iop : Int → Int → Int) :
    s.vbinary w (acceptsFI w.fmt) (lane2 w.fmt rm fop iop) = s.lanes x w (fun i =>
      (floatLayout w.fmt).ofVal rm.toNat (fop ((floatLayout w.fmt).value (lane x w w.a i)) ((floatLayout w.fmt).value (lane x w w.b i)))) := by
  rw [State.vbinary_lanes hx ha hb _ (acceptsFI_of_float hf)]
  simp only [lane2_of_float hf]

theorem State.vunary_float (rm : BitVec 3) (fop : Val → Val) (iop : Int → Int) :
    s.vunary w (acceptsFI w.fmt) (fun a => lane2 w.fmt rm (fun v _ => fop v) (fun v _ => iop v) a a) = s.lanes x w (fun i =>
      (floatLayout w.fmt).ofVal rm.toNat (fop ((floatLayout w.fmt).value (lane x w w.a i)))) := by
  rw [State.vunary_lanes hx ha _ (acceptsFI_of_float hf)]
  simp only [lane2_of_float hf]

/-- A transcendental form writes the function of each element. -/
theorem State.vfunction_lanes (fn : Fn) :
    s.vfunction w fn = s.lanes x w (fun i => (floatLayout w.fmt).fn w.rm.toNat fn (lane x w w.a i)) :=
  State.vunary_lanes hx ha _ hf

end

/-- Settles O27: each form is the shape of one, two or three sources with its operation on the elements' values. -/
theorem vectorFloat : Obligations.VectorFloat := by
  unfold Obligations.VectorFloat
  intro s x w hx hf ha F rm A B C
  refine ⟨fun hb => ⟨?_, ?_, ?_, ?_, ?_, ?_, fun hc => ⟨?_, ?_, ?_⟩⟩, ?_, ?_, ?_, ?_⟩
  · exact State.vbinary_float hx hf ha hb w.rm (Val.add rm) _
  · exact State.vbinary_float hx hf ha hb w.rm (fun a b => a.add rm b.neg) _
  · exact State.vbinary_float hx hf ha hb w.rm Val.mul _
  · exact State.vbinary_lanes hx ha hb (fun a b => F.div rm (F.value a) (F.value b)) hf
  · exact State.vbinary_float hx hf ha hb 0 Val.min _
  · exact State.vbinary_float hx hf ha hb 0 Val.max _
  · exact State.vfused_lanes hx ha hb hc id id hf
  · exact State.vfused_lanes hx ha hb hc id Val.neg hf
  · exact State.vfused_lanes hx ha hb hc Val.neg id hf
  · exact State.vunary_lanes hx ha (fun a => F.sqrt rm (F.value a)) hf
  · exact State.vunary_float hx hf ha 0 Val.abs (fun a => a.natAbs)
  · exact State.vunary_float hx hf ha 0 Val.neg (fun a => -a)
  · have hfn (fn : Fn) := State.vfunction_lanes hx hf ha fn
    exact ⟨hfn .exp, hfn .log, hfn .rcp, hfn .rsqrt, hfn .tanh, hfn .sigm, hfn .sin, hfn .cos⟩

/-! ### Integer formats (R201, R203) -/

section
variable {s : State} {x : Task} {w : VWord} (hx : Acts s x) (hf : fmtIsInt w.fmt = true) (ha : Sourced x w.a w.fmt)
include hx hf ha

/-- A form of two sources on an integer format wraps modulo 2^w. -/
theorem State.vbinary_int (hb : Sourced x w.b w.fmt) (rm : BitVec 3) (fop : Val → Val → Val) (iop : Int → Int → Int) :
    s.vbinary w (acceptsFI w.fmt) (lane2 w.fmt rm fop iop) = s.lanes x w (fun i =>
      codeOf (fmtWidth w.fmt) (iop (intElem w.fmt (lane x w w.a i)) (intElem w.fmt (lane x w w.b i)))) := by
  rw [State.vbinary_lanes hx ha hb _ (acceptsFI_of_int hf)]
  simp only [lane2_of_int hf]

theorem State.vunary_int (rm : BitVec 3) (fop : Val → Val) (iop : Int → Int) :
    s.vunary w (acceptsFI w.fmt) (fun a => lane2 w.fmt rm (fun v _ => fop v) (fun v _ => iop v) a a) = s.lanes x w (fun i =>
      codeOf (fmtWidth w.fmt) (iop (intElem w.fmt (lane x w w.a i)))) := by
  rw [State.vunary_lanes hx ha _ (acceptsFI_of_int hf)]
  simp only [lane2_of_int hf]

/-- A saturating form clamps the exact result to the bounds of its format. -/
theorem State.vbinary_sat (hb : Sourced x w.b w.fmt) (iop : Int → Int → Int) :
    s.vbinary w (fmtIsInt w.fmt) (fun a b => satLane w.fmt (iop (intElem w.fmt a) (intElem w.fmt b))) = s.lanes x w (fun i =>
      codeOf (fmtWidth w.fmt) (max (intBounds w.fmt).1 (min (intBounds w.fmt).2
        (iop (intElem w.fmt (lane x w w.a i)) (intElem w.fmt (lane x w w.b i)))))) := by
  rw [State.vbinary_lanes hx ha hb _ hf]
  simp only [satLane_eq]

/-- A shift takes its amounts from the low bits of v[B] or from the word. -/
theorem State.vshiftBy_lanes {n : Nat → Nat} (f : Nat → Nat → Nat)
    (hn : (w.flg = 0 ∧ Sourced x w.b w.fmt ∧ ∀ i, n i = lane x w w.b i % fmtWidth w.fmt) ∨ (w.flg = 1 ∧ ∀ i, n i = w.c.toNat)) :
    s.vshiftBy w f = s.lanes x w (fun i => f (lane x w w.a i) (n i)) := by
  unfold State.vshiftBy
  rcases hn with ⟨hflg, hb, hn⟩ | ⟨hflg, hn⟩
  · rw [hflg, if_neg (by decide), State.vbinary_lanes hx ha hb _ hf]
    simp only [hn]
  · rw [hflg, if_pos (by decide), State.vunary_lanes hx ha _ hf]
    simp only [hn]

end

/-- Settles O28: the forms by their shapes, with wrapping, clamped or bitwise values; a shift by its amounts. -/
theorem vectorInteger : Obligations.VectorInteger := by
  unfold Obligations.VectorInteger
  intro s x w hx hf ha f a b A B wraps clamps
  refine ⟨fun hb => ⟨?_, ?_, ?_, ?_, ?_, ?_, ?_, ?_, ?_, ?_, ?_⟩, ?_, ?_, ?_, fun n hn => ⟨?_, ?_, ?_⟩⟩
  · exact State.vbinary_int hx hf ha hb w.rm _ (fun a b => a + b)
  · exact State.vbinary_int hx hf ha hb w.rm _ (fun a b => a - b)
  · exact State.vbinary_int hx hf ha hb w.rm _ (fun a b => a * b)
  · exact State.vbinary_lanes hx ha hb (fun a b => codeOf f (intElem w.fmt a * intElem w.fmt b / 2 ^ f)) hf
  · exact State.vbinary_int hx hf ha hb 0 _ (fun a b => min a b)
  · exact State.vbinary_int hx hf ha hb 0 _ (fun a b => max a b)
  · exact State.vbinary_sat hx hf ha hb (fun a b => a + b)
  · exact State.vbinary_sat hx hf ha hb (fun a b => a - b)
  · exact State.vbinary_lanes hx ha hb (fun a b => a &&& b) hf
  · exact State.vbinary_lanes hx ha hb (fun a b => a ||| b) hf
  · exact State.vbinary_lanes hx ha hb (fun a b => a ^^^ b) hf
  · exact State.vunary_int hx hf ha 0 Val.abs (fun a => a.natAbs)
  · exact State.vunary_int hx hf ha 0 Val.neg (fun a => -a)
  · exact State.vunary_lanes hx ha (fun a => 2 ^ f - 1 - a) hf
  · exact State.vshiftBy_lanes hx hf ha (fun a n => a * 2 ^ n % 2 ^ f) hn
  · exact State.vshiftBy_lanes hx hf ha (fun a n => a / 2 ^ n) hn
  · exact State.vshiftBy_lanes hx hf ha (fun a n => codeOf f (signedOf f a / 2 ^ n)) hn

end Sys2Proof.Machine
end

section
/-! PROOF. Selection, compares and the mask forms of the vector stream (11 R205 to R207): the elements of a register that is written whole,
and the bits of a mask. -/

namespace Sys2Proof.Machine
open Sys2Proof

/-! ### Registers that are written whole -/

/-- An element of a register written whole has the low bits of its value. -/
theorem Vec.elem_fill (v : Vec) (r : Nat) {f : Fmt} {vals : List Nat} (hlen : vals.length = fmtElems f) {i : Nat} (hi : i < vals.length) :
    ((v.fill r f vals).reg r).elem (fmtWidth f) i = vals[i] % 2 ^ fmtWidth f := by
  have hlen' : (vals.map some).length = fmtElems f := (List.length_map _).trans hlen
  rw [Vec.fill, Vec.reg_merge_same, VReg.elem_merge _ hlen' (by simpa using hi), List.getElem_map]
  rfl

theorem Vec.elem_fill_map (v : Vec) (r : Nat) (f : Fmt) (val : Nat → Nat) {i : Nat} (hi : i < fmtElems f) :
    ((v.fill r f ((List.range (fmtElems f)).map val)).reg r).elem (fmtWidth f) i = val i % 2 ^ fmtWidth f := by
  rw [Vec.elem_fill v r (by simp) (by simpa using hi)]
  simp

/-- A mask has a bit for each element of every format (Table 4.1). -/
theorem fmtElems_le : ∀ f : Fmt, fmtElems f ≤ 4096 := by decide

/-! ### vsel (R206) -/

theorem movesFormat_eq_false {f : Fmt} (h : f = Fm.none ∨ fmtIsBlock f = true) : movesFormat f = false := by
  rcases h with h | h <;> simp [movesFormat, h]

section
variable {s : State} {x : Task} {w : VWord} (hx : Acts s x)
include hx

theorem exec_vsel_format (h : w.fmt = Fm.none ∨ fmtIsBlock w.fmt = true) :
    exec (.vsel w) s = s.deliverStream s.cur x .vector (.error (.flt Flt.format 0)) :=
  State.issueVec_error hx (by rw [movesFormat_eq_false h]; rfl)

theorem exec_vsel (hblock : fmtIsBlock w.fmt = false) (ha : Sourced x w.a w.fmt) (hb : Sourced x w.b w.fmt) :
    exec (.vsel w) s = s.vecCompletes x (x.vec.fill w.d.toNat w.fmt ((List.range (fmtElems w.fmt)).map
      (fun i => if x.vec.active w.k i then lane x w w.a i else lane x w w.b i))) := by
  refine State.issueVec_ok hx ?_
  dsimp only
  rw [check_of (movesFormat_of ha.1 hblock), Res.bind_ok, Vec.source_ok ha.1 ha.2.1, Res.bind_ok, Vec.source_ok hb.1 hb.2.1, Res.bind_ok,
    VReg.sound_ok ha.2.2, Res.bind_ok, VReg.sound_ok hb.2.2, Res.bind_ok]
  rfl

end

/-- The fields that a form of two sources without rounding leaves unused are zero (R136). -/
theorem vplain2_unused {w : VWord} (h : vplain2 w = true) : w.c = 0 ∧ w.rm = 0 ∧ w.flg = 0 := by
  simp only [vplain2, vrule, vfieldOk, Bool.and_eq_true, beq_iff_eq, Bool.false_eq_true, if_false] at h
  obtain ⟨⟨⟨⟨⟨⟨_, hc⟩, _⟩, _⟩, hrm⟩, hflg⟩, _⟩ := h
  exact ⟨hc, hrm, BitVec.and_allOnes.symm.trans hflg⟩

theorem vsel_illFormed {w : VWord} (h : w.c ≠ 0 ∨ w.rm ≠ 0 ∨ w.flg ≠ 0) : (Instr.vsel w).wellFormed = false := by
  rw [← Bool.not_eq_true]
  intro hwf
  obtain ⟨hc, hrm, hflg⟩ := vplain2_unused (w := w) hwf
  rcases h with h | h | h
  · exact h hc
  · exact h hrm
  · exact h hflg

theorem parseVector_vsel {v : BitVec 64} (hop : v.extractLsb' 56 8 = 0x29) : parseVector v = .ok (.vsel (vwordOf v)) := by
  rw [parseVector, show bits v 56 8 = 0x29 from hop]
  rfl

/-- The last two fields of a vector word together (Table 8.5). -/
theorem rm_flg_of_low_bits {v : BitVec 64} (hrm : v.extractLsb' 3 3 = 0) (hflg : v.extractLsb' 0 3 = 0) : v.extractLsb' 0 6 = 0 := by
  have hsplit : v.extractLsb' 0 6 = v.extractLsb' 3 3 ++ v.extractLsb' 0 3 :=
    (BitVec.extractLsb'_append_extractLsb'_eq_extractLsb' (start₁ := 0) (len₁ := 3) (start₂ := 3) (len₂ := 3) rfl).symm
  rw [hsplit, hrm, hflg]
  rfl

theorem decodeVector_vsel_error {v : BitVec 64} (hop : v.extractLsb' 56 8 = 0x29)
    (h : v.extractLsb' 20 9 ≠ 0 ∨ v.extractLsb' 0 6 ≠ 0) : decodeVector v = .error .illFormed := by
  have hunused : (vwordOf v).c ≠ 0 ∨ (vwordOf v).rm ≠ 0 ∨ (vwordOf v).flg ≠ 0 := by
    rcases h with hc | hlow
    · exact .inl hc
    · refine .inr (Classical.not_and_iff_not_or_not.1 fun ⟨hrm, hflg⟩ => hlow (rm_flg_of_low_bits hrm hflg))
  rw [decodeVector, parseVector_vsel hop, checkFields, vsel_illFormed hunused]
  rfl

/-- Settles O51: the register that vsel writes is read element by element; its unused fields make a word ill-formed. -/
theorem select : Obligations.Select := by
  unfold Obligations.Select
  intro s x w hx
  refine ⟨exec_vsel_format hx, fun hblock ha hb => ?completes, vsel_illFormed, fun v hop h => ⟨_, decodeVector_vsel_error hop h⟩⟩
  case completes =>
    let val (i : Nat) : Nat := if x.vec.active w.k i then lane x w w.a i else lane x w w.b i
    let v := x.vec.fill w.d.toNat w.fmt ((List.range (fmtElems w.fmt)).map val)
    have hlane (i : Nat) (hi : i < fmtElems w.fmt) : (v.reg w.d.toNat).elem (fmtWidth w.fmt) i = val i := by
      refine (Vec.elem_fill_map x.vec w.d.toNat w.fmt val hi).trans (Nat.mod_eq_of_lt ?_)
      dsimp only [val]
      split <;> exact VReg.elem_lt ..
    refine ⟨_, exec_vsel hx hblock ha hb, rfl, rfl, ?tag, fun j hj => Vec.reg_merge_other _ _ _ hj, fun i hi => hlane i hi, fun hk i hi => ?all⟩
    case tag => exact congrArg VReg.tag (Vec.reg_merge_same ..)
    case all =>
      refine (hlane i hi).trans (if_pos ?_)
      rw [Vec.active, hk]
      exact (BitVec.getLsbD_allOnes ..).trans (decide_eq_true (Nat.lt_of_lt_of_le hi (fmtElems_le w.fmt)))

/-! ### Masks as lists of bits -/

theorem testBit_packBits_one (l : List Bool) (i : Nat) :
    (packBits 1 (l.map (fun b => if b then 1 else 0))).testBit i = (l[i]?).getD false := by
  induction l generalizing i with
  | nil => simp [packBits]
  | cons b l ih =>
    cases i with
    | zero => cases b <;> simp [packBits, Nat.testBit_zero]
    | succ i =>
      have hshift : packBits 1 ((b :: l).map (fun b => if b then 1 else 0)) / 2 = packBits 1 (l.map (fun b => if b then 1 else 0)) := by
        have hbit : (if b then 1 else 0) % 2 ^ 1 < 2 := Nat.mod_lt _ (by decide)
        rw [List.map_cons, packBits]
        omega
      rw [Nat.testBit_succ, hshift, ih]
      rfl

/-- Bit i of a mask made of a list is its i-th. -/
theorem getLsbD_maskOf (l : List Bool) {i : Nat} (hi : i < 4096) : (maskOf l).getLsbD i = (l[i]?).getD false := by
  rw [maskOf, BitVec.getLsbD_ofNat, testBit_packBits_one, decide_eq_true hi, Bool.true_and]

theorem getElem?_map_range_getD {α : Type} (p : Nat → α) (n i : Nat) (d : α) :
    (((List.range n).map p)[i]?).getD d = if i < n then p i else d := by
  split
  · next h => simp [h]
  · next h => simp [Nat.not_lt.1 h]

/-- A mask is what its bits are. -/
theorem maskOf_map_range {n : Nat} {p : Nat → Bool} {m : BitVec 4096} (hm : ∀ i < 4096, m.getLsbD i = (decide (i < n) && p i)) :
    maskOf ((List.range n).map p) = m := by
  refine BitVec.eq_of_getLsbD_eq fun i hi => ?_
  rw [getLsbD_maskOf _ hi, getElem?_map_range_getD, hm i hi]
  by_cases h : i < n <;> simp [h]

/-- The mask of the bits below a bound. -/
theorem maskBelow_eq {b : Nat} {m : BitVec 4096} (hm : ∀ i < 4096, m.getLsbD i = decide (i < b)) :
    BitVec.ofNat 4096 (2 ^ min b 4096 - 1) = m := by
  refine BitVec.eq_of_getLsbD_eq fun i hi => ?_
  rw [BitVec.getLsbD_ofNat, Nat.testBit_two_pow_sub_one, hm i hi]
  simp [hi]

/-- The lowest one bit of a mask below n, and n where there is none. -/
theorem headD_maskBits {m : BitVec 4096} {n i : Nat} (hi : i ≤ n) (hbelow : ∀ j < i, m.getLsbD j = false)
    (hfound : i = n ∨ m.getLsbD i = true) : (maskBits m n).headD n = i := by
  rw [maskBits, List.headD_eq_head?_getD, List.head?_filter]
  rcases Nat.lt_or_eq_of_le hi with hlt | rfl
  · have hbit : m.getLsbD i = true := hfound.resolve_left (Nat.ne_of_lt hlt)
    rw [List.find?_range_eq_some.2 ⟨hbit, List.mem_range.2 hlt, fun j hj => by simp [hbelow j hj]⟩]
    rfl
  · rw [List.find?_eq_none.2 fun j hj => by simp [hbelow j (List.mem_range.1 hj)]]
    rfl

/-! ### The mask forms and compares (R205, R207) -/

section
variable {s : State} {x : Task} {w : VWord} (hx : Acts s x)
include hx

theorem State.kbinary_completes (hnone : w.fmt = Fm.none) (f : BitVec 4096 → BitVec 4096 → BitVec 4096) : s.kbinary w f =
    s.vecCompletes x (x.vec.setMask w.d.toNat (f (x.vec.mask w.a.toNat) (x.vec.mask w.b.toNat))) :=
  State.issueVec_ok hx (by rw [noFormat_ok hnone, Res.bind_ok])

theorem exec_kmovPfx (hnone : w.fmt = Fm.none) : exec (.kmovPfx w) s = s.vecCompletes x (x.vec.setMask w.d.toNat
    (BitVec.ofNat 4096 (2 ^ min (x.vec.scalar w.a.toNat).toNat 4096 - 1))) :=
  State.issueVec_ok hx (by rw [noFormat_ok hnone, Res.bind_ok])

theorem exec_kpop : exec (.kpop w) s = s.vecCompletes x (x.vec.setScalar w.d.toNat
    (word (maskBits (x.vec.mask w.a.toNat) (maskCount w.fmt)).length)) := State.issueVec_ok hx rfl

theorem exec_kfirst : exec (.kfirst w) s = s.vecCompletes x (x.vec.setScalar w.d.toNat
    (word ((maskBits (x.vec.mask w.a.toNat) (maskCount w.fmt)).headD (maskCount w.fmt)))) := State.issueVec_ok hx rfl

theorem exec_vcmp (ha : Sourced x w.a w.fmt) (hb : Sourced x w.b w.fmt) (hf : (acceptsFI w.fmt || w.fmt == Fm.idx16) = true) :
    exec (.vcmp w) s = s.vecCompletes x (x.vec.setMask w.d.toNat (maskOf ((List.range (fmtElems w.fmt)).map (fun i =>
      x.vec.active w.k i && compareHolds w.flg (compareElems w.fmt (lane x w w.a i) (lane x w w.b i)))))) := by
  refine State.issueVec_ok hx ?_
  dsimp only
  rw [check_of hf, Res.bind_ok, Vec.source_ok ha.1 ha.2.1, Res.bind_ok, Vec.source_ok hb.1 hb.2.1, Res.bind_ok,
    VReg.sound_ok ha.2.2, Res.bind_ok, VReg.sound_ok hb.2.2, Res.bind_ok]
  rfl

end

theorem maskCount_eq (f : Fmt) : maskCount f = if f = Fm.none then 4096 else fmtElems f := by simp [maskCount]

/-- Settles O29: each form writes a mask or a stream scalar; two masks are equal when their 4,096 bits are. -/
theorem vectorMasks : Obligations.VectorMasks := by
  unfold Obligations.VectorMasks
  intro s x w hx M masks n
  have hn : maskCount w.fmt = n := maskCount_eq w.fmt
  refine ⟨fun hnone => ?masks, ?pop, fun i hi hbelow hfound => ?first, fun ha hb hf m hm => ?compare⟩
  case masks =>
    refine ⟨?_, ?_, ?_, ?_, ?_, ?_, fun m hm => ?_⟩
    · exact State.kbinary_completes hx hnone (fun a b => a &&& b)
    · exact State.kbinary_completes hx hnone (fun a b => a ||| b)
    · exact State.kbinary_completes hx hnone (fun a b => a ^^^ b)
    · exact State.kbinary_completes hx hnone (fun a b => a &&& ~~~b)
    · exact State.kbinary_completes hx hnone (fun a _ => ~~~a)
    · exact State.kbinary_completes hx hnone (fun a _ => a)
    · rw [exec_kmovPfx hx hnone, maskBelow_eq hm]
  case pop => rw [exec_kpop hx, hn, maskBits]
  case first => rw [exec_kfirst hx, hn, headD_maskBits hi hbelow hfound]
  case compare =>
    have haccepts : (acceptsFI w.fmt || w.fmt == Fm.idx16) = true := by
      rcases hf with h | h | h <;> simp [acceptsFI, h]
    rw [exec_vcmp hx ha hb haccepts, maskOf_map_range (by simpa only [Bool.and_assoc] using hm)]

end Sys2Proof.Machine
end

section
/-! PROOF. Permutes and broadcasts, partition, compression and expansion of the vector stream (11 R200, R212, R213, R215): the register and the
element that each active element is taken from. -/

namespace Sys2Proof.Machine
open Sys2Proof

/-! ### Lists -/

/-- A list filled up with zeros, by its places. -/
theorem append_replicate_zero {l : List Nat} {n : Nat} (h : l.length ≤ n) :
    l ++ List.replicate (n - l.length) 0 = (List.range n).map (fun j => (l[j]?).getD 0) := by
  refine List.ext_getElem (by simp; omega) fun j hj _ => ?_
  rw [List.getElem_map, List.getElem_range]
  by_cases hlt : j < l.length
  · rw [List.getElem_append_left hlt, List.getElem?_eq_getElem hlt, Option.getD_some]
  · rw [List.getElem_append_right (Nat.not_lt.1 hlt), List.getElem_replicate, List.getElem?_eq_none (Nat.not_lt.1 hlt), Option.getD_none]

theorem getD_getElem?_map (l : List Nat) (f : Nat → Nat) (j : Nat) :
    ((l.map f)[j]?).getD 0 = if j < l.length then f (nth l j 0) else 0 := by
  split
  · next h => simp [nth, h]
  · next h => simp [Nat.not_lt.1 h]

/-- Values in order at the true places: a place gets the value whose number is the count of the true places before it. -/
theorem spread_map_range' (val : Nat → Nat) (p : Nat → Bool) (i n : Nat) :
    spread val ((List.range i).filter p).length ((List.range' i n).map p) =
      (List.range' i n).map (fun k => if p k then some (val ((List.range k).filter p).length) else none) := by
  induction n generalizing i with
  | zero => rfl
  | succ n ih =>
    have hrest := ih (i + 1)
    rw [List.range_succ, List.filter_append, List.length_append] at hrest
    rw [List.range'_succ, List.map_cons, List.map_cons]
    cases hp : p i with
    | true =>
      rw [List.filter_cons_of_pos hp] at hrest
      exact congrArg (List.cons _) hrest
    | false =>
      rw [List.filter_cons_of_neg (by simp [hp])] at hrest
      exact congrArg (List.cons _) hrest

/-! ### Index lists (R200) -/

/-- The registers of an index list from register r on. -/
def Vec.listOf (v : Vec) (r : Nat) (f : Fmt) : List VReg := (List.range (listRegs f)).map (fun j => v.reg (r + j))

section
variable {v : Vec} {r : Nat} {f : Fmt} (hl : ∀ j < listRegs f, (v.reg (r + j)).tag = Fm.idx16 ∧ (v.reg (r + j)).bad = [])
include hl

theorem Vec.indexList_ok : v.indexList r f = .ok (v.listOf r f) :=
  Res.mapM_ok (fun j hj => Vec.source_ok (by decide) (hl j (List.mem_range.1 hj)).1)

/-- Entry i of an index list is element i mod 1,024 of its register i / 1,024. -/
theorem Vec.listEntry_ok {i : Nat} (hi : i < fmtElems f) :
    listEntry (v.listOf r f) i = .ok ((v.reg (r + i / 1024)).elem 16 (i % 1024)) := by
  have hj : i / 1024 < listRegs f := by unfold listRegs; omega
  have hreg : nth (v.listOf r f) (i / 1024) VReg.empty = v.reg (r + i / 1024) := by simp [nth, Vec.listOf, hj]
  unfold listEntry
  rw [hreg]
  dsimp only
  rw [VReg.sound_ok (hl _ hj).2, Res.bind_ok]

end

/-! ### Permutes and broadcasts (R212) -/

/-- An operation that goes on alike after either of two. -/
theorem Res.ite_bind {α β : Type} (c : Prop) [Decidable c] (p q : Res α) (f : α → Res β) :
    (if c then p >>= f else q >>= f) = (if c then p else q) >>= f := by split <;> rfl

theorem zipHalf_le (w : VWord) : zipHalf w ≤ 1 := by unfold zipHalf; split <;> decide
theorem fmtElems_even : ∀ f : Fmt, fmtElems f % 2 = 0 := by decide

section
variable {s : State} {x : Task} {w : VWord} (hx : Acts s x) (hblock : fmtIsBlock w.fmt = false)
include hx hblock

/-- The second source of a permute, or the first where it has one. -/
def otherSource (w : VWord) (two : Bool) : BitVec 9 := if two then w.b else w.a

/-- A permute takes each active element from the register and the place that its rule names, which lie inside the register. -/
theorem State.permuteForm_lanes (ha : Sourced x w.a w.fmt) {two : Bool} (hb : Sourced x (otherSource w two) w.fmt)
    {pre : Vec → Res (List VReg)} {l : List VReg} (hpre : pre x.vec = .ok l) {pick : Vec → List VReg → Nat → Res (Bool × Nat)}
    (place : Nat → Bool × Nat)
    (hpick : ∀ i < fmtElems w.fmt, x.vec.active w.k i = true → pick x.vec l i = .ok (place i) ∧ (place i).2 < fmtElems w.fmt) :
    s.permuteForm w two pre pick = s.lanes x w (fun i => lane x w (if (place i).1 then otherSource w two else w.a) (place i).2) := by
  have hsecond : (if two then x.vec.source w.b.toNat w.fmt else .ok (x.vec.reg w.a.toNat)) = .ok (x.vec.reg (otherSource w two).toNat) := by
    cases two with
    | true => exact Vec.source_ok hb.1 hb.2.1
    | false => rfl
  refine State.issueVec_ok hx ?_
  dsimp only
  rw [check_of (movesFormat_of ha.1 hblock), Res.bind_ok, Vec.source_ok ha.1 ha.2.1, Res.bind_ok, Res.ite_bind, hsecond,
    Res.bind_ok, hpre, Res.bind_ok,
    Res.mapM_ok (g := fun i => if x.vec.active w.k i = true
      then some (lane x w (if (place i).1 then otherSource w two else w.a) (place i).2) else none), Res.bind_ok]
  · rfl
  · intro i hi
    split
    · next hon =>
      obtain ⟨hplace, hlt⟩ := hpick i (List.mem_range.1 hi) hon
      rw [hplace, Res.bind_ok, check_of (decide_eq_true hlt), Res.bind_ok]
      cases (place i).1 with
      | true => exact congrArg (fun q => q >>= _) (VReg.sound_ok hb.2.2 _ _)
      | false => exact congrArg (fun q => q >>= _) (VReg.sound_ok ha.2.2 _ _)
    · rfl

theorem exec_vbcast (hnone : w.fmt ≠ Fm.none) (hcount : w.flg.getLsbD 0 = true → fmtIsInt w.fmt = true) :
    exec (.vbcast w) s = s.lanes x w (fun i =>
      ((x.vec.scalar w.a.toNat).toNat + (if w.flg.getLsbD 0 then i else 0)) % 2 ^ fmtBits w.fmt) := by
  have hok : (movesFormat w.fmt && (!w.flg.getLsbD 0 || fmtIsInt w.fmt)) = true := by
    rw [movesFormat_of hnone hblock, Bool.true_and]
    cases hf : w.flg.getLsbD 0 with
    | false => rfl
    | true => simpa using hcount hf
  refine State.issueVec_ok hx ?_
  dsimp only
  rw [check_of hok, Res.bind_ok]
  cases w.flg.getLsbD 0 <;> rfl

section
variable (ha : Sourced x w.a w.fmt)
include ha

theorem exec_vperm (hl : ∀ j < listRegs w.fmt, (x.vec.reg (w.b.toNat + j)).tag = Fm.idx16 ∧ (x.vec.reg (w.b.toNat + j)).bad = [])
    (list : Nat → Nat)
    (hlist : ∀ i < fmtElems w.fmt, list i = (x.vec.reg (w.b.toNat + i / 1024)).elem 16 (i % 1024) ∧ list i < fmtElems w.fmt) :
    exec (.vperm w) s = s.lanes x w (fun i => lane x w w.a (list i)) := by
  show execVperm w s = _
  refine State.permuteForm_lanes hx hblock ha (two := false) ha (Vec.indexList_ok hl) (fun i => (false, list i)) fun i hi _ => ?_
  rw [Vec.listEntry_ok hl hi, ← (hlist i hi).1]
  exact ⟨rfl, (hlist i hi).2⟩

theorem exec_vrot : exec (.vrot w) s = s.lanes x w (fun i => lane x w w.a ((i + (x.vec.scalar w.b.toNat).toNat) % fmtElems w.fmt)) := by
  show execVrot w s = _
  exact State.permuteForm_lanes hx hblock ha (two := false) ha rfl (fun i => (false, (i + (x.vec.scalar w.b.toNat).toNat) % fmtElems w.fmt))
    fun i hi _ => ⟨rfl, Nat.mod_lt _ (Nat.zero_lt_of_lt hi)⟩

theorem exec_vbcastel (hlt : ∀ i < fmtElems w.fmt, x.vec.active w.k i = true →
      (x.vec.scalar w.b.toNat).toNat + i / 2 ^ w.c.toNat < fmtElems w.fmt) :
    exec (.vbcastel w) s = s.lanes x w (fun i => lane x w w.a ((x.vec.scalar w.b.toNat).toNat + i / 2 ^ w.c.toNat)) := by
  show execVbcastel w s = _
  exact State.permuteForm_lanes hx hblock ha (two := false) ha rfl (fun i => (false, (x.vec.scalar w.b.toNat).toNat + i / 2 ^ w.c.toNat))
    fun i hi hon => ⟨rfl, hlt i hi hon⟩

/-! #### Permutes of two sources -/

section
variable (hb : Sourced x w.b w.fmt)
include hb

theorem exec_vslide (hk : (x.vec.scalar w.c.toNat).toNat ≤ fmtElems w.fmt) : exec (.vslide w) s = s.lanes x w (fun i =>
    lane x w (if (slidePick (fmtElems w.fmt) (x.vec.scalar w.c.toNat).toNat i).1 then w.b else w.a)
      (slidePick (fmtElems w.fmt) (x.vec.scalar w.c.toNat).toNat i).2) := by
  show execVslide w s = _
  refine State.permuteForm_lanes hx hblock ha (two := true) hb rfl (slidePick (fmtElems w.fmt) (x.vec.scalar w.c.toNat).toNat)
    fun i hi _ => ⟨?_, ?_⟩
  · dsimp only
    rw [check_of (decide_eq_true hk), Res.bind_ok]
  · unfold slidePick
    split
    · assumption
    · dsimp only; omega

theorem exec_vzip : exec (.vzip w) s = s.lanes x w (fun i => lane x w (if (zipPick w i).1 then w.b else w.a) (zipPick w i).2) := by
  show execVzip w s = _
  refine State.permuteForm_lanes hx hblock ha (two := true) hb rfl (zipPick w) fun i hi _ => ⟨rfl, ?_⟩
  have hhalf : zipHalf w * (fmtElems w.fmt / 2) ≤ fmtElems w.fmt / 2 := by simpa using Nat.mul_le_mul_right _ (zipHalf_le w)
  have heven := fmtElems_even w.fmt
  unfold zipPick
  dsimp only
  omega

theorem exec_vunzip : exec (.vunzip w) s = s.lanes x w (fun i => lane x w (if (unzipPick w i).1 then w.b else w.a) (unzipPick w i).2) := by
  show execVunzip w s = _
  refine State.permuteForm_lanes hx hblock ha (two := true) hb rfl (unzipPick w) fun i hi _ => ⟨rfl, ?_⟩
  have hhalf := zipHalf_le w
  have heven := fmtElems_even w.fmt
  unfold unzipPick
  dsimp only
  split <;> dsimp only <;> omega

end

/-! ### Partition, compression and expansion (R213, R215) -/

/-- The active elements whose outcome is j. -/
def Task.outcome (x : Task) (w : VWord) (j : Nat) : List Nat := (x.vec.activeList w.k w.fmt).filter (fun i => lane x w w.a i == j)

omit hblock in
theorem exec_vpart (hf : partFormat w.fmt = true) : exec (.vpart w) s = s.vecCompletes x ((List.range w.c.toNat).foldl (fun v j =>
    (v.putList (w.d.toNat + j * listRegs w.fmt) (listRegs w.fmt) (x.outcome w j)).setScalar (w.b.toNat + j)
      (word (x.outcome w j).length)) x.vec) := by
  have houtcome (j : Nat) : (((x.vec.activeList w.k w.fmt).map (fun i => (i, lane x w w.a i))).filter (fun p => p.2 == j)).map (fun p => p.1) =
      x.outcome w j := by
    rw [List.filter_map, List.map_map]
    exact List.map_id _
  refine State.issueVec_ok hx ?_
  dsimp only
  rw [check_of hf, Res.bind_ok, Vec.source_ok ha.1 ha.2.1, Res.bind_ok, VReg.sound_ok ha.2.2, Res.bind_ok]
  refine congrArg (fun f => Except.ok (List.foldl f x.vec (List.range w.c.toNat))) (funext fun v => funext fun j => ?_)
  rw [← houtcome j]
  rfl

theorem exec_vcompress : exec (.vcompress w) s = s.vecCompletes x ((x.vec.fill w.d.toNat w.fmt
    ((List.range (fmtElems w.fmt)).map (fun j => if j < (x.vec.activeList w.k w.fmt).length
      then lane x w w.a (nth (x.vec.activeList w.k w.fmt) j 0) else 0))).setScalar w.c.toNat (word (x.vec.activeList w.k w.fmt).length)) := by
  have hlen : ((x.vec.activeList w.k w.fmt).map (lane x w w.a)).length ≤ fmtElems w.fmt := by
    simpa [Vec.activeList] using List.length_filter_le (x.vec.active w.k) (List.range (fmtElems w.fmt))
  simp only [← getD_getElem?_map]
  rw [← append_replicate_zero hlen]
  refine State.issueVec_ok hx ?_
  dsimp only
  rw [check_of (movesFormat_of ha.1 hblock), Res.bind_ok, Vec.source_ok ha.1 ha.2.1, Res.bind_ok, VReg.sound_ok ha.2.2, Res.bind_ok,
    ← List.length_map (lane x w w.a) (as := x.vec.activeList w.k w.fmt)]
  rfl

theorem exec_vexpand : exec (.vexpand w) s = s.lanes x w (fun i => lane x w w.a ((List.range i).filter (x.vec.active w.k)).length) := by
  have hspread := spread_map_range' (lane x w w.a) (x.vec.active w.k) 0 (fmtElems w.fmt)
  rw [← List.range_eq_range'] at hspread
  refine State.issueVec_ok hx ?_
  dsimp only
  rw [check_of (movesFormat_of ha.1 hblock), Res.bind_ok, Vec.source_ok ha.1 ha.2.1, Res.bind_ok, VReg.sound_ok ha.2.2, Res.bind_ok]
  exact congrArg (fun l => Except.ok (x.vec.merge w.d.toNat w.fmt l)) hspread

end

end

/-- A lane of the register that a condition picks. -/
theorem lane_ite (x : Task) (w : VWord) (p : Bool × Nat) : lane x w (if p.1 then w.b else w.a) p.2 =
    if p.1 then lane x w w.b p.2 else lane x w w.a p.2 := by split <;> rfl

/-- Settles O31: each form by the place that it takes an element from. -/
theorem vectorMoves : Obligations.VectorMoves := by
  unfold Obligations.VectorMoves
  intro s x w hx hblock n A a b half on
  refine ⟨fun hnone hcount => exec_vbcast hx hblock hnone hcount, fun ha => ⟨fun list hl hlist => exec_vperm hx hblock ha hl list hlist,
    exec_vrot hx hblock ha, fun hlt => exec_vbcastel hx hblock ha hlt, fun hb => ⟨fun hk => ?slide, ?zip, ?unzip⟩,
    fun hf => exec_vpart hx ha hf, exec_vcompress hx hblock ha, exec_vexpand hx hblock ha⟩⟩
  case slide =>
    rw [exec_vslide hx hblock ha hb hk]
    refine congrArg (s.lanes x w) (funext fun i => ?_)
    unfold slidePick
    split <;> rfl
  case zip =>
    rw [exec_vzip hx hblock ha hb]
    refine congrArg (s.lanes x w) (funext fun i => ?_)
    rw [lane_ite]
    rcases Nat.mod_two_eq_zero_or_one i with h | h <;> simp only [zipPick, h] <;> rfl
  case unzip =>
    rw [exec_vunzip hx hblock ha hb]
    refine congrArg (s.lanes x w) (funext fun i => ?_)
    unfold unzipPick
    dsimp only
    split <;> rfl

end Sys2Proof.Machine
end

section
/-! PROOF. Loads, stores, gathers and scatters of the vector stream (11 R196, R197, R214, R216): the accesses that a form puts in flight, what
the data of a load brings to its register, and which instruction may issue. -/

namespace Sys2Proof.Machine
open Sys2Proof

/-! ### Formats without blocks -/

section
variable {f : Fmt} (hf : fmtIsBlock f = false)
include hf

theorem fmtBlock_of_not_block : fmtBlock f = 1 := by
  revert f; decide
theorem headerBytes_of_not_block : headerBytes f = 0 := by
  revert f; decide

theorem blockHeads_of_not_block (l : List (Nat × List Nat)) : blockHeads f l = [] := by
  rw [blockHeads, headerBytes_of_not_block hf]
  rfl

/-- Outside the block formats a form accesses its active elements. -/
theorem Vec.accessed_of_not_block (v : Vec) (k : BitVec 4) : v.accessed k f = (List.range (fmtElems f)).filter (v.active k) := by
  simp [Vec.accessed, fmtBlock_of_not_block hf]

end

/-! ### The elements of a form (R214, R216) -/

theorem vectorCoord_ok {h : Handle} {lin : Nat} (hlin : lin < Handle.count h) : vectorCoord h lin = .ok (regionCoord h (splitIndex h lin)) := by
  rw [vectorCoord, check_of (decide_eq_true hlin), Res.bind_ok]

theorem vectorCoord_bounds {h : Handle} {lin : Nat} (hlin : Handle.count h ≤ lin) : vectorCoord h lin = .error (.flt Flt.bounds 0) := by
  rw [vectorCoord, decide_eq_false (Nat.not_lt.2 hlin)]
  rfl

/-- Elements inside the box have region coordinates. -/
theorem coordsOf_ok {h : Handle} {lin : Nat → Res Nat} {place : Nat → Nat} {is : List Nat}
    (hplace : ∀ i ∈ is, lin i = .ok (place i) ∧ place i < Handle.count h) :
    coordsOf h lin is = .ok (is.map (fun i => (i, regionCoord h (splitIndex h (place i))))) := by
  refine Res.mapM_ok fun i hi => ?_
  rw [(hplace i hi).1, Res.bind_ok, vectorCoord_ok (hplace i hi).2, Res.bind_ok]

/-- One element outside the box is out of bounds for all. -/
theorem coordsOf_bounds {h : Handle} {lin : Nat → Res Nat} {place : Nat → Nat} {is : List Nat} (hplace : ∀ i ∈ is, lin i = .ok (place i))
    (hout : ∃ i ∈ is, Handle.count h ≤ place i) : coordsOf h lin is = .error (.flt Flt.bounds 0) := by
  have hone (i : Nat) (hi : i ∈ is) : (do .ok (i, ← vectorCoord h (← lin i)) : Res (Nat × List Nat)) =
      (do .ok (i, ← vectorCoord h (place i))) := by rw [hplace i hi, Res.bind_ok]
  refine Res.mapM_error (fun i hi => ?_) ?_
  · rw [hone i hi]
    rcases Nat.lt_or_ge (place i) (Handle.count h) with hlt | hge
    · exact .inl ⟨_, by rw [vectorCoord_ok hlt, Res.bind_ok]⟩
    · exact .inr (by rw [vectorCoord_bounds hge, Res.bind_error])
  · obtain ⟨i, hi, hge⟩ := hout
    exact ⟨i, hi, by rw [hone i hi, vectorCoord_bounds hge, Res.bind_error]⟩

/-! ### The checks of a form -/

section
variable {s : State} {x : Task} {w : VWord} {g : Region} {accepts : Task → Bool} {lin : Task → Res (Nat → Res Nat)} {f : Nat → Res Nat}
  (hx : Acts s x) (hnone : w.fmt ≠ Fm.none) (hfmt : w.fmt = Handle.fmt (memBox x w)) (huse : useHandle (memBox x w) = .ok ())
  (hg : s.regionOf x.own (memBox x w) = .ok g) (hok : accepts x = true) (hlin : lin x = .ok f)
include hnone hfmt huse hg

/-- The checks of a form pass, in their order, and give the region of its box. -/
theorem State.vectorBox_ok {stores acc : Bool} (hacc : acc = true)
    (hst : stores = true → readOnly (memBox x w) = false ∧ (x.vec.reg w.d.toNat).tag = w.fmt) : s.vectorBox x w stores acc = .ok g := by
  have hmode : (!(stores && readOnly (memBox x w))) = true := by
    cases stores with
    | false => rfl
    | true => simp [(hst rfl).1]
  have hformat : (w.fmt != Fm.none && w.fmt == Handle.fmt (memBox x w) && acc && (!stores || (x.vec.reg w.d.toNat).tag == w.fmt)) = true := by
    rw [← hfmt, hacc, bne_iff_ne.2 hnone, beq_self_eq_true]
    cases stores with
    | false => rfl
    | true => simp [(hst rfl).2]
  unfold State.vectorBox
  dsimp only
  rw [huse, Res.bind_ok, check_of hmode, Res.bind_ok, check_of hformat, Res.bind_ok, hg]

include hx hok hlin

/-- A load form puts its access in flight once its elements are found. -/
theorem State.vectorLoad_completes {l : List (Nat × List Nat)} {v : VecLoad} (hl : coordsOf (memBox x w) f (x.vec.accessed w.k w.fmt) = .ok l)
    (hv : s.vectorRead x w g l = .ok v) : s.vectorLoad w accepts lin =
      .next (s.setTask s.cur { x.postVector w.cls v with vec := { x.vec with pc := x.vec.pc + 8 } }) := by
  refine State.issueVector_ok hx ?_
  rw [State.vectorBox_ok hnone hfmt huse hg hok (by simp), Res.bind_ok, hlin, Res.bind_ok, hl, Res.bind_ok, hv, Res.bind_ok]
  rfl

theorem State.vectorLoad_fault {e : Exit} (hl : coordsOf (memBox x w) f (x.vec.accessed w.k w.fmt) = .error e) :
    s.vectorLoad w accepts lin = s.deliverStream s.cur x .vector (.error e) := by
  refine State.issueVector_error hx ?_
  rw [State.vectorBox_ok hnone hfmt huse hg hok (by simp), Res.bind_ok, hlin, Res.bind_ok, hl, Res.bind_error]

section
variable (hmode : readOnly (memBox x w) = false) (htag : (x.vec.reg w.d.toNat).tag = w.fmt)
include hmode htag

/-- A store form posts its writes once its elements are found. -/
theorem State.vectorStore_completes {l : List (Nat × List Nat)} {ws : List (List ByteWrite)}
    (hl : coordsOf (memBox x w) f (x.vec.accessed w.k w.fmt) = .ok l) (hws : s.vectorWrite x w g l = .ok ws) :
    s.vectorStore w accepts lin =
      .next (s.setTask s.cur { x.postWrites .vector w.cls 0 0 ws with vec := { x.vec with pc := x.vec.pc + 8 } }) := by
  refine State.issueVector_ok hx ?_
  rw [State.vectorBox_ok hnone hfmt huse hg hok (fun _ => ⟨hmode, htag⟩), Res.bind_ok, hlin, Res.bind_ok, hl, Res.bind_ok, hws, Res.bind_ok]
  rfl

theorem State.vectorStore_fault {e : Exit} (hl : coordsOf (memBox x w) f (x.vec.accessed w.k w.fmt) = .error e) :
    s.vectorStore w accepts lin = s.deliverStream s.cur x .vector (.error e) := by
  refine State.issueVector_error hx ?_
  rw [State.vectorBox_ok hnone hfmt huse hg hok (fun _ => ⟨hmode, htag⟩), Res.bind_ok, hlin, Res.bind_ok, hl, Res.bind_error]

end

end

/-! ### What a form reads and writes outside the block formats -/

section
variable {s : State} {x : Task} {w : VWord} {g : Region} (hblock : fmtIsBlock w.fmt = false) {is : List Nat} {coord : Nat → List Nat}
include hblock

theorem State.vectorRead_ok {cells : Nat → List Nat} {off : Nat → Nat}
    (hcells : ∀ i ∈ is, s.elemCells x.own g (coord i) wantsRead = .ok (cells i, off i)) :
    s.vectorRead x w g (is.map (fun i => (i, coord i))) = .ok {
      reg := w.d.toNat, fmt := w.fmt, hdrs := [], els := is.map (fun i => (i, cells i, off i)) } := by
  unfold State.vectorRead
  dsimp only
  rw [blockHeads_of_not_block hblock, List.mapM_map, Res.mapM_ok (g := fun i => (i, cells i, off i)), Res.bind_ok]
  · rfl
  · intro i hi
    show (s.elemCells x.own g (coord i) wantsRead >>= _) = _
    rw [hcells i hi, Res.bind_ok]

theorem State.vectorWrite_ok (hbad : (x.vec.reg w.d.toNat).bad = []) {ws : Nat → List ByteWrite}
    (hws : ∀ i ∈ is, s.writeElem x.own g (coord i) (lane x w w.d i) = .ok (ws i)) :
    s.vectorWrite x w g (is.map (fun i => (i, coord i))) = .ok (atomicParts w.fmt (is.map ws)) := by
  unfold State.vectorWrite
  dsimp only
  rw [VReg.soundBlocks_ok hbad, Res.bind_ok, blockHeads_of_not_block hblock, List.mapM_map, Res.mapM_ok (g := ws), Res.bind_ok]
  · exact congrArg Except.ok (List.append_nil _)
  · exact hws

end

/-! ### The loads and stores of elements -/

/-- Element i of the format is active (R199). -/
def Task.on (x : Task) (w : VWord) (i : Nat) : Prop := i < fmtElems w.fmt ∧ x.vec.active w.k i = true

section
variable {s : State} {x : Task} {w : VWord} {g : Region} {accepts : Task → Bool} {lin : Task → Res (Nat → Res Nat)} {f : Nat → Res Nat}
  {place : Nat → Nat} (hx : Acts s x) (hblock : fmtIsBlock w.fmt = false) (hnone : w.fmt ≠ Fm.none) (hfmt : w.fmt = Handle.fmt (memBox x w))
  (huse : useHandle (memBox x w) = .ok ()) (hg : s.regionOf x.own (memBox x w) = .ok g) (hok : accepts x = true) (hlin : lin x = .ok f)
  (hplace : ∀ i < fmtElems w.fmt, f i = .ok (memBase x w + place i))

theorem Task.on_of_mem_filter {i : Nat} (hi : i ∈ (List.range (fmtElems w.fmt)).filter (x.vec.active w.k)) : x.on w i := by
  obtain ⟨hlt, hon⟩ := List.mem_filter.1 hi
  exact ⟨List.mem_range.1 hlt, hon⟩

include hblock hplace

theorem coordsOf_active_ok (hin : ∀ i, x.on w i → memBase x w + place i < Handle.count (memBox x w)) :
    coordsOf (memBox x w) f (x.vec.accessed w.k w.fmt) = .ok (((List.range (fmtElems w.fmt)).filter (x.vec.active w.k)).map
      (fun i => (i, regionCoord (memBox x w) (splitIndex (memBox x w) (memBase x w + place i))))) := by
  rw [Vec.accessed_of_not_block hblock]
  exact coordsOf_ok (place := fun i => memBase x w + place i) fun i hi =>
    ⟨hplace i (Task.on_of_mem_filter hi).1, hin i (Task.on_of_mem_filter hi)⟩

theorem coordsOf_active_bounds (hout : ∃ i, x.on w i ∧ Handle.count (memBox x w) ≤ memBase x w + place i) :
    coordsOf (memBox x w) f (x.vec.accessed w.k w.fmt) = .error (.flt Flt.bounds 0) := by
  obtain ⟨i, ⟨hlt, hon⟩, hge⟩ := hout
  rw [Vec.accessed_of_not_block hblock]
  exact coordsOf_bounds (place := fun i => memBase x w + place i) (fun j hj => hplace j (Task.on_of_mem_filter hj).1)
    ⟨i, List.mem_filter.2 ⟨List.mem_range.2 hlt, hon⟩, hge⟩

include hx hnone hfmt huse hg hok hlin

/-- A load form reads each active element at its place, or faults where one lies outside the box. -/
theorem State.vectorLoad_elements :
    (∀ (cells : Nat → List Nat) (off : Nat → Nat),
      (∀ i, x.on w i → memBase x w + place i < Handle.count (memBox x w) ∧ s.elemCells x.own g
        (regionCoord (memBox x w) (splitIndex (memBox x w) (memBase x w + place i))) wantsRead = .ok (cells i, off i)) →
      s.vectorLoad w accepts lin = .next (s.setTask s.cur { x.postVector w.cls {
        reg := w.d.toNat, fmt := w.fmt, hdrs := [],
        els := ((List.range (fmtElems w.fmt)).filter (x.vec.active w.k)).map (fun i => (i, cells i, off i)) }
          with vec := { x.vec with pc := x.vec.pc + 8 } })) ∧
    ((∃ i, x.on w i ∧ Handle.count (memBox x w) ≤ memBase x w + place i) →
      s.vectorLoad w accepts lin = s.deliverStream s.cur x .vector (.error (.flt Flt.bounds 0))) := by
  refine ⟨fun cells off h => ?_, fun hout => ?_⟩
  · exact State.vectorLoad_completes hx hnone hfmt huse hg hok hlin (coordsOf_active_ok hblock hplace fun i hi => (h i hi).1)
      (State.vectorRead_ok hblock fun i hi => (h i (Task.on_of_mem_filter hi)).2)
  · exact State.vectorLoad_fault hx hnone hfmt huse hg hok hlin (coordsOf_active_bounds hblock hplace hout)

/-- A store form posts the write of each active element at its place, or faults where one lies outside the box. -/
theorem State.vectorStore_elements :
    (∀ ws : Nat → List ByteWrite, readOnly (memBox x w) = false → Sourced x w.d w.fmt →
      (∀ i, x.on w i → memBase x w + place i < Handle.count (memBox x w) ∧ s.writeElem x.own g
        (regionCoord (memBox x w) (splitIndex (memBox x w) (memBase x w + place i))) (lane x w w.d i) = .ok (ws i)) →
      s.vectorStore w accepts lin = .next (s.setTask s.cur { x.postWrites .vector w.cls 0 0 (atomicParts w.fmt
        (((List.range (fmtElems w.fmt)).filter (x.vec.active w.k)).map ws)) with vec := { x.vec with pc := x.vec.pc + 8 } })) ∧
    (readOnly (memBox x w) = false → Sourced x w.d w.fmt →
      (∃ i, x.on w i ∧ Handle.count (memBox x w) ≤ memBase x w + place i) →
      s.vectorStore w accepts lin = s.deliverStream s.cur x .vector (.error (.flt Flt.bounds 0))) := by
  refine ⟨fun ws hmode hd h => ?_, fun hmode hd hout => ?_⟩
  · exact State.vectorStore_completes hx hnone hfmt huse hg hok hlin hmode hd.2.1 (coordsOf_active_ok hblock hplace fun i hi => (h i hi).1)
      (State.vectorWrite_ok hblock hd.2.2 fun i hi => (h i (Task.on_of_mem_filter hi)).2)
  · exact State.vectorStore_fault hx hnone hfmt huse hg hok hlin hmode hd.2.1 (coordsOf_active_bounds hblock hplace hout)

end

theorem exec_vld (w : VWord) (s : State) : exec (.vld w) s = s.vectorLoad w (wholeBlocks w) (linearIndex w) := rfl
theorem exec_vst (w : VWord) (s : State) : exec (.vst w) s = s.vectorStore w (wholeBlocks w) (linearIndex w) := rfl
theorem exec_vgather (w : VWord) (s : State) : exec (.vgather w) s = s.vectorLoad w (indexedFormat w) (listedIndex w) := rfl
theorem exec_vscatter (w : VWord) (s : State) : exec (.vscatter w) s = s.vectorStore w (indexedFormat w) (listedIndex w) := rfl

theorem wholeBlocks_of_not_block {w : VWord} (hblock : fmtIsBlock w.fmt = false) (x : Task) : wholeBlocks w x = true := by
  rw [wholeBlocks, fmtBlock_of_not_block hblock, Nat.mod_one]
  rfl

/-- The linear indices of vgather and vscatter: the base and the entries of the list. -/
theorem listedIndex_ok {w : VWord} {x : Task}
    (hl : ∀ j < listRegs w.fmt, (x.vec.reg (w.c.toNat + j)).tag = Fm.idx16 ∧ (x.vec.reg (w.c.toNat + j)).bad = []) :
    listedIndex w x = .ok (fun i => do .ok (memBase x w + (← listEntry (x.vec.listOf w.c.toNat w.fmt) i))) := by
  rw [listedIndex, Vec.indexList_ok hl, Res.bind_ok]

/-! ### Data that returns (R199, R214) -/

/-- Values listed by ascending places are found at their places. -/
theorem placeFrom_map (val : Nat → Nat) {n f : Nat} (hf : f ≤ n) {l : List Nat} (hsorted : l.Pairwise (· < ·))
    (hl : ∀ i ∈ l, n - f ≤ i ∧ i < n) :
    placeFrom n f (l.map (fun i => (i, val i))) = (List.range' (n - f) f).map (fun i => if i ∈ l then some (val i) else none) := by
  induction f generalizing l with
  | zero => rfl
  | succ f ih =>
    have hstart : n - (f + 1) + 1 = n - f := by omega
    rw [List.range'_succ, hstart, List.map_cons]
    cases l with
    | nil =>
      have hrest := ih (by omega) (l := []) List.Pairwise.nil (by simp)
      exact congrArg (List.cons none) hrest
    | cons a r =>
      obtain ⟨ha, hr⟩ := List.pairwise_cons.1 hsorted
      rw [List.map_cons, placeFrom]
      by_cases hfirst : a = n - (f + 1)
      · have hrest := ih (by omega) hr fun i hi => ⟨by have := ha i hi; omega, (hl i (List.mem_cons_of_mem _ hi)).2⟩
        rw [if_pos hfirst, hrest, if_pos (hfirst ▸ List.mem_cons_self), ← hfirst]
        refine congrArg (List.cons _) (List.map_congr_left fun i hi => ?_)
        have hne : i ≠ a := by have := (List.mem_range'_1.1 hi).1; omega
        simp [hne]
      · have hlater (i : Nat) (hi : i ∈ a :: r) : n - f ≤ i := by
          have := hl a List.mem_cons_self
          rcases List.mem_cons.1 hi with rfl | hi
          · omega
          · have := ha i hi; omega
        have hrest := ih (by omega) hsorted fun i hi => ⟨hlater i hi, (hl i hi).2⟩
        have habsent : n - (f + 1) ∉ a :: r := fun h => by have := hlater _ h; have := (hl _ h).2; omega
        rw [if_neg hfirst, if_neg habsent, ← hrest, List.map_cons]

@[simp] theorem VReg.putHeaders_tag (r : VReg) (j : Nat) (hs : List Nat) : (r.putHeaders j hs).tag = r.tag := rfl
@[simp] theorem VReg.clearHeaders_tag (r : VReg) (js : List Nat) : (r.clearHeaders js).tag = r.tag := rfl

theorem VReg.foldl_putHeaders_tag {α : Type} (j : α → Nat) (hs : α → List Nat) (l : List α) (r : VReg) :
    (l.foldl (fun (r : VReg) h => r.putHeaders (j h) (hs h)) r).tag = r.tag := by
  induction l generalizing r with
  | nil => rfl
  | cons h l ih => exact ih _

@[simp] theorem VReg.clearHeaders_nil (r : VReg) : r.clearHeaders [] = r := by
  have hkeep : r.bad.filter (fun q => q < 256 || 8 / headerBytes r.tag == 0 ||
      !(List.range (8 / headerBytes r.tag)).all (fun k => ([] : List Nat).contains ((q - 256) * (8 / headerBytes r.tag) + k))) = r.bad := by
    refine List.filter_eq_self.2 fun q _ => ?_
    rcases Nat.eq_zero_or_pos (8 / headerBytes r.tag) with hn | hn
    · simp [hn]
    · have hall : (List.range (8 / headerBytes r.tag)).all (fun k => ([] : List Nat).contains ((q - 256) * (8 / headerBytes r.tag) + k)) = false :=
        List.all_eq_false.2 ⟨0, List.mem_range.2 hn, by simp⟩
      rw [hall, Bool.not_false, Bool.or_true]
  exact congrArg (fun bad => { r with bad := bad }) hkeep

section
variable (s : State) (x : Task) (l : VecLoad)

/-- The data of a load goes to its register, which takes its format. -/
theorem State.loadedVector_setReg : ∃ r : VReg, s.loadedVector x l = x.vec.setReg l.reg r ∧ r.tag = l.fmt :=
  ⟨_, rfl, by rw [VReg.clearHeaders_tag, VReg.foldl_putHeaders_tag]; rfl⟩

/-- A load of elements alone, which reads nothing early and no poison, merges them into its register. -/
theorem State.loadedVector_merge (hhdrs : l.hdrs = []) (hgot : l.got = []) (hbad : l.bad = []) (hown : l.own = false)
    (hsound : ∀ b ∈ l.cells, s.isBad b = false) : s.loadedVector x l = x.vec.setReg l.reg ((x.vec.reg l.reg).merge l.fmt
      (placeFrom (fmtElems l.fmt) (fmtElems l.fmt) (l.els.map (fun e => (e.1, s.readCells e.2.1 / 2 ^ e.2.2 % 2 ^ fmtWidth l.fmt))))) := by
  have hels : l.els.flatMap (fun e => if (SMap.find l.got e.1).isNone && e.2.1.any s.isBad then elemWords (fmtWidth l.fmt) e.1 else []) = [] := by
    refine List.flatMap_eq_nil_iff.2 fun e he => ?_
    have hsound_e : e.2.1.any s.isBad = false :=
      List.any_eq_false.2 fun b hb => by simp [hsound b (List.mem_append_left _ (List.mem_flatMap.2 ⟨e, he, hb⟩))]
    rw [hsound_e, Bool.and_false]
    rfl
  have hcells : l.cells.filter s.isBad = [] := List.filter_eq_nil_iff.2 fun b hb => by simp [hsound b hb]
  unfold State.loadedVector
  dsimp only
  rw [hels, hcells, hbad, hown, hhdrs, hgot]
  simp [SMap.find]

end

/-- The values at the places of a load of elements in ascending order. -/
theorem placeFrom_els {s : State} {l : VecLoad} (val : Nat → Nat) (hsorted : l.els.Pairwise (fun d e => d.1 < e.1))
    (hval : ∀ e ∈ l.els, e.1 < fmtElems l.fmt ∧ val e.1 = s.readCells e.2.1 / 2 ^ e.2.2 % 2 ^ fmtWidth l.fmt) :
    placeFrom (fmtElems l.fmt) (fmtElems l.fmt) (l.els.map (fun e => (e.1, s.readCells e.2.1 / 2 ^ e.2.2 % 2 ^ fmtWidth l.fmt))) =
      (List.range (fmtElems l.fmt)).map (fun i => if l.els.any (fun e => e.1 == i) then some (val i) else none) := by
  have hvals : l.els.map (fun e => (e.1, s.readCells e.2.1 / 2 ^ e.2.2 % 2 ^ fmtWidth l.fmt)) =
      (l.els.map (fun e => e.1)).map (fun i => (i, val i)) := by
    rw [List.map_map]
    exact List.map_congr_left fun e he => by simp [(hval e he).2]
  have hplaces : ∀ i ∈ l.els.map (fun e => e.1), fmtElems l.fmt - fmtElems l.fmt ≤ i ∧ i < fmtElems l.fmt := by
    intro i hi
    obtain ⟨e, he, rfl⟩ := List.mem_map.1 hi
    exact ⟨by omega, (hval e he).1⟩
  rw [hvals, placeFrom_map val (Nat.le_refl _) (List.pairwise_map.2 hsorted) hplaces, Nat.sub_self, ← List.range_eq_range']
  refine List.map_congr_left fun i _ => ?_
  have hlisted : i ∈ l.els.map (fun e => e.1) ↔ l.els.any (fun e => e.1 == i) = true := by
    simp only [List.mem_map, List.any_eq_true, beq_iff_eq]
  simp only [hlisted]

/-- The data of a vector load returns: its access leaves the list, and the stream's context takes the data. -/
theorem State.performAccess_vectorLoad (s : State) (t k : Nat) (x : Task) {a : Access} {l : VecLoad} (hl : a.vectorLoad = some l) :
    s.performAccess t x k a = s.setTask t { x with pend := x.pend.eraseIdx k, vec := s.loadedVector x l } := by
  obtain ⟨d, hload, hvector⟩ := Option.bind_eq_some_iff.1 hl
  unfold State.performAccess
  rw [hload]
  dsimp only
  rw [hvector]
  rfl

/-! ### Which instruction may issue (R196, R197) -/

/-- An instruction may issue before an earlier one. -/
theorem mayPass_iff {v : Vec} {i j : Instr} : mayPass v i j = true ↔
    isBarrier i = false ∧ queueOf i ≠ queueOf j ∧ queueOf i ≠ .store ∧ (∀ u ∈ vectorUses i, u.2 ≠ .drain) ∧
      (∀ n ∈ writeNames v j, n ∉ allNames v i) ∧ (∀ n ∈ writeNames v i, n ∉ allNames v j) ∧
      (∀ c : BitVec 4, memoryClass i = some c → memoryClass j ≠ some c) := by
  have hclass : (!((memoryClass i).isSome && memoryClass i == memoryClass j)) = true ↔
      ∀ c : BitVec 4, memoryClass i = some c → memoryClass j ≠ some c := by
    cases memoryClass i with
    | none => simp
    | some c =>
      rw [Option.isSome_some, Bool.true_and, ← bne, bne_iff_ne]
      exact ⟨fun hne c' hi hj => hne (hi.trans hj.symm), fun h hj => h c rfl hj.symm⟩
  simp only [mayPass, Bool.and_eq_true, hclass]
  simp only [Bool.not_eq_true', bne_iff_ne, List.any_eq_false, List.contains_iff_mem, beq_iff_eq, and_assoc]

/-- No load in flight brings data to a register of an instruction. -/
theorem loadsClear_iff {pend : List Access} {i : Instr} :
    pend.all (fun a => match a.vectorLoad with
      | some l => !(vectorRegs i).contains l.reg
      | none => true) = true ↔ ∀ a ∈ pend, ∀ l : VecLoad, a.vectorLoad = some l → l.reg ∉ vectorRegs i := by
  rw [List.all_eq_true]
  refine forall₂_congr fun a _ => ?_
  cases a.vectorLoad <;> simp

/-- An instruction may issue before each that waits in its queue. -/
theorem passesAll_iff {v : Vec} {queued : List Queued} {i : Instr} :
    queued.all (fun q => match decodeVector q.word with
      | .ok j => mayPass v i j
      | .error _ => true) = true ↔ ∀ q ∈ queued, ∀ j : Instr, decodeVector q.word = .ok j → mayPass v i j = true := by
  rw [List.all_eq_true]
  refine forall₂_congr fun q _ => ?_
  cases decodeVector q.word <;> simp

theorem mayIssue_iff {x : Task} {i : Instr} : x.mayIssue i = true ↔
    (∀ a ∈ x.pend, ∀ l : VecLoad, a.vectorLoad = some l → l.reg ∉ vectorRegs i) ∧
    (∀ q ∈ x.vec.queued, ∀ j : Instr, decodeVector q.word = .ok j → mayPass x.vec i j = true) ∧
    (∀ q ∈ x.vec.queued.head?, q.behind + 1 ≤ x.vec.slip) := by
  unfold Task.mayIssue Task.mayIssueAfter
  rw [← loadsClear_iff, ← passesAll_iff, Bool.and_eq_true, Bool.and_eq_true, List.all_map, and_assoc]
  refine and_congr_right' (and_congr_right' ?_)
  cases x.vec.queued <;> simp

/-- Settles O32: each form by its checks and its elements; data that returns by the register that it leaves; the order of issue by its three
conditions. -/
theorem vectorLoadsAndStores : Obligations.VectorLoadsAndStores := by
  unfold Obligations.VectorLoadsAndStores
  refine ⟨?elements, ?blocks, ?returns, fun x i => by simp only [mayIssue_iff, mayPass_iff]⟩
  case elements =>
    intro s x w g hx hblock hnone hfmt huse hg h coord on listed reads writes
    have hplain (i : Nat) (_ : i < fmtElems w.fmt) : (.ok (memBase x w + i) : Res Nat) = .ok (memBase x w + id i) := rfl
    have hwhole := wholeBlocks_of_not_block hblock x
    refine ⟨State.vectorLoad_elements hx hblock hnone hfmt huse hg hwhole (lin := linearIndex w) rfl hplain,
      State.vectorStore_elements hx hblock hnone hfmt huse hg hwhole (lin := linearIndex w) rfl hplain, fun list hlisted => ?_⟩
    obtain ⟨hscalar, hl, hlist⟩ := hlisted
    have hentry (i : Nat) (hi : i < fmtElems w.fmt) : (do .ok (memBase x w + (← listEntry (x.vec.listOf w.c.toNat w.fmt) i)) : Res Nat) =
        .ok (memBase x w + list i) := by
      rw [Vec.listEntry_ok hl hi, ← hlist i hi, Res.bind_ok]
    exact ⟨State.vectorLoad_elements hx hblock hnone hfmt huse hg (accepts := indexedFormat w) hscalar (listedIndex_ok hl) hentry,
      State.vectorStore_elements hx hblock hnone hfmt huse hg (accepts := indexedFormat w) hscalar (listedIndex_ok hl) hentry⟩
  case blocks =>
    intro s x w g l hx hfmt hblock huse hg haligned hl hin
    have hnone : w.fmt ≠ Fm.none := fun h => by rw [h] at hblock; exact absurd hblock (by decide)
    have hwhole : wholeBlocks w x = true := beq_iff_eq.2 haligned
    have hcoords : coordsOf (memBox x w) (fun i => .ok (memBase x w + i)) (x.vec.accessed w.k w.fmt) = .ok l :=
      hl ▸ coordsOf_ok (place := fun i => memBase x w + i) fun i hi => ⟨rfl, hin i hi⟩
    exact ⟨fun v hv => State.vectorLoad_completes hx hnone hfmt huse hg hwhole (lin := linearIndex w) rfl hcoords hv,
      fun ws hmode htag hws => State.vectorStore_completes hx hnone hfmt huse hg hwhole (lin := linearIndex w) rfl hmode htag hcoords hws⟩
  case returns =>
    intro s t k x a l _ _ hl
    obtain ⟨r, hv, htag⟩ := s.loadedVector_setReg x l
    refine ⟨_, s.performAccess_vectorLoad t k x hl, by rw [hv]; rfl, by rw [hv, Vec.reg_setReg_same, htag],
      fun j hj => by rw [hv, Vec.reg_setReg_other _ _ hj.symm], fun val _ hhdrs hgot hbad hown hsound hsorted hval => ?_⟩
    rw [s.loadedVector_merge x l hhdrs hgot hbad hown hsound, Vec.reg_setReg_same, placeFrom_els val hsorted hval]

end Sys2Proof.Machine
end

section
/-! PROOF. Conversions, random numbers and reductions of the vector stream (11 R208 to R211): the part that a conversion names, the segments that
a reduction folds, and the sum that the tree of an integer reduction computes. -/

namespace Sys2Proof.Machine
open Sys2Proof

/-! ### The part of a conversion (R208, R209) -/

theorem mul_lt_of_lt_div {p lo hi : Nat} (h : p < hi / lo) : p * lo < hi := by
  have hlo : 0 < lo := Nat.pos_of_ne_zero fun h0 => by rw [h0, Nat.div_zero] at h; exact Nat.not_lt_zero _ h
  exact Nat.lt_of_lt_of_le (Nat.mul_lt_mul_of_pos_right h hlo) (Nat.div_mul_le_self hi lo)

theorem le_of_lt_div {p lo hi : Nat} (h : p < hi / lo) : lo ≤ hi :=
  Nat.le_of_not_lt fun hlt => by rw [Nat.div_eq_of_lt hlt] at h; exact Nat.not_lt_zero _ h

/-- A part of the destination. -/
theorem convertSpan_up {ns nd p : Nat} (hdiv : nd % ns = 0) (hp : p < nd / ns) : convertSpan ns nd p = .ok (p * ns, 0, ns) := by
  have hle := le_of_lt_div hp
  have hpart : partExists ns nd p = true := by
    rw [partExists, Nat.min_eq_left hle, Nat.max_eq_right hle, decide_eq_true (mul_lt_of_lt_div hp), Bool.or_true]
  rw [convertSpan, check_of hpart, Res.bind_ok, if_pos hle, if_pos hle, hdiv]
  rfl

/-- A part of the source. -/
theorem convertSpan_down {ns nd p : Nat} (hlt : nd < ns) (hdiv : ns % nd = 0) (hp : p < ns / nd) : convertSpan ns nd p = .ok (0, p * nd, nd) := by
  have hpart : partExists ns nd p = true := by
    rw [partExists, Nat.min_eq_right hlt.le, Nat.max_eq_left hlt.le, decide_eq_true (mul_lt_of_lt_div hp), Bool.or_true]
  rw [convertSpan, check_of hpart, Res.bind_ok, if_neg hlt.not_ge, if_neg hlt.not_ge, hdiv]
  rfl

theorem partExists_of_convertSpan {ns nd p : Nat} {r : Nat × Nat × Nat} (h : convertSpan ns nd p = .ok r) : partExists ns nd p = true := by
  obtain ⟨_, hcheck, _⟩ := Res.bind_eq_ok.1 h
  exact check_eq_ok.1 hcheck

section
variable {s : State} {x : Task} {w : VWord} {d0 s0 n : Nat} (hx : Acts s x) (hbad : (x.vec.reg w.a.toNat).bad = [])
  (hspan : convertSpan (fmtElems (x.vec.reg w.a.toNat).tag) (fmtElems w.fmt) w.c.toNat = .ok (d0, s0, n))
include hx hbad hspan

/-- vcvt converts the active elements of the part. -/
theorem exec_vcvt (htag : (x.vec.reg w.a.toNat).tag ≠ Fm.none) (htarget : vcvtTarget w.fmt = true)
    (hwrap : w.flg.getLsbD 0 = true → fmtIsInt w.fmt = true ∨ w.fmt = Fm.idx16) :
    exec (.vcvt w) s = s.vecCompletes x (x.vec.merge w.d.toNat w.fmt ((List.range (fmtElems w.fmt)).map (fun i =>
      if d0 ≤ i ∧ i < d0 + n ∧ x.vec.active w.k i = true
        then some (convert w.fmt w.rm.toNat (w.flg.getLsbD 0) ((x.vec.reg w.a.toNat).value (s0 + (i - d0)))) else none))) := by
  have hwraps : (!w.flg.getLsbD 0 || fmtIsInt w.fmt || w.fmt == Fm.idx16) = true := by
    cases hf : w.flg.getLsbD 0 with
    | false => rfl
    | true => rcases hwrap hf with h | h <;> simp [h]
  have hpart (i : Nat) : (d0 ≤ i ∧ i < d0 + n ∧ x.vec.active w.k i = true) ↔
      (decide (d0 ≤ i) && decide (i < d0 + n) && x.vec.active w.k i) = true := by
    simp only [Bool.and_eq_true, decide_eq_true_eq, and_assoc]
  simp only [hpart]
  refine State.issueVec_ok hx ?_
  dsimp only
  rw [check_of hwraps, Res.bind_ok, check_of (partExists_of_convertSpan hspan), Res.bind_ok, check_of htarget, Res.bind_ok,
    check_of (bne_iff_ne.2 htag), Res.bind_ok, hspan, Res.bind_ok]
  dsimp only
  rw [VReg.soundBlocks_ok hbad, Res.bind_ok]

/-- The blocks that vcvtb makes of the part. -/
def Task.convertedBlocks (x : Task) (w : VWord) (s0 n : Nat) : List (Nat × List Nat) :=
  (chunks (fmtBlock w.fmt) n ((List.range n).map (fun i => (x.vec.reg w.a.toNat).value (s0 + i)))).map (convertBlock w.fmt w.rm.toNat)

theorem exec_vcvtb (htag : fmtIsFloat (x.vec.reg w.a.toNat).tag = true) (hblock : fmtIsBlock w.fmt = true) :
    exec (.vcvtb w) s = s.vecCompletes x (x.vec.setReg w.d.toNat ((((x.vec.reg w.d.toNat).merge w.fmt
      (List.replicate d0 none ++ (x.convertedBlocks w s0 n).flatMap (fun b => b.2.map some) ++
        List.replicate (fmtElems w.fmt - d0 - n) none)).putHeaders
        (d0 / fmtBlock w.fmt) ((x.convertedBlocks w s0 n).map (fun b => b.1))).clearHeaders
          ((List.range (x.convertedBlocks w s0 n).length).map (fun i => d0 / fmtBlock w.fmt + i)))) := by
  refine State.issueVec_ok hx ?_
  dsimp only
  rw [check_of (partExists_of_convertSpan hspan), Res.bind_ok, check_of hblock, Res.bind_ok, check_of htag, Res.bind_ok, hspan, Res.bind_ok]
  dsimp only
  rw [VReg.sound_ok hbad, Res.bind_ok, List.map_map]
  rfl

end

/-! ### Random numbers (R210) -/

/-- The number of the element with global coordinate g. -/
def Task.randomNumber (x : Task) (w : VWord) (g : List Int) : Nat :=
  (krng (x.vec.scalar w.c.toNat) ((x.vec.scalar (w.c.toNat + 1)).setWidth 32)
    (nth g 0 0).toNat (nth g 1 0).toNat (nth g 2 0).toNat (nth g 3 0).toNat).toNat

theorem exec_vrng {s : State} {x : Task} {w : VWord} (hx : Acts s x) (g : Nat → List Int) (hf : w.fmt = Fm.z32 ∨ w.fmt = Fm.fp32)
    (huse : useHandle (x.vec.box w.a.toNat) = .ok ())
    (hg : ∀ i < fmtElems w.fmt, x.vec.active w.k i = true → s.shardGlobal x.own (x.vec.box w.a.toNat)
      (splitIndex (x.vec.box w.a.toNat) ((x.vec.scalar w.b.toNat).toNat + i)) = .ok (g i) ∧ coordsFit (g i) = true) :
    exec (.vrng w) s = s.lanes x w (fun i =>
      if w.fmt = Fm.z32 then x.randomNumber w (g i) else fp32.ofVal 0 (.num false (x.randomNumber w (g i) / 2 ^ 8) (-24))) := by
  have hformat : (w.fmt == Fm.z32 || w.fmt == Fm.fp32) = true := by simpa using hf
  refine State.issueVec_ok hx ?_
  dsimp only
  rw [check_of hformat, Res.bind_ok, huse, Res.bind_ok, Res.mapM_ok (g := fun i => if x.vec.active w.k i = true
    then some (if w.fmt = Fm.z32 then x.randomNumber w (g i) else fp32.ofVal 0 (.num false (x.randomNumber w (g i) / 2 ^ 8) (-24))) else none),
    Res.bind_ok]
  · rfl
  · intro i hi
    split
    · next hon =>
      obtain ⟨hcoord, hfits⟩ := hg i (List.mem_range.1 hi) hon
      rw [hcoord, Res.bind_ok, check_of hfits, Res.bind_ok]
      simp only [beq_iff_eq]
      rfl
    · rfl

/-! ### The segments of a reduction (R211) -/

/-- A list of m pieces of n is cut into them. -/
theorem chunks_map_range {α : Type} {n : Nat} (hn : 0 < n) (f : Nat → α) {m fuel : Nat} (hfuel : m ≤ fuel) :
    chunks n fuel ((List.range (n * m)).map f) = (List.range m).map (fun j => (List.range n).map (fun i => f (n * j + i))) := by
  induction m generalizing f fuel with
  | zero => cases fuel <;> rfl
  | succ m ih =>
    obtain ⟨fuel, rfl⟩ : ∃ k, fuel = k + 1 := ⟨fuel - 1, by omega⟩
    have hsplit : (List.range (n * (m + 1))).map f = (List.range n).map f ++ (List.range (n * m)).map (fun i => f (n + i)) := by
      rw [Nat.mul_succ, Nat.add_comm, List.range_add, List.map_append, List.map_map]
      rfl
    have hnonempty : ((List.range (n * (m + 1))).map f).isEmpty = false := by
      rw [List.isEmpty_eq_false_iff_exists_mem]
      exact ⟨f 0, List.mem_map_of_mem (List.mem_range.2 (Nat.mul_pos hn (Nat.succ_pos m)))⟩
    have hlen : n = ((List.range n).map f).length := by simp
    rw [chunks, hnonempty, hsplit, List.range_succ_eq_map, List.map_cons, List.map_map]
    refine congrArg₂ List.cons ?_ ?_
    · rw [List.take_left' hlen.symm]
      simp
    · rw [List.drop_left' hlen.symm, ih _ (Nat.le_of_succ_le_succ hfuel)]
      refine List.map_congr_left fun j _ => List.map_congr_left fun i _ => congrArg f ?_
      rw [Nat.succ_eq_add_one, Nat.mul_add]
      omega

/-- Values for the first places of a list and zeros for the rest. -/
theorem map_range_append_zeros (out : Nat → Nat) {m n : Nat} (h : m ≤ n) :
    (List.range m).map out ++ List.replicate (n - ((List.range m).map out).length) 0 =
      (List.range n).map (fun j => if j < m then out j else 0) := by
  rw [append_replicate_zero (by simpa using h)]
  exact List.map_congr_left fun j _ => getElem?_map_range_getD out m j 0

/-- The elements of a segment. -/
def segSize (w : VWord) : Nat := min (2 ^ w.c.toNat) (fmtElems w.fmt)

theorem fmtElems_eq_two_pow : ∀ {f : Fmt}, acceptsFI f = true → fmtElems f = 2 ^ Nat.log2 (fmtElems f) := by decide

/-- Segments are powers of 2 that fill the register. -/
theorem segSize_eq_two_pow {w : VWord} (hf : acceptsFI w.fmt = true) : segSize w = 2 ^ min w.c.toNat (Nat.log2 (fmtElems w.fmt)) := by
  rw [segSize, fmtElems_eq_two_pow hf, Nat.log2_two_pow]
  rcases Nat.le_total w.c.toNat (Nat.log2 (fmtElems w.fmt)) with h | h
  · rw [Nat.min_eq_left h, Nat.min_eq_left (Nat.pow_le_pow_right Nat.two_pos h)]
  · rw [Nat.min_eq_right h, Nat.min_eq_right (Nat.pow_le_pow_right Nat.two_pos h)]

theorem segSize_pos {w : VWord} (hf : acceptsFI w.fmt = true) : 0 < segSize w := segSize_eq_two_pow hf ▸ Nat.two_pow_pos _

theorem segSize_mul_div {w : VWord} (hf : acceptsFI w.fmt = true) : segSize w * (fmtElems w.fmt / segSize w) = fmtElems w.fmt := by
  refine Nat.mul_div_cancel' ?_
  rw [segSize_eq_two_pow hf]
  exact (pow_dvd_pow 2 (Nat.min_le_right _ _)).trans (fmtElems_eq_two_pow hf).symm.dvd

/-- The leaves of segment j. -/
def Task.segLeaves (x : Task) (w : VWord) (leaf : Nat → Nat) (j : Nat) : List (Option Nat) :=
  (List.range (segSize w)).map (fun i =>
    if x.vec.active w.k (segSize w * j + i) = true then some (leaf (lane x w w.a (segSize w * j + i))) else none)

/-- The result of segment j. -/
def Task.segFold (x : Task) (w : VWord) (leaf : Nat → Nat) (op : Nat → Nat → Nat) (empty j : Nat) : Nat :=
  (treeFold op (Nat.log2 (segSize w)) (x.segLeaves w leaf j)).getD empty

/-- A float result that is NaN is the canonical one (R61). -/
def canonical (f : Fmt) (v : Nat) : Nat := if fmtIsFloat f then (floatLayout f).ofVal 0 ((floatLayout f).value v) else v

/-- Results for the elements 0 upward, zeros after them. -/
def State.reduced (s : State) (x : Task) (w : VWord) (out : Nat → Nat) : Out :=
  s.vecCompletes x (x.vec.fill w.d.toNat w.fmt ((List.range (fmtElems w.fmt)).map (fun j =>
    if j < fmtElems w.fmt / segSize w then out j else 0)))

section
variable {s : State} {x : Task} {w : VWord} (hx : Acts s x) (ha : Sourced x w.a w.fmt)
include hx ha

/-- A reduction folds each segment. -/
theorem State.reduceForm_reduced {accepts : Bool} (leaf : Nat → Nat) (op : Nat → Nat → Nat) (empty : Nat) (hok : accepts = true)
    (hf : acceptsFI w.fmt = true) :
    s.reduceForm w accepts leaf op empty = s.reduced x w (fun j => canonical w.fmt (x.segFold w leaf op empty j)) := by
  have hchunks := chunks_map_range (segSize_pos hf)
    (fun i => if x.vec.active w.k i = true then some (leaf (lane x w w.a i)) else none) (Nat.div_le_self (fmtElems w.fmt) (segSize w))
  rw [segSize_mul_div hf] at hchunks
  have hout : (chunks (segSize w) (fmtElems w.fmt) ((List.range (fmtElems w.fmt)).map (fun i =>
        if x.vec.active w.k i = true then some (leaf (lane x w w.a i)) else none))).map
          (fun l => canonical w.fmt ((treeFold op (Nat.log2 (segSize w)) l).getD empty)) =
      (List.range (fmtElems w.fmt / segSize w)).map (fun j => canonical w.fmt (x.segFold w leaf op empty j)) := by
    rw [hchunks, List.map_map]
    rfl
  unfold State.reduced
  rw [← map_range_append_zeros _ (Nat.div_le_self _ _), ← hout]
  refine State.issueVec_ok hx ?_
  rw [check_of hok, Res.bind_ok, Vec.source_ok ha.1 ha.2.1, Res.bind_ok]
  dsimp only
  rw [VReg.sound_ok ha.2.2, Res.bind_ok]
  rfl

/-! ### Reductions of float formats -/

section
variable (hf : fmtIsFloat w.fmt = true)
include hf

omit hx ha in
theorem canonical_of_float (v : Nat) : canonical w.fmt v = (floatLayout w.fmt).ofVal 0 ((floatLayout w.fmt).value v) := if_pos hf

theorem exec_vredsum_float : exec (.vredsum w) s = s.reduced x w (fun j => canonical w.fmt (x.segFold w id
    (fun u v => (floatLayout w.fmt).ofVal w.rm.toNat (((floatLayout w.fmt).value u).addFold ((floatLayout w.fmt).value v))) 0 j)) := by
  show execVredsum w s = _
  unfold execVredsum
  simp only [hf, if_true, floatOp2_of_float hf]
  exact State.reduceForm_reduced hx ha id _ 0 (acceptsFI_of_float hf) (acceptsFI_of_float hf)

/-- vredmax and vredmin: an extreme of the leaves. -/
theorem State.reduceForm_float (high : Bool) (fop : Val → Val → Val) (iop : Int → Int → Int) :
    s.reduceForm w (acceptsFI w.fmt) (absLeaf w.fmt (w.flg.getLsbD 1)) (lane2 w.fmt 0 fop iop) (extreme w.fmt high) =
      s.reduced x w (fun j => canonical w.fmt (x.segFold w
        (fun v => if w.flg.getLsbD 1 then (floatLayout w.fmt).ofVal 0 ((floatLayout w.fmt).value v).abs else v)
        (fun u v => (floatLayout w.fmt).ofVal 0 (fop ((floatLayout w.fmt).value u) ((floatLayout w.fmt).value v)))
        ((floatLayout w.fmt).ofVal 0 (.inf !high)) j)) := by
  have hleaf : absLeaf w.fmt (w.flg.getLsbD 1) =
      fun v => if w.flg.getLsbD 1 then (floatLayout w.fmt).ofVal 0 ((floatLayout w.fmt).value v).abs else v := by
    funext v
    cases hflg : w.flg.getLsbD 1 <;> simp [absLeaf, hf]
  have hop : lane2 w.fmt 0 fop iop =
      fun u v => (floatLayout w.fmt).ofVal 0 (fop ((floatLayout w.fmt).value u) ((floatLayout w.fmt).value v)) :=
    funext fun u => funext fun v => lane2_of_float hf 0 fop iop u v
  rw [hleaf, hop, extreme, if_pos hf]
  exact State.reduceForm_reduced hx ha _ _ _ (acceptsFI_of_float hf) (acceptsFI_of_float hf)

end

/-! ### Reductions of integer formats -/

section
variable (hf : fmtIsInt w.fmt = true)
include hf

omit hx ha in
theorem canonical_of_int (v : Nat) : canonical w.fmt v = v := by rw [canonical, fmtIsFloat_of_int hf]; rfl

theorem State.reduceForm_int {accepts : Bool} (leaf : Nat → Nat) (op : Nat → Nat → Nat) (empty : Nat) (hok : accepts = true) :
    s.reduceForm w accepts leaf op empty = s.reduced x w (x.segFold w leaf op empty) := by
  rw [State.reduceForm_reduced hx ha leaf op empty hok (acceptsFI_of_int hf)]
  simp only [canonical_of_int hf]

theorem exec_vredsum_int : exec (.vredsum w) s = s.reduced x w (x.segFold w id (fun u v => if w.flg.getLsbD 0
    then codeOf (fmtWidth w.fmt) (max (intBounds w.fmt).1 (min (intBounds w.fmt).2 (intElem w.fmt u + intElem w.fmt v)))
    else codeOf (fmtWidth w.fmt) (intElem w.fmt u + intElem w.fmt v)) 0) := by
  show execVredsum w s = _
  unfold execVredsum
  simp only [fmtIsFloat_of_int hf, Bool.false_eq_true, if_false, satLane_eq]
  exact State.reduceForm_int hx ha hf id _ 0 (acceptsFI_of_int hf)

theorem State.reduceForm_int_extreme (high : Bool) (fop : Val → Val → Val) (iop : Int → Int → Int) :
    s.reduceForm w (acceptsFI w.fmt) (absLeaf w.fmt (w.flg.getLsbD 1)) (lane2 w.fmt 0 fop iop) (extreme w.fmt high) =
      s.reduced x w (x.segFold w
        (fun v => if w.flg.getLsbD 1
          then codeOf (fmtWidth w.fmt) (max (intBounds w.fmt).1 (min (intBounds w.fmt).2 (intElem w.fmt v).natAbs)) else v)
        (fun u v => codeOf (fmtWidth w.fmt) (iop (intElem w.fmt u) (intElem w.fmt v)))
        (codeOf (fmtWidth w.fmt) (if high then (intBounds w.fmt).2 else (intBounds w.fmt).1))) := by
  have hfloat := fmtIsFloat_of_int hf
  have hleaf : absLeaf w.fmt (w.flg.getLsbD 1) = fun v => if w.flg.getLsbD 1
      then codeOf (fmtWidth w.fmt) (max (intBounds w.fmt).1 (min (intBounds w.fmt).2 (intElem w.fmt v).natAbs)) else v := by
    funext v
    cases hflg : w.flg.getLsbD 1 <;> simp [absLeaf, hfloat, satLane_eq]
  have hop : lane2 w.fmt 0 fop iop = fun u v => codeOf (fmtWidth w.fmt) (iop (intElem w.fmt u) (intElem w.fmt v)) :=
    funext fun u => funext fun v => lane2_of_int hf 0 fop iop u v
  rw [hleaf, hop, extreme, if_neg (by simp [hfloat])]
  exact State.reduceForm_int hx ha hf _ _ _ (acceptsFI_of_int hf)

end

end

/-! ### The sum of a tree -/

/-- The code of an integer, and the integer of a code, are equal to it modulo 2^w. -/
theorem codeOf_modEq (w : Nat) (i : Int) : (codeOf w i : Int) ≡ i [ZMOD 2 ^ w] := by
  rw [codeOf, Int.toNat_of_nonneg (Int.emod_nonneg _ (by positivity))]
  exact Int.mod_modEq i _

theorem signedOf_modEq (w v : Nat) : signedOf w v ≡ (v : Int) [ZMOD 2 ^ w] := by
  unfold signedOf
  split
  · exact (Int.sub_emod_right _ _).trans (Int.mod_modEq _ _)
  · exact Int.mod_modEq _ _

theorem intElem_modEq (f : Fmt) (v : Nat) : intElem f v ≡ (v : Int) [ZMOD 2 ^ fmtWidth f] := by
  unfold intElem
  split
  · exact signedOf_modEq _ _
  · exact Int.ModEq.refl _

/-- A leaf or node of a sum: an empty one counts as 0. -/
def nodeValue (o : Option Nat) : Int := o.getD 0

section
variable {m : Int} {op : Nat → Nat → Nat} (hop : ∀ u v : Nat, (op u v : Int) ≡ u + v [ZMOD m])
include hop

theorem nodeValue_treeNode (a b : Option Nat) : nodeValue (treeNode op a b) ≡ nodeValue a + nodeValue b [ZMOD m] := by
  cases a with
  | none => simp [treeNode, nodeValue, Int.ModEq]
  | some u =>
    cases b with
    | none => simp [treeNode, nodeValue, Int.ModEq]
    | some v => exact hop u v

/-- A level of the tree keeps the sum and halves the number of nodes. -/
theorem sum_treeLevel : ∀ l : List (Option Nat), ((treeLevel op l).map nodeValue).sum ≡ (l.map nodeValue).sum [ZMOD m]
  | [] => Int.ModEq.refl _
  | [_] => Int.ModEq.refl _
  | a :: b :: r => by
    simp only [treeLevel, List.map_cons, List.sum_cons, ← add_assoc]
    exact (nodeValue_treeNode hop a b).add (sum_treeLevel r)

omit hop in
theorem length_treeLevel : ∀ {l : List (Option Nat)} {n : Nat}, l.length = 2 * n → (treeLevel op l).length = n
  | [], _, h => by simp at h; simp [treeLevel, h]
  | [_], _, h => by simp at h; omega
  | _ :: _ :: r, n, h => by
    have hr : r.length = 2 * (n - 1) := by simp at h; omega
    have := length_treeLevel hr
    simp only [treeLevel, List.length_cons] at h ⊢
    omega

theorem nodeValue_treeFold {k : Nat} {l : List (Option Nat)} (hl : l.length = 2 ^ k) :
    nodeValue (treeFold op k l) ≡ (l.map nodeValue).sum [ZMOD m] := by
  induction k generalizing l with
  | zero =>
    obtain ⟨a, rfl⟩ := List.length_eq_one_iff.1 hl
    simp [treeFold, Int.ModEq]
  | succ k ih => exact (ih (length_treeLevel (by rw [hl, Nat.pow_succ, Nat.mul_comm]))).trans (sum_treeLevel hop l)

end

theorem sum_map_modEq {α : Type} {m : Int} {f g : α → Int} (l : List α) (h : ∀ a ∈ l, f a ≡ g a [ZMOD m]) :
    (l.map f).sum ≡ (l.map g).sum [ZMOD m] := by
  induction l with
  | nil => exact Int.ModEq.refl _
  | cons a l ih =>
    rw [List.map_cons, List.map_cons, List.sum_cons, List.sum_cons]
    exact (h a List.mem_cons_self).add (ih fun b hb => h b (List.mem_cons_of_mem _ hb))

/-- The tree of a wrapping sum gives the sum of the segment's active elements modulo 2^w. -/
theorem Task.segFold_sum (x : Task) {w : VWord} (hf : fmtIsInt w.fmt = true) (j : Nat) :
    (x.segFold w id (fun u v => codeOf (fmtWidth w.fmt) (intElem w.fmt u + intElem w.fmt v)) 0 j : Int) ≡
      ((List.range (segSize w)).map (fun i => if x.vec.active w.k (segSize w * j + i) = true
        then intElem w.fmt (lane x w w.a (segSize w * j + i)) else 0)).sum [ZMOD 2 ^ fmtWidth w.fmt] := by
  have hop (u v : Nat) : (codeOf (fmtWidth w.fmt) (intElem w.fmt u + intElem w.fmt v) : Int) ≡ u + v [ZMOD 2 ^ fmtWidth w.fmt] :=
    (codeOf_modEq _ _).trans ((intElem_modEq _ u).add (intElem_modEq _ v))
  have hlen : (x.segLeaves w id j).length = 2 ^ Nat.log2 (segSize w) := by
    rw [segSize_eq_two_pow (acceptsFI_of_int hf), Nat.log2_two_pow, ← segSize_eq_two_pow (acceptsFI_of_int hf)]
    simp [Task.segLeaves]
  refine (nodeValue_treeFold hop hlen).trans ?_
  rw [Task.segLeaves, List.map_map]
  refine sum_map_modEq _ fun i _ => ?_
  dsimp only [Function.comp]
  split
  · exact (intElem_modEq _ _).symm
  · exact Int.ModEq.refl _

/-- Settles O30: the conversions by their part, the reductions by their segments; a wrapping integer sum by what each level of its tree keeps. -/
theorem vectorConversionsAndReductions : Obligations.VectorConversionsAndReductions := by
  unfold Obligations.VectorConversionsAndReductions
  refine ⟨fun s x w hx => ?forms, fun s x w hx hf ha hflg => ?sum⟩
  case forms =>
    intro a wrap ns nd p width
    refine ⟨fun htag hbad htarget hwrap => ?vcvt, fun htag hbad hblock hdiv hp => ?vcvtb, fun g hf huse hg => exec_vrng hx g hf huse hg,
      fun ha => ⟨fun hf => ?floats, fun hf => ?ints⟩⟩
    case vcvt =>
      exact ⟨fun _ hdiv hp => exec_vcvt hx hbad (convertSpan_up hdiv hp) htag htarget hwrap,
        fun hlt hdiv hp => exec_vcvt hx hbad (convertSpan_down hlt hdiv hp) htag htarget hwrap⟩
    case vcvtb =>
      have hblocks : x.convertedBlocks w 0 ns = (chunks (fmtBlock w.fmt) ns ((List.range ns).map a.value)).map (convertBlock w.fmt w.rm.toNat) := by
        simp only [Task.convertedBlocks, Nat.zero_add]
        rfl
      rw [exec_vcvtb hx hbad (convertSpan_up hdiv hp) htag hblock, hblocks]
    case floats =>
      refine ⟨?_, ?_, ?_⟩
      · exact (exec_vredsum_float hx ha hf).trans (by simp only [canonical_of_float hf]; rfl)
      · exact (State.reduceForm_float hx ha hf false Val.max (fun a b => max a b)).trans (by simp only [canonical_of_float hf]; rfl)
      · exact (State.reduceForm_float hx ha hf true Val.min (fun a b => min a b)).trans (by simp only [canonical_of_float hf]; rfl)
    case ints =>
      refine ⟨?_, ?_, ?_, ?_, ?_⟩
      · exact exec_vredsum_int hx ha hf
      · exact State.reduceForm_int_extreme hx ha hf false Val.max (fun a b => max a b)
      · exact State.reduceForm_int_extreme hx ha hf true Val.min (fun a b => min a b)
      · exact State.reduceForm_int hx ha hf id (fun u v => u &&& v) (2 ^ width - 1) hf
      · exact State.reduceForm_int hx ha hf id (fun u v => u ||| v) 0 hf
  case sum =>
    have hexec := exec_vredsum_int hx ha hf
    simp only [hflg, Bool.false_eq_true, if_false] at hexec
    refine ⟨_, hexec, rfl, congrArg VReg.tag (Vec.reg_merge_same ..), fun j (hj : j < fmtElems w.fmt / segSize w) => ?result,
      fun j hj (hafter : fmtElems w.fmt / segSize w ≤ j) => ?zero⟩
    case result =>
      have hlt : j < fmtElems w.fmt := Nat.lt_of_lt_of_le hj (Nat.div_le_self _ _)
      refine (Vec.elem_fill_map x.vec w.d.toNat w.fmt _ hlt).trans ?_
      rw [if_pos hj, ← Int.toNat_natCast (_ % _), Int.natCast_mod, Int.natCast_pow]
      exact congrArg Int.toNat (x.segFold_sum hf j)
    case zero =>
      refine (Vec.elem_fill_map x.vec w.d.toNat w.fmt _ hj).trans ?_
      rw [if_neg (Nat.not_lt.2 hafter), Nat.zero_mod]

end Sys2Proof.Machine
end

section
/-! PROOF. Every step keeps memory canonical (log 7). First the predicate, how it passes through the combinators of the model, and the
parts Base, Access, Routes. -/

namespace Sys2Proof.Machine
set_option Elab.async false
open Sys2Proof

/-- The memories of a state are in their canonical form, as one word. -/
def State.Canon (s : State) : Prop := s.memOk

/-- The same of the state that an operation gives beside its own result. -/
def CanonFst {α : Type} (q : State × α) : Prop := q.1.Canon

/-- Whatever an operation completes with satisfies p. -/
def Res.Gives {α : Type} (p : α → Prop) (r : Res α) : Prop := ∀ a, r = .ok a → p a

/-- Whatever is found satisfies p. -/
def Found {α : Type} (p : α → Prop) (o : Option α) : Prop := ∀ a, o = some a → p a

/-- The next state, if a turn has one, is canonical. -/
def Out.Canon (o : Out) : Prop := ∀ t, o = .next t → t.Canon

theorem State.canon_iff (s : State) : s.Canon ↔ Memory.wf s.mem = true ∧ Memory.wf s.dirty = true := Iff.rfl
theorem canonFst_iff {α : Type} (q : State × α) : CanonFst q ↔ q.1.Canon := Iff.rfl

theorem Res.gives_ok {α : Type} (p : α → Prop) (a : α) : Res.Gives p (.ok a) ↔ p a := by simp [Res.Gives]
theorem Res.gives_error {α : Type} (p : α → Prop) (e : Exit) : Res.Gives p (.error e) := by simp [Res.Gives]
theorem Res.gives_fault {α : Type} (p : α → Prop) (code : Nat) : Res.Gives p (fault code) := Res.gives_error p _
theorem found_some {α : Type} (p : α → Prop) (a : α) : Found p (some a) ↔ p a := by simp [Found]
theorem found_none {α : Type} (p : α → Prop) : Found p none := by simp [Found]
theorem Out.canon_next (s : State) : Out.Canon (.next s) ↔ s.Canon := by simp [Out.Canon]
theorem Out.canon_fault (r : Fault) : Out.Canon (.fault r) := by simp [Out.Canon]
theorem Out.canon_refused (r : Refusal) : Out.Canon (.refused r) := by simp [Out.Canon]

/-- An operation in two parts gives what the second gives after whatever the first completes with. -/
theorem Res.gives_bind {α β : Type} {p : β → Prop} {x : Res α} {f : α → Res β} (hf : ∀ a, x = .ok a → Res.Gives p (f a)) :
    Res.Gives p (x >>= f) := by
  intro b hb
  obtain ⟨a, ha, hab⟩ := Res.bind_eq_ok.1 hb
  exact hf a ha b hab

/-- The same where the first part gives what satisfies q. -/
theorem Res.gives_bind_of {α β : Type} {q : α → Prop} {p : β → Prop} {x : Res α} {f : α → Res β} (hx : Res.Gives q x)
    (hf : ∀ a, q a → Res.Gives p (f a)) : Res.Gives p (x >>= f) := Res.gives_bind fun a ha => hf a (hx a ha)

theorem found_bind {α β : Type} {p : β → Prop} {x : Option α} {f : α → Option β} (hf : ∀ a, x = some a → Found p (f a)) : Found p (x.bind f) := by
  intro b hb
  obtain ⟨a, ha, hab⟩ := Option.bind_eq_some_iff.1 hb
  exact hf a ha b hab

theorem found_bind_of {α β : Type} {q : α → Prop} {p : β → Prop} {x : Option α} {f : α → Option β} (hx : Found q x)
    (hf : ∀ a, q a → Found p (f a)) : Found p (x.bind f) := found_bind fun a ha => hf a (hx a ha)

theorem found_orElse {α : Type} {p : α → Prop} {x : Option α} {y : Unit → Option α} (hx : Found p x) (hy : Found p (y ())) : Found p (x.orElse y) := by
  cases x with
  | none => exact hy
  | some a => exact hx

theorem found_getD {α : Type} {p : α → Prop} {x : Option α} {a : α} (hx : Found p x) (ha : p a) : p (x.getD a) := by
  cases x with
  | none => exact ha
  | some b => exact hx b rfl

theorem found_map {α β : Type} {p : β → Prop} {x : Option α} {f : α → β} (hf : ∀ a, x = some a → p (f a)) : Found p (x.map f) := by
  intro b hb
  obtain ⟨a, ha, rfl⟩ := Option.map_eq_some_iff.1 hb
  exact hf a ha

/-- What every step of a fold keeps, the fold keeps. -/
theorem foldl_keeps {α β : Type} {p : α → Prop} {f : α → β → α} (hf : ∀ u b, p u → p (f u b)) (l : List β) {a : α} (ha : p a) : p (l.foldl f a) := by
  induction l generalizing a with
  | nil => exact ha
  | cons b r ih => exact ih (hf a b ha)

theorem Res.gives_foldlM {α β : Type} {p : α → Prop} {f : α → β → Res α} (hf : ∀ u b, p u → Res.Gives p (f u b)) (l : List β) {a : α} (ha : p a) :
    Res.Gives p (l.foldlM f a) := by
  induction l generalizing a with
  | nil => exact (Res.gives_ok p a).2 ha
  | cons b r ih =>
    rw [List.foldlM_cons]
    exact Res.gives_bind fun u hu => ih (hf a b ha u hu)

theorem found_foldlM {α β : Type} {p : α → Prop} {f : α → β → Option α} (hf : ∀ u b, p u → Found p (f u b)) (l : List β) {a : α} (ha : p a) :
    Found p (l.foldlM f a) := by
  induction l generalizing a with
  | nil => exact (found_some p a).2 ha
  | cons b r ih =>
    rw [List.foldlM_cons]
    exact found_bind fun u hu => ih (hf a b ha u hu)

theorem canon_foldl {β : Type} {f : State → β → State} (hf : ∀ u b, u.Canon → (f u b).Canon) (l : List β) {s : State} (h : s.Canon) :
    (l.foldl f s).Canon := foldl_keeps hf l h

theorem State.canon_reset : State.reset.Canon := ⟨rfl, rfl⟩

section
variable {s : State} (h : s.Canon)
include h

/-! ### Base -/

theorem State.canon_setCore (c x) : (s.setCore c x).Canon := h

theorem State.canon_setCluster (c x) : (s.setCluster c x).Canon := h

theorem State.canon_setDie (d x) : (s.setDie d x).Canon := h

theorem State.canon_setStack (d x) : (s.setStack d x).Canon := h

theorem State.canon_setTask (t x) : (s.setTask t x).Canon := h

theorem State.canon_addTask (t x) : (s.addTask t x).Canon := h

theorem State.canon_delTask (t) : (s.delTask t).Canon := h

theorem State.canon_setLaunch (l x) : (s.setLaunch l x).Canon := h

theorem State.canon_setHostFn (vf x) : (s.setHostFn vf x).Canon := h

theorem State.canon_setCGroup (g x) : (s.setCGroup g x).Canon := h

theorem State.canon_setEncoder (e x) : (s.setEncoder e x).Canon := h

theorem State.canon_send (m) : (s.send m).Canon := h

theorem State.canon_modTask (t f) : (s.modTask t f).Canon := by
  unfold State.modTask
  grind only [State.canon_setTask]

theorem State.canon_modCore (c f) : (s.modCore c f).Canon := h

theorem State.canon_freshFree : (s.freshFree).2.Canon := h

/-! ### Access -/

theorem State.canon_poisonUnit (a) : (s.poisonUnit a).Canon := h

theorem State.canon_poisonCells (l) : (s.poisonCells l).Canon := by
  unfold State.poisonCells
  grind only [State.canon_poisonUnit, canon_foldl]

theorem State.canon_store (ws) : (s.store ws).Canon := State.memOk_store h ws

theorem State.canon_storeBytes (a bs) : (s.storeBytes a bs).Canon := by
  unfold State.storeBytes
  grind only [State.canon_store]

theorem State.canon_abandon (t l) : (s.abandon t l).Canon := by
  unfold State.abandon
  grind only [State.canon_modTask]

theorem State.canon_effect (a) : (s.effect a).Canon := by
  unfold State.effect
  grind only [State.canon_store]

theorem State.canon_performAtomic (t x k a d m) : (s.performAtomic t x k a d m).Canon := by
  unfold State.performAtomic
  grind only [State.canon_setTask, State.canon_effect]

theorem State.canon_performAccess (t x k a) : (s.performAccess t x k a).Canon := by
  unfold State.performAccess
  grind only [State.canon_setTask, State.canon_effect, State.canon_performAtomic]

theorem State.canon_savePosted (t a) : (s.savePosted t a).Canon := by
  induction a generalizing s with
  | zero => exact h
  | succ n ih =>
    unfold State.savePosted
    grind [State.canon_performAccess]

/-! ### Routes -/

theorem State.canon_sendOn (part m) : (s.sendOn part m).Canon := by
  unfold State.sendOn
  grind only [State.canon_send, State.canon_iff]

theorem State.canon_sendControl (part dest kind group opening value) : (s.sendControl part dest kind group opening value).Canon := by
  unfold State.sendControl
  grind only [State.canon_sendOn, State.canon_iff]

theorem State.canon_flushControl : s.flushControl.Canon := by
  unfold State.flushControl
  grind only [State.canon_sendOn, canon_foldl, State.canon_iff]

theorem State.canon_resend (g) : (s.resend g).Canon := by
  unfold State.resend
  grind only [State.canon_sendOn, canon_foldl]

theorem State.canon_routesChanged : s.routesChanged.Canon := by
  unfold State.routesChanged
  grind only [State.canon_resend, State.canon_flushControl, canon_foldl, State.canon_iff]
end

end Sys2Proof.Machine
end

section
/-! PROOF. Every step keeps memory canonical, continued: the parts Tasks, Ops. -/

namespace Sys2Proof.Machine
set_option Elab.async false
open Sys2Proof

section
variable {s : State} (h : s.Canon)
include h

/-! ### Tasks -/

theorem State.canon_setPending (core v) : (s.setPending core v).Canon := h

theorem State.canon_interruptPart (p v) : (s.interruptPart p v).Canon := by
  unfold State.interruptPart
  grind only [State.canon_setPending]

theorem State.canon_interruptSupervisor (p) : (s.interruptSupervisor p).Canon := by
  unfold State.interruptSupervisor
  grind only [State.canon_freshFree, State.canon_interruptPart]

theorem State.canon_interruptManagement (source code) : (s.interruptManagement source code).Canon := h

theorem State.canon_raiseIstat (vf bits) : (s.raiseIstat vf bits).Canon := by
  unfold State.raiseIstat
  grind only [State.canon_setHostFn, State.canon_send]

theorem State.canon_hold (w) : (s.hold w).Canon := by
  unfold State.hold
  grind only [State.canon_iff]

theorem State.canon_storeNow (part va bs) : (s.storeNow part va bs).Canon := by
  unfold State.storeNow
  grind only [State.canon_storeBytes]

theorem State.canon_storeRun (part va bs) : (s.storeRun part va bs).Canon := by
  unfold State.storeRun
  grind only [State.canon_storeNow]

theorem State.canon_storePiece (part va bs) : (s.storePiece part va bs).Canon := by
  unfold State.storePiece
  grind only [State.canon_hold, State.canon_storeNow]

theorem State.canon_storeVirtual (part va bs) : (s.storeVirtual part va bs).Canon := by
  unfold State.storeVirtual
  grind only [State.canon_storePiece]

theorem State.canon_logNow (part code action core counter rec w3 tick) : (s.logNow part code action core counter rec w3 tick).Canon := by
  unfold State.logNow
  grind only [State.canon_storeRun, State.canon_interruptPart]

theorem State.canon_logEntry (part code action core counter rec w3) : (s.logEntry part code action core counter rec w3).Canon := by
  unfold State.logEntry
  grind only [State.canon_hold, State.canon_logNow]

theorem State.canon_istatAfter (part vf bits) : (s.istatAfter part vf bits).Canon := by
  unfold State.istatAfter
  grind only [State.canon_hold, State.canon_raiseIstat]

theorem State.canon_managementAfter (part source code) : (s.managementAfter part source code).Canon := by
  unfold State.managementAfter
  grind only [State.canon_hold, State.canon_interruptManagement]

theorem State.canon_release (a) : Found State.Canon (s.release a) := by
  unfold State.release
  grind only [found_some, found_none, State.canon_storeNow, State.canon_logNow, State.canon_raiseIstat, State.canon_interruptManagement]

theorem State.canon_flushHeld : s.flushHeld.Canon := by
  unfold State.flushHeld
  grind only [found_some, found_none, State.canon_hold, State.canon_release, canon_foldl, State.canon_iff]

theorem State.canon_raiseRequest (t x) : (s.raiseRequest t x).Canon := by
  unfold State.raiseRequest
  grind only [State.canon_modCore, canon_foldl]

theorem State.canon_enqueue (t head) : (s.enqueue t head).Canon := by
  unfold State.enqueue
  grind only [State.canon_setCluster, State.canon_raiseRequest]

theorem State.canon_dequeue (t) : (s.dequeue t).Canon := by
  unfold State.dequeue
  grind only [State.canon_setCluster]

theorem State.canon_makeRunnable (t head) : (s.makeRunnable t head).Canon := by
  unfold State.makeRunnable
  grind only [State.canon_enqueue, State.canon_modTask]

theorem State.canon_copiesDone (t) : (s.copiesDone t).Canon := by
  unfold State.copiesDone
  grind only [State.canon_raiseRequest, State.canon_setTask]

theorem State.canon_releaseCore (t) : (s.releaseCore t).Canon := by
  unfold State.releaseCore
  grind only [State.canon_setTask, State.canon_setCore]

theorem State.canon_freeStorage (t x) : (s.freeStorage t x).Canon := by
  unfold State.freeStorage
  grind only [State.canon_setCluster, State.canon_modCore, State.canon_setLaunch]

theorem State.canon_fillStorage (g cell a) : (s.fillStorage g cell a).Canon := by
  refine ⟨foldl_keeps (p := fun m => Memory.wf m = true) (fun m cv hm => ?_) _ (Memory.wf_clear h.1 _ _), Memory.wf_clear h.2 _ _⟩
  dsimp only
  split
  · exact Memory.wf_applyAll hm _
  · exact Memory.wf_write (Memory.wf_applyAll hm _) _ _

theorem State.canon_putParent (parent g p v hdr) : Res.Gives State.Canon (s.putParent parent g p v hdr) := by
  unfold State.putParent
  grind only [Res.gives_ok, Res.gives_error, Res.gives_fault, State.canon_store, Res.gives_bind]

theorem State.canon_applyElem (parent g p policy v hdr) : Res.Gives State.Canon (s.applyElem parent g p policy v hdr) := by
  unfold State.applyElem
  grind only [Res.gives_ok, Res.gives_error, Res.gives_fault, State.canon_putParent, Res.gives_bind]

theorem State.canon_returnArg (child parent ci j a grp) : Res.Gives CanonFst (s.returnArg child parent ci j a grp) := by
  unfold State.returnArg
  dsimp only
  split
  · exact (Res.gives_ok _ _).2 h
  · refine Res.gives_bind fun gc _ => Res.gives_bind fun gp _ => Res.gives_foldlM (fun acc c hacc => ?_) _ h
    grind only [Res.gives_ok, Res.gives_error, canonFst_iff, Res.gives_bind, State.canon_applyElem]

theorem State.canon_resolveGroup (parent g dead) : Res.Gives State.Canon (s.resolveGroup parent g dead) := by
  unfold State.resolveGroup
  grind only [Res.gives_ok, Res.gives_error, Res.gives_fault, State.canon_applyElem, canon_foldl, Res.gives_foldlM]

theorem State.canon_wakeJoin (t) : (s.wakeJoin t).Canon := by
  unfold State.wakeJoin
  grind only [State.canon_makeRunnable, State.canon_setTask, State.canon_iff]

theorem State.canon_closeStream (n) : (s.closeStream n).Canon := by
  unfold State.closeStream
  grind only [State.canon_iff]

theorem State.canon_tryFinishLaunch (l) : (s.tryFinishLaunch l).Canon := by
  unfold State.tryFinishLaunch
  grind only [State.canon_closeStream, State.canon_setLaunch, State.canon_storeVirtual, State.canon_managementAfter, State.canon_istatAfter,
    canon_foldl]

theorem State.canon_childReturned (x status) : Res.Gives State.Canon (s.childReturned x status) := by
  unfold State.childReturned
  grind only [Res.gives_ok, Res.gives_error, Res.gives_fault, State.canon_modTask, State.canon_wakeJoin, State.canon_resolveGroup, Res.gives_bind,
    State.canon_iff]

theorem State.canon_rootReturned (x status) : (s.rootReturned x status).Canon := by
  unfold State.rootReturned
  grind only [State.canon_setLaunch]

theorem State.canon_finishReturn (t status) : Res.Gives State.Canon (s.finishReturn t status) := by
  unfold State.finishReturn
  grind only [Res.gives_ok, Res.gives_error, Res.gives_fault, State.canon_freeStorage, State.canon_releaseCore, State.canon_dequeue,
    State.canon_childReturned, State.canon_setTask, State.canon_delTask, State.canon_tryFinishLaunch, State.canon_rootReturned, Res.gives_bind,
    State.canon_iff]

theorem canon_orKeep (r) (ho : Res.Gives State.Canon (r)) : (orKeep s r).Canon := by
  unfold orKeep
  grind only [Res.gives_ok, Res.gives_error, Res.gives_fault]

theorem State.canon_reapDead (a) : (s.reapDead a).Canon := by
  induction a generalizing s with
  | zero => exact h
  | succ n ih =>
    unfold State.reapDead
    grind [canon_orKeep, State.canon_finishReturn]

theorem State.canon_performStores (t) : (s.performStores t).Canon := by
  unfold State.performStores
  grind only [State.canon_setTask, State.canon_effect, canon_foldl]

theorem State.canon_endTask (t code) : (s.endTask t code).Canon := by
  unfold State.endTask
  grind only [State.canon_performStores, State.canon_releaseCore, State.canon_dequeue, State.canon_setTask, State.canon_reapDead, State.canon_iff]

theorem State.canon_withdrawStores (t) : (s.withdrawStores t).Canon := by
  unfold State.withdrawStores
  grind only [State.canon_setCGroup, canon_foldl, State.canon_iff]

theorem State.canon_discardTask (t) : (s.discardTask t).Canon := by
  unfold State.discardTask
  grind only [State.canon_withdrawStores, State.canon_freeStorage, State.canon_releaseCore, State.canon_dequeue, State.canon_iff]

theorem State.canon_rollback (t code counted at_) : (s.rollback t code counted at_).Canon := by
  unfold State.rollback
  grind only [State.canon_endTask, State.canon_logEntry, State.canon_withdrawStores, State.canon_performStores, State.canon_discardTask,
    State.canon_enqueue, State.canon_setTask, canon_foldl, State.canon_iff]

theorem State.canon_fenceCore (c) : (s.fenceCore c).Canon := by
  unfold State.fenceCore
  grind only [State.canon_modCore, State.canon_rollback, canon_foldl]

theorem State.canon_countEvent (c code at_) : (s.countEvent c code at_).Canon := by
  unfold State.countEvent
  grind only [State.canon_setCore, State.canon_interruptManagement, State.canon_logEntry, State.canon_fenceCore]

/-! ### Ops -/

theorem State.canon_done (x len) : Res.Gives State.Canon (s.done x len) := by
  unfold State.done
  grind only [Res.gives_ok, Res.gives_error, Res.gives_fault, State.canon_setTask]

theorem State.canon_doubleTrap (t x code) : (s.doubleTrap t x code).Canon := by
  unfold State.doubleTrap
  grind only [State.canon_setDie, State.canon_interruptManagement, State.canon_endTask]

theorem State.canon_counted (x code val) : (s.counted x code val).Canon := by
  unfold State.counted
  grind only [State.canon_countEvent]

theorem State.canon_requeue (t x code val) : (s.requeue t x code val).Canon := by
  unfold State.requeue
  grind only [State.canon_counted, State.canon_rollback]

theorem State.canon_trapEntry (t x code int addr resume val) : Out.Canon (s.trapEntry t x code int addr resume val) := by
  unfold State.trapEntry
  grind only [Out.canon_next, Out.canon_fault, Out.canon_refused, State.canon_doubleTrap, State.canon_requeue, State.canon_setTask, State.canon_iff]

theorem State.canon_raise (t x code val) : Out.Canon (s.raise t x code val) := by
  unfold State.raise
  grind only [Out.canon_next, Out.canon_fault, Out.canon_refused, State.canon_counted, State.canon_doubleTrap, State.canon_requeue,
    State.canon_trapEntry, State.canon_endTask]

theorem State.canon_noteMiss (m) : (s.noteMiss m).Canon := by
  unfold State.noteMiss
  grind only [State.canon_iff]

theorem State.canon_deliver (t x r) (ho : Res.Gives State.Canon (r)) : Out.Canon (s.deliver t x r) := by
  unfold State.deliver
  grind only [Out.canon_next, Out.canon_fault, Out.canon_refused, Res.gives_ok, Res.gives_error, Res.gives_fault, State.canon_raise,
    State.canon_noteMiss]

theorem State.canon_issue (f body) (hf : ∀ u, Res.Gives State.Canon (body u)) : Out.Canon (s.issue f body) := by
  unfold State.issue
  grind only [Out.canon_next, Out.canon_fault, Out.canon_refused, Res.gives_ok, Res.gives_error, Res.gives_fault, State.canon_deliver, Res.gives_bind]

theorem State.canon_issueTask (f len body) : Out.Canon (s.issueTask f len body) := by
  unfold State.issueTask
  grind only [Res.gives_ok, Res.gives_error, Res.gives_fault, Out.canon_next, Out.canon_fault, Out.canon_refused, State.canon_issue, State.canon_done,
    Res.gives_bind]

theorem State.canon_issueScalar (f len d val) : Out.Canon (s.issueScalar f len d val) := by
  unfold State.issueScalar
  grind only [Out.canon_next, Out.canon_fault, Out.canon_refused, Res.gives_ok, Res.gives_error, Res.gives_fault, State.canon_issueTask,
    Res.gives_bind]

theorem State.canon_settleLink (t x) : (s.settleLink t x).Canon := by
  unfold State.settleLink
  grind only [State.canon_modTask]
end

end Sys2Proof.Machine
end

section
/-! PROOF. Every step keeps memory canonical, continued: the parts Operands, Atomics, Fetch, Ends, Waits, Contexts. -/

namespace Sys2Proof.Machine
set_option Elab.async false
open Sys2Proof

section
variable {s : State} (h : s.Canon)
include h

/-! ### Operands -/

theorem State.canon_writeFrame (x fa bs) : (s.writeFrame x fa bs).1.Canon := by
  unfold State.writeFrame
  grind only [State.canon_modCore]

/-! ### Atomics -/

theorem State.canon_amo (m fn) : Out.Canon (s.amo m fn) := by
  unfold State.amo
  grind only [Out.canon_next, Out.canon_fault, Out.canon_refused, Res.gives_ok, Res.gives_error, Res.gives_fault, State.canon_issueTask,
    Res.gives_bind]

/-! ### Fetch -/

theorem State.canon_deliverStream (t x st r) (ho : Res.Gives State.Canon (r)) : Out.Canon (s.deliverStream t x st r) := by
  unfold State.deliverStream
  grind only [Out.canon_next, Out.canon_fault, Out.canon_refused, Res.gives_ok, Res.gives_error, Res.gives_fault, State.canon_setTask,
    State.canon_noteMiss]

theorem State.canon_issueVector (body) (hf : ∀ u, Res.Gives State.Canon (body u)) : Out.Canon (s.issueVector body) := by
  unfold State.issueVector
  grind only [Out.canon_next, Out.canon_fault, Out.canon_refused, Res.gives_ok, Res.gives_error, Res.gives_fault, State.canon_deliverStream]

/-! ### Ends -/

theorem canon_execJoin : Out.Canon (execJoin s) := by
  unfold execJoin
  grind only [Out.canon_next, Out.canon_fault, Out.canon_refused, Res.gives_ok, Res.gives_error, Res.gives_fault, State.canon_issue,
    State.canon_wakeJoin, State.canon_releaseCore, State.canon_setTask, Res.gives_bind]

theorem canon_execYield : Out.Canon (execYield s) := by
  unfold execYield
  grind only [Out.canon_next, Out.canon_fault, Out.canon_refused, Res.gives_ok, Res.gives_error, Res.gives_fault, State.canon_issue,
    State.canon_makeRunnable, State.canon_releaseCore, State.canon_setTask, Res.gives_bind]

theorem canon_execEndTask : Out.Canon (execEndTask s) := by
  unfold execEndTask
  grind only [Out.canon_next, Out.canon_fault, Out.canon_refused, Res.gives_ok, Res.gives_error, Res.gives_fault, State.canon_issue,
    State.canon_setTask, Res.gives_bind]

theorem State.canon_returnArgs (x view grp) : Res.Gives CanonFst (s.returnArgs x view grp) := by
  unfold State.returnArgs
  grind only [Res.gives_ok, Res.gives_error, Res.gives_fault, canonFst_iff, State.canon_returnArg, Res.gives_bind, Res.gives_foldlM]

theorem State.canon_returnAll (x) : Res.Gives State.Canon (s.returnAll x) := by
  unfold State.returnAll
  split
  · split
    · exact (Res.gives_ok _ _).2 h
    · split
      · exact (Res.gives_ok _ _).2 h
      · refine Res.gives_bind_of (State.canon_returnArgs h _ _ _) fun r hr => ?_
        grind only [Res.gives_ok, canonFst_iff, State.canon_iff]
  · exact Res.gives_bind_of (State.canon_returnArgs h _ _ _) fun r hr => (Res.gives_ok _ _).2 hr
  · exact Res.gives_bind_of (State.canon_returnArgs h _ _ _) fun r hr => (Res.gives_ok _ _).2 hr
  · exact (Res.gives_ok _ _).2 h

theorem State.canon_trapLater (t x code val) : (s.trapLater t x code val).Canon := by
  unfold State.trapLater
  grind only [State.canon_makeRunnable, State.canon_setTask]

theorem State.canon_deliverReturn (t x r) (ho : Res.Gives State.Canon (r)) : Out.Canon (s.deliverReturn t x r) := by
  unfold State.deliverReturn
  grind only [Out.canon_next, Out.canon_fault, Out.canon_refused, Res.gives_ok, Res.gives_error, Res.gives_fault, State.canon_reapDead,
    State.canon_requeue, State.canon_trapLater, State.canon_endTask, State.canon_noteMiss]

theorem canon_execTaskReturn (t) : Out.Canon (execTaskReturn t s) := by
  unfold execTaskReturn
  grind only [Res.gives_ok, Res.gives_error, Res.gives_fault, Out.canon_next, Out.canon_fault, Out.canon_refused, State.canon_deliverReturn,
    State.canon_releaseCore, State.canon_finishReturn, State.canon_requeue, State.canon_setTask, State.canon_returnAll, Res.gives_bind]

/-! ### Waits -/

theorem State.canon_wait (all d a ext) : Out.Canon (s.wait all d a ext) := by
  unfold State.wait
  grind only [Res.gives_ok, Res.gives_error, Res.gives_fault, Out.canon_next, Out.canon_fault, Out.canon_refused, State.canon_issue, State.canon_done,
    State.canon_releaseCore, State.canon_setTask, Res.gives_bind]

theorem State.canon_latchWaits : s.latchWaits.Canon := h

theorem State.canon_resumeWait (t x w bits) : (s.resumeWait t x w bits).Canon := by
  unfold State.resumeWait
  grind only [State.canon_makeRunnable, State.canon_setTask]

theorem canon_execWaitConditionMet (t) : Out.Canon (execWaitConditionMet t s) := by
  unfold execWaitConditionMet
  grind only [Out.canon_next, Out.canon_fault, Out.canon_refused, State.canon_resumeWait]

theorem canon_execWaitTimeout (t) : Out.Canon (execWaitTimeout t s) := by
  unfold execWaitTimeout
  grind only [Out.canon_next, Out.canon_fault, Out.canon_refused, State.canon_resumeWait]

/-! ### Contexts -/

theorem State.canon_writeHeader (x base) : (s.writeHeader x base).Canon := by
  unfold State.writeHeader
  grind only [State.canon_storeBytes]

theorem State.canon_saveSection (t i) : (s.saveSection t i).Canon := by
  unfold State.saveSection
  grind only [State.canon_storeBytes, State.canon_writeHeader, State.canon_setTask]

theorem State.canon_saveSections (t l) : (s.saveSections t l).Canon := by
  unfold State.saveSections
  grind only [State.canon_saveSection, canon_foldl]

theorem State.canon_touch (t l) : Found State.Canon (s.touch t l) := by
  unfold State.touch
  grind only [found_some, found_none, State.canon_setTask, canon_foldl]

theorem State.canon_saveFails (t) : (s.saveFails t).Canon := by
  unfold State.saveFails
  grind only [State.canon_doubleTrap, State.canon_rollback]

theorem State.canon_trySave (t l) : (s.trySave t l).Canon := by
  unfold State.trySave
  split
  · exact h
  · split
    · exact State.canon_saveSections h _ _
    · exact State.canon_saveFails h _

theorem State.canon_bufferContext (c t) : (s.bufferContext c t).Canon := by
  unfold State.bufferContext
  grind only [State.canon_trySave, State.canon_modCore]

theorem State.canon_takeSlot (t n) : (s.takeSlot t n).Canon := by
  unfold State.takeSlot
  split
  · exact h
  · dsimp only
    split
    · exact State.canon_writeHeader (State.canon_setTask h _ _) _ _
    · exact State.canon_setTask h _ _

theorem State.canon_suspend (t) : Found State.Canon (s.suspend t) := by
  unfold State.suspend
  grind only [found_some, found_none, State.canon_abandon, State.canon_savePosted, State.canon_takeSlot, State.canon_modTask,
    State.canon_bufferContext, State.canon_releaseCore, State.canon_iff]

theorem State.canon_preempt (core) : Out.Canon (s.preempt core) := by
  unfold State.preempt
  grind only [found_some, found_none, Out.canon_next, Out.canon_fault, Out.canon_refused, State.canon_modCore, State.canon_rollback,
    State.canon_suspend, State.canon_makeRunnable, State.canon_saveFails]

theorem canon_execPreemption (core) : Out.Canon (execPreemption core s) := by
  unfold execPreemption
  grind only [Out.canon_next, Out.canon_fault, Out.canon_refused, State.canon_preempt]

theorem canon_execPreempt (d a) : Out.Canon (execPreempt d a s) := by
  unfold execPreempt
  grind only [Res.gives_ok, Res.gives_error, Res.gives_fault, Out.canon_next, Out.canon_fault, Out.canon_refused, State.canon_issue,
    State.canon_modCore, State.canon_done, Res.gives_bind]

theorem State.canon_stopStreams (t l) : (s.stopStreams t l).Canon := by
  unfold State.stopStreams
  grind only [State.canon_modTask]

theorem canon_execCtxsave (d a) : Out.Canon (execCtxsave d a s) := by
  refine State.canon_issue h _ _ fun x => Res.gives_bind fun v _ => Res.gives_bind fun _ _ => Res.gives_bind fun p _ => Res.gives_bind fun _ _ => ?_
  dsimp only
  split
  · exact State.canon_done h _ _
  · split
    · exact State.canon_done (State.canon_stopStreams (State.canon_saveSections h _ _) _ _) _ _
    · exact State.canon_done (State.canon_freshFree (State.canon_saveFails h _)) _ _

theorem canon_execCtxload (d a) : Out.Canon (execCtxload d a s) := by
  unfold execCtxload
  grind only [Res.gives_ok, Res.gives_error, Res.gives_fault, Out.canon_next, Out.canon_fault, Out.canon_refused, State.canon_issue, State.canon_done,
    State.canon_stopStreams, State.canon_modTask, State.canon_saveFails, Res.gives_bind]

theorem State.canon_slotFor (t x) : Found State.Canon (s.slotFor t x) := by
  unfold State.slotFor
  grind only [found_some, found_none, State.canon_takeSlot, found_map]

theorem State.canon_stopForClaim (t l) : (s.stopForClaim t l).Canon := by
  unfold State.stopForClaim
  grind only [State.canon_stopStreams, State.canon_abandon, State.canon_savePosted]

theorem canon_execStorageUnitSave (t unit) : Out.Canon (execStorageUnitSave t unit s) := by
  unfold execStorageUnitSave
  grind only [found_some, found_none, Out.canon_next, Out.canon_fault, Out.canon_refused, State.canon_slotFor, State.canon_saveFails,
    State.canon_trySave, State.canon_stopForClaim]

theorem State.canon_claimed (t o) (ho : Out.Canon (o)) : Out.Canon (s.claimed t o) := by
  unfold State.claimed
  repeat' split
  all_goals grind only [Out.canon_next, State.canon_modCore]
end

end Sys2Proof.Machine
end

section
/-! PROOF. Every step keeps memory canonical, continued: the parts Spawn, Schedule, Privileged. -/

namespace Sys2Proof.Machine
set_option Elab.async false
open Sys2Proof

section
variable {s : State} (h : s.Canon)
include h

/-! ### Spawn -/

theorem State.canon_createKids (parent g x down entry desc a) : (s.createKids parent g x down entry desc a).1.Canon := by
  induction a generalizing s with
  | nil => exact h
  | cons p r ih => exact ih (State.canon_enqueue (State.canon_addTask h _ _) _ _)

theorem State.canon_spawnGroup (x down w es kids) : Res.Gives State.Canon (s.spawnGroup x down w es kids) := by
  unfold State.spawnGroup
  repeat refine Res.gives_bind fun _ _ => ?_
  exact (Res.gives_ok _ _).2 (State.canon_createKids (State.canon_setTask h _ _) _ _ _ _ _ _ _)

theorem State.canon_retireCur (len) : (s.retireCur len).Canon := by
  unfold State.retireCur
  grind only [State.canon_modTask]

theorem State.canon_spawn (down d a ext) : Out.Canon (s.spawn down d a ext) := by
  refine State.canon_issue h _ _ fun x => ?_
  dsimp only
  repeat' first | refine Res.gives_bind fun _ _ => ?_ | split
  all_goals grind only [Res.gives_ok, State.canon_done, State.canon_spawnGroup, State.canon_retireCur]

theorem canon_execDspawn (d a ext) : Out.Canon (execDspawn d a ext s) := by
  refine State.canon_issue h _ _ fun x => ?_
  dsimp only
  repeat' first | refine Res.gives_bind fun _ _ => ?_ | split
  all_goals grind only [Res.gives_ok, Res.gives_error, State.canon_done, State.canon_spawnGroup, State.canon_retireCur, fault]

/-! ### Schedule -/

theorem State.canon_placeArg (al x view t core a) : Found CanonFst (s.placeArg al x view t core a) := by
  unfold State.placeArg
  grind only [found_some, found_none, canonFst_iff, State.canon_setCluster, State.canon_fillStorage, State.canon_modCore, State.canon_setLaunch]

theorem State.canon_placeArgs (al x view t core a) : Found CanonFst (s.placeArgs al x view t core a) := by
  induction a generalizing s with
  | nil => exact (found_some _ _).2 h
  | cons a r ih =>
    unfold State.placeArgs
    grind only [found_some, found_none, canonFst_iff, State.canon_placeArg]

theorem State.canon_placeBoxes (x view t core l) : Found CanonFst (s.placeBoxes x view t core l) := found_orElse (State.canon_placeArgs h _ _ _ _ _ _) (State.canon_placeArgs h _ _ _ _ _ _)

theorem State.canon_reserveStaging (x) : Found State.Canon (s.reserveStaging x) := by
  unfold State.reserveStaging
  grind only [found_some, found_none, State.canon_iff, found_map]

theorem canon_execChildStorageAllocation (t) : Out.Canon (execChildStorageAllocation t s) := by
  have hkeep : Out.Canon (.next s) := (Out.canon_next s).2 h
  unfold execChildStorageAllocation
  split
  · exact hkeep
  split
  · exact hkeep
  dsimp only
  split
  · exact State.canon_deliverReturn h _ _ _ (Res.gives_error _ _)
  split
  · exact (Out.canon_next _).2 (State.canon_requeue h _ _ _ _)
  split
  · exact hkeep
  split
  · exact hkeep
  next hplace =>
    have hu := found_bind_of (State.canon_reserveStaging h _) (fun u hu => State.canon_placeBoxes hu _ _ _ _ _) _ hplace
    exact (Out.canon_next _).2 (State.canon_setTask hu _ _)

theorem State.canon_materialiseAll (a) : Found State.Canon (s.materialiseAll a) := by
  induction a generalizing s with
  | nil => exact (found_some _ _).2 h
  | cons t r ih =>
    unfold State.materialiseAll
    grind only [found_none, State.canon_modTask]

theorem State.canon_materialise (t) : Found State.Canon (s.materialise t) := by
  unfold State.materialise
  grind only [found_some, found_none, State.canon_materialiseAll]

theorem canon_execCopyInComplete (t) : Out.Canon (execCopyInComplete t s) := by
  unfold execCopyInComplete
  grind only [Out.canon_next, Out.canon_fault, Out.canon_refused, State.canon_modCore, State.canon_setTask, State.canon_copiesDone]

theorem canon_execDispatch (core) : Out.Canon (execDispatch core s) := by
  have hkeep : Out.Canon (.next s) := (Out.canon_next s).2 h
  unfold execDispatch
  split
  · exact hkeep
  split
  · exact hkeep
  split
  · exact hkeep
  split
  · exact hkeep
  extract_lets moved v
  have hv : v.Canon := by
    unfold v
    split
    · exact State.canon_trySave h _ _
    · exact h
  clear_value v
  split
  · exact (Out.canon_next _).2 hv
  split
  · exact (Out.canon_next _).2 hv
  split
  · exact (Out.canon_next _).2 (State.canon_modCore hv _ _)
  · have hw (t : Nat) : (((v.dequeue t).materialise t).getD (v.dequeue t)).Canon :=
      found_getD (State.canon_materialise (State.canon_dequeue hv t) t) (State.canon_dequeue hv t)
    exact (Out.canon_next _).2 (State.canon_modCore (State.canon_setTask (hw _) _ _) _ _)

theorem canon_execSliceBudgetExhausted (t) : Out.Canon (execSliceBudgetExhausted t s) := by
  unfold execSliceBudgetExhausted
  grind only [found_some, found_none, Out.canon_next, Out.canon_fault, Out.canon_refused, State.canon_setTask, State.canon_suspend,
    State.canon_saveFails, State.canon_modTask, State.canon_makeRunnable, State.canon_interruptSupervisor, State.canon_endTask]

theorem canon_execContractAccountExhausted (part n cl) : Out.Canon (execContractAccountExhausted part n cl s) := by
  unfold execContractAccountExhausted
  grind only [Out.canon_next, Out.canon_fault, Out.canon_refused, State.canon_modTask, canon_foldl, State.canon_iff]

theorem canon_execContractRelease (part n) : Out.Canon (execContractRelease part n s) := by
  unfold execContractRelease
  grind only [Out.canon_next, Out.canon_fault, Out.canon_refused, State.canon_makeRunnable, State.canon_modTask, canon_foldl, State.canon_iff]

theorem canon_execQadmit (d a) : Out.Canon (execQadmit d a s) := by
  refine State.canon_issue h _ _ fun x => ?_
  repeat refine Res.gives_bind fun _ _ => ?_
  dsimp only
  split
  · exact State.canon_done h _ _
  · split
    · exact State.canon_done h _ _
    · refine State.canon_done ?_ _ _
      exact h

theorem canon_execQrelease (a) : Out.Canon (execQrelease a s) := by
  unfold execQrelease
  grind only [Out.canon_next, Out.canon_fault, Out.canon_refused, Res.gives_ok, Res.gives_error, Res.gives_fault, State.canon_issue,
    State.canon_routesChanged, State.canon_modTask, State.canon_makeRunnable, Res.gives_bind, canon_foldl, State.canon_iff]

theorem State.canon_toInteractive (t) : (s.toInteractive t).Canon := by
  unfold State.toInteractive
  grind only [State.canon_dequeue, State.canon_setTask, State.canon_enqueue, State.canon_makeRunnable]

theorem State.canon_cancelContract (part n) : (s.cancelContract part n).Canon := by
  unfold State.cancelContract
  grind only [State.canon_toInteractive, State.canon_tryFinishLaunch, canon_foldl, State.canon_iff]

theorem canon_execQcancel (a) : Out.Canon (execQcancel a s) := by
  unfold execQcancel
  grind only [Out.canon_next, Out.canon_fault, Out.canon_refused, Res.gives_ok, Res.gives_error, Res.gives_fault, State.canon_issue,
    State.canon_endTask, State.canon_cancelContract, State.canon_modTask, Res.gives_bind, canon_foldl]

theorem State.canon_createRoots (n l deadline) : (s.createRoots n l deadline).Canon := by
  unfold State.createRoots
  grind only [State.canon_addTask, State.canon_makeRunnable, State.canon_setTask, canon_foldl]

theorem canon_execPeriodicRelease (launch) : Out.Canon (execPeriodicRelease launch s) := by
  unfold execPeriodicRelease
  grind only [Out.canon_next, Out.canon_fault, Out.canon_refused, State.canon_setLaunch, State.canon_createRoots]

/-! ### Privileged -/

theorem State.canon_srPut (x n v) : (s.srPut x n v).1.Canon := by
  unfold State.srPut
  grind only [State.canon_setCluster, State.canon_modCore, State.canon_setDie, canon_foldl]

theorem canon_execMtsr (d sr) : Out.Canon (execMtsr d sr s) := by
  refine State.canon_issue h _ _ fun x => ?_
  repeat' first | refine Res.gives_bind fun _ _ => ?_ | split
  all_goals grind only [Res.gives_ok, Res.gives_error, Res.gives_fault, State.canon_srPut, State.canon_done]

theorem canon_execTret : Out.Canon (execTret s) := by
  unfold execTret
  grind only [Out.canon_next, Out.canon_fault, Out.canon_refused, Res.gives_ok, Res.gives_error, Res.gives_fault, State.canon_issue,
    State.canon_setTask, Res.gives_bind]

theorem canon_execTretEnd : Out.Canon (execTretEnd s) := by
  unfold execTretEnd
  grind only [Out.canon_next, Out.canon_fault, Out.canon_refused, Res.gives_ok, Res.gives_error, Res.gives_fault, State.canon_issue,
    State.canon_endTask, Res.gives_bind]

theorem State.canon_dropTranslations (part kind va) : (s.dropTranslations part kind va).Canon := h

theorem canon_execTlbinv (a b) : Out.Canon (execTlbinv a b s) := by
  unfold execTlbinv
  grind only [Res.gives_ok, Res.gives_error, Res.gives_fault, Out.canon_next, Out.canon_fault, Out.canon_refused, State.canon_issue, State.canon_done,
    State.canon_dropTranslations, Res.gives_bind]

theorem canon_execIsend (a b) : Out.Canon (execIsend a b s) := by
  refine State.canon_issue h _ _ fun x => ?_
  repeat' first | refine Res.gives_bind fun _ _ => ?_ | split
  all_goals grind only [Res.gives_ok, Res.gives_error, Res.gives_fault, State.canon_setPending, State.canon_send, State.canon_done]

theorem canon_execCorefence (a b) : Out.Canon (execCorefence a b s) := by
  unfold execCorefence
  grind only [Res.gives_ok, Res.gives_error, Res.gives_fault, Out.canon_next, Out.canon_fault, Out.canon_refused, State.canon_issue, State.canon_done,
    State.canon_modCore, State.canon_fenceCore, Res.gives_bind]

theorem canon_execHaltWake (core) : Out.Canon (execHaltWake core s) := by
  unfold execHaltWake
  grind only [Out.canon_next, Out.canon_fault, Out.canon_refused, State.canon_setTask]

theorem canon_execInterruptEntry (core) : Out.Canon (execInterruptEntry core s) := by
  unfold execInterruptEntry
  grind only [Out.canon_next, Out.canon_fault, Out.canon_refused, State.canon_trapEntry]

theorem canon_execFaultDelivery (t) : Out.Canon (execFaultDelivery t s) := by
  unfold execFaultDelivery
  grind only [Out.canon_next, Out.canon_fault, Out.canon_refused, State.canon_setTask, State.canon_raise, State.canon_makeRunnable,
    State.canon_requeue, State.canon_endTask]
end

end Sys2Proof.Machine
end

section
/-! PROOF. Every step keeps memory canonical, continued: the parts Phy, Sync, TileOps, Records, MemorySteps. -/

namespace Sys2Proof.Machine
set_option Elab.async false
open Sys2Proof

section
variable {s : State} (h : s.Canon)
include h

/-! ### Phy -/

theorem State.canon_modChan (die c f) : (s.modChan die c f).Canon := h

theorem State.canon_modStack (die f) : (s.modStack die f).Canon := h

theorem State.canon_logStack (die action where_) : (s.logStack die action where_).Canon := by
  unfold State.logStack
  grind only [State.canon_logEntry, canon_foldl]

theorem State.canon_popEvent (die) : (s.popEvent die).2.Canon := by
  unfold State.popEvent
  grind only [State.canon_setStack]

theorem State.canon_phyRead (die ch r) : (s.phyRead die ch r).2.Canon := by
  unfold State.phyRead
  grind only [State.canon_popEvent]

theorem State.canon_phyWrite (die ch r v) : Res.Gives State.Canon (s.phyWrite die ch r v) := by
  unfold State.phyWrite
  grind only [Res.gives_ok, Res.gives_error, Res.gives_fault, State.canon_modChan, State.canon_logStack, State.canon_modStack, Res.gives_bind]

theorem canon_execPhyrd (d a) : Out.Canon (execPhyrd d a s) := by
  unfold execPhyrd
  grind only [Res.gives_ok, Res.gives_error, Res.gives_fault, Out.canon_next, Out.canon_fault, Out.canon_refused, State.canon_issue,
    State.canon_phyRead, State.canon_done, Res.gives_bind]

theorem canon_execPhywr (a b) : Out.Canon (execPhywr a b s) := by
  unfold execPhywr
  grind only [Res.gives_ok, Res.gives_error, Res.gives_fault, Out.canon_next, Out.canon_fault, Out.canon_refused, State.canon_issue,
    State.canon_phyWrite, State.canon_done, Res.gives_bind]

theorem State.canon_phyStep (die ch r v) : Out.Canon (s.phyStep die ch r v) := by
  unfold State.phyStep
  grind only [Res.gives_ok, Res.gives_error, Res.gives_fault, Out.canon_next, Out.canon_fault, Out.canon_refused, State.canon_phyWrite]

theorem canon_execRdly (die ch lane v) : Out.Canon (execRdly die ch lane v s) := by
  unfold execRdly
  grind only [Out.canon_next, Out.canon_fault, Out.canon_refused, State.canon_phyStep]

theorem canon_execWdly (die ch lane v) : Out.Canon (execWdly die ch lane v s) := by
  unfold execWdly
  grind only [Out.canon_next, Out.canon_fault, Out.canon_refused, State.canon_phyStep]

theorem canon_execClsev (die) : Out.Canon (execClsev die s) := by
  unfold execClsev
  grind only [Out.canon_next, Out.canon_fault, Out.canon_refused, State.canon_popEvent]

theorem canon_execChannelDrained (die ch) : Out.Canon (execChannelDrained die ch s) := by
  unfold execChannelDrained
  grind only [Out.canon_next, Out.canon_fault, Out.canon_refused, State.canon_modChan]

theorem canon_execTrainingRunDone (die ch) : Out.Canon (execTrainingRunDone die ch s) := by
  unfold execTrainingRunDone
  grind only [Out.canon_next, Out.canon_fault, Out.canon_refused, State.canon_freshFree, State.canon_modChan]

theorem canon_execGranuleChangeDone (die) : Out.Canon (execGranuleChangeDone die s) := by
  have hkeep : Out.Canon (.next s) := (Out.canon_next s).2 h
  unfold execGranuleChangeDone
  extract_lets k
  split
  · exact hkeep
  extract_lets
  split
  · exact hkeep
  split
  · exact (Out.canon_next _).2 (State.canon_setStack h _ _)
  split
  · exact (Out.canon_next _).2 (State.canon_setStack h _ _)
  refine (Out.canon_next _).2 ?_
  split
  · exact State.canon_setStack h _ _
  · exact ⟨Memory.wf_clear h.1 _ _, h.2⟩

theorem State.canon_logRow (die pc bank row) : (s.logRow die pc bank row).Canon := by
  unfold State.logRow
  grind only [State.canon_logEntry, canon_foldl]

theorem canon_execRowRepairDone (die) : Out.Canon (execRowRepairDone die s) := by
  unfold execRowRepairDone
  grind only [Out.canon_next, Out.canon_fault, Out.canon_refused, State.canon_logStack, State.canon_setStack, State.canon_logRow]

theorem canon_execPcerase (die v) : Out.Canon (execPcerase die v s) := by
  unfold execPcerase
  grind only [Out.canon_next, Out.canon_fault, Out.canon_refused, State.canon_modStack, State.canon_logStack, canon_foldl]

theorem State.canon_dramCorrected (a) : (s.dramCorrected a).Canon := by
  unfold State.dramCorrected
  grind only [State.canon_freshFree, State.canon_setStack, State.canon_setPending]

/-! ### Sync -/

theorem State.canon_semChange (d a j i signal f) : Out.Canon (s.semChange d a j i signal f) := by
  unfold State.semChange
  grind only [Out.canon_next, Out.canon_fault, Out.canon_refused, Res.gives_ok, Res.gives_error, Res.gives_fault, State.canon_issueTask,
    Res.gives_bind]

theorem canon_execSemset (d a j i) : Out.Canon (execSemset d a j i s) := by
  unfold execSemset
  grind only [Out.canon_next, Out.canon_fault, Out.canon_refused, State.canon_semChange]

theorem canon_execRelease (a) : Out.Canon (execRelease a s) := by
  unfold execRelease
  grind only [Out.canon_next, Out.canon_fault, Out.canon_refused, Res.gives_ok, Res.gives_error, Res.gives_fault, State.canon_issueTask,
    Res.gives_bind, canon_foldl]

/-! ### TileOps -/

theorem State.canon_freeTile (t) : (s.freeTile t).1.Canon := h

theorem State.canon_putBack (x a) : (s.putBack x a).1.Canon := by
  induction a generalizing s x with
  | nil => exact h
  | cons m r ih =>
    refine ih ?_ _
    split
    · exact State.canon_freeTile h _
    · exact h

/-! ### Records -/

theorem State.canon_backOut (x e) : (s.backOut x e).1.Canon := by
  unfold State.backOut
  grind only [State.canon_putBack]

theorem State.canon_onFault (x st r) : (s.onFault x st r).1.Canon := by
  unfold State.onFault
  grind only [Res.gives_ok, Res.gives_error, Res.gives_fault, State.canon_backOut]

theorem State.canon_startPass (t x e) : Out.Canon (s.startPass t x e) := by
  unfold State.startPass
  grind only [Out.canon_next, Out.canon_fault, Out.canon_refused, State.canon_setTask]

theorem State.canon_issueTurn (e body) (hf : ∀ x q, Res.Gives CanonFst (body x q)) : Out.Canon (s.issueTurn e body) := by
  have hkeep : Out.Canon (.next s) := (Out.canon_next s).2 h
  unfold State.issueTurn
  split
  · exact hkeep
  split
  · exact hkeep
  split
  · exact hkeep
  · extract_lets r p
    have hr : Res.Gives State.Canon r :=
      Res.gives_bind fun _ _ => Res.gives_bind_of (hf _ _) fun _ hu => (Res.gives_ok _ _).2 (State.canon_modTask hu _ _)
    exact State.canon_deliverStream (State.canon_onFault h _ _ _) _ _ _ _ hr

theorem State.canon_issuePass (e body) (hf : ∀ x q, Res.Gives CanonFst (body x q)) : Out.Canon (s.issuePass e body) := State.canon_issueTurn h _ _ fun x q => Res.gives_bind_of (hf x q) fun _ hp => (Res.gives_ok _ _).2 hp

theorem State.canon_withTask (y) : (s.withTask y).Canon := h

theorem State.canon_postRecord (y q r ws) : (s.postRecord y q r ws).Canon := h

/-! ### MemorySteps -/

theorem State.canon_poisonScratch (core off) : Found State.Canon (s.poisonScratch core off) := by
  unfold State.poisonScratch
  split
  · exact found_none _
  dsimp only
  split
  · exact (found_some _ _).2 (State.canon_setTask h _ _)
  · exact found_map fun _ _ => State.canon_setTask h _ _

theorem State.canon_noteEcc (ecc a) : (s.noteEcc ecc a).Canon := by
  unfold State.noteEcc
  split
  · exact h
  · split
    · exact State.canon_dramCorrected h _
    · split
      · exact State.canon_countEvent h _ _ _
      · exact h
  · split
    next hs => exact found_bind (fun c _ => State.canon_poisonScratch h c _) _ hs
    · exact State.canon_poisonUnit h _

theorem State.canon_issueAgain (t x k a pages) : (s.issueAgain t x k a pages).Canon := by
  unfold State.issueAgain
  grind only [State.canon_setTask, State.canon_noteMiss]

theorem State.canon_performPart (t x n loads) : (s.performPart t x n loads).Canon := by
  unfold State.performPart
  grind only [State.canon_setTask, State.canon_store]

theorem canon_execLoadDataReturn (t k ecc) : Out.Canon (execLoadDataReturn t k ecc s) := by
  unfold execLoadDataReturn
  grind only [Out.canon_next, Out.canon_fault, Out.canon_refused, Res.gives_ok, Res.gives_error, Res.gives_fault, State.canon_performPart,
    State.canon_issueAgain, State.canon_noteEcc, State.canon_performAccess]

theorem canon_execPostedStorePerform (t k ecc) : Out.Canon (execPostedStorePerform t k ecc s) := by
  unfold execPostedStorePerform
  grind only [Out.canon_next, Out.canon_fault, Out.canon_refused, Res.gives_ok, Res.gives_error, Res.gives_fault, State.canon_performPart,
    State.canon_issueAgain, State.canon_noteEcc, State.canon_performAccess]

theorem State.canon_poisonBuffer (c w) : (s.poisonBuffer c w).Canon := by
  unfold State.poisonBuffer
  grind only [State.canon_modTask]

theorem State.canon_scrubRegister (c holder w ecc) : (s.scrubRegister c holder w ecc).Canon := by
  unfold State.scrubRegister
  grind only [State.canon_countEvent, State.canon_poisonBuffer, State.canon_modCore, State.canon_setTask]

theorem canon_execScrubSweep (addr ecc) : Out.Canon (execScrubSweep addr ecc s) := by
  unfold execScrubSweep
  grind only [Out.canon_next, Out.canon_fault, Out.canon_refused, State.canon_noteEcc, State.canon_scrubRegister]

theorem canon_execBelvedereMismatch (t st) : Out.Canon (execBelvedereMismatch t st s) := by
  unfold execBelvedereMismatch
  grind only [Out.canon_next, Out.canon_fault, Out.canon_refused, State.canon_raise, State.canon_setTask]

theorem State.canon_dropHeld (x va) : (s.dropHeld x va).Canon := by
  unfold State.dropHeld
  grind only [State.canon_iff]

theorem State.canon_walkFault (m x code) : Out.Canon (s.walkFault m x code) := by
  unfold State.walkFault
  grind only [Out.canon_next, Out.canon_fault, Out.canon_refused, State.canon_raise, State.canon_trapLater, State.canon_dropHeld, State.canon_requeue,
    State.canon_endTask, State.canon_backOut, State.canon_setTask, State.canon_iff]

theorem State.canon_startWalks (die a) : (s.startWalks die a).Canon := by
  induction a generalizing s with
  | zero => exact h
  | succ n ih =>
    unfold State.startWalks
    grind only [State.canon_setDie]

theorem State.canon_cacheLeaf (cores e) : (s.cacheLeaf cores e).Canon := h

theorem canon_execPageWalk (t st) : Out.Canon (execPageWalk t st s) := by
  unfold execPageWalk
  grind only [Out.canon_next, Out.canon_fault, Out.canon_refused, State.canon_startWalks, State.canon_walkFault, State.canon_setDie,
    State.canon_cacheLeaf, canon_foldl, State.canon_iff]
end

end Sys2Proof.Machine
end

section
/-! PROOF. Every step keeps memory canonical, continued: the parts Sundial, Groups. -/

namespace Sys2Proof.Machine
set_option Elab.async false
open Sys2Proof

section
variable {s : State} (h : s.Canon)
include h

/-! ### Sundial -/

theorem State.canon_unitWrite (launch w off bs) : (s.unitWrite launch w off bs).Canon := by
  unfold State.unitWrite
  grind only [State.canon_storeVirtual, canon_foldl]

theorem State.canon_enterRecord (source bs) : Found State.Canon (s.enterRecord source bs) := by
  unfold State.enterRecord
  grind only [found_some, found_none, State.canon_unitWrite, State.canon_setDie, State.canon_iff]

theorem State.canon_dropRecord (n bs cause) : (s.dropRecord n bs cause).Canon := by
  unfold State.dropRecord
  grind only [State.canon_unitWrite, State.canon_iff]

theorem State.canon_setWindow (b k w) : (s.setWindow b k w).Canon := h

theorem State.canon_delWindow (b k) : (s.delWindow b k).Canon := h

theorem State.canon_applyData (n i bs) : (s.applyData n i bs).Canon := by
  unfold State.applyData
  split
  · exact h
  extract_lets step r
  have hr : CanonFst r := by
    refine foldl_keeps (fun acc p hacc => foldl_keeps (fun q k hq => ?_) _ hacc) _ h
    split
    · exact State.canon_setWindow hq _ _ _
    · exact hq
  clear_value r
  grind only [canonFst_iff, State.canon_dropRecord, State.canon_interruptSupervisor, State.canon_iff]

theorem State.canon_applyArrival (n i) : (s.applyArrival n i).Canon := by
  unfold State.applyArrival
  grind only [State.canon_dropRecord, State.canon_applyData, State.canon_iff]

theorem State.canon_writeHeader64 (g r k first ws) : (s.writeHeader64 g r k first ws).Canon := by
  unfold State.writeHeader64
  grind only [State.canon_storeVirtual, canon_foldl]

theorem State.canon_gather (g e slots) : Found CanonFst (s.gather g e slots) := by
  unfold State.gather
  split
  · exact found_none _
  extract_lets size
  split
  · refine (found_some _ _).2 (State.canon_setLaunch (foldl_keeps (p := CanonFst) (a := (s, _)) (fun acc r hacc => ?_) _ h) _ _)
    have hw := State.canon_storeVirtual hacc
    grind only [canonFst_iff, State.canon_poisonUnit]
  · exact found_none _

theorem State.canon_fireWindow (b k amend) : (s.fireWindow b k amend).Canon := by
  unfold State.fireWindow
  grind only [found_some, found_none, canonFst_iff, State.canon_gather, State.canon_writeHeader64, State.canon_addTask, State.canon_enqueue,
    State.canon_setTask, State.canon_setWindow]

theorem State.canon_freeWindow (b k) : (s.freeWindow b k).Canon := by
  unfold State.freeWindow
  grind only [State.canon_delWindow, State.canon_setLaunch, canon_foldl, State.canon_iff]

theorem State.canon_applyArrivals (die) : (s.applyArrivals die).Canon := by
  unfold State.applyArrivals
  grind only [State.canon_applyArrival, canon_foldl]

theorem State.canon_raiseWatermark (n) : (s.raiseWatermark n).Canon := by
  unfold State.raiseWatermark
  grind only [canon_foldl, State.canon_iff]

theorem State.canon_fireOne (f) : (s.fireOne f).Canon := by
  unfold State.fireOne
  grind only [State.canon_fireWindow, State.canon_iff]

theorem State.canon_dropStream (n) : (s.dropStream n).Canon := by
  unfold State.dropStream
  grind only [State.canon_tryFinishLaunch, State.canon_iff]

theorem State.canon_sundialTick (die) : (s.sundialTick die).Canon := by
  unfold State.sundialTick
  grind only [State.canon_applyArrivals, State.canon_raiseWatermark, State.canon_freeWindow, State.canon_fireOne, State.canon_fireWindow,
    State.canon_dropStream, canon_foldl, State.canon_iff]

theorem canon_execSundialTick (die) : Out.Canon (execSundialTick die s) := by
  unfold execSundialTick
  grind only [Out.canon_next, Out.canon_fault, Out.canon_refused, State.canon_setDie, State.canon_sundialTick]

theorem canon_execSourceIdle (source) : Out.Canon (execSourceIdle source s) := by
  unfold execSourceIdle
  grind only [Out.canon_next, Out.canon_fault, Out.canon_refused, State.canon_iff]

theorem canon_execStreamRecordEntry (source) : Out.Canon (execStreamRecordEntry source s) := by
  unfold execStreamRecordEntry
  repeat' split
  all_goals grind only [found_some, found_none, Out.canon_next, Out.canon_fault, Out.canon_refused, State.canon_enterRecord, State.canon_iff]

theorem State.canon_publicationEvent (die) : (s.publicationEvent die).Canon := h

theorem State.canon_publishWindow (b k amend status) : (s.publishWindow b k amend status).Canon := by
  unfold State.publishWindow
  repeat' split
  all_goals grind only [State.canon_writeHeader64, State.canon_publicationEvent, State.canon_setWindow, State.canon_fireWindow,
    State.canon_interruptSupervisor, State.canon_dropRecord, canon_foldl, State.canon_iff]

theorem canon_execWindowPublication (t) : Out.Canon (execWindowPublication t s) := by
  unfold execWindowPublication
  grind only [Out.canon_next, Out.canon_fault, Out.canon_refused, State.canon_tryFinishLaunch, State.canon_publishWindow, State.canon_delTask]

theorem canon_execStopen (d a b) : Out.Canon (execStopen d a b s) := by
  refine State.canon_issue h _ _ fun x => ?_
  repeat refine Res.gives_bind fun _ _ => ?_
  dsimp only
  split
  · exact Res.gives_fault _ _
  · refine State.canon_done ?_ _ _
    exact h

theorem canon_execStsrc (d a b) : Out.Canon (execStsrc d a b s) := by
  refine State.canon_issue h _ _ fun x => ?_
  iterate 5 refine Res.gives_bind fun _ _ => ?_
  dsimp only
  split
  · exact Res.gives_fault _ _
  · refine State.canon_done ?_ _ _
    exact h

theorem canon_execStbind (d a b) : Out.Canon (execStbind d a b s) := by
  refine State.canon_issue h _ _ fun x => ?_
  repeat refine Res.gives_bind fun _ _ => ?_
  dsimp only
  split
  · exact Res.gives_fault _ _
  refine Res.gives_bind fun _ _ => ?_
  split
  · exact Res.gives_fault _ _
  repeat refine Res.gives_bind fun _ _ => ?_
  split
  · exact Res.gives_fault _ _
  · refine State.canon_done ?_ _ _
    exact h

theorem canon_execStrec (d a b) : Out.Canon (execStrec d a b s) := by
  refine State.canon_issue h _ _ fun x => ?_
  repeat' first | refine Res.gives_bind fun _ _ => ?_ | split
  all_goals grind only [found_some, found_none, Res.gives_ok, Res.gives_error, Res.gives_fault, State.canon_enterRecord, State.canon_done]

theorem canon_execStclose (a) : Out.Canon (execStclose a s) := by
  refine State.canon_issue h _ _ fun x => ?_
  dsimp only
  repeat' first | refine Res.gives_bind fun _ _ => ?_ | split
  all_goals grind only [Res.gives_ok, Res.gives_error, Res.gives_fault, State.canon_done, State.canon_closeStream, State.canon_iff]

/-! ### Groups -/

theorem State.canon_setDest (key d) : (s.setDest key d).Canon := h

theorem State.canon_endDest (key) : (s.endDest key).Canon := h

theorem State.canon_tellDests (g publish) : (s.tellDests g publish).Canon := by
  unfold State.tellDests
  grind only [State.canon_setDest, State.canon_sendControl, canon_foldl]

theorem State.canon_endCompare (g) : (s.endCompare g).Canon := by
  unfold State.endCompare
  grind only [State.canon_setCGroup, State.canon_modTask]

theorem State.canon_abortGroup (g cause) : (s.abortGroup g cause).Canon := by
  unfold State.abortGroup
  grind only [State.canon_endCompare, State.canon_setCGroup, State.canon_tellDests, State.canon_iff]

theorem State.canon_freeGroup (g) : (s.freeGroup g).Canon := h

theorem canon_execGopen (d a b) : Out.Canon (execGopen d a b s) := by
  unfold execGopen
  grind only [Res.gives_ok, Res.gives_error, Res.gives_fault, Out.canon_next, Out.canon_fault, Out.canon_refused, State.canon_issue, State.canon_done,
    State.canon_setCGroup, Res.gives_bind]

theorem canon_execGcommit (a b) : Out.Canon (execGcommit a b s) := by
  refine State.canon_issue h _ _ fun x => ?_
  dsimp only
  repeat' first | refine Res.gives_bind fun _ _ => ?_ | split
  all_goals grind only [Res.gives_ok, Res.gives_error, Res.gives_fault, State.canon_done, State.canon_setCGroup, State.canon_setTask,
    State.canon_sendOn, canon_foldl]

theorem canon_execGabort (a) : Out.Canon (execGabort a s) := by
  unfold execGabort
  grind only [Res.gives_ok, Res.gives_error, Res.gives_fault, Out.canon_next, Out.canon_fault, Out.canon_refused, State.canon_issue, State.canon_done,
    State.canon_modTask, State.canon_abortGroup, Res.gives_bind]

theorem State.canon_sendPacket (g t dest launch table st cls w es) : (s.sendPacket g t dest launch table st cls w es).Canon := by
  unfold State.sendPacket
  grind only [State.canon_setCGroup, State.canon_sendOn, State.canon_iff]

theorem canon_execStG (m) : Out.Canon (execStG m s) := by
  refine State.canon_issue h _ _ fun x => ?_
  dsimp only
  repeat' first | refine Res.gives_bind fun _ _ => ?_ | split
  all_goals grind only [Res.gives_ok, Res.gives_error, Res.gives_fault, State.canon_done, State.canon_sendPacket, State.canon_setCGroup]

theorem State.canon_reportFull (p) : (s.reportFull p).Canon := by
  unfold State.reportFull
  grind only [State.canon_abortGroup, State.canon_sendControl]

theorem State.canon_stageLine (p ws) : Found State.Canon (s.stageLine p ws) := by
  unfold State.stageLine
  repeat' split
  all_goals grind only [found_some, found_none, State.canon_iff]

theorem canon_execOrangeryStaging (k) : Out.Canon (execOrangeryStaging k s) := by
  have hkeep : Out.Canon (.next s) := (Out.canon_next s).2 h
  unfold execOrangeryStaging
  split
  · exact hkeep
  split
  · exact hkeep
  extract_lets u key d d' poisoned
  have hu : u.Canon := h
  split
  · exact (Out.canon_next _).2 hu
  split
  · exact (Out.canon_next _).2 (State.canon_setDest hu _ _)
  · refine (Out.canon_next _).2 ?_
    split
    next hs => exact found_foldlM (fun v l hv => State.canon_stageLine hv _ l) _ (State.canon_setDest hu _ _) _ hs
    · exact State.canon_reportFull (State.canon_setDest hu _ _) _

theorem State.canon_noteStaged (die k ecc) : (s.noteStaged die k ecc).Canon := by
  unfold State.noteStaged
  grind only [State.canon_setDest]

theorem State.canon_unstage (gone) : (s.unstage gone).Canon := h

theorem State.canon_withdrawHere (key who) : (s.withdrawHere key who).Canon := h

theorem State.canon_tellWithdrawal (g run c dest) : (s.tellWithdrawal g run c dest).Canon := by
  unfold State.tellWithdrawal
  grind only [State.canon_withdrawHere, State.canon_setDest, State.canon_sendControl, State.canon_iff]

theorem canon_execWithdrawal (g t) : Out.Canon (execWithdrawal g t s) := by
  unfold execWithdrawal
  grind only [Out.canon_next, Out.canon_fault, Out.canon_refused, State.canon_tellWithdrawal, State.canon_setCGroup, canon_foldl, State.canon_iff]

theorem canon_execPrepareSend (g) : Out.Canon (execPrepareSend g s) := by
  unfold execPrepareSend
  dsimp only
  split
  · exact (Out.canon_next _).2 h
  split
  · exact (Out.canon_next _).2 (State.canon_freeGroup h _)
  · refine (Out.canon_next _).2 (canon_foldl (fun u d hu => ?_) _ (State.canon_setCGroup h _ _))
    split
    · exact State.canon_setDest hu _ _
    · exact State.canon_sendControl hu _ _ _ _ _ _

theorem State.canon_replyPrepared (g dest refused) : (s.replyPrepared g dest refused).Canon := by
  unfold State.replyPrepared
  grind only [State.canon_setCGroup]

theorem canon_execPrepared (g dest) : Out.Canon (execPrepared g dest s) := by
  unfold execPrepared
  grind only [Out.canon_next, Out.canon_fault, Out.canon_refused, State.canon_setDest, State.canon_replyPrepared, State.canon_sendControl]

theorem canon_execGroupDecision (g) : Out.Canon (execGroupDecision g s) := by
  unfold execGroupDecision
  grind only [Out.canon_next, Out.canon_fault, Out.canon_refused, State.canon_abortGroup, State.canon_tellDests, State.canon_setCGroup]

theorem State.canon_acknowledge (g dest) : (s.acknowledge g dest).Canon := h

theorem State.canon_sendAck (key dest part opening) : (s.sendAck key dest part opening).Canon := by
  unfold State.sendAck
  grind only [State.canon_acknowledge, State.canon_sendControl]

theorem State.canon_publishEntry (part e) : (s.publishEntry part e).Canon := by
  unfold State.publishEntry
  grind only [State.canon_store]

theorem canon_execPublish (g dest) : Out.Canon (execPublish g dest s) := by
  unfold execPublish
  grind only [Out.canon_next, Out.canon_fault, Out.canon_refused, State.canon_publishEntry, State.canon_unstage, State.canon_sendAck,
    State.canon_endDest, canon_foldl]

theorem canon_execAbortDiscard (g dest) : Out.Canon (execAbortDiscard g dest s) := by
  unfold execAbortDiscard
  grind only [Out.canon_next, Out.canon_fault, Out.canon_refused, State.canon_unstage, State.canon_endDest, State.canon_sendAck, State.canon_iff]

theorem canon_execGroupFree (g) : Out.Canon (execGroupFree g s) := by
  unfold execGroupFree
  grind only [Out.canon_next, Out.canon_fault, Out.canon_refused, State.canon_freeGroup]

theorem State.canon_tellReplicas (g) : (s.tellReplicas g).Canon := by
  unfold State.tellReplicas
  grind only [State.canon_sendControl, canon_foldl]

theorem canon_execGroupTimeout (g) : Out.Canon (execGroupTimeout g s) := by
  unfold execGroupTimeout
  grind only [Out.canon_next, Out.canon_fault, Out.canon_refused, State.canon_abortGroup, State.canon_tellReplicas]

theorem State.canon_haltReplica (g) : (s.haltReplica g).Canon := by
  refine canon_foldl (fun u t hu => ?_) _ ?_
  · have hsusp := State.canon_suspend hu t
    grind only [found_some, State.canon_modTask, State.canon_dequeue, State.canon_saveFails]
  · exact h

theorem State.canon_applyVerdict (g v) : (s.applyVerdict g v).Canon := by
  unfold State.applyVerdict
  grind only [State.canon_endCompare, State.canon_abortGroup, State.canon_haltReplica, State.canon_iff]

theorem canon_execReplicaDigestCompare (g) : Out.Canon (execReplicaDigestCompare g s) := by
  have hkeep : Out.Canon (.next s) := (Out.canon_next s).2 h
  unfold execReplicaDigestCompare
  extract_lets c me n part code u mine w v
  split
  · exact hkeep
  have hu : u.Canon := by
    refine canon_foldl (fun w d hw => ?_) _ h
    exact State.canon_sendControl hw _ _ _ _ _ _
  have hv : v.Canon := by grind only [State.canon_send]
  clear_value v
  exact (Out.canon_next _).2 (State.canon_applyVerdict hv _ _)
end

end Sys2Proof.Machine
end

section
/-! PROOF. Every step keeps memory canonical, continued: the parts Launches, HostPort, Caerlink. -/

namespace Sys2Proof.Machine
set_option Elab.async false
open Sys2Proof

section
variable {s : State} (h : s.Canon)
include h

/-! ### Launches -/

theorem State.canon_acceptLaunch (l) : (s.acceptLaunch l).Canon := by
  unfold State.acceptLaunch
  grind only [State.canon_setLaunch, State.canon_createRoots]

theorem State.canon_rejectLaunch (part vf crec code ring) : (s.rejectLaunch part vf crec code ring).Canon := by
  unfold State.rejectLaunch
  grind only [State.canon_storeVirtual, State.canon_istatAfter, State.canon_managementAfter]

theorem State.canon_submitLaunch (part vf crec hdr ring entryOk) : Found State.Canon (s.submitLaunch part vf crec hdr ring entryOk) := by
  unfold State.submitLaunch
  grind only [found_some, found_none, State.canon_rejectLaunch, State.canon_acceptLaunch]

theorem canon_execLaunch (part) : Out.Canon (execLaunch part s) := by
  unfold execLaunch
  dsimp only
  repeat' split
  all_goals grind only [found_some, found_none, Out.canon_next, Out.canon_fault, Out.canon_refused, State.canon_setHostFn, State.canon_raiseIstat,
    State.canon_rejectLaunch, State.canon_submitLaunch]

theorem canon_execPrivilegedLaunch (part crec header) : Out.Canon (execPrivilegedLaunch part crec header s) := by
  unfold execPrivilegedLaunch
  grind only [found_some, found_none, Out.canon_next, Out.canon_fault, Out.canon_refused, State.canon_submitLaunch]

theorem State.canon_takeFrame (pa gran) : Found State.Canon (s.takeFrame pa gran) := by
  unfold State.takeFrame
  extract_lets
  split
  · exact found_none _
  · exact (found_some _ _).2 ⟨Memory.wf_clear h.1 _ _, h.2⟩

theorem State.canon_replied (m bytes) : (s.replied m bytes).Canon := by
  unfold State.replied
  grind only [State.canon_send, State.canon_raiseIstat, State.canon_setHostFn]

theorem canon_execSupervisorLaunch (x) : Out.Canon (execSupervisorLaunch x s) := by
  have hkeep : Out.Canon (.next s) := (Out.canon_next s).2 h
  have hload (l : List (Nat × Nat)) : Found State.Canon (l.foldlM (fun u f => u.takeFrame f.1 f.2) s) :=
    found_foldlM (fun u f hu => State.canon_takeFrame hu f.1 f.2) l h
  unfold execSupervisorLaunch
  extract_lets reply
  have hreply (n code : Nat) {u : State} (hu : u.Canon) : Out.Canon (.next (reply n code u)) := (Out.canon_next _).2 (State.canon_replied hu _ _)
  split
  · exact hkeep
  next s1 hs1 =>
    have h1 : s1.Canon := by
      split at hs1
      · exact hload _ _ hs1
      · cases hs1
    extract_lets s2
    have h2 : s2.Canon := canon_foldl (fun u w hu => State.canon_storeBytes hu w.1 w.2) _ h1
    split
    · exact hreply _ _ h
    split
    · exact hkeep
    split
    · exact hkeep
    · exact hreply _ _ ⟨h2.1, h2.2⟩

theorem State.canon_startService (die) : (s.startService die).Canon := by
  unfold State.startService
  grind only [State.canon_interruptManagement, State.canon_setDie, State.canon_setLaunch, State.canon_modCore, State.canon_addTask]

theorem canon_execSvcrun (die v) : Out.Canon (execSvcrun die v s) := by
  unfold execSvcrun
  grind only [Out.canon_next, Out.canon_fault, Out.canon_refused, State.canon_setDie, State.canon_startService]

theorem canon_execServiceTaskEnd (die) : Out.Canon (execServiceTaskEnd die s) := by
  unfold execServiceTaskEnd
  grind only [Out.canon_next, Out.canon_fault, Out.canon_refused, State.canon_setDie, State.canon_setLaunch, State.canon_interruptManagement,
    State.canon_delTask]

theorem canon_execServiceCoreReset (die) : Out.Canon (execServiceCoreReset die s) := by
  unfold execServiceCoreReset
  grind only [Out.canon_next, Out.canon_fault, Out.canon_refused, Res.gives_ok, Res.gives_error, Res.gives_fault, State.canon_setLaunch,
    State.canon_setDie, State.canon_setCore, canon_foldl, State.canon_iff]

/-! ### HostPort -/

theorem State.canon_doorbell (vf v) : (s.doorbell vf v).Canon := by
  unfold State.doorbell
  grind only [State.canon_raiseIstat, State.canon_setHostFn]

theorem canon_execDoorbell (vf tail) : Out.Canon (execDoorbell vf tail s) := by
  unfold execDoorbell
  grind only [Out.canon_next, Out.canon_fault, Out.canon_refused, State.canon_doorbell]

theorem State.canon_mailboxSend (vf) : (s.mailboxSend vf).Canon := h

theorem canon_execMbsend (vf) : Out.Canon (execMbsend vf s) := by
  unfold execMbsend
  grind only [Out.canon_next, Out.canon_fault, Out.canon_refused, State.canon_mailboxSend]

theorem State.canon_submitRecord (vf v) : (s.submitRecord vf v).Canon := by
  unfold State.submitRecord
  grind only [found_some, found_none, State.canon_raiseIstat, State.canon_enterRecord, State.canon_iff]

theorem canon_execSubmit (vf v) : Out.Canon (execSubmit vf v s) := by
  unfold execSubmit
  grind only [Out.canon_next, Out.canon_fault, Out.canon_refused, State.canon_submitRecord]

theorem State.canon_writeHostReg (vf reg v) : (s.writeHostReg vf reg v).Canon := by
  unfold State.writeHostReg
  grind only [State.canon_doorbell, State.canon_setHostFn, State.canon_raiseIstat, State.canon_mailboxSend, State.canon_submitRecord]

theorem State.canon_writeContainmentReg (die reg v) : (s.writeContainmentReg die reg v).Canon := by
  unfold State.writeContainmentReg
  grind only [State.canon_setDie]

theorem State.canon_writeBoot (reg v) : (s.writeBoot reg v).Canon := by
  unfold State.writeBoot
  grind only [State.canon_iff]

theorem State.canon_writeRoute (part dev v) : (s.writeRoute part dev v).Canon := by
  unfold State.writeRoute
  grind only [State.canon_routesChanged, State.canon_iff]

theorem canon_execRegisterWrite (blk reg v) : Out.Canon (execRegisterWrite blk reg v s) := by
  unfold execRegisterWrite
  grind only [Out.canon_next, Out.canon_fault, Out.canon_refused, State.canon_writeHostReg, canon_execPcerase, State.canon_writeContainmentReg,
    State.canon_phyStep, State.canon_writeBoot, State.canon_writeRoute]

theorem canon_execHostMemoryAccess (part va x) : Out.Canon (execHostMemoryAccess part va x s) := by
  unfold execHostMemoryAccess
  grind only [Out.canon_next, Out.canon_fault, Out.canon_refused, State.canon_send, State.canon_store]

/-! ### Caerlink -/

theorem State.canon_takeStreamRecord (b) : (s.takeStreamRecord b).Canon := by
  unfold State.takeStreamRecord
  grind only [found_some, found_none, State.canon_enterRecord, State.canon_iff]

theorem State.canon_takePacket (src b bad) : (s.takePacket src b bad).Canon := by
  unfold State.takePacket
  grind only [State.canon_sendControl, State.canon_iff]

theorem State.canon_noticeReset (part) : (s.noticeReset part).Canon := by
  unfold State.noticeReset
  grind only [Res.gives_ok, Res.gives_error, Res.gives_fault, State.canon_raiseIstat, State.canon_interruptPart]

theorem State.canon_peerReset (g src) : (s.peerReset g src).Canon := by
  unfold State.peerReset
  grind only [Res.gives_ok, Res.gives_error, Res.gives_fault, State.canon_sendControl, State.canon_noticeReset, State.canon_abortGroup, canon_foldl]

theorem State.canon_takeControl (src b) : (s.takeControl src b).Canon := by
  unfold State.takeControl
  dsimp only
  repeat' split
  all_goals grind only [State.canon_sendControl, State.canon_setDest, State.canon_withdrawHere, State.canon_noticeReset, State.canon_applyVerdict,
    State.canon_abortGroup, State.canon_replyPrepared, State.canon_acknowledge, State.canon_peerReset]

theorem State.canon_takeDigest (src b) : (s.takeDigest src b).Canon := h

theorem State.canon_takeRemoteStore (src b bad) : (s.takeRemoteStore src b bad).Canon := by
  unfold State.takeRemoteStore
  grind only [State.canon_poisonCells, State.canon_store, State.canon_sendOn]

theorem State.canon_keepPeer (src key params b) : (s.keepPeer src key params b).Canon := h

theorem State.canon_takeFrom (kind src b bad) : (s.takeFrom kind src b bad).Canon := by
  unfold State.takeFrom
  grind only [State.canon_takePacket, State.canon_takeControl, State.canon_takeDigest, State.canon_keepPeer, State.canon_takeRemoteStore]

theorem State.canon_takeMessage (kind node b bad) : (s.takeMessage kind node b bad).Canon := by
  unfold State.takeMessage
  grind only [State.canon_takeStreamRecord, State.canon_takeFrom]

theorem canon_execFlitReceive (port flit) : Out.Canon (execFlitReceive port flit s) := by
  unfold execFlitReceive
  grind only [Out.canon_next, Out.canon_fault, Out.canon_refused, State.canon_keepPeer, State.canon_takeMessage, State.canon_iff]

theorem canon_execPortDown (port) : Out.Canon (execPortDown port s) := by
  unfold execPortDown
  grind only [Out.canon_next, Out.canon_fault, Out.canon_refused, State.canon_iff]

theorem canon_execRouteRestored (port) : Out.Canon (execRouteRestored port s) := by
  unfold execRouteRestored
  grind only [Out.canon_next, Out.canon_fault, Out.canon_refused, Res.gives_ok, Res.gives_error, Res.gives_fault, State.canon_routesChanged,
    State.canon_iff]
end

end Sys2Proof.Machine
end

section
/-! PROOF. Every step keeps memory canonical, continued: the parts Matrix, Copies, Codebooks, Remote, Digests, Encode, RecordSteps. -/

namespace Sys2Proof.Machine
set_option Elab.async false
open Sys2Proof

section
variable {s : State} (h : s.Canon)
include h

/-! ### Matrix -/

theorem canon_execMmul (r) : Out.Canon (execMmul r s) := by
  refine State.canon_issuePass h _ _ fun x q => ?_
  repeat' first | refine Res.gives_bind fun _ _ => ?_ | split | extract_lets
  all_goals grind only [Res.gives_ok, Res.gives_error, Res.gives_fault, canonFst_iff, State.canon_withTask]

/-! ### Copies -/

theorem canon_execCopy (r) : Out.Canon (execCopy r s) := by
  refine State.canon_issuePass h _ _ fun x q => ?_
  repeat' first | refine Res.gives_bind fun _ _ => ?_ | split | extract_lets
  all_goals grind only [Res.gives_ok, Res.gives_error, Res.gives_fault, canonFst_iff, State.canon_postRecord, State.canon_withTask]

theorem canon_execCopyl (r) : Out.Canon (execCopyl r s) := by
  refine State.canon_issuePass h _ _ fun x q => ?_
  repeat' first | refine Res.gives_bind fun _ _ => ?_ | split | extract_lets
  all_goals grind only [Res.gives_ok, Res.gives_error, Res.gives_fault, canonFst_iff, State.canon_postRecord]

theorem State.canon_permutePass (r pi) : Out.Canon (s.permutePass r pi) := by
  refine State.canon_issuePass h _ _ fun x q => ?_
  repeat' first | refine Res.gives_bind fun _ _ => ?_ | split | extract_lets
  all_goals grind only [Res.gives_ok, Res.gives_error, Res.gives_fault, canonFst_iff, State.canon_postRecord]

theorem canon_execFill (r) : Out.Canon (execFill r s) := by
  refine State.canon_issuePass h _ _ fun x q => ?_
  repeat' first | refine Res.gives_bind fun _ _ => ?_ | split | extract_lets
  all_goals grind only [Res.gives_ok, Res.gives_error, Res.gives_fault, canonFst_iff, State.canon_postRecord, State.canon_withTask]

theorem State.canon_blockListPass (r gather) : Out.Canon (s.blockListPass r gather) := by
  refine State.canon_issuePass h _ _ fun x q => ?_
  repeat' first | refine Res.gives_bind fun _ _ => ?_ | split | extract_lets
  all_goals grind only [Res.gives_ok, Res.gives_error, Res.gives_fault, canonFst_iff, State.canon_postRecord]

/-! ### Codebooks -/

theorem canon_execCbload (r) : Out.Canon (execCbload r s) := by
  refine State.canon_issuePass h _ _ fun x q => ?_
  repeat' first | refine Res.gives_bind fun _ _ => ?_ | split | extract_lets
  all_goals grind only [Res.gives_ok, Res.gives_error, Res.gives_fault, canonFst_iff, State.canon_withTask]

theorem State.canon_fillDecoded (x q r dest cols tag vals) : Res.Gives State.Canon (s.fillDecoded x q r dest cols tag vals) := by
  unfold State.fillDecoded
  grind only [Res.gives_ok, Res.gives_error, Res.gives_fault, State.canon_freshFree, State.canon_postRecord, State.canon_withTask, Res.gives_bind]

theorem canon_execEdec (r) : Out.Canon (execEdec r s) := by
  refine State.canon_issuePass h _ _ fun x q => ?_
  repeat' first | refine Res.gives_bind fun _ _ => ?_ | split | extract_lets
  all_goals grind only [Res.gives_ok, Res.gives_error, Res.gives_fault, canonFst_iff, State.canon_fillDecoded]

theorem canon_execVqx (r) : Out.Canon (execVqx r s) := by
  refine State.canon_issuePass h _ _ fun x q => ?_
  repeat' first | refine Res.gives_bind fun _ _ => ?_ | split | extract_lets
  all_goals grind only [Res.gives_ok, Res.gives_error, Res.gives_fault, canonFst_iff, State.canon_fillDecoded]

theorem canon_execShpf (r) : Out.Canon (execShpf r s) := by
  refine State.canon_issuePass h _ _ fun x q => ?_
  repeat' first | refine Res.gives_bind fun _ _ => ?_ | split | extract_lets
  all_goals grind only [Res.gives_ok, Res.gives_error, Res.gives_fault, canonFst_iff, State.canon_postRecord]

/-! ### Remote -/

theorem canon_execGcp (r) : Out.Canon (execGcp r s) := by
  refine State.canon_issuePass h _ _ fun x q => ?_
  repeat' first | refine Res.gives_bind fun _ _ => ?_ | split | extract_lets
  all_goals grind only [Res.gives_ok, Res.gives_error, Res.gives_fault, canonFst_iff, State.canon_sendPacket, State.canon_setCGroup, canon_foldl]

theorem State.canon_takePeer (dev key params) : Found (fun q => q.2.Canon) (s.takePeer dev key params) :=   found_map fun _ _ => h

theorem canon_execRcp (r) : Out.Canon (execRcp r s) := by
  refine State.canon_issueTurn h _ _ fun x q => ?_
  repeat' first | refine Res.gives_bind fun _ _ => ?_ | split | extract_lets
  all_goals grind only [found_some, found_none, canonFst_iff, Res.gives_ok, Res.gives_error, Res.gives_fault, State.canon_postRecord,
    State.canon_sendOn, State.canon_takePeer]

theorem State.canon_collectivePass (r k) : Out.Canon (s.collectivePass r k) := by
  refine State.canon_issueTurn h _ _ fun x q => ?_
  repeat' first | refine Res.gives_bind fun _ _ => ?_ | split | extract_lets
  all_goals grind only [Res.gives_ok, Res.gives_error, Res.gives_fault, canonFst_iff, State.canon_keepPeer, State.canon_sendOn,
    State.canon_postRecord, canon_foldl, State.canon_iff]

/-! ### Digests -/

theorem canon_execDigest (r) : Out.Canon (execDigest r s) := by
  refine State.canon_issuePass h _ _ fun x q => ?_
  repeat' first | refine Res.gives_bind fun _ _ => ?_ | split | extract_lets
  all_goals grind only [Res.gives_ok, Res.gives_error, Res.gives_fault, canonFst_iff, State.canon_postRecord]

/-! ### Encode -/

theorem canon_execEnc (r) : Out.Canon (execEnc r s) := by
  refine State.canon_issuePass h _ _ fun x q => ?_
  repeat' first | refine Res.gives_bind fun _ _ => ?_ | split | extract_lets
  all_goals grind only [Res.gives_ok, Res.gives_error, Res.gives_fault, canonFst_iff, State.canon_postRecord, State.canon_setEncoder]

theorem canon_execEncoderFrameStart (enc) : Out.Canon (execEncoderFrameStart enc s) := by
  unfold execEncoderFrameStart
  grind only [Out.canon_next, Out.canon_fault, Out.canon_refused, State.canon_setEncoder]

theorem State.canon_frameSignal (f) : (s.frameSignal f).Canon := by
  unfold State.frameSignal
  grind only [State.canon_storeBytes, State.canon_setTask]

theorem canon_execEncoderFrameComplete (enc) : Out.Canon (execEncoderFrameComplete enc s) := by
  unfold execEncoderFrameComplete
  grind only [Out.canon_next, Out.canon_fault, Out.canon_refused, State.canon_frameSignal, State.canon_setEncoder, State.canon_store]

theorem canon_execEncoderFrameSwitch (enc) : Out.Canon (execEncoderFrameSwitch enc s) := by
  unfold execEncoderFrameSwitch
  grind only [Out.canon_next, Out.canon_fault, Out.canon_refused, State.canon_freshFree, State.canon_setEncoder, State.canon_store]

theorem State.canon_cutFrames (part) : (s.cutFrames part).Canon := by
  unfold State.cutFrames
  grind only [State.canon_store, State.canon_setEncoder, canon_foldl]

/-! ### RecordSteps -/

theorem canon_execRecordStart (t e) : Out.Canon (execRecordStart t e s) := by
  unfold execRecordStart
  split
  · exact (Out.canon_next s).2 h
  split
  · exact (Out.canon_next s).2 h
  split
  · exact (Out.canon_next s).2 h
  refine State.canon_deliverStream h _ _ _ _ (Res.gives_bind fun _ _ => ?_)
  repeat' first | refine Res.gives_bind fun _ _ => ?_ | split | extract_lets
  all_goals grind only [Res.gives_ok, Res.gives_error, Res.gives_fault, State.canon_setTask]

theorem canon_execRecordComplete (t e) : Out.Canon (execRecordComplete t e s) := by
  unfold execRecordComplete
  grind only [Out.canon_next, Out.canon_fault, Out.canon_refused, State.canon_setTask]
end

end Sys2Proof.Machine
end

section
/-! PROOF. Every step keeps memory canonical, continued: the parts Partset, Boot. -/

namespace Sys2Proof.Machine
set_option Elab.async false
open Sys2Proof

section
variable {s : State} (h : s.Canon)
include h

/-! ### Partset -/

theorem State.canon_abortOwnGroups (part) : (s.abortOwnGroups part).Canon := by
  unfold State.abortOwnGroups
  grind only [State.canon_sendControl, State.canon_abortGroup, canon_foldl]

theorem State.canon_abortPeerGroups (part) : (s.abortPeerGroups part).Canon := by
  unfold State.abortPeerGroups
  grind only [State.canon_sendControl, State.canon_unstage, State.canon_endDest, canon_foldl, State.canon_iff]

theorem State.canon_zeroRanges (rs) : (s.zeroRanges rs).Canon :=
  ⟨foldl_keeps (p := fun m => Memory.wf m = true) (fun _ r hm => Memory.wf_clear hm r.1 r.2) rs h.1,
    foldl_keeps (p := fun m => Memory.wf m = true) (fun _ r hm => Memory.wf_clear hm r.1 r.2) rs h.2⟩

theorem State.canon_endPartTasks (part) : (s.endPartTasks part).Canon := by
  unfold State.endPartTasks
  grind only [State.canon_performStores, State.canon_releaseCore, State.canon_dequeue, State.canon_zeroRanges, canon_foldl, State.canon_iff]

theorem State.canon_endPartLaunches (part) : (s.endPartLaunches part).Canon := h

theorem State.canon_endPartStreams (part) : (s.endPartStreams part).Canon := h

theorem State.canon_clearUnits (cls) : (s.clearUnits cls).Canon := by
  unfold State.clearUnits
  grind only [State.canon_modCore, State.canon_setCluster, State.canon_zeroRanges, canon_foldl]

theorem State.canon_finishReset (part p) : (s.finishReset part p).Canon := by
  unfold State.finishReset
  grind only [Res.gives_ok, Res.gives_error, Res.gives_fault, State.canon_cutFrames, State.canon_endPartStreams, State.canon_endPartTasks,
    State.canon_endPartLaunches, State.canon_setHostFn, State.canon_clearUnits, State.canon_raiseIstat, State.canon_iff]

theorem State.canon_dissolve (part p) : (s.dissolve part p).Canon := by
  unfold State.dissolve
  grind only [State.canon_setCluster, State.canon_setLaunch, canon_foldl, State.canon_iff]

theorem State.canon_giveFrames (frames id) : (s.giveFrames frames id).Canon := by
  unfold State.giveFrames
  grind only [State.canon_setStack, canon_foldl]

theorem State.canon_createPart (id b v) : (s.createPart id b v).Canon := by
  unfold State.createPart
  grind only [State.canon_setCluster, State.canon_modCore, State.canon_giveFrames, State.canon_setLaunch, State.canon_createRoots, canon_foldl,
    State.canon_iff]

theorem canon_execPartset (d a b) : Out.Canon (execPartset d a b s) := by
  refine State.canon_issue h _ _ fun x => ?_
  repeat' first | refine Res.gives_bind fun _ _ => ?_ | split | extract_lets
  all_goals grind only [Res.gives_ok, Res.gives_error, Res.gives_fault, State.canon_done, State.canon_createPart, State.canon_abortPeerGroups,
    State.canon_abortOwnGroups, State.canon_finishReset, State.canon_dissolve, State.canon_iff]

/-! ### Boot -/

omit h in
theorem State.canon_deviceReset (b) : (s.deviceReset b).Canon := by
  unfold State.deviceReset
  grind only [Res.gives_ok, Res.gives_error, Res.gives_fault, State.canon_reset, State.canon_iff]

theorem State.canon_bringUp : s.bringUp.Canon := h

theorem State.canon_logged (x m) : (s.logged x m).Canon := by
  unfold State.logged
  grind only [State.canon_send]

omit h in
theorem canon_execDeviceStart (x) : Out.Canon (execDeviceStart x s) := by
  unfold execDeviceStart
  grind only [Out.canon_next, Out.canon_fault, Out.canon_refused, State.canon_deviceReset, State.canon_logged, State.canon_bringUp, State.canon_iff]

theorem canon_execBootok (v) : Out.Canon (execBootok v s) := by
  unfold execBootok
  grind only [Out.canon_next, Out.canon_fault, Out.canon_refused, State.canon_writeBoot]

theorem canon_execMinver (v) : Out.Canon (execMinver v s) := by
  unfold execMinver
  grind only [Out.canon_next, Out.canon_fault, Out.canon_refused, State.canon_writeBoot]

theorem canon_execKeyrev (v) : Out.Canon (execKeyrev v s) := by
  unfold execKeyrev
  grind only [Out.canon_next, Out.canon_fault, Out.canon_refused, State.canon_writeBoot]

omit h in
theorem canon_execPowerLoss : Out.Canon (execPowerLoss s) := by
  unfold execPowerLoss
  grind only [Out.canon_next, Out.canon_fault, Out.canon_refused, State.canon_deviceReset]

theorem canon_execAttestationRequest (nonce) : Out.Canon (execAttestationRequest nonce s) := by
  unfold execAttestationRequest
  grind only [Out.canon_next, Out.canon_fault, Out.canon_refused, State.canon_replied]

theorem canon_execRecoveryImage (img) : Out.Canon (execRecoveryImage img s) := by
  unfold execRecoveryImage
  grind only [Out.canon_next, Out.canon_fault, Out.canon_refused, State.canon_replied, State.canon_send, State.canon_deviceReset]
end

end Sys2Proof.Machine
end

section
/-! PROOF. Every step keeps memory canonical, continued: the parts BoxForms, Branches, Loads, Scalar, Vector, VectorArith, VectorMoves,
VectorMemory, VectorControl, Dispatch, Time, VectorQueues, Turns, Step. -/

namespace Sys2Proof.Machine
set_option Elab.async false
open Sys2Proof

section
variable {s : State} (h : s.Canon)
include h

/-! ### BoxForms -/

theorem State.canon_boxQuery (d a f) : Out.Canon (s.boxQuery d a f) := by
  unfold State.boxQuery
  grind only [Out.canon_next, Out.canon_fault, Out.canon_refused, Res.gives_ok, Res.gives_error, Res.gives_fault, State.canon_issueScalar]

theorem canon_execBoxext (d a dim) : Out.Canon (execBoxext d a dim s) := by
  unfold execBoxext
  grind only [Out.canon_next, Out.canon_fault, Out.canon_refused, State.canon_boxQuery]

theorem canon_execBoxorg (d a dim) : Out.Canon (execBoxorg d a dim s) := by
  unfold execBoxorg
  grind only [Out.canon_next, Out.canon_fault, Out.canon_refused, State.canon_boxQuery]

theorem canon_execBoxrank (d a) : Out.Canon (execBoxrank d a s) := by
  unfold execBoxrank
  grind only [Out.canon_next, Out.canon_fault, Out.canon_refused, State.canon_boxQuery]

theorem canon_execBoxfmt (d a) : Out.Canon (execBoxfmt d a s) := by
  unfold execBoxfmt
  grind only [Out.canon_next, Out.canon_fault, Out.canon_refused, State.canon_boxQuery]

theorem canon_execBoxmode (d a) : Out.Canon (execBoxmode d a s) := by
  unfold execBoxmode
  grind only [Out.canon_next, Out.canon_fault, Out.canon_refused, State.canon_boxQuery]

theorem State.canon_issueHandle (f len d val) : Out.Canon (s.issueHandle f len d val) := by
  unfold State.issueHandle
  grind only [Out.canon_next, Out.canon_fault, Out.canon_refused, Res.gives_ok, Res.gives_error, Res.gives_fault, State.canon_issueTask,
    Res.gives_bind]

theorem canon_execWid (d sel) : Out.Canon (execWid d sel s) := by
  unfold execWid
  grind only [Out.canon_next, Out.canon_fault, Out.canon_refused, Res.gives_ok, Res.gives_error, Res.gives_fault, State.canon_issueScalar,
    canon_foldl]

/-! ### Branches -/

theorem State.canon_branchIf (a b off cond) : Out.Canon (s.branchIf a b off cond) := by
  unfold State.branchIf
  grind only [Res.gives_ok, Res.gives_error, Res.gives_fault, Out.canon_next, Out.canon_fault, Out.canon_refused, State.canon_issue,
    State.canon_setTask, State.canon_done, Res.gives_bind]

theorem canon_execJal (d off) : Out.Canon (execJal d off s) := by
  unfold execJal
  grind only [Out.canon_next, Out.canon_fault, Out.canon_refused, Res.gives_ok, Res.gives_error, Res.gives_fault, State.canon_issue,
    State.canon_setTask, Res.gives_bind]

theorem canon_execJalr (d a imm) : Out.Canon (execJalr d a imm s) := by
  unfold execJalr
  grind only [Out.canon_next, Out.canon_fault, Out.canon_refused, Res.gives_ok, Res.gives_error, Res.gives_fault, State.canon_issue,
    State.canon_setTask, Res.gives_bind]

theorem canon_execLoop (a b off) : Out.Canon (execLoop a b off s) := by
  refine State.canon_issue h _ _ fun x => ?_
  repeat' first | refine Res.gives_bind fun _ _ => ?_ | split | extract_lets
  all_goals grind only [Res.gives_ok, Res.gives_error, Res.gives_fault, State.canon_done, State.canon_setTask]

theorem canon_execTrap (code) : Out.Canon (execTrap code s) := by
  unfold execTrap
  grind only [Out.canon_next, Out.canon_fault, Out.canon_refused, Res.gives_ok, Res.gives_error, Res.gives_fault, State.canon_deliver,
    State.canon_trapEntry]

theorem canon_execBrk (code) : Out.Canon (execBrk code s) := by
  unfold execBrk
  grind only [Out.canon_next, Out.canon_fault, Out.canon_refused, Res.gives_ok, Res.gives_error, Res.gives_fault, State.canon_deliver,
    State.canon_trapEntry]

/-! ### Loads -/

theorem canon_execStf (d a off) : Out.Canon (execStf d a off s) := by
  unfold execStf
  grind only [Res.gives_ok, Res.gives_error, Res.gives_fault, Out.canon_next, Out.canon_fault, Out.canon_refused, State.canon_issue,
    State.canon_writeFrame, State.canon_done, Res.gives_bind]

theorem canon_execStfHandle (d a off) : Out.Canon (execStfHandle d a off s) := by
  unfold execStfHandle
  grind only [Res.gives_ok, Res.gives_error, Res.gives_fault, Out.canon_next, Out.canon_fault, Out.canon_refused, State.canon_issue,
    State.canon_writeFrame, State.canon_done, Res.gives_bind]

theorem State.canon_boxLoad (m signed acq) : Out.Canon (s.boxLoad m signed acq) := by
  unfold State.boxLoad
  grind only [Out.canon_next, Out.canon_fault, Out.canon_refused, Res.gives_ok, Res.gives_error, Res.gives_fault, State.canon_issueTask,
    Res.gives_bind]

theorem State.canon_boxStore (m rel) : Out.Canon (s.boxStore m rel) := by
  unfold State.boxStore
  grind only [Out.canon_next, Out.canon_fault, Out.canon_refused, Res.gives_ok, Res.gives_error, Res.gives_fault, State.canon_issueTask,
    Res.gives_bind]

/-! ### Scalar -/

theorem State.canon_alu2 (d a b f) : Out.Canon (s.alu2 d a b f) := by
  unfold State.alu2
  grind only [Out.canon_next, Out.canon_fault, Out.canon_refused, Res.gives_ok, Res.gives_error, Res.gives_fault, State.canon_issueScalar,
    Res.gives_bind]

theorem State.canon_alu1 (len d a f) : Out.Canon (s.alu1 len d a f) := by
  unfold State.alu1
  grind only [Out.canon_next, Out.canon_fault, Out.canon_refused, Res.gives_ok, Res.gives_error, Res.gives_fault, State.canon_issueScalar,
    Res.gives_bind]

/-! ### Vector -/

theorem State.canon_vecDone (x v) : Res.Gives State.Canon (s.vecDone x v) := by
  unfold State.vecDone
  grind only [Res.gives_ok, Res.gives_error, Res.gives_fault, State.canon_setTask]

theorem State.canon_issueVec (body) : Out.Canon (s.issueVec body) := by
  unfold State.issueVec
  grind only [Res.gives_ok, Res.gives_error, Res.gives_fault, Out.canon_next, Out.canon_fault, Out.canon_refused, State.canon_issueVector,
    State.canon_vecDone, Res.gives_bind]

/-! ### VectorArith -/

theorem State.canon_elementwise (w accepts srcs f) : Out.Canon (s.elementwise w accepts srcs f) := by
  unfold State.elementwise
  grind only [Out.canon_next, Out.canon_fault, Out.canon_refused, Res.gives_ok, Res.gives_error, Res.gives_fault, State.canon_issueVec,
    Res.gives_bind]

theorem State.canon_vbinary (w accepts f) : Out.Canon (s.vbinary w accepts f) := by
  unfold State.vbinary
  grind only [Out.canon_next, Out.canon_fault, Out.canon_refused, State.canon_elementwise]

theorem State.canon_vunary (w accepts f) : Out.Canon (s.vunary w accepts f) := by
  unfold State.vunary
  grind only [Out.canon_next, Out.canon_fault, Out.canon_refused, State.canon_elementwise]

theorem State.canon_vfused (w prod addend) : Out.Canon (s.vfused w prod addend) := by
  unfold State.vfused
  grind only [Out.canon_next, Out.canon_fault, Out.canon_refused, State.canon_elementwise]

theorem canon_execVdiv (w) : Out.Canon (execVdiv w s) := by
  unfold execVdiv
  grind only [Out.canon_next, Out.canon_fault, Out.canon_refused, State.canon_vbinary]

theorem canon_execVsqrt (w) : Out.Canon (execVsqrt w s) := by
  unfold execVsqrt
  grind only [Out.canon_next, Out.canon_fault, Out.canon_refused, State.canon_vunary]

theorem canon_execVabs (w) : Out.Canon (execVabs w s) := by
  unfold execVabs
  grind only [Out.canon_next, Out.canon_fault, Out.canon_refused, State.canon_vunary]

theorem canon_execVneg (w) : Out.Canon (execVneg w s) := by
  unfold execVneg
  grind only [Out.canon_next, Out.canon_fault, Out.canon_refused, State.canon_vunary]

theorem canon_execVadds (w) : Out.Canon (execVadds w s) := by
  unfold execVadds
  grind only [Out.canon_next, Out.canon_fault, Out.canon_refused, State.canon_vbinary]

theorem canon_execVsubs (w) : Out.Canon (execVsubs w s) := by
  unfold execVsubs
  grind only [Out.canon_next, Out.canon_fault, Out.canon_refused, State.canon_vbinary]

theorem canon_execVmulh (w) : Out.Canon (execVmulh w s) := by
  unfold execVmulh
  grind only [Out.canon_next, Out.canon_fault, Out.canon_refused, State.canon_vbinary]

theorem State.canon_vshiftBy (w f) : Out.Canon (s.vshiftBy w f) := by
  unfold State.vshiftBy
  grind only [Out.canon_next, Out.canon_fault, Out.canon_refused, State.canon_vunary, State.canon_vbinary]

theorem canon_execVsll (w) : Out.Canon (execVsll w s) := by
  unfold execVsll
  grind only [Out.canon_next, Out.canon_fault, Out.canon_refused, State.canon_vshiftBy]

theorem canon_execVsrl (w) : Out.Canon (execVsrl w s) := by
  unfold execVsrl
  grind only [Out.canon_next, Out.canon_fault, Out.canon_refused, State.canon_vshiftBy]

theorem canon_execVsra (w) : Out.Canon (execVsra w s) := by
  unfold execVsra
  grind only [Out.canon_next, Out.canon_fault, Out.canon_refused, State.canon_vshiftBy]

theorem State.canon_vfunction (w fn) : Out.Canon (s.vfunction w fn) := by
  unfold State.vfunction
  grind only [Out.canon_next, Out.canon_fault, Out.canon_refused, State.canon_vunary]

theorem State.canon_kbinary (w f) : Out.Canon (s.kbinary w f) := by
  unfold State.kbinary
  grind only [Out.canon_next, Out.canon_fault, Out.canon_refused, Res.gives_ok, Res.gives_error, Res.gives_fault, State.canon_issueVec,
    Res.gives_bind]

theorem canon_execKandn (w) : Out.Canon (execKandn w s) := by
  unfold execKandn
  grind only [Out.canon_next, Out.canon_fault, Out.canon_refused, State.canon_kbinary]

theorem canon_execKnot (w) : Out.Canon (execKnot w s) := by
  unfold execKnot
  grind only [Out.canon_next, Out.canon_fault, Out.canon_refused, State.canon_kbinary]

theorem canon_execKmov (w) : Out.Canon (execKmov w s) := by
  unfold execKmov
  grind only [Out.canon_next, Out.canon_fault, Out.canon_refused, State.canon_kbinary]

theorem State.canon_reduceForm (w accepts leaf op empty) : Out.Canon (s.reduceForm w accepts leaf op empty) := by
  unfold State.reduceForm
  grind only [Out.canon_next, Out.canon_fault, Out.canon_refused, Res.gives_ok, Res.gives_error, Res.gives_fault, State.canon_issueVec,
    Res.gives_bind]

/-! ### VectorMoves -/

theorem State.canon_permuteForm (w two pre pick) : Out.Canon (s.permuteForm w two pre pick) := by
  unfold State.permuteForm
  grind only [Out.canon_next, Out.canon_fault, Out.canon_refused, Res.gives_ok, Res.gives_error, Res.gives_fault, State.canon_issueVec,
    Res.gives_bind]

theorem canon_execVperm (w) : Out.Canon (execVperm w s) := by
  unfold execVperm
  grind only [Out.canon_next, Out.canon_fault, Out.canon_refused, Res.gives_ok, Res.gives_error, Res.gives_fault, State.canon_permuteForm,
    Res.gives_bind]

theorem canon_execVslide (w) : Out.Canon (execVslide w s) := by
  unfold execVslide
  grind only [Out.canon_next, Out.canon_fault, Out.canon_refused, Res.gives_ok, Res.gives_error, Res.gives_fault, State.canon_permuteForm,
    Res.gives_bind]

theorem canon_execVrot (w) : Out.Canon (execVrot w s) := by
  unfold execVrot
  grind only [Out.canon_next, Out.canon_fault, Out.canon_refused, State.canon_permuteForm]

theorem canon_execVzip (w) : Out.Canon (execVzip w s) := by
  unfold execVzip
  grind only [Out.canon_next, Out.canon_fault, Out.canon_refused, State.canon_permuteForm]

theorem canon_execVunzip (w) : Out.Canon (execVunzip w s) := by
  unfold execVunzip
  grind only [Out.canon_next, Out.canon_fault, Out.canon_refused, State.canon_permuteForm]

theorem canon_execVbcastel (w) : Out.Canon (execVbcastel w s) := by
  unfold execVbcastel
  grind only [Out.canon_next, Out.canon_fault, Out.canon_refused, State.canon_permuteForm]

theorem canon_execVpart (w) : Out.Canon (execVpart w s) := by
  unfold execVpart
  grind only [Out.canon_next, Out.canon_fault, Out.canon_refused, Res.gives_ok, Res.gives_error, Res.gives_fault, State.canon_issueVec,
    Res.gives_bind, canon_foldl]

/-! ### VectorMemory -/

theorem State.canon_vectorLoad (w accepts lin) : Out.Canon (s.vectorLoad w accepts lin) := by
  unfold State.vectorLoad
  grind only [Res.gives_ok, Res.gives_error, Res.gives_fault, Out.canon_next, Out.canon_fault, Out.canon_refused, State.canon_issueVector,
    State.canon_vecDone, Res.gives_bind]

theorem State.canon_vectorStore (w accepts lin) : Out.Canon (s.vectorStore w accepts lin) := by
  unfold State.vectorStore
  grind only [Res.gives_ok, Res.gives_error, Res.gives_fault, Out.canon_next, Out.canon_fault, Out.canon_refused, State.canon_issueVector,
    State.canon_vecDone, Res.gives_bind]

theorem State.canon_issueTile (us body) (hf : ∀ u, Res.Gives State.Canon (body u)) : Out.Canon (s.issueTile us body) := by
  unfold State.issueTile
  grind only [Out.canon_next, Out.canon_fault, Out.canon_refused, Res.gives_ok, Res.gives_error, Res.gives_fault, State.canon_putBack,
    State.canon_deliverStream]

theorem State.canon_startTileForm (t x us) : Out.Canon (s.startTileForm t x us) := by
  unfold State.startTileForm
  grind only [Out.canon_next, Out.canon_fault, Out.canon_refused, State.canon_setTask]

theorem canon_execVaccrd (w) : Out.Canon (execVaccrd w s) := by
  unfold execVaccrd
  grind only [Res.gives_ok, Res.gives_error, Res.gives_fault, Out.canon_next, Out.canon_fault, Out.canon_refused, State.canon_issueTile,
    State.canon_vecDone, Res.gives_bind]

theorem canon_execVaccwr (w) : Out.Canon (execVaccwr w s) := by
  refine State.canon_issueTile h _ _ fun x => ?_
  repeat' first | refine Res.gives_bind fun _ _ => ?_ | split | extract_lets
  all_goals grind only [Res.gives_ok, Res.gives_error, Res.gives_fault, canonFst_iff, State.canon_vecDone]

theorem canon_execAcczero (w) : Out.Canon (execAcczero w s) := by
  unfold execAcczero
  grind only [Res.gives_ok, Res.gives_error, Res.gives_fault, Out.canon_next, Out.canon_fault, Out.canon_refused, State.canon_issueTile,
    State.canon_vecDone, Res.gives_bind]

/-! ### VectorControl -/

theorem State.canon_scalarForm (w f) : Out.Canon (s.scalarForm w f) := by
  unfold State.scalarForm
  grind only [Out.canon_next, Out.canon_fault, Out.canon_refused, Res.gives_ok, Res.gives_error, Res.gives_fault, State.canon_issueVec,
    Res.gives_bind]

theorem canon_execAadd (w) : Out.Canon (execAadd w s) := by
  unfold execAadd
  grind only [Out.canon_next, Out.canon_fault, Out.canon_refused, State.canon_scalarForm]

theorem canon_execAsub (w) : Out.Canon (execAsub w s) := by
  unfold execAsub
  grind only [Out.canon_next, Out.canon_fault, Out.canon_refused, State.canon_scalarForm]

theorem canon_execAshl (w) : Out.Canon (execAshl w s) := by
  unfold execAshl
  grind only [Out.canon_next, Out.canon_fault, Out.canon_refused, State.canon_scalarForm]

theorem canon_execAmov (w) : Out.Canon (execAmov w s) := by
  unfold execAmov
  grind only [Out.canon_next, Out.canon_fault, Out.canon_refused, State.canon_scalarForm]

theorem canon_execAli (w) : Out.Canon (execAli w s) := by
  unfold execAli
  grind only [Out.canon_next, Out.canon_fault, Out.canon_refused, State.canon_scalarForm]

theorem canon_execVloop (w) : Out.Canon (execVloop w s) := by
  unfold execVloop
  grind only [Out.canon_next, Out.canon_fault, Out.canon_refused, Res.gives_ok, Res.gives_error, Res.gives_fault, State.canon_issueVector,
    State.canon_setTask, Res.gives_bind]

theorem canon_execVendl : Out.Canon (execVendl s) := by
  unfold execVendl
  grind only [Out.canon_next, Out.canon_fault, Out.canon_refused, Res.gives_ok, Res.gives_error, Res.gives_fault, State.canon_issueVector,
    State.canon_setTask]

theorem canon_execVsig (w) : Out.Canon (execVsig w s) := by
  unfold execVsig
  grind only [Res.gives_ok, Res.gives_error, Res.gives_fault, Out.canon_next, Out.canon_fault, Out.canon_refused, State.canon_issueVector,
    State.canon_vecDone, Res.gives_bind]

/-! ### Dispatch -/

theorem canon_exec (i) : Out.Canon (exec i s) := by
  cases i with
  | add | sub | and | or | xor | andn | sll | srl | sra | rotl | slt | sltu | min | max | minu | maxu | mul | mulh | mulhu | mulhsu | div | divu | rem
    | remu =>
    exact State.canon_alu2 h _ _ _ _
  | clz | popc | addi | andi | ori | xori | slti | sltiu | slli | srli | srai | rotli | lih => exact State.canon_alu1 h _ _ _ _
  | li | liu | shpld | rdcyc | rdtick | rdcore | jstat | dslice | semrd | gstat | shardcoord => exact State.canon_issueScalar h _ _ _ _
  | ldf | ldfHandle | fence | claim | vqsend | vqrecv | hint | fork | xq | ecfg | enest | mfsr | rdv | halt => exact State.canon_issueTask h _ _ _
  | stf => exact canon_execStf h _ _ _
  | stfHandle => exact canon_execStfHandle h _ _ _
  | ldS | ldZ | ldAcqS | ldAcqZ => exact State.canon_boxLoad h _ _ _
  | st | stRel => exact State.canon_boxStore h _ _
  | beq | bne | blt | bge | bltu | bgeu => exact State.canon_branchIf h _ _ _ _
  | loop => exact canon_execLoop h _ _ _
  | jal => exact canon_execJal h _ _
  | jalr => exact canon_execJalr h _ _ _
  | wid => exact canon_execWid h _ _
  | boxext => exact canon_execBoxext h _ _ _
  | boxorg => exact canon_execBoxorg h _ _ _
  | boxrank => exact canon_execBoxrank h _ _
  | boxfmt => exact canon_execBoxfmt h _ _
  | boxmode => exact canon_execBoxmode h _ _
  | boxmov | boxclr | boxroot | boxsub | boxnew => exact State.canon_issueHandle h _ _ _ _
  | semset => exact canon_execSemset h _ _ _ _
  | semadd | semsub => exact State.canon_semChange h _ _ _ _ _ _
  | release => exact canon_execRelease h _
  | stopen => exact canon_execStopen h _ _ _
  | stsrc => exact canon_execStsrc h _ _ _
  | stbind => exact canon_execStbind h _ _ _
  | strec => exact canon_execStrec h _ _ _
  | stclose => exact canon_execStclose h _
  | gopen => exact canon_execGopen h _ _ _
  | gcommit => exact canon_execGcommit h _ _
  | gabort => exact canon_execGabort h _
  | trap => exact canon_execTrap h _
  | brk => exact canon_execBrk h _
  | waitAny | waitAll => exact State.canon_wait h _ _ _ _
  | spawn | spawnDown => exact State.canon_spawn h _ _ _ _
  | dspawn => exact canon_execDspawn h _ _ _
  | amoadd | amoand | amoor | amoxor | amomin | amomax | amominu | amomaxu | amoswap | amocas | amofadd | incw | faddb | redadd | redand | redor |
    redxor | redmin | redmax | redminu | redmaxu | redfadd =>
    exact State.canon_amo h _ _
  | stG => exact canon_execStG h _
  | mtsr => exact canon_execMtsr h _ _
  | ctxsave => exact canon_execCtxsave h _ _
  | ctxload => exact canon_execCtxload h _ _
  | preempt => exact canon_execPreempt h _ _
  | qadmit => exact canon_execQadmit h _ _
  | qrelease => exact canon_execQrelease h _
  | qcancel => exact canon_execQcancel h _
  | partset => exact canon_execPartset h _ _ _
  | tlbinv => exact canon_execTlbinv h _ _
  | isend => exact canon_execIsend h _ _
  | corefence => exact canon_execCorefence h _ _
  | phyrd => exact canon_execPhyrd h _ _
  | phywr => exact canon_execPhywr h _ _
  | vadd | vsub | vmul | vmin | vmax | vand | vor | vxor => exact State.canon_vbinary h _ _ _
  | vfma | vfms | vfnma => exact State.canon_vfused h _ _ _
  | vdiv => exact canon_execVdiv h _
  | vsqrt => exact canon_execVsqrt h _
  | vabs => exact canon_execVabs h _
  | vneg => exact canon_execVneg h _
  | vadds => exact canon_execVadds h _
  | vsubs => exact canon_execVsubs h _
  | vmulh => exact canon_execVmulh h _
  | vnot => exact State.canon_vunary h _ _ _
  | vsll => exact canon_execVsll h _
  | vsrl => exact canon_execVsrl h _
  | vsra => exact canon_execVsra h _
  | vexp | vlog | vrcp | vrsqrt | vtanh | vsigm | vsin | vcos => exact State.canon_vfunction h _ _
  | vcmp | vsel | kpop | kfirst | kmovPfx | vcvt | vcvtb | vrng | vbcast | vcompress | vexpand | vpush | vpop | vfset | vfwait | vswait | vfence |
    vend | vnop =>
    exact State.canon_issueVec h _
  | kand | kor | kxor => exact State.canon_kbinary h _ _
  | kandn => exact canon_execKandn h _
  | knot => exact canon_execKnot h _
  | kmov => exact canon_execKmov h _
  | vredsum | vredmax | vredmin | vredand | vredor => exact State.canon_reduceForm h _ _ _ _ _
  | vperm => exact canon_execVperm h _
  | vslide => exact canon_execVslide h _
  | vrot => exact canon_execVrot h _
  | vzip => exact canon_execVzip h _
  | vunzip => exact canon_execVunzip h _
  | vbcastel => exact canon_execVbcastel h _
  | vpart => exact canon_execVpart h _
  | vgather | vld => exact State.canon_vectorLoad h _ _ _
  | vscatter | vst => exact State.canon_vectorStore h _ _ _
  | vaccrd => exact canon_execVaccrd h _
  | vaccwr => exact canon_execVaccwr h _
  | acczero => exact canon_execAcczero h _
  | aadd => exact canon_execAadd h _
  | asub => exact canon_execAsub h _
  | amul => exact State.canon_scalarForm h _ _
  | ashl => exact canon_execAshl h _
  | amov => exact canon_execAmov h _
  | ali => exact canon_execAli h _
  | vloop => exact canon_execVloop h _
  | vsig => exact canon_execVsig h _
  | mmul => exact canon_execMmul h _
  | copy => exact canon_execCopy h _
  | copyl => exact canon_execCopyl h _
  | trans | perm => exact State.canon_permutePass h _ _
  | fill => exact canon_execFill h _
  | gather | scatter => exact State.canon_blockListPass h _ _
  | edec => exact canon_execEdec h _
  | vqx => exact canon_execVqx h _
  | cbload => exact canon_execCbload h _
  | shpf => exact canon_execShpf h _
  | gcp => exact canon_execGcp h _
  | rcp => exact canon_execRcp h _
  | allred | allgath | bcast | rdscat => exact State.canon_collectivePass h _ _
  | digest => exact canon_execDigest h _
  | enc => exact canon_execEnc h _
  | hintRecord => exact (Out.canon_next s).2 h
  | join => exact canon_execJoin h
  | endTask => exact canon_execEndTask h
  | yield => exact canon_execYield h
  | tret => exact canon_execTret h
  | tretEnd => exact canon_execTretEnd h
  | vendl => exact canon_execVendl h
  | loadDataReturn => exact canon_execLoadDataReturn h _ _ _
  | haltWake => exact canon_execHaltWake h _
  | recordStart => exact canon_execRecordStart h _ _
  | recordComplete => exact canon_execRecordComplete h _ _
  | encoderFrameStart => exact canon_execEncoderFrameStart h _
  | encoderFrameComplete => exact canon_execEncoderFrameComplete h _
  | encoderFrameSwitch => exact canon_execEncoderFrameSwitch h _
  | dispatch => exact canon_execDispatch h _
  | preemption => exact canon_execPreemption h _
  | storageUnitSave => exact canon_execStorageUnitSave h _ _
  | sliceBudgetExhausted => exact canon_execSliceBudgetExhausted h _
  | contractRelease => exact canon_execContractRelease h _ _
  | periodicRelease => exact canon_execPeriodicRelease h _
  | doorbell => exact canon_execDoorbell h _ _
  | launch => exact canon_execLaunch h _
  | childStorageAllocation => exact canon_execChildStorageAllocation h _
  | copyInComplete => exact canon_execCopyInComplete h _
  | taskReturn => exact canon_execTaskReturn h _
  | waitTimeout => exact canon_execWaitTimeout h _
  | waitConditionMet => exact canon_execWaitConditionMet h _
  | faultDelivery => exact canon_execFaultDelivery h _
  | interruptEntry => exact canon_execInterruptEntry h _
  | belvedereMismatch => exact canon_execBelvedereMismatch h _ _
  | scrubSweep => exact canon_execScrubSweep h _ _
  | pageWalk => exact canon_execPageWalk h _ _
  | streamRecordEntry => exact canon_execStreamRecordEntry h _
  | sundialTick => exact canon_execSundialTick h _
  | sourceIdle => exact canon_execSourceIdle h _
  | windowPublication => exact canon_execWindowPublication h _
  | orangeryStaging => exact canon_execOrangeryStaging h _
  | withdrawal => exact canon_execWithdrawal h _ _
  | prepareSend => exact canon_execPrepareSend h _
  | prepared => exact canon_execPrepared h _ _
  | groupDecision => exact canon_execGroupDecision h _
  | publish => exact canon_execPublish h _ _
  | groupFree => exact canon_execGroupFree h _
  | groupTimeout => exact canon_execGroupTimeout h _
  | abortDiscard => exact canon_execAbortDiscard h _ _
  | replicaDigestCompare => exact canon_execReplicaDigestCompare h _
  | flitReceive => exact canon_execFlitReceive h _ _
  | portDown => exact canon_execPortDown h _
  | routeRestored => exact canon_execRouteRestored h _
  | rdly => exact canon_execRdly h _ _ _ _
  | wdly => exact canon_execWdly h _ _ _ _
  | trctl | lrep | chctl | grancmd | repcmd => exact State.canon_phyStep h _ _ _ _
  | trainingRunDone => exact canon_execTrainingRunDone h _ _
  | channelDrained => exact canon_execChannelDrained h _ _
  | granuleChangeDone => exact canon_execGranuleChangeDone h _
  | rowRepairDone => exact canon_execRowRepairDone h _
  | clsev => exact canon_execClsev h _
  | pcerase => exact canon_execPcerase h _ _
  | mbsend => exact canon_execMbsend h _
  | submit => exact canon_execSubmit h _ _
  | registerWrite => exact canon_execRegisterWrite h _ _ _
  | supervisorLaunch => exact canon_execSupervisorLaunch h _
  | privilegedLaunch => exact canon_execPrivilegedLaunch h _ _ _
  | svcrun => exact canon_execSvcrun h _ _
  | serviceTaskEnd => exact canon_execServiceTaskEnd h _
  | deviceStart => exact canon_execDeviceStart _
  | bootok => exact canon_execBootok h _
  | minver => exact canon_execMinver h _
  | keyrev => exact canon_execKeyrev h _
  | attestationRequest => exact canon_execAttestationRequest h _
  | recoveryImage => exact canon_execRecoveryImage h _
  | hostMemoryAccess => exact canon_execHostMemoryAccess h _ _ _
  | powerLoss => exact canon_execPowerLoss
  | serviceCoreReset => exact canon_execServiceCoreReset h _
  | contractAccountExhausted => exact canon_execContractAccountExhausted h _ _ _
  | postedStorePerform => exact canon_execPostedStorePerform h _ _ _

/-! ### Time -/

theorem State.canon_spend (n p) : (s.spend n p).Canon := by
  unfold State.spend
  grind only [State.canon_modCore, State.canon_setTask]

theorem State.canon_draw (n x) : (s.draw n x).Canon := by
  unfold State.draw
  grind only [State.canon_iff]

theorem State.canon_elapse (n) : (s.elapse n).Canon := by
  unfold State.elapse
  grind only [State.canon_flushHeld, State.canon_draw, State.canon_spend, State.canon_latchWaits, canon_foldl, State.canon_iff]

/-! ### VectorQueues -/

theorem State.canon_faultsInOrder (t x earlier o) (ho : Out.Canon (o)) : Out.Canon (s.faultsInOrder t x earlier o) := by
  unfold State.faultsInOrder
  grind only [Out.canon_next, Out.canon_fault, Out.canon_refused]

/-! ### Turns -/

theorem State.canon_backToCopying (t) : (s.backToCopying t).Canon := by
  unfold State.backToCopying
  grind only [State.canon_enqueue, State.canon_modTask, State.canon_releaseCore]

omit h in
theorem State.canon_followed (t o) (ho : Out.Canon (o)) : Out.Canon (State.followed t o) := by
  unfold State.followed
  grind only [Out.canon_next, Out.canon_fault, Out.canon_refused, State.canon_modTask]

theorem State.canon_admitted (t o) (ho : Out.Canon (o)) : Out.Canon (s.admitted t o) := by
  unfold State.admitted
  grind only [Out.canon_next, Out.canon_fault, Out.canon_refused]

theorem State.canon_using (t sections turn) (hf : ∀ u : State, u.Canon → Out.Canon (turn u)) : Out.Canon (s.using t sections turn) := by
  unfold State.using
  grind only [found_some, found_none, Out.canon_next, Out.canon_fault, Out.canon_refused, State.canon_touch, State.canon_admitted,
    State.canon_claimed]

omit h in
theorem State.canon_passed (t v o) (ho : Out.Canon (o)) : Out.Canon (State.passed t v o) := by
  unfold State.passed
  grind only [Out.canon_next, Out.canon_fault, Out.canon_refused, State.canon_setTask]

theorem State.canon_controlIssue (t x) : Out.Canon (s.controlIssue t x) := by
  unfold State.controlIssue
  split
  · split
    · exact State.canon_followed _ _ (State.canon_using h _ _ _ fun u hu => canon_exec (s := { u.settleLink t x with cur := t }) (State.canon_settleLink hu t x) _)
    · exact State.canon_deliver h _ _ _ (Res.gives_error _ _)
  · exact State.canon_deliver h _ _ _ (Res.gives_error _ _)

theorem State.canon_requestTurn (t x core) : Out.Canon (s.requestTurn t x core) := by
  unfold State.requestTurn
  grind only [Out.canon_next, Out.canon_fault, Out.canon_refused, State.canon_controlIssue, State.canon_modCore, State.canon_preempt]

theorem canon_controlStep (t) : Out.Canon (controlStep s t) := by
  unfold controlStep
  grind only [Out.canon_next, Out.canon_fault, Out.canon_refused, State.canon_backToCopying, canon_execFaultDelivery, canon_execSliceBudgetExhausted,
    State.canon_requestTurn, canon_execInterruptEntry, State.canon_controlIssue]

theorem State.canon_vectorIssue (t x i) : Out.Canon (s.vectorIssue t x i) := by
  have hkeep {u : State} (hu : u.Canon) : Out.Canon (.next u) := (Out.canon_next u).2 hu
  unfold State.vectorIssue
  split
  · exact State.canon_deliverStream h _ _ _ _ (Res.gives_error _ _)
  extract_lets us
  split
  · refine State.canon_using h _ _ _ fun u hu => ?_
    split
    · exact State.canon_startTileForm hu _ _ _
    · exact hkeep hu
  split
  · exact State.canon_using h _ _ _ fun u hu => canon_exec (s := { u with cur := t }) hu _
  · exact hkeep h

theorem canon_vectorStep (t) : Out.Canon (vectorStep s t) := by
  unfold vectorStep
  grind only [Out.canon_next, Out.canon_fault, Out.canon_refused, Res.gives_ok, Res.gives_error, Res.gives_fault, State.canon_passed,
    State.canon_faultsInOrder, State.canon_vectorIssue, State.canon_deliverStream]

theorem canon_decodeStep (t) : Out.Canon (decodeStep s t) := by
  unfold decodeStep
  grind only [Out.canon_next, Out.canon_fault, Out.canon_refused, State.canon_setTask]

theorem canon_queuedStep (t k) : Out.Canon (queuedStep s t k) := by
  unfold queuedStep
  repeat' split
  all_goals grind only [Out.canon_next, Out.canon_fault, Out.canon_refused, State.canon_setTask, State.canon_faultsInOrder, State.canon_vectorIssue,
    State.canon_modTask]

theorem canon_engineStep (t e) : Out.Canon (engineStep s t e) := by
  have hkeep {u : State} (hu : u.Canon) : Out.Canon (.next u) := (Out.canon_next u).2 hu
  unfold engineStep
  split
  · exact hkeep h
  split
  · exact hkeep h
  split
  · exact hkeep h
  · exact State.canon_using h _ _ _ fun u hu => canon_execRecordStart hu _ _
  · split
    · refine State.canon_using h _ _ _ fun u hu => ?_
      split
      · exact State.canon_startPass hu _ _ _
      · exact hkeep hu
    split
    · exact State.canon_using h _ _ _ fun u hu => canon_exec (s := { u with cur := t }) hu _
    · exact hkeep h
  · exact canon_execRecordComplete h _ _

theorem canon_act (a) : Out.Canon (act s a) := by
  unfold act
  grind only [Out.canon_next, Out.canon_fault, Out.canon_refused, canon_controlStep, canon_vectorStep, canon_decodeStep, canon_queuedStep,
    canon_engineStep, State.canon_elapse, State.canon_noteEcc, State.canon_noteStaged, canon_exec]

theorem State.canon_nextTurn : (s.nextTurn).2.Canon := by
  unfold State.nextTurn
  grind only [State.canon_iff]

/-! ### Step -/

theorem canon_step : Out.Canon (step s) := by
  unfold step
  grind only [Out.canon_next, Out.canon_fault, Out.canon_refused, canon_act, State.canon_nextTurn]
end

/-- Settles O60: a step is an agent's turn, and each operation that a turn is made of keeps the memory and the dirty bits canonical. -/
theorem memoryInvariant : Obligations.MemoryInvariant := by
  unfold Obligations.MemoryInvariant
  exact fun s t hs hstep => canon_step hs t hstep

/-- Settles O59: the memories of the reset state list nothing, and an empty list reads zero everywhere. -/
theorem resetMemory : Obligations.ResetMemory := by
  unfold Obligations.ResetMemory
  exact ⟨State.canon_reset, fun a => rfl⟩

end Sys2Proof.Machine
end

section
/-! PROOF. Contracts and periodic launches (O43): what a device step of a contract's account, of its refill and of a periodic launch does. -/

namespace Sys2Proof.Machine
open Sys2Proof

/-! ### A task changed in place -/

theorem State.task?_modTask_same (s : State) (t : Nat) (f : Task → Task) : (s.modTask t f).task? t = (s.task? t).map f := by
  unfold State.modTask
  cases h : s.task? t with
  | none => exact h
  | some x => exact SMap.find_put_same _ _ _

theorem State.task?_modTask_other (s : State) {t u : Nat} (f : Task → Task) (h : u ≠ t) : (s.modTask t f).task? u = s.task? u := by
  unfold State.modTask
  cases s.task? t with
  | none => rfl
  | some x => exact SMap.find_put_other _ _ _ _ h

theorem State.modTask_mem (s : State) (t : Nat) (f : Task → Task) : (s.modTask t f).mem = s.mem := by
  unfold State.modTask
  cases s.task? t <;> rfl

theorem State.modTask_contracts (s : State) (t : Nat) (f : Task → Task) : (s.modTask t f).contracts = s.contracts := by
  unfold State.modTask
  cases s.task? t <;> rfl

/-! ### The same change made to each task of a list -/

/-- Each listed task is changed, one after another. -/
def State.modEach (s : State) (f : Task → Task) (l : List (Nat × Task)) : State := l.foldl (fun v p => v.modTask p.1 f) s

theorem State.modEach_mem (f : Task → Task) (l : List (Nat × Task)) : ∀ s : State, (s.modEach f l).mem = s.mem := by
  induction l with
  | nil => exact fun _ => rfl
  | cons p r ih => exact fun s => (ih _).trans (s.modTask_mem p.1 f)

theorem State.modEach_contracts (f : Task → Task) (l : List (Nat × Task)) : ∀ s : State, (s.modEach f l).contracts = s.contracts := by
  induction l with
  | nil => exact fun _ => rfl
  | cons p r ih => exact fun s => (ih _).trans (s.modTask_contracts p.1 f)

theorem State.task?_modEach_other (f : Task → Task) {t : Nat} (l : List (Nat × Task)) (ht : ∀ p ∈ l, t ≠ p.1) :
    ∀ s : State, (s.modEach f l).task? t = s.task? t := by
  induction l with
  | nil => exact fun _ => rfl
  | cons p r ih =>
    obtain ⟨hp, hr⟩ := List.forall_mem_cons.1 ht
    exact fun s => (ih hr _).trans (s.task?_modTask_other f hp)

/-- A change that can be made twice to no further effect is made to each task that the list names, however often it does. -/
theorem State.task?_modEach_same {f : Task → Task} (hf : ∀ x, f (f x) = f x) {t : Nat} (l : List (Nat × Task)) :
    ∀ s : State, (∃ p ∈ l, t = p.1) → (s.modEach f l).task? t = (s.task? t).map f := by
  induction l with
  | nil => simp
  | cons p r ih =>
    intro s hex
    show (State.modEach (s.modTask p.1 f) f r).task? t = _
    by_cases hr : ∃ q ∈ r, t = q.1
    · rw [ih _ hr]
      by_cases hp : t = p.1
      · subst hp
        rw [State.task?_modTask_same, Option.map_map, show f ∘ f = f from funext hf]
      · rw [State.task?_modTask_other s f hp]
    · have hp : t = p.1 := by
        obtain ⟨q, hq, htq⟩ := hex
        rcases List.mem_cons.1 hq with rfl | hq
        · exact htq
        · exact absurd ⟨q, hq, htq⟩ hr
      subst hp
      rw [State.task?_modEach_other f r (fun q hq htq => hr ⟨q, hq, htq⟩), State.task?_modTask_same]

/-! ### An account that reaches 0 -/

/-- The running slices of a contract on a cluster. -/
def State.slicesOn (s : State) (part n cl : Nat) : List (Nat × Task) :=
  s.tasks.filter (fun p => p.2.r.core.isSome && p.2.r.cluster == cl && p.2.r.contract == n && s.partOf p.2 == part)

theorem State.mem_slicesOn {s : State} {part n cl : Nat} {p : Nat × Task} : p ∈ s.slicesOn part n cl ↔
    p ∈ s.tasks ∧ p.2.r.core ≠ none ∧ p.2.r.cluster = cl ∧ p.2.r.contract = n ∧ s.partOf p.2 = part := by
  simp [State.slicesOn, Option.isSome_iff_ne_none, and_assoc]

/-- A slice whose budget is used up. -/
def Task.spendBudget (x : Task) : Task := x.mapRec (fun r => { r with budget := 0 })

theorem exec_contractAccountExhausted {s : State} {part n cl : Nat} {k : Contract} (hk : SMap.find s.contracts (contractKey part n) = some k)
    (hpart : k.part = part) (hcl : cl ∈ k.clusters) (hzero : SMap.get k.accounts cl 0 = 0) (hspent : cl ∉ k.spent) :
    exec (.contractAccountExhausted part n cl) s =
      .next (State.modEach { s with contracts := SMap.put s.contracts (contractKey part n) { k with spent := cl :: k.spent } }
        Task.spendBudget (s.slicesOn part n cl)) := by
  show execContractAccountExhausted part n cl s = _
  unfold execContractAccountExhausted
  simp only [hk]
  rw [if_neg (by simp [hpart, hcl, hzero, hspent])]
  rfl

/-! ### A release tick -/

theorem State.refillDue_iff {s : State} {k : Contract} : s.refillDue k = true ↔
    k.q + (k.refills + 1) * k.period ≤ s.cycle / 16 ∧ (∀ a ∈ k.accounts, a.2 = 0 → a.1 ∈ k.spent) ∧ s.queueReachable k.part = true := by
  show _ ↔ k.q + (k.refills + 1) * k.period ≤ s.tick ∧ _
  simp [State.refillDue, Contract.owes, and_assoc]

theorem exec_contractRelease_waits {s : State} {part n : Nat} {k : Contract} (hk : SMap.find s.contracts (contractKey part n) = some k)
    (hdue : s.refillDue k = false) : exec (.contractRelease part n) s = .next s := by
  show execContractRelease part n s = _
  simp [execContractRelease, hk, hdue]

/-- A contract at its next release: every account is full. -/
def Contract.refilled (k : Contract) : Contract :=
  { k with refills := k.refills + 1, accounts := k.clusters.map (fun c => (c, k.budget)), spent := [] }

/-- A Deferred task that goes on at a release, with the budget of a slice. -/
def State.releaseDeferred (v : State) (p : Nat × Task) : State :=
  (v.modTask p.1 (fun x => { x with r := { x.r with budget := v.sliceBudget x, granted := false } })).makeRunnable p.1 false

/-- The Deferred tasks of a contract, in ascending WID. -/
def State.deferredOf (s : State) (part n : Nat) : List (Nat × Task) :=
  sortBy (fun (a b : Nat × Task) => a.2.r.wid < b.2.r.wid)
    (s.tasks.filter (fun p => p.2.st == .deferred && p.2.r.contract == n && s.partOf p.2 == part))

theorem exec_contractRelease_due {s : State} {part n : Nat} {k : Contract} (hk : SMap.find s.contracts (contractKey part n) = some k)
    (hpart : k.part = part) (hdue : s.refillDue k = true) : exec (.contractRelease part n) s =
      .next ((s.deferredOf part n).foldl State.releaseDeferred { s with contracts := SMap.put s.contracts (contractKey part n) k.refilled }) := by
  show execContractRelease part n s = _
  unfold execContractRelease
  simp only [hk]
  rw [if_neg (by simp [hpart, hdue])]
  rfl

/-! ### A periodic launch -/

section
variable {s : State} {launch : Nat} {l : Launch} {k : Contract} (hl : s.launch? launch = some l)
  (hk : SMap.find s.contracts (contractKey l.part l.contract) = some k)
include hl hk

theorem exec_periodicRelease_waits (hdue : s.releaseDue launch l = false) : exec (.periodicRelease launch) s = .next s := by
  show execPeriodicRelease launch s = _
  simp [execPeriodicRelease, hl, hk, hdue]

theorem exec_periodicRelease_skips (hdue : s.releaseDue launch l = true) (hlive : 0 < s.liveRoots launch) :
    exec (.periodicRelease launch) s = .next (s.setLaunch launch { l with skipped := l.skipped + 1 }) := by
  show execPeriodicRelease launch s = _
  simp [execPeriodicRelease, hl, hk, hdue, hlive]

theorem exec_periodicRelease_releases (hdue : s.releaseDue launch l = true) (hlive : s.liveRoots launch = 0) :
    exec (.periodicRelease launch) s = .next ((s.setLaunch launch { l with releases := l.releases + 1 }).createRoots launch l (l.releaseAt k + k.rdead)) := by
  show execPeriodicRelease launch s = _
  simp [execPeriodicRelease, hl, hk, hdue, hlive]

omit hl in
theorem State.releaseDue_eq (hper : l.periodic = true) (hlive : l.live = true) (hopen : l.closing = false) :
    s.releaseDue launch l = (decide (l.releaseAt k ≤ s.tick) && (decide (0 < s.liveRoots launch) || s.releaseRoom l)) := by
  simp [State.releaseDue, hk, hper, hlive, hopen]

end

/-- Settles O43: each device step by the outcome of its own test. -/
theorem contractEvents : Obligations.ContractEvents := by
  unfold Obligations.ContractEvents
  refine ⟨fun s part n k hk hpart => ⟨fun cl hcl hzero hspent => ?exhausted, fun htick howes hreach => ?refill, fun hwait => ?waits⟩,
    fun s launch l k hl hk hper hlive hopen => ⟨fun hearly => ?early, fun hdue hroots => ?skip,
      fun hdue hroots hroom => ?room, fun hdue hroots hroom => ?release⟩⟩
  case exhausted =>
    refine ⟨_, exec_contractAccountExhausted hk hpart hcl hzero hspent, State.modEach_mem _ _ _, ?_, fun t hno => ?_, fun t x hmem hx hcore hclu hn hp => ?_⟩
    · rw [State.modEach_contracts]
      exact SMap.find_put_same _ _ _
    · refine State.task?_modEach_other _ _ (fun p hp htp => ?_) _
      obtain ⟨hmem, hcore, hclu, hn, -⟩ := State.mem_slicesOn.1 hp
      obtain hno | hno | hno := hno p.2 (htp ▸ hmem)
      · exact hcore hno
      · exact hno hclu
      · exact hno hn
    · rw [State.task?_modEach_same (f := Task.spendBudget) (fun _ => rfl) _ _ ⟨(t, x), State.mem_slicesOn.2 ⟨hmem, hcore, hclu, hn, hp⟩, rfl⟩]
      exact congrArg (Option.map Task.spendBudget) hx
  case refill => exact exec_contractRelease_due hk hpart (State.refillDue_iff.2 ⟨htick, howes, hpart ▸ hreach⟩)
  case waits =>
    refine exec_contractRelease_waits hk (Bool.eq_false_iff.2 fun hdue => ?_)
    obtain ⟨htick, howes, -⟩ := State.refillDue_iff.1 hdue
    obtain hlt | ⟨a, ha, hz, hs⟩ := hwait
    · exact absurd htick (Nat.not_le.2 hlt)
    · exact hs (howes a ha hz)
  all_goals have hrule := State.releaseDue_eq (s := s) (launch := launch) hk hper hlive hopen
  case early =>
    refine exec_periodicRelease_waits hl hk (hrule.trans ?_)
    rw [decide_eq_false (show ¬ l.releaseAt k ≤ s.tick from Nat.not_le.2 hearly), Bool.false_and]
  all_goals rw [decide_eq_true (show l.releaseAt k ≤ s.tick from hdue)] at hrule
  case skip => exact exec_periodicRelease_skips hl hk (by simp [hrule, hroots]) hroots
  case room => exact exec_periodicRelease_waits hl hk (by simp [hrule, hroots, hroom])
  case release => exact exec_periodicRelease_releases hl hk (by simp [hrule, hroom]) hroots

end Sys2Proof.Machine
end

section
/-! PROOF. The supervisor's forms halt, preempt, tlbinv, isend and corefence (18 R281, R284 to R286, R288): how each ends once its operands are read. -/

namespace Sys2Proof.Machine
open Sys2Proof

section
variable {s : State} {x : Task} {d a b : SReg} (hx : Acts s x)
include hx

/-! ### halt and preempt (R281, R284) -/

theorem exec_halt (hpl : 1 ≤ x.ctl.pl) :
    exec .halt s = .next (s.setTask s.cur ({ x with ctl := { x.ctl with halted := true } }.retire 4)) :=
  State.issueTask_ok hx (privForm_checks hpl) rfl

theorem exec_preempt (hpl : 1 ≤ x.ctl.pl) (ha : Ready x a) (hd : Free x d) (hcore : (x.ctl.rd a).toNat < 2 ^ 11)
    (hown : (coresOf (s.partClusters (s.partOf x))).contains (x.ctl.rd a).toNat = true) :
    exec (.preempt d a) s = .next ((s.modCore (x.ctl.rd a).toNat (fun k => { k with
        request := k.request || (s.core (x.ctl.rd a).toNat).task.isSome,
        asked := if (s.core (x.ctl.rd a).toNat).task.isSome && !k.request then some s.cycle else k.asked })).setTask s.cur
      ((x.wr d (if (s.core (x.ctl.rd a).toNat).task.isSome then 0 else 1)).retire 4)) := by
  refine State.issue_ok hx (privForm_checks hpl) ?_
  rw [Task.src_ready ha, Res.bind_ok, Task.dst_ok hd, Res.bind_ok, check_of (decide_eq_true hcore), Res.bind_ok, check_of hown, Res.bind_ok]
  rfl

/-! ### tlbinv (R285) -/

theorem exec_tlbinv (hpl : 1 ≤ x.ctl.pl) (ha : Ready x a) (hb : Ready x b) (hset : settled x = true) (hkind : (x.ctl.rd a).toNat < 2)
    (hfree : ∀ e ∈ s.tlb ++ s.ctlb, tlbHit (s.partOf x) (x.ctl.rd a).toNat (x.ctl.rd b).toNat e = true → s.usesEntry (s.partOf x) e = false) :
    exec (.tlbinv a b) s =
      .next ((s.dropTranslations (s.partOf x) (x.ctl.rd a).toNat (x.ctl.rd b).toNat).setTask s.cur (x.retire 4)) := by
  have hunused : ((s.tlb ++ s.ctlb).filter (tlbHit (s.partOf x) (x.ctl.rd a).toNat (x.ctl.rd b).toNat)).all (fun e => !s.usesEntry (s.partOf x) e) = true := by
    refine List.all_eq_true.2 fun e he => ?_
    obtain ⟨hmem, hhit⟩ := List.mem_filter.1 he
    rw [hfree e hmem hhit, Bool.not_false]
  refine State.issue_ok hx (privForm_checks hpl) ?_
  rw [Task.src_ready ha, Res.bind_ok, Task.src_ready hb, Res.bind_ok, check_of (decide_eq_true hkind), Res.bind_ok]
  dsimp only
  rw [waitFor_of hset, Res.bind_ok, waitFor_of hunused, Res.bind_ok]
  rfl

omit hx in
/-- The walker of each die keeps the non-leaf entries that the invalidation does not name. -/
theorem State.dropTranslations_die (part kind va d : Nat) : (s.dropTranslations part kind va).die d =
    { s.die d with nonleaf := (s.die d).nonleaf.filter (fun n => !(n.part == part && (kind == 1 || n.top == va / 2 ^ n.shift))) } := by
  rw [State.die, SMap.get, State.dropTranslations]
  dsimp only
  rw [SMap.find_map]
  · rw [State.die, SMap.get]
    cases SMap.find s.dies d <;> rfl
  · exact fun _ => rfl

/-! ### isend (R286) -/

/-- What isend sends, by its target's kind. -/
def State.isendEffect (s : State) (part kind core v : Nat) : State :=
  let p := s.part? part
  let msix := match p with | some p => p.msix | none => 0
  let vf := match p with | some p => p.vf | none => 0
  if kind = 0 then (if s.partResetting part then s else s.setPending core v)
  else if kind = 1 then s.send (.msix vf ((msix % 256 + v) % 256))
  else s.send (.management part v)

omit hx in
theorem State.isendEffect_cur (s : State) (part kind core v : Nat) : (s.isendEffect part kind core v).cur = s.cur := by
  unfold State.isendEffect
  repeat' split
  all_goals rfl

/-- The interrupts that a partition may send with MSI-X. -/
def State.vectorsOf (s : State) (part : Nat) : Nat := (match s.part? part with | some p => p.msix | none => 0) / 256 % 256

theorem exec_isend {core : Nat} (hpl : 1 ≤ x.ctl.pl) (ha : Ready x a) (hb : Ready x b) (hset : settled x = true) (hv : (x.ctl.rd b).toNat < 256)
    {kind : Nat} (hkind : kind < 3) (hcore : core < 2 ^ 11) (hzero : kind ≠ 0 → core = 0) (ht : (x.ctl.rd a).toNat = kind + core * 2 ^ 16)
    (hown : kind = 0 → (coresOf (s.partClusters (s.partOf x))).contains core = true)
    (hvec : kind = 1 → (x.ctl.rd b).toNat < s.vectorsOf (s.partOf x)) :
    exec (.isend a b) s = .next ((s.isendEffect (s.partOf x) kind core (x.ctl.rd b).toNat).setTask s.cur (x.retire 4)) := by
  have hk : (x.ctl.rd a).toNat % 4 = kind := by omega
  have hc : (x.ctl.rd a).toNat / 2 ^ 16 % 2 ^ 11 = core := by omega
  refine State.issue_ok hx (privForm_checks hpl) ?_
  rw [Task.src_ready ha, Res.bind_ok, Task.src_ready hb, Res.bind_ok, check_of (decide_eq_true hv), Res.bind_ok]
  dsimp only
  rw [hk, hc, check_of ?word, Res.bind_ok, check_of ?owned, Res.bind_ok, check_of ?vector, Res.bind_ok, waitFor_of hset, Res.bind_ok]
  case word =>
    obtain rfl | hne := eq_or_ne kind 0
    · simp [ht]
    · simp [hne, ht, hzero hne]
      omega
  case owned =>
    obtain rfl | hne := eq_or_ne kind 0
    · exact hown rfl
    · simp [hne]
  case vector =>
    obtain rfl | hne := eq_or_ne kind 1
    · exact decide_eq_true (hvec rfl)
    · simp [hne]
  exact congrArg (fun t => Except.ok ((s.isendEffect (s.partOf x) kind core (x.ctl.rd b).toNat).setTask t (x.retire 4))) (s.isendEffect_cur ..)

/-! ### corefence (R288) -/

section
variable (hpl : 2 ≤ x.ctl.pl) (ha : Ready x a) (hb : Ready x b) (hcore : (x.ctl.rd a).toNat < 1152)
include hpl ha hb hcore

/-- Up to its three cases corefence has read and checked its operands. -/
theorem exec_corefence_deliver (hv : (x.ctl.rd b).toNat < 2) : exec (.corefence a b) s = s.deliver s.cur x (
    if x.ctl.rd b == 0 then (s.modCore (x.ctl.rd a).toNat (fun k => { k with fenced := false })).done x 4
    else if !(s.core (x.ctl.rd a).toNat).fenced then .ok (s.fenceCore (x.ctl.rd a).toNat)
    else do
      waitFor (s.core (x.ctl.rd a).toNat).task.isNone
      s.done x 4) := by
  refine (State.issue_deliver hx (privForm_checks hpl)).trans ?_
  rw [Task.src_ready ha, Res.bind_ok, Task.src_ready hb, Res.bind_ok, check_of (by simp [hv]; omega), Res.bind_ok, check_of (decide_eq_true hcore), Res.bind_ok]

theorem exec_corefence_unfences (hw : (x.ctl.rd b).toNat = 0) : exec (.corefence a b) s =
    .next ((s.setCore (x.ctl.rd a).toNat { s.core (x.ctl.rd a).toNat with fenced := false }).setTask s.cur (x.retire 4)) := by
  have hzero : (x.ctl.rd b == 0) = true := beq_iff_eq.2 (BitVec.eq_of_toNat_eq hw)
  rw [exec_corefence_deliver hx hpl ha hb hcore (by omega), if_pos hzero]
  rfl

section
variable (hw : (x.ctl.rd b).toNat = 1)
include hw

theorem exec_corefence_fences (hf : (s.core (x.ctl.rd a).toNat).fenced = false) :
    exec (.corefence a b) s = .next (s.fenceCore (x.ctl.rd a).toNat) := by
  have hone : ¬ (x.ctl.rd b == 0) = true := fun h => by simp [beq_iff_eq.1 h] at hw
  rw [exec_corefence_deliver hx hpl ha hb hcore (by omega), if_neg hone, hf]
  rfl

/-- Once the core is fenced, corefence waits until it holds no context. -/
theorem exec_corefence_fenced (hf : (s.core (x.ctl.rd a).toNat).fenced = true) :
    exec (.corefence a b) s = if (s.core (x.ctl.rd a).toNat).task = none then .next (s.setTask s.cur (x.retire 4)) else .next s := by
  have hone : ¬ (x.ctl.rd b == 0) = true := fun h => by simp [beq_iff_eq.1 h] at hw
  rw [exec_corefence_deliver hx hpl ha hb hcore (by omega), if_neg hone, hf]
  cases (s.core (x.ctl.rd a).toNat).task <;> rfl

end

end

end

/-- Settles O23: each form by the lemma about its outcome. -/
theorem supervisorForms : Obligations.SupervisorForms := by
  unfold Obligations.SupervisorForms
  intro s x d a b hx hpl v w part
  refine ⟨exec_halt hx hpl, fun ha hd hv hown => ?preempt, fun ha hb hset hv hfree => ?tlbinv, fun ha hb hset hw => ?isend, fun hpl ha hb hv => ?corefence⟩
  case preempt => exact exec_preempt hx hpl ha hd hv hown
  case tlbinv => exact ⟨_, exec_tlbinv hx hpl ha hb hset hv hfree, rfl, rfl, rfl, State.dropTranslations_die part v w⟩
  case isend =>
    refine ⟨fun core hcore hvc hown hreset => ?vector, fun p hp hv1 hvec => ?msix, fun hv2 => ?management⟩
    case vector =>
      rw [exec_isend hx hpl ha hb hset hw (kind := 0) (by decide) hcore (by simp) (by omega) (fun _ => hown) (by simp)]
      simp [State.isendEffect, hreset, part]
      rfl
    case msix =>
      rw [exec_isend hx hpl ha hb hset hw (kind := 1) (by decide) (core := 0) (by decide) (by simp) (by omega) (by simp)
        (by simpa [State.vectorsOf, part, hp] using hvec)]
      have heff : s.isendEffect (s.partOf x) 1 0 w = s.send (.msix p.vf ((p.msix % 256 + w) % 256)) := by
        rw [State.isendEffect, show s.part? (s.partOf x) = some p from hp]
        rfl
      rw [heff]
    case management =>
      rw [exec_isend hx hpl ha hb hset hw (kind := 2) (by decide) (core := 0) (by decide) (by simp) (by omega) (by simp) (by simp)]
      rfl
  case corefence =>
    refine ⟨exec_corefence_unfences hx hpl ha hb hv, exec_corefence_fences hx hpl ha hb hv, fun hw1 hf htask => ?_, fun hw1 hf htask => ?_⟩
    · exact (exec_corefence_fenced hx hpl ha hb hv hw1 hf).trans (if_pos htask)
    · exact (exec_corefence_fenced hx hpl ha hb hv hw1 hf).trans (if_neg htask)

end Sys2Proof.Machine
end

section
/-! PROOF. Returning from a trap, and a trap inside a trap (18 R274, R276). -/

namespace Sys2Proof.Machine
open Sys2Proof

theorem privTransferForm_checks {x : Task} (hpl : 1 ≤ x.ctl.pl) (hdel : x.ctl.delay = none) : privTransferForm.checks x = .ok () :=
  Form.checks_ok hpl (.inl rfl) (.inr hdel)

/-- A target inside every body that runs ends none of them (R156). -/
theorem keepLoops_of_inside {a : Nat} {l : List LoopEntry} (h : ∀ e ∈ l, e.start ≤ a ∧ a ≤ e.stop) : keepLoops a l = l := by
  induction l with
  | nil => rfl
  | cons e r ih =>
    obtain ⟨he, hr⟩ := List.forall_mem_cons.1 h
    simp [keepLoops, ih hr, he]

section
variable {s : State} {x : Task} (hx : Acts s x) (hdel : x.ctl.delay = none)

/-! ### tret and tret.end (R274) -/

section
variable (hpl : 1 ≤ x.ctl.pl)
include hx hdel hpl

theorem exec_tret (hact : x.ctl.act = true) (hloads : noLoads x = true) :
    exec .tret s = .next (s.setTask s.cur (x.takeBack.mapCtl Ctl.trapReturn)) :=
  State.issue_ok hx (privTransferForm_checks hpl hdel) (by rw [check_of hact, Res.bind_ok, waitFor_of hloads, Res.bind_ok])

theorem exec_tretEnd (hact : x.ctl.act = true) (hmode : x.ctl.tstate.toNat / 2 ^ 10 % 4 ≠ 2) :
    exec .tretEnd s = .next (s.endTask s.cur (if x.ctl.tstate.getLsbD 9 then Flt.trap else x.ctl.tstate.toNat % 256)) := by
  refine State.issue_ok hx (privTransferForm_checks hpl hdel) ?_
  have hne : ((x.ctl.tstate.extractLsb' 10 2).toNat != 2) = true := by
    rw [toNat_extractLsb'_eq_div_mod]
    exact bne_iff_ne.2 hmode
  rw [check_of hact, Res.bind_ok, check_of hne, Res.bind_ok, toNat_extractLsb'_eq_div_mod, pow_zero, Nat.div_one]
  rfl

/-- Neither has a trap to return from. -/
theorem exec_tret_illegal (hact : x.ctl.act = false) : exec .tret s = s.raise s.cur x Flt.illegal 0 := by
  refine (State.issue_deliver hx (privTransferForm_checks hpl hdel)).trans ?_
  rw [check_of_false hact]
  rfl

theorem exec_tretEnd_illegal (hact : x.ctl.act = false) : exec .tretEnd s = s.raise s.cur x Flt.illegal 0 := by
  refine (State.issue_deliver hx (privTransferForm_checks hpl hdel)).trans ?_
  rw [check_of_false hact]
  rfl

end

/-! ### A double trap (R276) -/

include hx hdel in
theorem exec_trap_inside (hact : x.ctl.act = true) (code : BitVec 14) : exec (.trap code) s = .next (s.doubleTrap s.cur x Flt.trap) := by
  show execTrap code s = _
  have htask : s.task? s.cur = some x := hx
  unfold execTrap
  rw [htask]
  simp only [transferForm_checks hdel, State.trapEntry, hact]
  rfl

end

/-- Settles O8: tret takes back the context of the trap frame, and a trap with the frame occupied is a double trap. -/
theorem trapReturnAndDoubleTrap : Obligations.TrapReturnAndDoubleTrap := by
  unfold Obligations.TrapReturnAndDoubleTrap
  refine ⟨fun s x hx hdel hpl => ⟨fun hact hloads => ?tret, exec_tretEnd hx hdel hpl, fun hact => ?illegal⟩, fun s x code hx hdel hact => ?double⟩
  case tret =>
    refine ⟨_, exec_tret hx hdel hpl hact hloads, rfl, rfl, rfl, rfl, rfl, ?_, rfl, rfl, rfl, rfl, keepLoops_of_inside⟩
    exact toNat_extractLsb'_eq_div_mod ..
  case illegal => exact ⟨exec_tret_illegal hx hdel hpl hact, exec_tretEnd_illegal hx hdel hpl hact⟩
  case double =>
    rw [exec_trap_inside hx hdel hact]
    simp only [State.doubleTrap, beq_iff_eq]

end Sys2Proof.Machine
end

section
/-! PROOF. The Caerlink ports (22 R349, R353, R354): what a flit, a port that goes down and one that comes back do. -/

namespace Sys2Proof.Machine
open Sys2Proof

/-! ### Flits (R353) -/

theorem State.flitDue_iff {s : State} {port : Nat} {flit : List Byte} : s.flitDue port flit = true ↔
    s.portUp port = true ∧ flitOk flit = true ∧ msgNat flit 2 2 = s.node ∧
      msgNat flit 8 8 = SMap.get s.seqIn (flitKey (msgNat flit 0 1) (msgNat flit 4 2)) 0 := by
  simp [State.flitDue, and_assoc]

/-- What the parts of a message up to this flit come to. -/
def State.assembled (s : State) (flit : List Byte) : List Byte :=
  (s.inbox.filter (fun p => p.dev == msgNat flit 4 2 && p.key == partKey (msgNat flit 0 1))).flatMap (fun p => p.bytes) ++
    (flit.drop 16).take (min 216 (msgNat flit 6 2))

/-- The state once a flit is off the link: the parts kept before are with it, and the next of its kind is due. -/
def State.afterFlit (s : State) (flit : List Byte) : State :=
  { s with inbox := s.inbox.filter (fun p => !(p.dev == msgNat flit 4 2 && p.key == partKey (msgNat flit 0 1))),
           seqIn := SMap.put s.seqIn (flitKey (msgNat flit 0 1) (msgNat flit 4 2)) (msgNat flit 8 8 + 1) }

/-- The whole message of a flit waits: a stream record whose ring is full, another device's stores whose channels are away. -/
def State.MessageWaits (s : State) (flit : List Byte) : Prop :=
  (msgNat flit 0 1 = 1 ∧ s.withheld (s.assembled flit) = true) ∨
    (msgNat flit 0 1 = 6 ∧ s.storeWaits (remoteStore (msgNat flit 4 2) (s.assembled flit) false) = true)

section
variable {s : State} {port : Nat} {flit : List Byte}

theorem exec_flitReceive_undue (h : s.flitDue port flit = false) : exec (.flitReceive port flit) s = .next s := by
  show execFlitReceive port flit s = _
  unfold execFlitReceive
  rw [if_pos (by rw [h]; rfl)]

section
variable (h : s.flitDue port flit = true)
include h

theorem exec_flitReceive_part (hmore : msgNat flit 1 1 % 2 = 1) : exec (.flitReceive port flit) s =
    .next ((s.afterFlit flit).keepPeer (msgNat flit 4 2) (partKey (msgNat flit 0 1)) 0 (s.assembled flit)) := by
  show execFlitReceive port flit s = _
  unfold execFlitReceive
  rw [if_neg (by simp [h])]
  simp only [hmore, decide_true, Bool.not_true, Bool.false_and, Bool.false_eq_true, if_false, if_true]
  rfl

theorem exec_flitReceive_waits (hlast : msgNat flit 1 1 % 2 = 0) (hw : s.MessageWaits flit) : exec (.flitReceive port flit) s = .next s := by
  show execFlitReceive port flit s = _
  unfold execFlitReceive
  rw [if_neg (by simp [h])]
  extract_lets kind src more here before b
  rw [if_pos]
  simpa [hlast, more, kind, src, show b = s.assembled flit from rfl, State.MessageWaits] using hw

theorem exec_flitReceive_takes (hlast : msgNat flit 1 1 % 2 = 0) (hw : ¬ s.MessageWaits flit) : exec (.flitReceive port flit) s =
    .next ((s.afterFlit flit).takeMessage (msgNat flit 0 1) (msgNat flit 4 2) (s.assembled flit) (msgNat flit 1 1 / 2 % 2 = 1)) := by
  show execFlitReceive port flit s = _
  unfold execFlitReceive
  rw [if_neg (by simp [h])]
  extract_lets kind src more here before b
  rw [if_neg]
  · simp only [hlast, more, Nat.zero_ne_one, if_false]
    rfl
  · simpa [hlast, more, kind, src, show b = s.assembled flit from rfl, State.MessageWaits] using hw

end

end

/-! ### Ports (R354) -/

section
variable {s : State} {port : Nat}

theorem exec_portDown (hup : s.portUp port = true) : exec (.portDown port) s = .next { s with downPorts := port :: s.downPorts } :=
  if_pos hup

theorem portUp_of_exec_portDown {t : State} (ht : exec (.portDown port) s = .next t) : t.portUp port = false := by
  cases hup : s.portUp port with
  | true =>
    obtain rfl := Host.Outcome.next.inj ((exec_portDown hup).symm.trans ht)
    simp [State.portUp]
  | false =>
    have hkeep : exec (.portDown port) s = .next s := if_neg (by simp [hup])
    exact Host.Outcome.next.inj (hkeep.symm.trans ht) ▸ hup

theorem exec_routeRestored (hdown : port ∈ s.downPorts) : exec (.routeRestored port) s =
    .next (State.routesChanged { s with downPorts := s.downPorts.filter (fun p => p != port) }) :=
  if_neg (by simp [hdown])

end

/-- Settles O46: each outcome of a flit and of a port's step by its lemma. -/
theorem linkEvents : Obligations.LinkEvents := by
  unfold Obligations.LinkEvents
  intro s port
  refine ⟨fun flit => ?flit, exec_portDown, fun t => portUp_of_exec_portDown, exec_routeRestored⟩
  case flit =>
    intro kind src seq due here b u waits
    refine ⟨fun hno => ?undue, fun hdue => ?part, fun hdue => ?wait, fun hdue => ?take⟩
    case undue => exact exec_flitReceive_undue (Bool.eq_false_iff.2 fun h => hno (State.flitDue_iff.1 h))
    case part => exact exec_flitReceive_part (State.flitDue_iff.2 hdue)
    case wait => exact exec_flitReceive_waits (State.flitDue_iff.2 hdue)
    case take => exact exec_flitReceive_takes (State.flitDue_iff.2 hdue)

end Sys2Proof.Machine
end

section
/-! PROOF. The controllers and PHYs (20 R318 to R325; 21 R342 to R345): what a register write does, and what the commands end with. -/

namespace Sys2Proof.Machine
open Sys2Proof

/-! ### A write of a PHY or stack register -/

section
variable {s : State} {die ch : Nat} {r : PhyReg} {v : Word} (hd : die < 9) (h4 : die ≠ 4) (hch : ch < 32)
include hd h4 hch

/-- On a die that has a stack, a step is the write where it completes, and nothing where it does not. -/
theorem State.phyStep_ok {u : State} (h : s.phyWrite die ch r v = .ok u) : s.phyStep die ch r v = .next u := by
  unfold State.phyStep
  rw [if_neg (by simp [h4]; omega), h]

theorem State.phyStep_error {e : Exit} (h : s.phyWrite die ch r v = .error e) : s.phyStep die ch r v = .next s := by
  unfold State.phyStep
  rw [if_neg (by simp [h4]; omega), h]

/-- A register that only a drained channel without a run takes. -/
theorem State.phyStep_guarded {u : State} {code : Nat} {ready busy : Bool} (h : s.phyWrite die ch r v = (do check ready code; waitFor (!busy); .ok u)) :
    s.phyStep die ch r v = if ready = true ∧ busy = false then .next u else .next s := by
  cases ready with
  | false => simpa using State.phyStep_error hd h4 hch (h.trans rfl)
  | true =>
    cases busy with
    | true => simpa using State.phyStep_error hd h4 hch (h.trans rfl)
    | false => simpa using State.phyStep_ok hd h4 hch (h.trans rfl)

end

/-! ### Lane delays, training runs and lane repairs (R323 to R325) -/

section
variable {s : State} {die ch : Nat} {v : Word} (hd : die < 9) (h4 : die ≠ 4) (hch : ch < 32)
include hd h4 hch

theorem exec_rdly {lane : Nat} : exec (.rdly die ch lane v) s =
    if lane ≤ 73 ∧ ((s.stack die).chan ch).drained = true ∧ ((s.stack die).chan ch).busy = false then
      .next (s.modChan die ch (fun c => { c with rdly := SMap.put c.rdly lane (v.setWidth 6) }))
    else .next s := by
  have hstep := State.phyStep_guarded (s := s) (v := v) (r := .rdly lane) hd h4 hch rfl
  show execRdly die ch lane v s = _
  by_cases hl : lane ≤ 73
  · rw [execRdly, if_pos hl, hstep]
    simp [hl]
  · rw [execRdly, if_neg hl, if_neg (fun h => hl h.1)]

theorem exec_wdly {lane : Nat} : exec (.wdly die ch lane v) s =
    if lane ≤ 73 ∧ ((s.stack die).chan ch).drained = true ∧ ((s.stack die).chan ch).busy = false then
      .next (s.modChan die ch (fun c => { c with wdly := SMap.put c.wdly lane (v.setWidth 6) }))
    else .next s := by
  have hstep := State.phyStep_guarded (s := s) (v := v) (r := .wdly lane) hd h4 hch rfl
  show execWdly die ch lane v s = _
  by_cases hl : lane ≤ 73
  · rw [execWdly, if_pos hl, hstep]
    simp [hl]
  · rw [execWdly, if_neg hl, if_neg (fun h => hl h.1)]

theorem exec_trctl : exec (.trctl die ch v) s =
    if ((s.stack die).chan ch).drained = true ∧ ((s.stack die).chan ch).busy = false ∧ v.getLsbD 0 = true then
      .next (s.modChan die ch (fun c => { c with busy := true, done := false, pass0 := 0, pass1 := 0, run := v.setWidth 32 }))
    else .next s := by
  show s.phyStep die ch .trctl v = _
  cases hbit : v.getLsbD 0 with
  | true =>
    have hwrite : s.phyWrite die ch .trctl v = (do
        check ((s.stack die).chan ch).drained Flt.illegal
        waitFor (!((s.stack die).chan ch).busy)
        .ok (s.modChan die ch (fun c => { c with busy := true, done := false, pass0 := 0, pass1 := 0, run := v.setWidth 32 }))) := by
      simp only [State.phyWrite, hbit, if_true]
    simpa using State.phyStep_guarded hd h4 hch hwrite
  | false =>
    have hwrite : s.phyWrite die ch .trctl v = (do check ((s.stack die).chan ch).drained Flt.illegal; .ok s) := by
      simp only [State.phyWrite, hbit]
      rfl
    cases hdr : ((s.stack die).chan ch).drained with
    | true => simpa using State.phyStep_ok hd h4 hch (hwrite.trans (by rw [hdr]; rfl))
    | false => simpa using State.phyStep_error hd h4 hch (hwrite.trans (by rw [hdr]; rfl))

/-- A channel with a new lane repair, and the log entries of the lanes that it replaces. -/
def State.repairLanes (s : State) (die ch : Nat) (v : Word) : State :=
  let c := (s.stack die).chan ch
  let u := s.modChan die ch (fun c => { c with lrep := v.setWidth 16 })
  let low := if v.getLsbD 7 && !c.lrep.getLsbD 7 then u.logStack die 6 (clsevWord 5 (2 * ch) 0 0 0 (v.extractLsb' 0 7).toNat) else u
  if v.getLsbD 15 && !c.lrep.getLsbD 15 then low.logStack die 6 (clsevWord 5 (2 * ch + 1) 0 0 0 (v.extractLsb' 8 7).toNat) else low

theorem exec_lrep : exec (.lrep die ch v) s =
    if (((s.stack die).chan ch).drained && lrepOk v) = true ∧ ((s.stack die).chan ch).busy = false then .next (s.repairLanes die ch v)
    else .next s :=
  State.phyStep_guarded (s := s) (v := v) (r := .lrep) hd h4 hch rfl

/-! ### Offline channels (R322) -/

theorem exec_chctl : exec (.chctl die ch v) s =
    if v.getLsbD 0 = true then
      if ((s.stack die).chan ch).offline = true then .next s else .next (s.modChan die ch (fun c => { c with offline := true, drained := false }))
    else .next (s.modChan die ch (fun c => { c with offline := false, drained := false })) := by
  have hwrite : s.phyWrite die ch .chctl v = .ok (if v.getLsbD 0 = true then
      if ((s.stack die).chan ch).offline = true then s else s.modChan die ch (fun c => { c with offline := true, drained := false })
      else s.modChan die ch (fun c => { c with offline := false, drained := false })) := by
    simp only [State.phyWrite]
    cases v.getLsbD 0 <;> rfl
  refine (State.phyStep_ok hd h4 hch hwrite).trans ?_
  rw [apply_ite Host.Outcome.next, apply_ite Host.Outcome.next]

end

theorem exec_channelDrained {s : State} {die ch : Nat} : exec (.channelDrained die ch) s =
    if ((s.stack die).chan ch).offline = true ∧ s.inFlight (s.usesChannel die ch) = false then
      .next (s.modChan die ch (fun c => { c with drained := true }))
    else .next s := by
  show execChannelDrained die ch s = _
  simp [execChannelDrained]

/-! ### Training runs end (R324) -/

/-- A number built bit by bit has no bit beyond them. -/
theorem foldl_bits_lt (bit : Nat → Nat) (hbit : ∀ k, bit k < 2) (n : Nat) : (List.range n).foldl (fun m k => m + bit k * 2 ^ k) 0 < 2 ^ n := by
  induction n with
  | zero => exact Nat.one_pos
  | succ n ih =>
    rw [List.range_succ, List.foldl_append, List.foldl_cons, List.foldl_nil, Nat.pow_succ]
    have := Nat.mul_le_mul_right (2 ^ n) (Nat.le_of_lt_succ (hbit n))
    omega

theorem passBits_lt (lrep : BitVec 16) (free : Nat) : passBits lrep free < 2 ^ 74 := by
  unfold passBits
  generalize 74 = n
  exact foldl_bits_lt _ (fun _ => Nat.mod_lt _ Nat.two_pos) n

/-- The upper of the two words of a run's results holds the ten lanes from 64 on. -/
theorem passHigh_lt (lrep : BitVec 16) (free : Nat) : (word (passBits lrep free / 2 ^ 64)).toNat < 2 ^ 10 := by
  have hlt : passBits lrep free / 2 ^ 64 < 2 ^ 10 := Nat.div_lt_of_lt_mul (passBits_lt lrep free)
  rw [word, BitVec.toNat_ofNat]
  exact Nat.lt_of_le_of_lt (Nat.mod_le _ _) hlt

theorem exec_trainingRunDone {s : State} {die ch : Nat} (hbusy : ((s.stack die).chan ch).busy = true) :
    exec (.trainingRunDone die ch) s = .next (s.freshFree.2.modChan die ch (fun c => { c with
      busy := false, done := true, pass0 := word (passBits ((s.stack die).chan ch).lrep s.freshFree.1),
      pass1 := word (passBits ((s.stack die).chan ch).lrep s.freshFree.1 / 2 ^ 64) })) :=
  if_pos hbusy

theorem State.stack_modChan (s : State) (die ch : Nat) (f : Chan → Chan) : ((s.modChan die ch f).stack die).chan ch = f ((s.stack die).chan ch) := by
  simp [State.modChan, State.stack, State.setStack, Stack.chan]

/-! ### Commands of a stack (R318 to R320, R345) -/

section
variable {s : State} {die : Nat} {v : Word} (hd : die < 9) (h4 : die ≠ 4)
include hd h4

theorem exec_grancmd (h : (s.stack die).granCmd = none) : exec (.grancmd die v) s = .next (s.modStack die (fun k => { k with granCmd := some v })) := by
  refine State.phyStep_ok hd h4 (by decide) ?_
  simp [State.phyWrite, h]

theorem exec_repcmd (h : (s.stack die).repCmd = none) : exec (.repcmd die v) s = .next (s.modStack die (fun k => { k with repCmd := some v })) := by
  refine State.phyStep_ok hd h4 (by decide) ?_
  simp [State.phyWrite, h]

theorem exec_clsev : exec (.clsev die) s = .next (s.setStack die { s.stack die with events := (s.stack die).events.drop 1, ovf := false }) := by
  show execClsev die s = _
  rw [execClsev, if_neg (by simpa [h4] using hd), State.popEvent]
  cases h : (s.stack die).events with
  | nil => simp
  | cons e r => simp

/-- The pseudo-channels that a write of PCERASE erases anew, in its log. -/
theorem exec_pcerase_idle (h : s.stackBusy die = false) : exec (.pcerase die v) s =
    .next (((List.range 64).filter (fun p => v.getLsbD p && !(s.stack die).pcerase.getLsbD p)).foldl
      (fun (u : State) p => u.logStack die 7 (clsevWord 5 p 0 0 0 0)) (s.modStack die (fun k => { k with pcerase := v }))) := by
  show execPcerase die v s = _
  rw [execPcerase, if_neg (by simp [h, h4]; omega)]

omit hd h4 in
theorem exec_pcerase_busy (h : s.stackBusy die = true) : exec (.pcerase die v) s = .next s := by
  show execPcerase die v s = _
  rw [execPcerase, if_pos (by simp [h])]

end

/-! ### A granule change ends (R318, R319) -/

section
variable {s : State} {die : Nat} {w : Word} (hcmd : (s.stack die).granCmd = some w)

/-- The cells that the frame of a command holds already. -/
def Stack.oldCells (k : Stack) (f : Nat) : Nat := match SMap.find k.frames f with | some e => granCells e.gran | none => 0

/-- The frame of a command in a stack is there, with its granule and its owner. -/
def State.giveFrame (s : State) (die f gran owner : Nat) : State :=
  s.setStack die { s.stack die with
    granCmd := none, granResult := 0, freeCells := (s.stack die).freeCells + (s.stack die).oldCells f - granCells gran,
    frames := SMap.put (s.stack die).frames f { gran := gran, owner := owner } }

/-- A frame's bytes are zero, and no word of them is poisoned. -/
def State.zeroFrame (s : State) (base : Nat) : State :=
  { s with mem := Memory.clear s.mem base 65536, poison := s.poison.filter (fun w => !(base ≤ 8 * w && 8 * w < base + 65536)) }

/-- The words of a granule command that no stack takes: a bit beyond its fields, a granule that there is none of, an owner that is no partition. -/
def granuleRefused (w : Word) : Bool :=
  w.toNat / 2 ^ 29 != 0 || (4 ≤ w.toNat / 2 ^ 20 % 2 ^ 3 && w.toNat / 2 ^ 20 % 2 ^ 3 ≤ 6) || (w.toNat / 2 ^ 20 % 2 ^ 3 < 4 && 36 ≤ w.toNat / 2 ^ 23 % 2 ^ 6)

omit hcmd in
theorem granuleRefused_iff : granuleRefused w = true ↔ w.toNat / 2 ^ 29 ≠ 0 ∨ (4 ≤ w.toNat / 2 ^ 20 % 2 ^ 3 ∧ w.toNat / 2 ^ 20 % 2 ^ 3 ≤ 6) ∨
    (w.toNat / 2 ^ 20 % 2 ^ 3 < 4 ∧ 36 ≤ w.toNat / 2 ^ 23 % 2 ^ 6) := by
  simp only [granuleRefused, Bool.or_eq_true, Bool.and_eq_true, bne_iff_ne, decide_eq_true_eq, or_assoc]

omit hcmd in
theorem granuleRefused_of_fits (hhigh : w.toNat / 2 ^ 29 = 0) (hst : w.toNat / 2 ^ 20 % 2 ^ 3 < 4) (hown : w.toNat / 2 ^ 23 % 2 ^ 6 < 36) :
    granuleRefused w = false := by
  refine Bool.eq_false_iff.2 fun h => ?_
  rcases granuleRefused_iff.1 h with h | h | h <;> omega

omit hcmd in
theorem granuleRefused_of_free (hhigh : w.toNat / 2 ^ 29 = 0) (hst : w.toNat / 2 ^ 20 % 2 ^ 3 = 7) : granuleRefused w = false := by
  refine Bool.eq_false_iff.2 fun h => ?_
  rcases granuleRefused_iff.1 h with h | h | h <;> omega

variable (hfree : s.frameBusy (frameBase die (w.toNat % 2 ^ 20)) = false)
include hcmd hfree

theorem exec_granuleChangeDone_refuses (h : granuleRefused w = true) :
    exec (.granuleChangeDone die) s = .next (s.setStack die { s.stack die with granCmd := none, granResult := 3 }) := by
  show execGranuleChangeDone die s = _
  unfold execGranuleChangeDone
  simp only [hcmd, natBits_low, hfree]
  exact if_pos h

/-- A command that frees its frame. -/
theorem exec_granuleChangeDone_frees (h : granuleRefused w = false) (hst : w.toNat / 2 ^ 20 % 2 ^ 3 = 7) :
    exec (.granuleChangeDone die) s = .next (s.setStack die { s.stack die with
      granCmd := none, granResult := 0, freeCells := (s.stack die).freeCells + (s.stack die).oldCells (w.toNat % 2 ^ 20),
      frames := SMap.del (s.stack die).frames (w.toNat % 2 ^ 20) }) := by
  have hgran : natBits w.toNat 20 3 = 7 := hst
  show execGranuleChangeDone die s = _
  unfold execGranuleChangeDone
  simp only [hcmd, natBits_low, hfree]
  refine (if_neg (Bool.eq_false_iff.1 h)).trans ?_
  simp only [hgran, if_true, Nat.not_lt_zero, if_false]
  rfl

section
variable (h : granuleRefused w = false) (hst : w.toNat / 2 ^ 20 % 2 ^ 3 ≠ 7)
include h hst

theorem exec_granuleChangeDone_full (hroom : (s.stack die).freeCells + (s.stack die).oldCells (w.toNat % 2 ^ 20) < granCells (w.toNat / 2 ^ 20 % 2 ^ 3)) :
    exec (.granuleChangeDone die) s = .next (s.setStack die { s.stack die with granCmd := none, granResult := 2 }) := by
  have hgran : natBits w.toNat 20 3 ≠ 7 := hst
  show execGranuleChangeDone die s = _
  unfold execGranuleChangeDone
  simp only [hcmd, natBits_low, hfree]
  refine (if_neg (Bool.eq_false_iff.1 h)).trans ?_
  simp only [hgran, if_false]
  exact if_pos hroom

theorem exec_granuleChangeDone_gives (hroom : granCells (w.toNat / 2 ^ 20 % 2 ^ 3) ≤ (s.stack die).freeCells + (s.stack die).oldCells (w.toNat % 2 ^ 20)) :
    exec (.granuleChangeDone die) s = .next ((s.giveFrame die (w.toNat % 2 ^ 20) (w.toNat / 2 ^ 20 % 2 ^ 3) (w.toNat / 2 ^ 23 % 2 ^ 6)).zeroFrame
      (frameBase die (w.toNat % 2 ^ 20))) := by
  have hgran : natBits w.toNat 20 3 ≠ 7 := hst
  show execGranuleChangeDone die s = _
  unfold execGranuleChangeDone
  simp only [hcmd, natBits_low, hfree]
  refine (if_neg (Bool.eq_false_iff.1 h)).trans ?_
  simp only [hgran, if_false]
  exact if_neg (Nat.not_lt.2 hroom)

end

end

theorem State.stack_giveFrame (s : State) (die f gran owner base : Nat) : ((s.giveFrame die f gran owner).zeroFrame base).stack die =
    { s.stack die with granCmd := none, granResult := 0, freeCells := (s.stack die).freeCells + (s.stack die).oldCells f - granCells gran,
                       frames := SMap.put (s.stack die).frames f { gran := gran, owner := owner } } :=
  SMap.get_put_same ..

/-- The reads of a memory whose frame at base is zero. -/
theorem State.read_zeroFrame (s : State) (base a : Nat) :
    Memory.read (s.zeroFrame base).mem a = if a < base ∨ base + 65536 ≤ a then Memory.read s.mem a else 0 := by
  refine (Memory.read_filter s.mem a (fun c => c < base || base + 65536 ≤ c)).trans ?_
  simp [unlistedByte]

/-- No word of a zeroed frame is poisoned: a frame starts at a word. -/
theorem State.poison_zeroFrame (s : State) {die f a : Nat} (hlo : frameBase die f ≤ a) (hhi : a < frameBase die f + 65536) :
    (s.zeroFrame (frameBase die f)).poison.contains (a / 8) = false := by
  have hword : frameBase die f ≤ 8 * (a / 8) ∧ 8 * (a / 8) < frameBase die f + 65536 := by
    unfold frameBase at hlo hhi ⊢
    omega
  simp [State.zeroFrame, hword]

/-! ### A row repair ends (R345) -/

section
variable {s : State} {die : Nat} {w : Word} (hcmd : (s.stack die).repCmd = some w)
include hcmd

/-- The bank that a command names, among those of its stack. -/
def repairBank (w : Word) : Nat := natBits w.toNat 54 6 * 64 + natBits w.toNat 48 6

theorem exec_rowRepairDone : exec (.rowRepairDone die) s =
    let used := SMap.get (s.stack die).sparesUsed (repairBank w) 0
    if used < Config.spareRows die (repairBank w) then
      .next ((s.setStack die { s.stack die with
        repCmd := none, repResult := 0, sparesUsed := SMap.put (s.stack die).sparesUsed (repairBank w) (used + 1) }).logStack die 4
          (clsevWord 2 (natBits w.toNat 54 6) (natBits w.toNat 48 6) (natBits w.toNat 30 18) 0 0))
    else .next ((s.setStack die { s.stack die with repCmd := none, repResult := 2 }).logRow die
      (natBits w.toNat 54 6) (natBits w.toNat 48 6) (natBits w.toNat 30 18)) := by
  show execRowRepairDone die s = _
  unfold execRowRepairDone
  simp only [hcmd]
  rfl

end

/-- Settles O47: each register write, each command and each training run by the lemma about its end. -/
theorem phyEvents : Obligations.PhyEvents := by
  unfold Obligations.PhyEvents
  intro s die ch v hd h4 hch k c chan
  refine ⟨fun hdr hidle => ⟨fun lane hl => ?delays, fun hbit => ?train, fun hbit => ?noTrain, fun hrep => ?repair, fun hrep => ?noRepair⟩,
    fun hdr hbusy => ?busy, fun hdr => ?undrained, fun hbusy => ?run, fun hbit hon => ?offline, fun hbit hoff => ?keptOffline,
    fun hbit => ?online, fun hoff hidle => ?drained, fun hwait => ?drains, exec_grancmd hd h4, exec_repcmd hd h4,
    fun w hcmd => ?granule, fun w hcmd => ?row, exec_clsev hd h4, exec_pcerase_idle hd h4, exec_pcerase_busy⟩
  case delays => exact ⟨(exec_rdly hd h4 hch).trans (if_pos ⟨hl, hdr, hidle⟩), (exec_wdly hd h4 hch).trans (if_pos ⟨hl, hdr, hidle⟩)⟩
  case train => exact (exec_trctl hd h4 hch).trans (if_pos ⟨hdr, hidle, hbit⟩)
  case noTrain => exact (exec_trctl hd h4 hch).trans (if_neg fun h => absurd (hbit.symm.trans h.2.2) Bool.false_ne_true)
  case repair =>
    refine (exec_lrep hd h4 hch).trans ((if_pos ⟨by rw [hdr, hrep]; rfl, hidle⟩).trans ?_)
    simp only [State.repairLanes, Bool.and_eq_true, Bool.not_eq_true']
    rfl
  case noRepair => exact (exec_lrep hd h4 hch).trans (if_neg fun h => by simp [hrep] at h)
  case busy =>
    have hno {p : Prop} : ¬ (c.busy = false ∧ p) := fun h => Bool.eq_false_iff.1 h.1 hbusy
    exact ⟨(exec_trctl hd h4 hch).trans (if_neg fun h => hno h.2), (exec_lrep hd h4 hch).trans (if_neg fun h => Bool.eq_false_iff.1 h.2 hbusy),
      fun lane => ⟨(exec_rdly hd h4 hch).trans (if_neg fun h => Bool.eq_false_iff.1 h.2.2 hbusy),
        (exec_wdly hd h4 hch).trans (if_neg fun h => Bool.eq_false_iff.1 h.2.2 hbusy)⟩⟩
  case undrained =>
    exact ⟨(exec_trctl hd h4 hch).trans (if_neg fun h => Bool.eq_false_iff.1 hdr h.1),
      (exec_lrep hd h4 hch).trans (if_neg fun h => Bool.eq_false_iff.1 hdr ((Bool.and_eq_true _ _).mp h.1).1),
      fun lane => ⟨(exec_rdly hd h4 hch).trans (if_neg fun h => Bool.eq_false_iff.1 hdr h.2.1),
        (exec_wdly hd h4 hch).trans (if_neg fun h => Bool.eq_false_iff.1 hdr h.2.1)⟩⟩
  case run =>
    refine ⟨_, _, _, exec_trainingRunDone hbusy, State.stack_modChan _ die ch _, ?_, rfl, rfl⟩
    exact passHigh_lt ..
  case offline => exact (exec_chctl hd h4 hch).trans ((if_pos hbit).trans (if_neg (Bool.eq_false_iff.1 hon)))
  case keptOffline => exact (exec_chctl hd h4 hch).trans ((if_pos hbit).trans (if_pos hoff))
  case online => exact (exec_chctl hd h4 hch).trans (if_neg (Bool.eq_false_iff.1 hbit))
  case drained => exact exec_channelDrained.trans (if_pos ⟨hoff, hidle⟩)
  case drains =>
    refine exec_channelDrained.trans (if_neg fun h => ?_)
    obtain hon | hfly := hwait
    · exact absurd (hon.symm.trans h.1) Bool.false_ne_true
    · exact absurd (h.2.symm.trans hfly) Bool.false_ne_true
  case granule =>
    intro f st owner base old hfree
    refine ⟨fun hbad => ?refused, fun hhigh hst hown => ⟨fun hroom => ?full, fun hroom => ?gives⟩, fun hhigh hst => ?frees⟩
    case refused => exact exec_granuleChangeDone_refuses hcmd hfree (granuleRefused_iff.2 hbad)
    case full => exact exec_granuleChangeDone_full hcmd hfree (granuleRefused_of_fits hhigh hst hown) (fun h => by omega) hroom
    case gives =>
      refine ⟨_, exec_granuleChangeDone_gives hcmd hfree (granuleRefused_of_fits hhigh hst hown) (fun h => by omega) hroom,
        State.stack_giveFrame .., fun a hlo hhi => ⟨?_, State.poison_zeroFrame _ hlo hhi⟩, fun a ha => ?_⟩
      · exact (State.read_zeroFrame ..).trans (if_neg (not_or.2 ⟨Nat.not_lt.2 hlo, Nat.not_le.2 hhi⟩))
      · exact (State.read_zeroFrame ..).trans (if_pos ha)
    case frees => exact exec_granuleChangeDone_frees hcmd hfree (granuleRefused_of_free hhigh hst) hst
  case row =>
    intro pc bank row used
    exact ⟨fun h => (exec_rowRepairDone hcmd).trans (if_pos h), fun h => (exec_rowRepairDone hcmd).trans (if_neg (Nat.not_lt.2 h))⟩

end Sys2Proof.Machine
end

section
/-! PROOF. Bring-up, recovery and power loss (23 R356 to R360). -/

namespace Sys2Proof.Machine
open Sys2Proof

/-! ### Starts (R356, R358, R359) -/

section
variable {s : State} {x : StartInput}

theorem exec_deviceStart_untested (hrom : x.romOk = false) :
    exec (.deviceStart x) s = .next (s.deviceReset { s.boot with fails := min 3 (s.boot.fails + 1), lastReason := 1 }) :=
  if_pos (by rw [hrom]; rfl)

section
variable (hrom : x.romOk = true)
include hrom

theorem exec_deviceStart_minimal (hfails : s.boot.fails = 3) : exec (.deviceStart x) s =
    .next (State.logged { s.deviceReset s.boot with boot := { (s.deviceReset s.boot).boot with minimal := true, reason := s.boot.lastReason } } x
      (logRecord s.boot s.tick)) := by
  show execDeviceStart x s = _
  unfold execDeviceStart
  rw [if_neg (by simp [hrom])]
  exact if_pos hfails

/-- The durable registers once a start has counted itself. -/
def Boot.counted (b : Boot) : Boot := { b with fails := b.fails + 1, lastReason := 8 }

variable (hfails : s.boot.fails ≠ 3)
include hfails

theorem exec_deviceStart_fails (hstep : (startSteps s.boot.counted x).1 ≠ 0) : exec (.deviceStart x) s =
    let u := s.deviceReset { s.boot.counted with lastReason := (startSteps s.boot.counted x).1 }
    .next (if (startSteps s.boot.counted x).1 = 6 then u.logged x (trainingRecord x.untrained) else u) := by
  show execDeviceStart x s = _
  unfold execDeviceStart
  rw [if_neg (by simp [hrom])]
  exact (if_neg hfails).trans (if_pos (bne_iff_ne.2 hstep))

theorem exec_deviceStart_starts (hstep : (startSteps s.boot.counted x).1 = 0) : exec (.deviceStart x) s =
    .next { (s.deviceReset s.boot.counted).bringUp with
      boot := { (s.deviceReset s.boot.counted).boot with measured := (startSteps s.boot.counted x).2, starting := true } } := by
  show execDeviceStart x s = _
  unfold execDeviceStart
  rw [if_neg (by simp [hrom])]
  have hall : ¬ ((startSteps s.boot.counted x).1 != 0) = true := by simp [hstep]
  exact (if_neg hfails).trans (if_neg hall)

end

end

/-! ### The registers of bring-up (Table 23.3) -/

section
variable {s : State} {v : Word}

theorem State.writeBoot_locked {reg : Nat} (h : s.boot.minimal = true ∨ (s.boot.starting = false ∧ s.boot.started = false)) :
    s.writeBoot reg v = s :=
  if_pos (by simpa using h)

section
variable (hmin : s.boot.minimal = false) (hfw : s.boot.starting = true ∨ s.boot.started = true)
include hmin hfw

/-- The firmware's writes take effect, register by register. -/
theorem State.writeBoot_open {reg : Nat} : s.writeBoot reg v =
    if reg = 0x000 then { s with boot := { s.boot with lastReason := natBits v.toNat 8 8 } }
    else if reg = 0x008 then (if s.boot.started then { s with boot := { s.boot with minver := max s.boot.minver (v.toNat % 2 ^ 32) } } else s)
    else if reg = 0x010 then { s with boot := { s.boot with keyrev := s.boot.keyrev ||| v.setWidth 4 } }
    else if reg = 0x018 then
      (if v.getLsbD 0 then { s with boot := { s.boot with fails := 0, lastReason := 0, starting := false, started := true } } else s)
    else s :=
  if_neg (by rw [hmin]; rcases hfw with h | h <;> simp [h])

theorem exec_bootok_open : exec (.bootok v) s = if v.getLsbD 0 = true then
    .next { s with boot := { s.boot with fails := 0, lastReason := 0, starting := false, started := true } } else .next s := by
  show Host.Outcome.next (s.writeBoot 0x018 v) = _
  rw [State.writeBoot_open hmin hfw]
  cases v.getLsbD 0 <;> rfl

theorem exec_minver_open : exec (.minver v) s = if s.boot.started = true then
    .next { s with boot := { s.boot with minver := max s.boot.minver (v.toNat % 2 ^ 32) } } else .next s := by
  show Host.Outcome.next (s.writeBoot 0x008 v) = _
  rw [State.writeBoot_open hmin hfw]
  cases s.boot.started <;> rfl

end

end

/-! ### Requests (R359, R360) -/

section
variable {s : State}

theorem exec_attestationRequest {nonce : List Byte} (hlen : nonce.length = 32) (hserves : s.boot.serves = true) :
    exec (.attestationRequest nonce) s = .next (s.replied (.report (reportBytes s.boot nonce ++
      Config.signatureOf 0 (reportBytes s.boot nonce) ++ Config.signatureOf 1 (reportBytes s.boot nonce))) (reportBytes s.boot nonce)) :=
  if_pos (by simp [hlen, hserves])

variable {img : List Byte} (hmin : s.boot.minimal = true)
include hmin

theorem exec_recoveryImage_refused (h : recoveryReason s.boot img ≠ 0) : exec (.recoveryImage img) s =
    let bytes := natToBytes 4 0 ++ natToBytes 4 (recoveryReason s.boot img) ++ natToBytes 56 0
    .next (s.replied (.mailbox 0 bytes) bytes) :=
  (if_neg (by simp [hmin])).trans (if_pos (bne_iff_ne.2 h))

theorem exec_recoveryImage_accepted (h : recoveryReason s.boot img = 0) : exec (.recoveryImage img) s =
    .next ((s.send (.log ((img.drop 512).take (payloadSize img)))).deviceReset { s.boot with fails := 0, lastReason := 0 }) :=
  (if_neg (by simp [hmin])).trans (if_neg (by simp [h]))

end

/-- Settles O49: each start, register write and request by the lemma about its outcome. -/
theorem bootEvents : Obligations.BootEvents := by
  unfold Obligations.BootEvents
  intro s b off replied
  refine ⟨fun x => ⟨exec_deviceStart_untested, fun hrom hfails => ?minimal, fun hrom hfails => ⟨fun hstep => ?fails, exec_deviceStart_starts hrom hfails⟩⟩,
    fun v hmin hfw => ⟨fun hbit => ?succeeds, fun hbit => ?noBootok, fun hst => ?minver, fun hst => ?noMinver, ?keyrev⟩, fun v hno => ?locked,
    ⟨_, rfl, rfl, rfl, rfl, rfl, rfl⟩, fun nonce hlen hserves => exec_attestationRequest hlen (by simpa [Boot.serves] using hserves),
    fun img hmin => ⟨exec_recoveryImage_refused hmin, exec_recoveryImage_accepted hmin⟩⟩
  case minimal => exact exec_deviceStart_minimal hrom hfails
  case fails =>
    refine (exec_deviceStart_fails hrom hfails hstep).trans (congrArg Host.Outcome.next ?_)
    exact (ite_and ..).symm
  case succeeds => exact (exec_bootok_open hmin hfw).trans (if_pos hbit)
  case noBootok => exact (exec_bootok_open hmin hfw).trans (if_neg (Bool.eq_false_iff.1 hbit))
  case minver => exact (exec_minver_open hmin hfw).trans (if_pos hst)
  case noMinver => exact (exec_minver_open hmin hfw).trans (if_neg (Bool.eq_false_iff.1 hst))
  case keyrev => exact congrArg Host.Outcome.next (State.writeBoot_open hmin hfw)
  case locked => exact ⟨congrArg Host.Outcome.next (State.writeBoot_locked hno), congrArg Host.Outcome.next (State.writeBoot_locked hno),
      congrArg Host.Outcome.next (State.writeBoot_locked hno)⟩

end Sys2Proof.Machine
end

section
/-! PROOF. The host port, the launch unit and the service cores (18 R265 to R267, R276; 19 R289 to R294; 22 R350 to R352; 24 R361). -/

namespace Sys2Proof.Machine
open Sys2Proof

/-! ### The registers of a function (R265 to R267, R350) -/

section
variable {s : State} {vf id : Nat} {p : Part} {v : Word} (hfn : s.functionPart vf = some (id, p))
include hfn

theorem State.hasFunction_of_part : s.hasFunction vf = true := by simp [State.hasFunction, hfn]

theorem exec_mbsend : exec (.mbsend vf) s = .next (s.send (.mailbox vf (natToBytes 64 (s.hostFn vf).mbox.toNat))) :=
  if_pos (State.hasFunction_of_part hfn)

/-- DOORBELL: in a reset it is lost; outside the ring it is bad; else it is the tail. -/
theorem State.doorbell_eq : s.doorbell vf v =
    if p.resetting = true then s.raiseIstat vf istatDbLost
    else if natBits (s.queueDescriptor id) 52 12 ≤ v.toNat % 4096 then s.raiseIstat vf istatBadTail
    else s.setHostFn vf { s.hostFn vf with tail := v.toNat % 4096 } := by
  simp only [State.doorbell, hfn]

theorem State.doorbell_tail (hreset : p.resetting = false) (hn : v.toNat % 4096 < natBits (s.queueDescriptor id) 52 12) :
    s.doorbell vf v = s.setHostFn vf { s.hostFn vf with tail := v.toNat % 4096 } :=
  (State.doorbell_eq hfn).trans ((if_neg (Bool.eq_false_iff.1 hreset)).trans (if_neg (Nat.not_le.2 hn)))

theorem State.doorbell_beyond (hreset : p.resetting = false) (hn : natBits (s.queueDescriptor id) 52 12 ≤ v.toNat % 4096) :
    s.doorbell vf v = s.raiseIstat vf istatBadTail :=
  (State.doorbell_eq hfn).trans ((if_neg (Bool.eq_false_iff.1 hreset)).trans (if_pos hn))

theorem State.doorbell_lost (hreset : p.resetting = true) : s.doorbell vf v = s.raiseIstat vf istatDbLost :=
  (State.doorbell_eq hfn).trans (if_pos hreset)

/-- A write of the register DOORBELL is a doorbell. -/
theorem exec_registerWrite_doorbell : exec (.registerWrite (.host vf) 0 v) s = .next (s.doorbell vf v) :=
  congrArg Host.Outcome.next ((if_pos (State.hasFunction_of_part hfn)).trans rfl)

/-! ### SUBMIT (R267) -/

section
variable {c : Source} {e : EStream} (hreset : p.resetting = false) (hsrc : s.sourceOf (v.toNat % 2 ^ 14) 1 (some id) = some (c, e))
  (hcredit : s.credit (v.toNat % 2 ^ 14) ≠ 0)
include hreset hsrc hcredit

theorem State.submitRecord_enters {u : State} (hw : c.waiting = [])
    (hu : s.enterRecord (v.toNat % 2 ^ 14) (natToBytes 256 (s.hostFn vf).recwin.toNat) = some u) : s.submitRecord vf v = u := by
  unfold State.submitRecord
  simp only [hfn, hreset, hsrc, Bool.false_eq_true, if_false, if_neg hcredit, hw, List.isEmpty_nil, if_true, hu]

/-- A record waits behind others, or for a source that takes none now. -/
theorem State.submitRecord_waits (h : c.waiting ≠ [] ∨ s.enterRecord (v.toNat % 2 ^ 14) (natToBytes 256 (s.hostFn vf).recwin.toNat) = none) :
    s.submitRecord vf v = { s with sources := SMap.put s.sources (v.toNat % 2 ^ 14)
                                                { c with waiting := c.waiting ++ [(natToBytes 256 (s.hostFn vf).recwin.toNat).take e.recSize] } } := by
  have hnone : (if c.waiting.isEmpty then s.enterRecord (v.toNat % 2 ^ 14) (natToBytes 256 (s.hostFn vf).recwin.toNat) else none) = none := by
    rcases h with h | h
    · rw [if_neg (by simpa using h)]
    · rw [h, ite_self]
  unfold State.submitRecord
  simp only [hfn, hreset, hsrc, Bool.false_eq_true, if_false, if_neg hcredit, hnone]

end

theorem State.submitRecord_noCredit (h : p.resetting = true ∨ s.sourceOf (v.toNat % 2 ^ 14) 1 (some id) = none ∨ s.credit (v.toNat % 2 ^ 14) = 0) :
    s.submitRecord vf v = s.raiseIstat vf istatNoCred := by
  unfold State.submitRecord
  simp only [hfn]
  cases hreset : p.resetting with
  | true => rfl
  | false =>
    cases hsrc : s.sourceOf (v.toNat % 2 ^ 14) 1 (some id) with
    | none => rfl
    | some c =>
      have hcredit : s.credit (v.toNat % 2 ^ 14) = 0 := by
        rcases h with h | h | h
        · exact absurd (hreset.symm.trans h) Bool.false_ne_true
        · exact absurd (hsrc.symm.trans h) (Option.some_ne_none _)
        · exact h
      exact if_pos hcredit

end

/-! ### The launch unit (R289 to R294) -/

section
variable {s : State} {part : Nat} {p : Part} (hp : s.part? part = some p) (hreset : p.resetting = false)
include hp

theorem exec_launch_empty (h : (s.hostFn p.vf).head = (s.hostFn p.vf).tail) : exec (.launch part) s = .next s := by
  show execLaunch part s = _
  unfold execLaunch
  simp only [hp]
  exact if_pos (by simp [h])

include hreset

/-- An entry that can be read, with a header that can be read, is submitted once HEAD has moved; where the unit must wait nothing changes. -/
theorem exec_launch_submits {bs hs : List Byte} (hqueue : s.queueReachable part = true) (hne : (s.hostFn p.vf).head ≠ (s.hostFn p.vf).tail)
    (hsize : natBits (s.queueDescriptor part) 52 12 ≠ 0)
    (hpin : s.pinned part (s.queueDescriptor part % 2 ^ 52 + 64 * (s.hostFn p.vf).head) = true)
    (hentry : s.readVirtual part (s.queueDescriptor part % 2 ^ 52 + 64 * (s.hostFn p.vf).head) 64 = .ok bs)
    (hthere : s.reachable part (s.queueDescriptor part % 2 ^ 52 + 64 * (s.hostFn p.vf).head) 64 = true)
    (hheader : s.readVirtual part (bytesToNat bs % 2 ^ 52) 128 = .ok hs) (hthere' : s.reachable part (bytesToNat bs % 2 ^ 52) 128 = true)
    (htables : s.tablesReachable part (newLaunch (bytesToNat hs) part [] none false none) = true) :
    exec (.launch part) s = .next (((s.setHostFn p.vf { s.hostFn p.vf with
        head := ((s.hostFn p.vf).head + 1) % natBits (s.queueDescriptor part) 52 12 }).submitLaunch part p.vf (natBits (bytesToNat bs) 64 52)
      (bytesToNat hs) true (ringEntryOk (bytesToNat bs))).getD s) := by
  show execLaunch part s = _
  unfold execLaunch
  simp only [hp, natBits_low]
  refine (if_neg (by simp [hreset, hqueue, hne, hsize])).trans ?_
  simp only [hpin, if_true, hentry, hthere, hheader, hthere', htables, Bool.and_self, Bool.not_true, Bool.false_eq_true, if_false]
  cases State.submitLaunch _ part p.vf (natBits (bytesToNat bs) 64 52) (bytesToNat hs) true (ringEntryOk (bytesToNat bs)) <;> rfl

theorem exec_privilegedLaunch_submits {crec : Nat} {hdr : List Byte} (hboot : s.boot.started = true)
    (htables : s.tablesReachable part (newLaunch (bytesToNat (hdr.take 128)) part [] none false none) = true)
    (hpriv : (newLaunch (bytesToNat (hdr.take 128)) part [] none false none).priv = true) : exec (.privilegedLaunch part crec hdr) s =
    .next ((s.submitLaunch part p.vf crec (bytesToNat (hdr.take 128)) false true).getD s) := by
  show execPrivilegedLaunch part crec hdr s = _
  unfold execPrivilegedLaunch
  simp only [hp]
  refine (if_neg (by simp [hreset, hboot, htables, hpriv])).trans ?_
  cases s.submitLaunch part p.vf crec (bytesToNat (hdr.take 128)) false true <;> rfl

end

/-! ### Supervisor launches (R293, R294) -/

section
variable {s s1 : State} {img : LoadImage} (hok : loadOk img = true) (hboot : s.boot.started = true)
  (hframes : img.frames.foldlM (fun (u : State) f => u.takeFrame f.1 f.2) s = some s1)

/-- The answer of the management cores to a supervisor launch. -/
def State.answered (s : State) (number code : Nat) : State :=
  s.replied (.mailbox 0 (natToBytes 4 number ++ natToBytes 4 code ++ natToBytes 56 0)) (natToBytes 4 number ++ natToBytes 4 code ++ natToBytes 56 0)

/-- The state with the image of a supervisor launch in its frames. -/
def State.withImage (s1 : State) (img : LoadImage) : State := img.writes.foldl (fun (u : State) w => u.storeBytes w.1 w.2) s1

/-- The launch that an image's header asks for. -/
def imageLaunch (img : LoadImage) : Launch := newLaunch (bytesToNat img.header) 63 [] none true none

include hok hboot hframes

theorem exec_supervisorLaunch_refused (hcode : (s1.withImage img).rejectReason (.table img.l1) (imageLaunch img) false true true ≠ 0) :
    exec (.supervisorLaunch img) s =
      .next (s.answered 0 ((s1.withImage img).rejectReason (.table img.l1) (imageLaunch img) false true true)) := by
  show execSupervisorLaunch img s = _
  unfold execSupervisorLaunch
  simp only [hok, hboot, Bool.and_self, if_true, hframes]
  exact if_pos (bne_iff_ne.2 hcode)

theorem exec_supervisorLaunch_accepted {n : Nat} (hcode : (s1.withImage img).rejectReason (.table img.l1) (imageLaunch img) false true true = 0)
    (htables : (s1.withImage img).supervisorTables img.l1 (imageLaunch img) = true) (hn : n < 4096)
    (hfree : SMap.find (s1.withImage img).svLaunches n = none) (hlowest : ∀ m < n, SMap.find (s1.withImage img).svLaunches m ≠ none) :
    exec (.supervisorLaunch img) s =
      let s2 := s1.withImage img
      let k := SMap.lowestFree s2.launches
      let s3 := s2.setLaunch k (s2.withRegions (.table img.l1) (imageLaunch img))
      .next (State.answered { s3 with
        svLaunches := SMap.put s3.svLaunches n { launch := k, frames := img.frames.map (fun f => f.1), l1 := img.l1, part := none } } n 0) := by
  have hfind : (List.range 4096).find? (fun n => (SMap.find (s1.withImage img).svLaunches n).isNone) = some n :=
    List.find?_range_eq_some.2 ⟨by simp [hfree], List.mem_range.2 hn, fun m hm => by simpa [Option.isSome_iff_ne_none] using hlowest m hm⟩
  have hzero : ¬ ((s1.withImage img).rejectReason (.table img.l1) (imageLaunch img) false true true != 0) = true := by simp [hcode]
  have hsup : ¬ (!(s1.withImage img).supervisorTables img.l1 (imageLaunch img)) = true := by simp [htables]
  show execSupervisorLaunch img s = _
  unfold execSupervisorLaunch
  simp only [hok, hboot, Bool.and_self, if_true, hframes]
  refine (if_neg hzero).trans ((if_neg hsup).trans ?_)
  simp only [State.withImage] at hfind
  rw [hfind]
  rfl

end

/-! ### Service cores (R276, R351, R352) -/

section
variable {s : State} {die : Nat}

theorem exec_svcrun {v : Word} (hdie : die < 9) : exec (.svcrun die v) s =
    let u := s.setDie die { s.die die with svcHdr := v.toNat % 2 ^ 21, svcDone := (s.die die).svcDone && !v.getLsbD 61 }
    .next (if v.getLsbD 63 = true ∧ (s.die die).svcBusy = false ∧ (s.die die).up = true then u.startService die else u) := by
  show execSvcrun die v s = _
  unfold execSvcrun
  refine (if_neg (by simpa [isDie] using hdie)).trans ?_
  simp only [natBits_low, Bool.and_eq_true, Bool.not_eq_true', and_assoc]

theorem exec_serviceTaskEnd {t : Nat} {x : Task} {l : Launch}
    (hx : s.tasks.find? (fun p => p.2.r.kind == .service die && p.2.st == .returned) = some (t, x)) (hl : s.launch? x.r.launch = some l) :
    exec (.serviceTaskEnd die) s =
      .next ((((s.setDie die { s.die die with svcStatus := x.r.status % 256, svcDone := true, svcBusy := false }).setLaunch x.r.launch
        { l with live := false }).delTask t).interruptManagement (serviceCore die) (x.r.status % 256)) := by
  have hl' : (s.setDie die { s.die die with svcStatus := x.r.status % 256, svcDone := true, svcBusy := false }).launch? x.r.launch = some l := hl
  show execServiceTaskEnd die s = _
  unfold execServiceTaskEnd
  simp only [hx, hl']

/-- The launches of some tasks are no longer live. -/
def State.endLaunchesOf (s : State) (l : List (Nat × Task)) : State :=
  l.foldl (fun s p => match s.launch? p.2.r.launch with
    | some l => s.setLaunch p.2.r.launch { l with live := false }
    | none => s) s

theorem State.endLaunchesOf_keeps (l : List (Nat × Task)) : ∀ s : State,
    (s.endLaunchesOf l).tasks = s.tasks ∧ (s.endLaunchesOf l).dies = s.dies := by
  induction l with
  | nil => exact fun _ => ⟨rfl, rfl⟩
  | cons p r ih =>
    intro s
    obtain ⟨htasks, hdies⟩ := ih (match s.launch? p.2.r.launch with
      | some l => s.setLaunch p.2.r.launch { l with live := false }
      | none => s)
    refine ⟨htasks.trans ?_, hdies.trans ?_⟩ <;> cases s.launch? p.2.r.launch <;> rfl

/-- A service core started anew: its task is gone, and its die says so. -/
def State.restartService (s : State) (die : Nat) : State :=
  let u := State.endLaunchesOf { s with tasks := s.tasks.filter (fun p => !(p.2.r.kind == TaskKind.service die)) }
    (s.tasks.filter (fun p => p.2.r.kind == TaskKind.service die))
  (u.setCore (serviceCore die) Core.reset).setDie die { u.die die with svcStopped := false, svcBusy := false }

theorem exec_serviceCoreReset_stopped (h : (s.die die).svcStopped = true) : exec (.serviceCoreReset die) s = .next (s.restartService die) :=
  if_neg (by simp [h])

theorem exec_serviceCoreReset_running (h : (s.die die).svcStopped = false) : exec (.serviceCoreReset die) s = .next s :=
  if_pos (by simp [h])

theorem State.restartService_core : (s.restartService die).core (serviceCore die) = Core.reset := SMap.get_put_same ..

theorem State.restartService_die : (s.restartService die).die die = { s.die die with svcStopped := false, svcBusy := false } := by
  refine (SMap.get_put_same ..).trans ?_
  rw [State.die, (State.endLaunchesOf_keeps _ _).2]
  rfl

theorem State.restartService_task {t : Nat} {x : Task} (hx : (s.restartService die).task? t = some x) : x.r.kind ≠ .service die := by
  have htasks : (s.restartService die).tasks = s.tasks.filter (fun p => !(p.2.r.kind == TaskKind.service die)) := (State.endLaunchesOf_keeps _ _).1
  rw [State.task?, htasks] at hx
  have hmem := SMap.mem_of_find hx
  simpa using (List.mem_filter.1 hmem).2

end

/-! ### Host accesses (R361) -/

section
variable {s : State} {part va : Nat} {cells : List Nat}

theorem exec_hostMemoryAccess_read {n : Nat} (hcells : (List.range n).mapM (fun i => s.physical part (va + i) wantsRead) = .ok cells)
    (hall : cells.all s.readable = true) :
    exec (.hostMemoryAccess part va (.read n)) s = .next (s.send (.hostData (cells.map s.byteAt) (cells.any s.isBad))) := by
  show execHostMemoryAccess part va (.read n) s = _
  unfold execHostMemoryAccess
  simp [hcells, hall]

theorem exec_hostMemoryAccess_write {bs : List Byte}
    (hcells : (List.range bs.length).mapM (fun i => s.physical part (va + i) wantsWrite) = .ok cells) (hall : cells.all s.online = true) :
    exec (.hostMemoryAccess part va (.write bs)) s = .next (s.store ((cells.zip bs).map (fun p => { a := p.1, mask := 0xFF, v := p.2 }))) := by
  show execHostMemoryAccess part va (.write bs) s = _
  unfold execHostMemoryAccess
  simp [hcells, hall]

end

/-- Settles O48: each register write, launch and step of a service core by the lemma about its outcome. -/
theorem hostEvents : Obligations.HostEvents := by
  unfold Obligations.HostEvents
  refine ⟨fun s vf id p v hfn hvf => ?port, fun s part p hp hreset hqueue => ?unit, fun s s1 img n hok hboot hframes => ?supervisor,
    fun s die v hdie => ?service, fun s part va => ⟨fun n cells => exec_hostMemoryAccess_read, fun bs cells => exec_hostMemoryAccess_write⟩⟩
  case port =>
    intro n size
    refine ⟨fun hr hn => ?tail, fun hr hn => congrArg Host.Outcome.next (State.doorbell_beyond hfn hr hn),
      fun hr => congrArg Host.Outcome.next (State.doorbell_lost hfn hr), exec_mbsend hfn, ?submit⟩
    case tail =>
      have htail := State.doorbell_tail hfn hr hn
      exact ⟨congrArg Host.Outcome.next htail, (exec_registerWrite_doorbell hfn).trans (congrArg Host.Outcome.next htail)⟩
    case submit =>
      intro src r
      exact ⟨fun c e hr hsrc hcredit => ⟨fun u hw hu => congrArg Host.Outcome.next (State.submitRecord_enters hfn hr hsrc hcredit hw hu),
        fun hwait => congrArg Host.Outcome.next (State.submitRecord_waits hfn hr hsrc hcredit hwait)⟩,
        fun hno => congrArg Host.Outcome.next (State.submitRecord_noCredit hfn hno)⟩
  case unit =>
    intro f d size moved
    refine ⟨exec_launch_empty hp, fun bs hs hne hsize hpin hentry hthere => ?entry, fun crec hdr => exec_privilegedLaunch_submits hp hreset⟩
    case entry =>
      intro e hheader hthere' htables
      refine (exec_launch_submits hp hreset hqueue hne hsize hpin hentry hthere hheader hthere' htables).trans ?_
      rfl
  case supervisor =>
    intro s2 l reply code
    exact ⟨exec_supervisorLaunch_refused hok hboot hframes, exec_supervisorLaunch_accepted hok hboot hframes⟩
  case service =>
    intro d u
    refine ⟨fun hrun hidle hup => ?run, fun hno => ?noRun, fun hst => ?reset, exec_serviceCoreReset_running, fun t x l => exec_serviceTaskEnd⟩
    case run => exact (exec_svcrun hdie).trans (congrArg Host.Outcome.next (if_pos ⟨hrun, hidle, hup⟩))
    case noRun =>
      refine (exec_svcrun hdie).trans (congrArg Host.Outcome.next (if_neg fun h => ?_))
      obtain ⟨hrun, hidle, hup⟩ := h
      obtain hno | hno | hno := hno
      · exact absurd (hno.symm.trans hrun) Bool.false_ne_true
      · exact absurd (hidle.symm.trans hno) Bool.false_ne_true
      · exact absurd (hno.symm.trans hup) Bool.false_ne_true
    case reset => exact ⟨_, exec_serviceCoreReset_stopped hst, State.restartService_core, fun t x => State.restartService_task, State.restartService_die⟩

end Sys2Proof.Machine
end

section
/-! PROOF. The task that acts stays the same through the ends and the saves of other tasks (the frame that the privileged forms need). -/

namespace Sys2Proof.Machine
set_option Elab.async false
open Sys2Proof

/-- The state is one in which the task with that number acts. -/
def State.At (me : Nat) (s : State) : Prop := s.cur = me

theorem State.at_iff (me : Nat) (s : State) : s.At me ↔ s.cur = me := Iff.rfl

theorem State.foldl_cur {β : Type} {f : State → β → State} (hf : ∀ u b, (f u b).cur = u.cur) (l : List β) (s : State) :
    (l.foldl f s).cur = s.cur := foldl_keeps (p := State.At s.cur) (fun u b hu => (hf u b).trans hu) l rfl

section
variable (s : State)

theorem State.modTask_cur (t f) : (s.modTask t f).cur = s.cur := by
  unfold State.modTask
  grind only [State.setTask_cur]

theorem State.modCore_cur (c f) : (s.modCore c f).cur = s.cur := rfl

theorem State.store_cur (ws) : (s.store ws).cur = s.cur := by
  unfold State.store
  grind only

theorem State.storeBytes_cur (a bs) : (s.storeBytes a bs).cur = s.cur := by
  unfold State.storeBytes
  grind only [State.store_cur]

theorem State.effect_cur (a) : (s.effect a).cur = s.cur := by
  unfold State.effect
  grind only [State.store_cur]

theorem State.interruptManagement_cur (source code) : (s.interruptManagement source code).cur = s.cur := rfl

theorem State.raiseIstat_cur (vf bits) : (s.raiseIstat vf bits).cur = s.cur := by
  unfold State.raiseIstat
  grind only [State.setHostFn_cur, State.send_cur]

theorem State.hold_cur (w) : (s.hold w).cur = s.cur := by
  unfold State.hold
  grind only [State.at_iff]

theorem State.storeNow_cur (part va bs) : (s.storeNow part va bs).cur = s.cur := by
  unfold State.storeNow
  grind only [State.storeBytes_cur]

theorem State.storePiece_cur (part va bs) : (s.storePiece part va bs).cur = s.cur := by
  unfold State.storePiece
  grind only [State.hold_cur, State.storeNow_cur]

theorem State.storeVirtual_cur (part va bs) : (s.storeVirtual part va bs).cur = s.cur := by
  unfold State.storeVirtual
  grind only [State.storePiece_cur]

theorem State.istatAfter_cur (part vf bits) : (s.istatAfter part vf bits).cur = s.cur := by
  unfold State.istatAfter
  grind only [State.hold_cur, State.raiseIstat_cur]

theorem State.managementAfter_cur (part source code) : (s.managementAfter part source code).cur = s.cur := by
  unfold State.managementAfter
  grind only [State.hold_cur, State.interruptManagement_cur]

theorem State.dequeue_cur (t) : (s.dequeue t).cur = s.cur := by
  unfold State.dequeue
  grind only [State.setCluster_cur]

theorem State.makeRunnable_cur (t head) : (s.makeRunnable t head).cur = s.cur := by
  unfold State.makeRunnable
  grind only [State.enqueue_cur, State.modTask_cur]

theorem State.releaseCore_cur (t) : (s.releaseCore t).cur = s.cur := by
  unfold State.releaseCore
  grind only [State.setTask_cur, State.setCore_cur]

theorem State.freeStorage_cur (t x) : (s.freeStorage t x).cur = s.cur := by
  unfold State.freeStorage
  grind only [State.setCluster_cur, State.modCore_cur, State.setLaunch_cur]

theorem State.putParent_cur (parent g p v hdr) : Res.Gives (State.At s.cur) (s.putParent parent g p v hdr) := by
  unfold State.putParent
  grind only [Res.gives_ok, State.at_iff, Res.gives_error, Res.gives_fault, State.store_cur, Res.gives_bind]

theorem State.applyElem_cur (parent g p policy v hdr) : Res.Gives (State.At s.cur) (s.applyElem parent g p policy v hdr) := by
  unfold State.applyElem
  grind only [Res.gives_ok, State.at_iff, Res.gives_error, Res.gives_fault, State.putParent_cur, Res.gives_bind]

theorem State.resolveGroup_cur (parent g dead) : Res.Gives (State.At s.cur) (s.resolveGroup parent g dead) := by
  unfold State.resolveGroup
  grind only [Res.gives_ok, State.at_iff, Res.gives_error, Res.gives_fault, State.applyElem_cur, State.foldl_cur, Res.gives_foldlM]

theorem State.wakeJoin_cur (t) : (s.wakeJoin t).cur = s.cur := by
  unfold State.wakeJoin
  grind only [State.makeRunnable_cur, State.setTask_cur, State.at_iff]

theorem State.closeStream_cur (n) : (s.closeStream n).cur = s.cur := by
  unfold State.closeStream
  grind only [State.at_iff]

theorem State.tryFinishLaunch_cur (l) : (s.tryFinishLaunch l).cur = s.cur := by
  unfold State.tryFinishLaunch
  grind only [State.closeStream_cur, State.setLaunch_cur, State.storeVirtual_cur, State.managementAfter_cur, State.istatAfter_cur, State.foldl_cur]

theorem State.childReturned_cur (x status) : Res.Gives (State.At s.cur) (s.childReturned x status) := by
  unfold State.childReturned
  grind only [Res.gives_ok, State.at_iff, Res.gives_error, Res.gives_fault, State.modTask_cur, State.wakeJoin_cur, State.resolveGroup_cur,
    Res.gives_bind, State.at_iff]

theorem State.rootReturned_cur (x status) : (s.rootReturned x status).cur = s.cur := by
  unfold State.rootReturned
  grind only [State.setLaunch_cur]

theorem State.finishReturn_cur (t status) : Res.Gives (State.At s.cur) (s.finishReturn t status) := by
  unfold State.finishReturn
  grind only [Res.gives_ok, State.at_iff, Res.gives_error, Res.gives_fault, State.freeStorage_cur, State.releaseCore_cur, State.dequeue_cur,
    State.childReturned_cur, State.setTask_cur, State.delTask_cur, State.tryFinishLaunch_cur, State.rootReturned_cur, Res.gives_bind, State.at_iff]

theorem orKeep_cur (r) (ho : Res.Gives (State.At s.cur) r) : (orKeep s r).cur = s.cur := by
  unfold orKeep
  grind only [Res.gives_ok, State.at_iff, Res.gives_error, Res.gives_fault]

theorem State.reapDead_cur (a) : (s.reapDead a).cur = s.cur := by
  induction a generalizing s with
  | zero => rfl
  | succ n ih =>
    unfold State.reapDead
    grind only [orKeep_cur, State.finishReturn_cur]

theorem State.performStores_cur (t) : (s.performStores t).cur = s.cur := by
  unfold State.performStores
  grind only [State.setTask_cur, State.effect_cur, State.foldl_cur]

theorem State.endTask_cur (t code) : (s.endTask t code).cur = s.cur := by
  unfold State.endTask
  grind only [State.performStores_cur, State.releaseCore_cur, State.dequeue_cur, State.setTask_cur, State.reapDead_cur, State.at_iff]

theorem State.writeHeader_cur (x base) : (s.writeHeader x base).cur = s.cur := by
  unfold State.writeHeader
  grind only [State.storeBytes_cur]

theorem State.saveSection_cur (t i) : (s.saveSection t i).cur = s.cur := by
  unfold State.saveSection
  grind only [State.storeBytes_cur, State.writeHeader_cur, State.setTask_cur]

theorem State.saveSections_cur (t l) : (s.saveSections t l).cur = s.cur := by
  unfold State.saveSections
  grind only [State.saveSection_cur, State.foldl_cur]

theorem State.stopStreams_cur (t l) : (s.stopStreams t l).cur = s.cur := by
  unfold State.stopStreams
  grind only [State.modTask_cur]

theorem State.toInteractive_cur (t) : (s.toInteractive t).cur = s.cur := by
  unfold State.toInteractive
  grind only [State.dequeue_cur, State.setTask_cur, State.enqueue_cur, State.makeRunnable_cur]

theorem State.cancelContract_cur (part n) : (s.cancelContract part n).cur = s.cur := by
  unfold State.cancelContract
  grind only [State.toInteractive_cur, State.tryFinishLaunch_cur, State.foldl_cur, State.at_iff]

end

end Sys2Proof.Machine
end

section
/-! PROOF. Contexts and contracts (18 R280, R282; 19 R299, R300, R302): what ctxsave, ctxload, qadmit, qrelease and qcancel end with. -/

namespace Sys2Proof.Machine
open Sys2Proof

/-- A form that completes from another state with the same task acting. -/
theorem State.done_of_cur {s u : State} {x : Task} {n : Nat} (h : u.cur = s.cur) : u.done x n = .ok (u.setTask s.cur (x.retire n)) := by
  rw [State.done, h]

/-- A check that passes goes on. -/
theorem check_bind_of {α : Type} {ok : Bool} {code : Nat} {f : Unit → Res α} (h : ok = true) : (check ok code >>= f) = f () := by
  rw [check_of h, Res.bind_ok]

/-! ### ctxsave and ctxload (R280, R302) -/

section
variable {s : State} {x y : Task} {d a : SReg} {t : Nat} (hx : Acts s x) (hpl : 1 ≤ x.ctl.pl) (ha : Ready x a) (hd : Free x d)
  (hrec : s.recordOf x (x.ctl.rd a) = .ok (t, y))

/-- The context slot of a task. -/
def State.contextBase (s : State) (y : Task) : Nat := s.slotBase (ctxDie y) y.r.ctx

/-- The check word of a slot is that of its opaque sections. -/
def State.slotChecked (s : State) (base : Nat) : Bool :=
  Memory.readNat s.mem base 4 == (crc32c (Memory.readList s.mem (base + 0x2000) 0x2000 ++ Memory.readList s.mem (base + 0x6000) 0x4000)).toNat

include hx hpl ha hd hrec

theorem exec_ctxsave_running (hpre : y.r.preempted = false) :
    exec (.ctxsave d a) s = .next (s.setTask s.cur ((x.wr d 1).retire 4)) := by
  refine State.issue_ok hx (privForm_checks hpl) ?_
  rw [Task.src_ready ha, Res.bind_ok, Task.dst_ok hd, Res.bind_ok, hrec, Res.bind_ok]
  simp only [hpre]
  rfl

theorem exec_ctxsave_saves (hpre : y.r.preempted = true) (hon : s.slotOnline (s.contextBase y) = true)
    (hok : s.slotOk (s.contextBase y) (List.range 64) = true) : exec (.ctxsave d a) s =
      .next (((s.saveSections t (List.range 64)).stopStreams t [.vector, .matrix, .copy]).setTask s.cur ((x.wr d 0).retire 4)) := by
  have hon' : s.slotOnline (s.slotBase (ctxDie y) y.r.ctx) = true := hon
  have hok' : s.slotOk (s.slotBase (ctxDie y) y.r.ctx) (List.range 64) = true := hok
  refine State.issue_ok hx (privForm_checks hpl) ?_
  rw [Task.src_ready ha, Res.bind_ok, Task.dst_ok hd, Res.bind_ok, hrec, Res.bind_ok]
  simp only [hpre, hon', hok', Bool.or_true, waitFor_true, Res.bind_ok, Bool.not_true, Bool.false_eq_true, if_false, if_true]
  exact State.done_of_cur (by rw [State.stopStreams_cur, State.saveSections_cur])

variable (hset : settled x = true)
include hset

theorem exec_ctxload_running (hpre : y.r.preempted = false) :
    exec (.ctxload d a) s = .next (s.setTask s.cur ((x.wr d 1).retire 4)) := by
  refine State.issue_ok hx (privForm_checks hpl) ?_
  rw [Task.src_ready ha, Res.bind_ok, Task.dst_ok hd, Res.bind_ok, waitFor_of hset, Res.bind_ok, hrec, Res.bind_ok]
  simp only [hpre]
  rfl

/-- A pre-empted task's slot is taken when its check word is right. -/
theorem exec_ctxload_preempted (hpre : y.r.preempted = true) (hon : s.slotOnline (s.contextBase y) = true) : exec (.ctxload d a) s =
    if s.slotChecked (s.contextBase y) = true then
      .next (((s.modTask t (fun z => z.mapRec (fun r => { r with saved := BitVec.allOnes 64 }))).stopStreams t [.vector, .matrix, .copy]).setTask s.cur
        ((x.wr d 0).retire 4))
    else .next ((s.saveFails t).setTask (s.saveFails t).cur ((x.wr d 3).retire 4)) := by
  have hon' : s.slotOnline (s.slotBase (ctxDie y) y.r.ctx) = true := hon
  cases hgood : s.slotChecked (s.contextBase y) with
  | true =>
    refine (State.issue_ok hx (privForm_checks hpl) ?_).trans (if_pos rfl).symm
    rw [Task.src_ready ha, Res.bind_ok, Task.dst_ok hd, Res.bind_ok, waitFor_of hset, Res.bind_ok, hrec, Res.bind_ok]
    simp only [hpre, hon', Bool.or_true, waitFor_true, Res.bind_ok, Bool.not_true, Bool.false_eq_true, if_false]
    refine (if_pos hgood).trans (State.done_of_cur ?_)
    rw [State.stopStreams_cur, State.modTask_cur]
  | false =>
    refine (State.issue_ok hx (privForm_checks hpl) ?_).trans (if_neg Bool.false_ne_true).symm
    rw [Task.src_ready ha, Res.bind_ok, Task.dst_ok hd, Res.bind_ok, waitFor_of hset, Res.bind_ok, hrec, Res.bind_ok]
    simp only [hpre, hon', Bool.or_true, waitFor_true, Res.bind_ok, Bool.not_true, Bool.false_eq_true, if_false]
    exact if_neg (Bool.eq_false_iff.1 hgood)

end

/-! ### qadmit (R282, R299) -/

/-- The clusters that a descriptor's mask names. -/
def contractClusters (n : Nat) : List Nat :=
  ((List.range 16).filter (fun c => natBits (natBits n 192 16) c 1 == 1)).map (fun c => natBits n 208 4 * 16 + c)

theorem contractClusters_eq (n : Nat) : contractClusters n =
    ((List.range 16).filter (fun c => n / 2 ^ (192 + c) % 2 == 1)).map (fun c => n / 2 ^ 208 % 16 * 16 + c) := by
  unfold contractClusters
  congr 1
  refine List.filter_congr fun c hc => ?_
  have hsplit : 2 ^ 16 = 2 ^ c * 2 ^ (16 - c) := by rw [← pow_add, Nat.add_sub_cancel' (Nat.le_of_lt (List.mem_range.1 hc))]
  have hdvd : 2 ∣ 2 ^ (16 - c) := dvd_pow_self 2 (Nat.sub_ne_zero_of_lt (List.mem_range.1 hc))
  have hbit : natBits (natBits n 192 16) c 1 = n / 2 ^ (192 + c) % 2 := by
    rw [natBits, natBits, hsplit, Nat.mod_mul_right_div_self, pow_one, Nat.mod_mod_of_dvd _ hdvd, Nat.div_div_eq_div_mul, pow_add]
  rw [hbit]

/-- A descriptor that every contract can be made of. -/
def contractDescOk (n : Nat) : Bool :=
  1 ≤ descWord n 0 && descWord n 0 < 2 ^ 32 && 1 ≤ natBits n 64 32 && 1 ≤ descWord n 2 && descWord n 2 ≤ descWord n 0 && natBits n 96 32 == 0
    && natBits n 212 44 == 0 && natBits n 192 16 != 0

/-- The contract of a descriptor, admitted now. -/
def State.newContract (s : State) (part n : Nat) : Contract := {
  part := part, period := descWord n 0, budget := natBits n 64 32, rdead := descWord n 2, clusters := contractClusters n, q := s.tick, refills := 0,
  accounts := (contractClusters n).map (fun c => (c, natBits n 64 32)), spent := [], suspended := false }

section
variable {s : State} {x : Task} {d : SReg} {h : HReg} {bs : List Byte} (hx : Acts s x) (hpl : 1 ≤ x.ctl.pl) (hd : Free x d)
  (hbytes : s.boxBytes x (x.ctl.hd h) 0 32 [0] = .ok bs) (hok : contractDescOk (bytesToNat bs) = true) (hdie : natBits (bytesToNat bs) 208 4 < 9)
  (hown : ∀ c ∈ contractClusters (bytesToNat bs), (s.partClusters (s.partOf x)).contains c = true)
include hx hpl hd hbytes hok hdie hown

/-- Once its descriptor is read and checked, qadmit looks at the reserved densities and then for a free number. -/
theorem exec_qadmit_deliver : exec (.qadmit d h) s = s.deliver s.cur x (
    if !(contractClusters (bytesToNat bs)).all (fun c => s.admits (density (natBits (bytesToNat bs) 64 32) (descWord (bytesToNat bs) 2)) c) then
      s.done (x.wr d (word (0xFFFFFFFF00000000 + 1))) 4
    else match (List.range 1024).find? (fun k => (SMap.find s.contracts (contractKey (s.partOf x) k)).isNone) with
      | none => s.done (x.wr d (word (0xFFFFFFFF00000000 + 2))) 4
      | some k => { s with contracts := SMap.put s.contracts (contractKey (s.partOf x) k) (s.newContract (s.partOf x) (bytesToNat bs)) }.done
          (x.wr d (word k)) 4) := by
  have hset : (decide (natBits (bytesToNat bs) 208 4 < 9) &&
      (contractClusters (bytesToNat bs)).all (fun c => (s.partClusters (s.partOf x)).contains c)) = true := by
    rw [decide_eq_true hdie, Bool.true_and, List.all_eq_true]
    exact hown
  refine (State.issue_deliver hx (privForm_checks hpl)).trans ?_
  rw [Task.dst_ok hd, Res.bind_ok, hbytes, Res.bind_ok]
  dsimp only
  refine congrArg (s.deliver s.cur x) ?_
  refine (check_bind_of hok).trans ?_
  refine (check_bind_of hset).trans ?_
  generalize (List.range 1024).find? (fun k => (SMap.find s.contracts (contractKey (s.partOf x) k)).isNone) = found
  cases found <;> rfl

/-- The bound that a contract reserves fits every cluster that it names. -/
def State.fitsBounds (s : State) (n : Nat) : Prop :=
  ∀ c ∈ contractClusters n, s.admits (density (natBits n 64 32) (descWord n 2)) c = true

theorem exec_qadmit_refused (hno : ∃ c ∈ contractClusters (bytesToNat bs),
      s.admits (density (natBits (bytesToNat bs) 64 32) (descWord (bytesToNat bs) 2)) c = false) :
    exec (.qadmit d h) s = .next (s.setTask s.cur ((x.wr d (word (0xFFFFFFFF00000000 + 1))).retire 4)) := by
  rw [exec_qadmit_deliver hx hpl hd hbytes hok hdie hown, if_pos]
  · rfl
  · simpa [List.all_eq_false] using hno

variable (hfits : s.fitsBounds (bytesToNat bs))
include hfits

theorem exec_qadmit_full (hfull : ∀ k < 1024, SMap.find s.contracts (contractKey (s.partOf x) k) ≠ none) :
    exec (.qadmit d h) s = .next (s.setTask s.cur ((x.wr d (word (0xFFFFFFFF00000000 + 2))).retire 4)) := by
  have hfind : (List.range 1024).find? (fun k => (SMap.find s.contracts (contractKey (s.partOf x) k)).isNone) = none :=
    List.find?_range_eq_none.2 fun k hk => by simpa [Option.isSome_iff_ne_none] using hfull k hk
  rw [exec_qadmit_deliver hx hpl hd hbytes hok hdie hown, if_neg, hfind]
  · rfl
  · simpa [State.fitsBounds] using hfits

theorem exec_qadmit_admits {k : Nat} (hk : k < 1024) (hfree : SMap.find s.contracts (contractKey (s.partOf x) k) = none)
    (hlowest : ∀ j < k, SMap.find s.contracts (contractKey (s.partOf x) j) ≠ none) : exec (.qadmit d h) s =
      .next ({ s with contracts := SMap.put s.contracts (contractKey (s.partOf x) k) (s.newContract (s.partOf x) (bytesToNat bs)) }.setTask s.cur
        ((x.wr d (word k)).retire 4)) := by
  have hfind : (List.range 1024).find? (fun k => (SMap.find s.contracts (contractKey (s.partOf x) k)).isNone) = some k :=
    List.find?_range_eq_some.2 ⟨by simp [hfree], List.mem_range.2 hk, fun j hj => by simpa [Option.isSome_iff_ne_none] using hlowest j hj⟩
  rw [exec_qadmit_deliver hx hpl hd hbytes hok hdie hown, if_neg, hfind]
  · rfl
  · simpa [State.fitsBounds] using hfits

end

/-! ### qrelease and qcancel (R299, R300) -/

/-- The tasks, the launches and the task that acts are as before. -/
def State.SameTasks (s u : State) : Prop := u.tasks = s.tasks ∧ u.launches = s.launches ∧ u.cur = s.cur

theorem State.SameTasks.trans {s u v : State} (h : s.SameTasks u) (h' : u.SameTasks v) : s.SameTasks v := by
  obtain ⟨ht, hl, hc⟩ := h
  obtain ⟨ht', hl', hc'⟩ := h'
  exact ⟨ht'.trans ht, hl'.trans hl, hc'.trans hc⟩

theorem State.sendOn_sameTasks (s : State) (part : Nat) (m : Message) : s.SameTasks (s.sendOn part m) := by
  refine ⟨State.sendOn_tasks .., ?_, State.sendOn_cur ..⟩
  unfold State.sendOn
  split
  · rfl
  · split <;> rfl

theorem State.foldl_sameTasks {β : Type} {f : State → β → State} (hf : ∀ (u : State) b, u.SameTasks (f u b)) (l : List β) (s : State) :
    s.SameTasks (l.foldl f s) :=
  foldl_keeps (p := State.SameTasks s) (fun u b hu => hu.trans (hf u b)) l ⟨rfl, rfl, rfl⟩

theorem State.resend_sameTasks (s : State) (g : Nat) : s.SameTasks (s.resend g) := by
  unfold State.resend
  extract_lets c me part kind
  split
  · exact ⟨rfl, rfl, rfl⟩
  · exact State.foldl_sameTasks (fun u d => u.sendOn_sameTasks _ _) _ s

theorem State.routesChanged_sameTasks (s : State) : s.SameTasks s.routesChanged := by
  unfold State.routesChanged State.flushControl
  extract_lets decided u go
  refine State.SameTasks.trans (State.foldl_sameTasks (fun u p => u.resend_sameTasks p.1) s.groups s) ?_
  exact State.foldl_sameTasks (fun u m => u.sendOn_sameTasks _ _) _ _

theorem State.heldTasks_congr {s u : State} (h : s.SameTasks u) (part n : Nat) : u.heldTasks part n = s.heldTasks part n := by
  obtain ⟨htasks, hlaunches, -⟩ := h
  have hpart (y : Task) : u.partOf y = s.partOf y := by rw [State.partOf, State.partOf, State.launch?, State.launch?, hlaunches]
  simp only [State.heldTasks, htasks, hpart]

section
variable {s : State} {x : Task} {a : SReg} {n : Nat} (hx : Acts s x) (hpl : 1 ≤ x.ctl.pl) (ha : Ready x a) (hn : (x.ctl.rd a).toNat = n)

/-- The operand names a contract of the partition, or no contract. -/
def State.NamesContract (s : State) (x : Task) (n : Nat) : Prop :=
  n = 0xFFFF ∨ (n < 1024 ∧ (SMap.find s.contracts (contractKey (s.partOf x) n)).isSome = true)

include hn in
theorem State.contractOperand_ok (h : s.NamesContract x n) : s.contractOperand x (x.ctl.rd a) = .ok n := by
  have hlt : n < 2 ^ 16 := by
    obtain h | h := h
    · rw [h]; decide
    · exact Nat.lt_trans h.1 (by decide)
  unfold State.contractOperand
  rw [hn, check_bind_of (decide_eq_true hlt)]
  refine check_bind_of ?_
  simpa [State.NamesContract] using h

/-- The Held tasks of a contract go on. -/
def State.releaseHeld (s : State) (l : List Nat) : State := l.foldl (fun (t : State) i => t.makeRunnable i false) s

/-- The Held tasks of a contract end. -/
def State.endHeld (s : State) (l : List Nat) : State := l.foldl (fun (t : State) i => t.endTask i Flt.trap) s

/-- A contract that was suspended is not any more. -/
def State.unsuspend (s : State) (part n : Nat) : State :=
  match SMap.find s.contracts (contractKey part n) with
  | some k => if n = 0xFFFF then s else { s with contracts := SMap.put s.contracts (contractKey part n) { k with suspended := false } }
  | none => s

/-- The state in which the Held tasks of a contract go on: it is not suspended, and traffic flows again. -/
def State.readmitted (s : State) (part n : Nat) : State := State.routesChanged { s.unsuspend part n with fencedTraffic := false }

theorem State.unsuspend_contract {part : Nat} {k : Contract} (hlt : n < 1024) (hk : SMap.find s.contracts (contractKey part n) = some k) :
    s.unsuspend part n = { s with contracts := SMap.put s.contracts (contractKey part n) { k with suspended := false } } := by
  have hne : n ≠ 0xFFFF := by omega
  rw [State.unsuspend, hk]
  exact if_neg hne

theorem State.unsuspend_none {part : Nat} (h : n = 0xFFFF) : s.unsuspend part n = s := by
  unfold State.unsuspend
  cases SMap.find s.contracts (contractKey part n) with
  | none => rfl
  | some k => exact if_pos h

theorem State.unsuspend_sameTasks {part : Nat} : s.SameTasks (s.unsuspend part n) := by
  unfold State.unsuspend
  repeat' split
  all_goals exact ⟨rfl, rfl, rfl⟩

include hx hpl ha hn

theorem exec_qrelease (h : s.NamesContract x n) : exec (.qrelease a) s =
    .next (((s.readmitted (s.partOf x) n).releaseHeld (s.heldTasks (s.partOf x) n)).modTask s.cur (fun y => y.retire 4)) := by
  have hsame : s.SameTasks (s.readmitted (s.partOf x) n) := State.unsuspend_sameTasks.trans (State.routesChanged_sameTasks _)
  have ⟨_, _, hcur⟩ := hsame
  refine State.issue_ok hx (privForm_checks hpl) ?_
  rw [Task.src_ready ha, Res.bind_ok, State.contractOperand_ok hn h, Res.bind_ok]
  exact congrArg₂ (fun l c => (Except.ok (((s.readmitted (s.partOf x) n).releaseHeld l).modTask c (fun y => y.retire 4)) : Res State))
    (State.heldTasks_congr hsame ..) hcur

theorem exec_qcancel (h : s.NamesContract x n) : exec (.qcancel a) s =
    .next ((if n = 0xFFFF then s.endHeld (s.heldTasks (s.partOf x) n)
      else (s.endHeld (s.heldTasks (s.partOf x) n)).cancelContract (s.partOf x) n).modTask s.cur (fun y => y.retire 4)) := by
  have hcur : (s.endHeld (s.heldTasks (s.partOf x) n)).cur = s.cur := State.foldl_cur (fun u i => u.endTask_cur i Flt.trap) _ s
  refine State.issue_ok hx (privForm_checks hpl) ?_
  rw [Task.src_ready ha, Res.bind_ok, State.contractOperand_ok hn h, Res.bind_ok]
  refine congrArg (fun c => Except.ok (State.modTask _ c (fun y => y.retire 4))) ?_
  rw [apply_ite State.cur, State.cancelContract_cur]
  exact (ite_self _).trans hcur

end

/-- Settles O24: each form by the lemma about its outcome. -/
theorem contextsAndContracts : Obligations.ContextsAndContracts := by
  unfold Obligations.ContextsAndContracts
  refine ⟨fun s x d a t y hx hpl ha hd hrec => ?contexts, fun s x d a h hx hpl => ?contracts⟩
  case contexts =>
    intro base answers
    refine ⟨fun hpre => ⟨exec_ctxsave_running hx hpl ha hd hrec hpre, fun hset => exec_ctxload_running hx hpl ha hd hrec hset hpre⟩,
      exec_ctxsave_saves hx hpl ha hd hrec, fun hpre hon hset => ?load⟩
    case load =>
      intro good
      have hload := exec_ctxload_preempted hx hpl ha hd hrec hset hpre hon
      exact ⟨fun hgood => hload.trans (if_pos (beq_iff_eq.2 hgood)), fun hgood => hload.trans (if_neg fun h => hgood (beq_iff_eq.1 h))⟩
  case contracts =>
    intro part
    refine ⟨fun hd bs hbytes => ?qadmit, fun ha n hn hlt k hk => ?named, fun ha hn => ?unnamed⟩
    case qadmit =>
      intro n period budget rdead die set hperiod hperiod32 hbudget hrdead hrd hz96 hz212 hmask hdie hown u admitted
      have hp : descWord n 0 = period := natBits_low n 64
      have hb : natBits n 64 32 = budget := rfl
      have hr : descWord n 2 = rdead := rfl
      have hset : contractClusters n = set := contractClusters_eq n
      have hok : contractDescOk n = true := by
        simp only [contractDescOk, hp, hb, hr, Bool.and_eq_true, decide_eq_true_eq, beq_iff_eq, bne_iff_ne]
        exact ⟨⟨⟨⟨⟨⟨⟨hperiod, hperiod32⟩, hbudget⟩, hrdead⟩, hrd⟩, hz96⟩, hz212⟩, hmask⟩
      have hnew : s.newContract part n = admitted := by
        simp only [State.newContract, hp, hb, hr, hset]
        rfl
      have hdens : density (natBits n 64 32) (descWord n 2) = u := rfl
      rw [← hset] at hown ⊢
      refine ⟨fun hfits => ⟨fun k hk hfree hlowest => ?_, exec_qadmit_full hx hpl hd hbytes hok hdie hown hfits⟩,
        exec_qadmit_refused hx hpl hd hbytes hok hdie hown⟩
      rw [← hnew]
      exact exec_qadmit_admits hx hpl hd hbytes hok hdie hown hfits hk hfree hlowest
    case named =>
      have hnames : s.NamesContract x n := .inr ⟨hlt, Option.isSome_iff_exists.2 ⟨k, hk⟩⟩
      have hne : n ≠ 0xFFFF := by omega
      refine ⟨(exec_qrelease hx hpl ha hn hnames).trans ?_, (exec_qcancel hx hpl ha hn hnames).trans ?_⟩
      · rw [State.readmitted, State.unsuspend_contract hlt hk]
        rfl
      · rw [if_neg hne]
        rfl
    case unnamed =>
      have hnames : s.NamesContract x 0xFFFF := .inl rfl
      refine ⟨(exec_qrelease hx hpl ha hn hnames).trans ?_, (exec_qcancel hx hpl ha hn hnames).trans ?_⟩
      · rw [State.readmitted, State.unsuspend_none rfl]
        rfl
      · rw [if_pos rfl]
        rfl

end Sys2Proof.Machine
end

section
/-! PROOF. The forms of the service cores (18 R283, R287): what partset, phyrd and phywr end with. -/

namespace Sys2Proof.Machine
open Sys2Proof

section
variable {s : State} {x : Task} {d a b : SReg} {h : HReg} (hx : Acts s x) (hpl : 2 ≤ x.ctl.pl) (ha : Ready x a)
include hx hpl ha

/-! ### partset (R283) -/

section
variable (hd : Free x d)
include hd

/-- What partset does with its descriptor's bits: it creates the partition, or answers why not. -/
def State.createAnswer (s : State) (x : Task) (d : SReg) (id desc : Nat) : Res State :=
  match s.createRefused id desc, SMap.find s.svLaunches (natBits desc 64 32) with
  | some code, _ => s.done (x.wr d (word code)) 4
  | none, none => s.done (x.wr d 3) 4
  | none, some sv => (s.createPart id desc sv).done (x.wr d 0) 4

theorem exec_partset_create {bs : List Byte} (hv : (x.ctl.rd a).toNat < 36) (hbytes : s.boxBytes x (x.ctl.hd h) 0 64 (descriptorLevels x) = .ok bs)
    (hok : partDescOk (bytesToNat bs) = true) :
    exec (.partset d a h) s = s.deliver s.cur x (s.createAnswer x d (x.ctl.rd a).toNat (bytesToNat bs)) := by
  have hid : (x.ctl.rd a).toNat % 64 = (x.ctl.rd a).toNat := by omega
  have hop : (x.ctl.rd a).toNat / 256 % 4 = 0 := by omega
  refine (State.issue_deliver hx (privForm_checks hpl)).trans (congrArg (s.deliver s.cur x) ?_)
  rw [Task.src_ready ha, Res.bind_ok, Task.dst_ok hd, Res.bind_ok]
  dsimp only
  rw [hid, hop, check_of (by simp [hv]), Res.bind_ok, if_pos rfl, hbytes, Res.bind_ok, check_of hok, Res.bind_ok]
  rfl

/-- A partition that ends: its groups are aborted, it is reset, and a dissolved one gives its units back. -/
def State.partEnded (s : State) (id op : Nat) (p : Part) : State :=
  let u := ((s.abortOwnGroups id).abortPeerGroups id).finishReset id p
  if op = 2 then u.dissolve id p else u

section
variable {id op : Nat} (hid : id < 36) (hop : op = 1 ∨ op = 2) (hv : (x.ctl.rd a).toNat = id + 256 * op)
include hid hop hv

theorem exec_partset_absent (hpart : s.part? id = none) : exec (.partset d a 0) s = .next (s.setTask s.cur ((x.wr d 2).retire 4)) := by
  have hid' : (x.ctl.rd a).toNat % 64 = id := by omega
  have hop' : (x.ctl.rd a).toNat / 256 % 4 = op := by omega
  refine State.issue_ok hx (privForm_checks hpl) ?_
  rw [Task.src_ready ha, Res.bind_ok, Task.dst_ok hd, Res.bind_ok]
  dsimp only
  rw [hid', hop', check_of (by simp [hv, hid]; omega), Res.bind_ok, if_neg (by omega), hpart]
  rfl

theorem exec_partset_ends {p : Part} (hpart : s.part? id = some p) (hprep : s.holdsPrepared id = false) : exec (.partset d a 0) s =
    .next ((s.partEnded id op p).setTask (s.partEnded id op p).cur ((x.wr d 0).retire 4)) := by
  have hid' : (x.ctl.rd a).toNat % 64 = id := by omega
  have hop' : (x.ctl.rd a).toNat / 256 % 4 = op := by omega
  refine State.issue_ok hx (privForm_checks hpl) ?_
  rw [Task.src_ready ha, Res.bind_ok, Task.dst_ok hd, Res.bind_ok]
  dsimp only
  rw [hid', hop', check_of (by simp [hv, hid]; omega), Res.bind_ok, if_neg (by omega), hpart]
  simp only [hprep, Bool.and_false, Bool.false_eq_true, if_false, Bool.not_false, waitFor_true, Res.bind_ok]
  rfl

end

end

/-! ### phyrd and phywr (R287) -/

section
variable {die ch : Nat} {r : PhyReg} (haddr : phyAddress x (x.ctl.rd a) = .ok (die, ch, r))
include haddr

theorem exec_phyrd (hd : Free x d) : exec (.phyrd d a) s =
    .next ((s.phyRead die ch r).2.setTask (s.phyRead die ch r).2.cur ((x.wr d (s.phyRead die ch r).1).retire 4)) := by
  refine State.issue_ok hx (privForm_checks hpl) ?_
  rw [Task.src_ready ha, Res.bind_ok, Task.dst_ok hd, Res.bind_ok, haddr, Res.bind_ok]
  rfl

theorem exec_phywr (hb : Ready x b) {u : State} (hu : s.phyWrite die ch r (x.ctl.rd b) = .ok u) :
    exec (.phywr a b) s = .next (u.setTask u.cur (x.retire 4)) := by
  refine State.issue_ok hx (privForm_checks hpl) ?_
  rw [Task.src_ready ha, Res.bind_ok, Task.src_ready hb, Res.bind_ok, haddr, Res.bind_ok]
  dsimp only
  rw [hu, Res.bind_ok]
  rfl

end

end

/-- Settles O25: each form by the lemma about its outcome. -/
theorem serviceCoreForms : Obligations.ServiceCoreForms := by
  unfold Obligations.ServiceCoreForms
  intro s x d a b h hx hpl ha v
  refine ⟨fun hd hv bs hbytes hok => ⟨fun code hcode => ?refused, fun sv hcode hsv => ?created⟩,
    fun hd id hid hv => ⟨fun hpart => ?absent, fun p hpart hprep hreset => ?ends⟩,
    fun die ch r haddr => ⟨exec_phyrd hx hpl ha haddr, fun hb u => exec_phywr hx hpl ha haddr hb⟩⟩
  case refused =>
    have hanswer : s.createAnswer x d v (bytesToNat bs) = s.done (x.wr d (word code)) 4 := by
      rw [State.createAnswer, hcode]
    rw [exec_partset_create hx hpl ha hd hv hbytes hok, hanswer]
    rfl
  case created =>
    have hanswer : s.createAnswer x d v (bytesToNat bs) = (s.createPart v (bytesToNat bs) sv).done (x.wr d 0) 4 := by
      rw [State.createAnswer, hcode, show SMap.find s.svLaunches (natBits (bytesToNat bs) 64 32) = some sv from hsv]
    rw [exec_partset_create hx hpl ha hd hv hbytes hok, hanswer]
    rfl
  case absent =>
    obtain hv | hv := hv
    · exact exec_partset_absent hx hpl ha hd hid (.inl rfl) hv hpart
    · exact exec_partset_absent hx hpl ha hd hid (.inr rfl) hv hpart
  case ends =>
    intro u u'
    obtain hv | hv := hv
    · have hu : u' = s.partEnded id 1 p := if_neg (by omega)
      rw [hu]
      exact exec_partset_ends hx hpl ha hd hid (.inl rfl) hv hpart hprep
    · have hu : u' = s.partEnded id 2 p := if_pos hv
      rw [hu]
      exact exec_partset_ends hx hpl ha hd hid (.inr rfl) hv hpart hprep

end Sys2Proof.Machine
end

section
/-! PROOF. The start and the end of a record, and the steps of the encoders (08 R139; 12 R231, R240, R253, R254). -/

namespace Sys2Proof.Machine
open Sys2Proof

/-! ### A task's engines and semaphores -/

theorem Task.eng_setEng (x : Task) (e : Engine) (g : Eng) : (x.setEng e g).eng e = g := by cases e <;> rfl
theorem Task.sem_setEng (x : Task) (e : Engine) (g : Eng) (n : Nat) : (x.setEng e g).sem n = x.sem n := by cases e <;> rfl

/-- The busy counts of codebook slots alone change. -/
theorem Task.mapBusy_keeps (i : Instr) (f : Nat → Nat) (x : Task) :
    (x.mapBusy i f).mat = x.mat ∧ (x.mapBusy i f).cpy = x.cpy ∧ (x.mapBusy i f).sems = x.sems := by
  unfold Task.mapBusy
  refine foldl_keeps (p := fun y : Task => y.mat = x.mat ∧ y.cpy = x.cpy ∧ y.sems = x.sems) (fun y n hy => ?_) _ ⟨rfl, rfl, rfl⟩
  exact hy

theorem Task.eng_mapBusy (x : Task) (e : Engine) (i : Instr) (f : Nat → Nat) : (x.mapBusy i f).eng e = x.eng e := by
  obtain ⟨hmat, hcpy, -⟩ := Task.mapBusy_keeps i f x
  cases e with
  | matrix => exact hmat
  | copy => exact hcpy

theorem Task.sem_mapBusy (x : Task) (i : Instr) (f : Nat → Nat) (n : Nat) : (x.mapBusy i f).sem n = x.sem n := by
  obtain ⟨-, -, hsems⟩ := Task.mapBusy_keeps i f x
  rw [Task.sem, Task.sem, hsems]

/-! ### RECORD_START (R231, R240) -/

section
variable {s : State} {t : Nat} {e : Engine} {x : Task} {k : Nat} {q : QRec} {w : BitVec 512} (hx : s.task? t = some x)
  (hruns : streamRuns x (streamOf e) = true) (hact : activeRecord e (x.eng e).queue = some (k, q)) (hnew : q.started = false)
  (hw : s.recordWords x q = .ok w)
include hx hruns hact hnew hw

theorem exec_recordStart_waits (hkind : (w.extractLsb' 56 8).toNat ≠ 0x30) (hmet : x.thresholdMet (recOf w) = false) :
    exec (.recordStart t e) s = .next s := by
  have hwait : ((bits w 56 8).toNat == 0x30 || x.thresholdMet (recOf w)) = false := by
    rw [hmet, Bool.or_false]
    exact beq_false_of_ne hkind
  show execRecordStart t e s = _
  unfold execRecordStart
  rw [hx]
  dsimp only
  rw [hact]
  dsimp only
  rw [if_neg (by simp [hnew, hruns]), hw, Res.bind_ok, hwait, waitFor_false, Res.bind_error]
  rfl

/-- What a start does once its words are there, its threshold is met and its semaphore is sound. -/
def State.startRecord (s : State) (t : Nat) (e : Engine) (x : Task) (k : Nat) (q : QRec) (w : BitVec 512) : Res State :=
  match decodeRecord w with
  | .error _ => fault Flt.illegal
  | .ok i => do
    check ((match recEngine i with | some eng => eng == e | none => true) && s.recordLegal x { q with w := w } i) Flt.illegal
    waitFor (allSlots i |>.all (fun n => !(((x.eng e).queue.take k).any (fun p => loadedSlot p.w == some n))))
    let trips ← if isHint i then .ok [0] else s.recordTrips x q (recOf w)
    let q := { q with w := w, trips := trips }
    check (isHint i || q.buffersOk x i) Flt.illegal
    let (q', cpy) ← s.kindChecks x q i
    let y := match e with | .copy => { x with cpy := cpy } | .matrix => x
    let g := y.eng e
    let y := (y.setEng e { g with queue := g.queue.set k { q' with started := true } }).mapBusy i (fun n => n + 1)
    .ok (s.setTask t (if (recOf w).wthr == 0 then y else y.noteSem s.cycle testRank (recOf w).wsem.toNat))

section
variable (hgo : (w.extractLsb' 56 8).toNat = 0x30 ∨ x.thresholdMet (recOf w) = true)
  (hsound : x.soundThreshold (recOf w) ((w.extractLsb' 56 8).toNat == 0x30) = .ok ())
include hgo hsound

theorem exec_recordStart_goes : exec (.recordStart t e) s = s.deliverStream t x (streamOf e) (s.startRecord t e x k q w) := by
  have hwait : ((bits w 56 8).toNat == 0x30 || x.thresholdMet (recOf w)) = true := by
    obtain h | h := hgo
    · rw [show ((bits w 56 8).toNat == 0x30) = true from beq_iff_eq.2 h, Bool.true_or]
    · rw [h, Bool.or_true]
  have hsound' : x.soundThreshold (recOf w) ((bits w 56 8).toNat == 0x30) = .ok () := hsound
  show execRecordStart t e s = _
  unfold execRecordStart
  rw [hx]
  dsimp only
  rw [hact]
  dsimp only
  rw [if_neg (by simp [hnew, hruns]), hw, Res.bind_ok, hwait, waitFor_true, Res.bind_ok, hsound', Res.bind_ok]
  rfl

/-- A task whose copy engine has the state that the checks of a start leave. -/
def Task.afterChecks (x : Task) (e : Engine) (cpy : Eng) : Task := match e with | .copy => { x with cpy := cpy } | .matrix => x

theorem exec_recordStart_starts {i : Instr} {trips : List Nat} {q' : QRec} {cpy : Eng} (hdec : decodeRecord w = .ok i)
    (heng : ∀ g, recEngine i = some g → g = e) (hlegal : s.recordLegal x { q with w := w } i = true)
    (hslots : ∀ n ∈ allSlots i, ∀ p ∈ (x.eng e).queue.take k, loadedSlot p.w ≠ some n) (hhint : isHint i = false)
    (htrips : s.recordTrips x q (recOf w) = .ok trips) (hbufs : ({ q with w := w, trips := trips } : QRec).buffersOk x i = true)
    (hchecks : s.kindChecks x { q with w := w, trips := trips } i = .ok (q', cpy)) :
    exec (.recordStart t e) s =
      let y := x.afterChecks e cpy
      let z := (y.setEng e { y.eng e with queue := (y.eng e).queue.set k { q' with started := true } }).mapBusy i (fun n => n + 1)
      .next (s.setTask t (if (recOf w).wthr = 0 then z else z.noteSem s.cycle testRank (recOf w).wsem.toNat)) := by
  have hengine : (match recEngine i with | some eng => eng == e | none => true) = true := by
    cases hg : recEngine i with
    | none => rfl
    | some g => exact beq_iff_eq.2 (heng g hg)
  have hfree : ((allSlots i).all (fun n => !(((x.eng e).queue.take k).any (fun p => loadedSlot p.w == some n)))) = true := by
    simpa using hslots
  rw [exec_recordStart_goes hx hruns hact hnew hw hgo hsound]
  unfold State.startRecord
  rw [hdec]
  dsimp only
  rw [check_of (by rw [hengine, hlegal]; rfl), Res.bind_ok, waitFor_of hfree, Res.bind_ok, hhint, if_neg Bool.false_ne_true, htrips, Res.bind_ok,
    check_of (by rw [Bool.false_or]; exact hbufs), Res.bind_ok, hchecks, Res.bind_ok]
  simp only [beq_iff_eq]
  cases e <;> rfl

end

end

/-! ### RECORD_COMPLETE (R231) -/

section
variable {s : State} {t : Nat} {e : Engine} {x : Task} (hx : s.task? t = some x) (hruns : streamRuns x (streamOf e) = true)
include hx hruns

theorem exec_recordComplete : exec (.recordComplete t e) s =
    if (mayComplete x e && x.signalInOrder e s.cycle) = true then .next (s.setTask t (x.completeRecord e s.cycle)) else .next s := by
  show execRecordComplete t e s = _
  unfold execRecordComplete
  simp only [hx, hruns, Bool.true_and]

end

section
variable {x : Task} {e : Engine} {q : QRec} {rest : List QRec} {i : Instr} (hq : (x.eng e).queue = q :: rest) (hdec : decodeRecord q.w = .ok i)
  (hkind : isEnc i = false)
include hq hdec hkind

/-- The task once its oldest record has left the engine, before the record's signal. -/
def Task.dropRecord (x : Task) (e : Engine) (rest : List QRec) (i : Instr) : Task :=
  (x.setEng e { x.eng e with queue := rest, done := (x.eng e).done + 1 }).mapBusy i (fun n => n - 1)

omit hq hdec hkind in
theorem Task.eng_dropRecord : (x.dropRecord e rest i).eng e = { x.eng e with queue := rest, done := (x.eng e).done + 1 } :=
  (Task.eng_mapBusy ..).trans (Task.eng_setEng ..)

omit hq hdec hkind in
theorem Task.sem_dropRecord (n : Nat) : (x.dropRecord e rest i).sem n = x.sem n := (Task.sem_mapBusy ..).trans (Task.sem_setEng ..)

theorem Task.completeRecord_eq (cycle : Nat) : x.completeRecord e cycle =
    if (recOf q.w).sig = true then ((x.dropRecord e rest i).signal (recOf q.w).ssem.toNat).noteSem cycle (engineRank e) (recOf q.w).ssem.toNat
    else x.dropRecord e rest i := by
  unfold Task.completeRecord
  simp only [hq, hdec, hkind, Bool.not_false, Bool.and_true]
  rfl

theorem Task.eng_completeRecord (cycle : Nat) : (x.completeRecord e cycle).eng e = { x.eng e with queue := rest, done := (x.eng e).done + 1 } := by
  rw [Task.completeRecord_eq hq hdec hkind]
  split
  · exact (show Task.eng _ e = (x.dropRecord e rest i).eng e by cases e <;> rfl).trans Task.eng_dropRecord
  · exact Task.eng_dropRecord

theorem Task.sem_completeRecord (cycle n : Nat) : (x.completeRecord e cycle).sem n =
    if (recOf q.w).sig = true ∧ n = (recOf q.w).ssem.toNat then BitVec.ofNat 32 (min ((x.sem n).toNat + 1) (2 ^ 32 - 1)) else x.sem n := by
  rw [Task.completeRecord_eq hq hdec hkind]
  by_cases hsig : (recOf q.w).sig = true
  · rw [if_pos hsig]
    by_cases hn : n = (recOf q.w).ssem.toNat
    · subst hn
      rw [if_pos ⟨hsig, rfl⟩, ← Task.sem_dropRecord (x := x) (e := e) (rest := rest) (i := i)]
      exact Task.sem_setSem ..
    · rw [if_neg fun h => hn h.2]
      exact (Task.sem_setSem_other _ _ _ _ hn).trans (Task.sem_dropRecord n)
  · rw [if_neg hsig, if_neg fun h => hsig h.1]
    exact Task.sem_dropRecord n

end

/-! ### The encoders (R253, R254) -/

section
variable {s : State} {enc : Nat} {f : EncFrame}

section
variable (hidle : ∀ g ∈ (s.encoder enc).frames, g.running = false) (hnext : s.nextFrame (s.encoder enc) = some f)
include hidle hnext

theorem exec_encoderFrameStart_resumes (hst : f.stopped = true) : exec (.encoderFrameStart enc) s =
    .next (s.setEncoder enc ((s.encoder enc).replace { f with running := true, stopped := false })) := by
  show execEncoderFrameStart enc s = _
  unfold execEncoderFrameStart
  rw [if_neg (by simpa using hidle), hnext]
  exact if_pos hst

theorem exec_encoderFrameStart_begins {p k : List Nat} (hst : f.stopped = false) (hp : s.frameCells f.part f.g0 f.h0 wantsRead = some p)
    (hk : s.frameCells f.part f.g2 f.h2 wantsRead = some k) (hread : (p ++ k).all s.readable = true) : exec (.encoderFrameStart enc) s =
    .next (s.setEncoder enc ((s.encoder enc).replace { f with
      running := true, bad := (p ++ k).any s.isBad, picture := f.samples (p.map s.byteAt), context := k.map s.byteAt })) := by
  show execEncoderFrameStart enc s = _
  unfold execEncoderFrameStart
  rw [if_neg (by simpa using hidle), hnext]
  refine (if_neg (Bool.eq_false_iff.1 hst)).trans ?_
  rw [hp, hk]
  exact if_neg (by rw [hread]; decide)

end

section
variable (hrun : (s.encoder enc).frames.find? (fun f => f.running) = some f)
include hrun

section
variable {g : EncFrame} (hnext : s.nextFrame (s.encoder enc) = some g)
include hnext

/-- A frame of a higher class stops the one that runs, which leaves its state in its context. -/
theorem exec_encoderFrameSwitch_stops {k : List Nat} (hlt : g.cls < f.cls) (hk : s.freshFree.2.frameCells f.part f.g2 f.h2 wantsWrite = some k) :
    exec (.encoderFrameSwitch enc) s = .next ((s.freshFree.2.store
      ((k.zip (natToBytes f.context.length s.freshFree.1)).map (fun p => { a := p.1, mask := 0xFF, v := p.2 }))).setEncoder enc
        ((s.encoder enc).replace { f with running := false, stopped := true, spilled := true })) := by
  show execEncoderFrameSwitch enc s = _
  unfold execEncoderFrameSwitch
  extract_lets c
  rw [hrun, hnext]
  refine (if_pos hlt).trans ?_
  dsimp only
  rw [hk]

theorem exec_encoderFrameSwitch_stays (hle : f.cls ≤ g.cls) : exec (.encoderFrameSwitch enc) s = .next s := by
  show execEncoderFrameSwitch enc s = _
  unfold execEncoderFrameSwitch
  extract_lets c
  rw [hrun, hnext]
  exact if_neg (Nat.not_lt.2 hle)

end

/-- The context that a completed frame writes, if it does. -/
def EncFrame.contextWrites (f : EncFrame) (k : List Nat) : List ByteWrite :=
  if f.outcome.1 = 0 || f.outcome.1 = 2 || f.spilled then (k.zip f.outcome.2.2.1).map (fun p => { a := p.1, mask := 0xFF, v := p.2 }) else []

theorem exec_encoderFrameComplete {a b : List ByteWrite} {k : List Nat} (ha : s.outputWrites f 64 f.outcome.2.1 = some a)
    (hb : s.outputWrites f 0 (natToBytes 8 f.outcome.2.1.length ++ natToBytes 4 f.outcome.1 ++ natToBytes 4 f.outcome.2.2.2) = some b)
    (hk : s.frameCells f.part f.g2 f.h2 wantsWrite = some k) (hon : (a ++ b ++ f.contextWrites k).all (fun w => s.online w.a) = true) :
    exec (.encoderFrameComplete enc) s =
      .next (((s.store (a ++ b ++ f.contextWrites k)).setEncoder enc ((s.encoder enc).finish f.number)).frameSignal f) := by
  have hon' : ¬ (!(a ++ b ++ f.contextWrites k).all (fun w => s.online w.a)) = true := by simpa using hon
  show execEncoderFrameComplete enc s = _
  unfold execEncoderFrameComplete
  extract_lets c
  rw [hrun]
  dsimp only
  rw [ha, hb, hk]
  exact if_neg hon'

end

end

/-- Settles O41: each step by the lemma about its outcome. -/
theorem engineEvents : Obligations.EngineEvents := by
  unfold Obligations.EngineEvents
  refine ⟨fun s t e x k q w hx hruns hact hnew hw => ⟨exec_recordStart_waits hx hruns hact hnew hw,
      fun hgo hsound => ⟨fun f hf => ?illegal, fun i trips q' cpy => ?starts⟩⟩,
    fun s t e x q rest i hx hruns hq hdec hkind => ⟨fun hno => ?notYet, fun hmay horder => ?completes⟩,
    fun s enc f => ⟨fun hidle hnext => ⟨exec_encoderFrameStart_resumes hidle hnext, fun p k => exec_encoderFrameStart_begins hidle hnext⟩,
      fun g hrun hnext => ⟨fun k hlt hk => ?switch, fun hle => ?stays⟩, fun a b k hrun => ?complete⟩⟩
  case illegal =>
    have hfault : s.startRecord t e x k q w = fault Flt.illegal := by rw [State.startRecord, hf]
    rw [exec_recordStart_goes hx hruns hact hnew hw hgo hsound, hfault]
    rfl
  case starts =>
    intro hdec heng hlegal hslots hhint htrips hbufs hchecks
    refine (exec_recordStart_starts hx hruns hact hnew hw hgo hsound hdec heng hlegal hslots hhint htrips hbufs hchecks).trans ?_
    cases e <;> rfl
  case notYet =>
    refine (exec_recordComplete hx hruns).trans (if_neg fun h => ?_)
    obtain ⟨hmay, horder⟩ := (Bool.and_eq_true _ _).mp h
    obtain hno | hno := hno
    · exact absurd (hno.symm.trans hmay) Bool.false_ne_true
    · exact absurd (hno.symm.trans horder) Bool.false_ne_true
  case completes =>
    refine ⟨_, (exec_recordComplete hx hruns).trans (if_pos (by rw [hmay, horder]; rfl)), ?_, ?_, Task.sem_completeRecord hq hdec hkind s.cycle⟩
    · rw [Task.eng_completeRecord hq hdec hkind]
    · rw [Task.eng_completeRecord hq hdec hkind]
  case switch => exact exec_encoderFrameSwitch_stops hrun hnext hlt hk
  case stays => exact exec_encoderFrameSwitch_stays hrun hnext hle
  case complete =>
    intro o ha hb hk ctx hon
    have hctx : f.contextWrites k = ctx := by simp only [EncFrame.contextWrites, Bool.or_eq_true, decide_eq_true_eq, or_assoc, ctx, o]
    rw [← hctx] at hon ⊢
    exact exec_encoderFrameComplete hrun ha hb hk hon

end Sys2Proof.Machine
end


section
/-! PROOF. A pass of mmul (O36). -/

namespace Sys2Proof.Machine
open Sys2Proof

/-! ### The sum of a dot product modulo 2^40 (R78) -/

/-- A sum that wraps is equal to the exact one modulo 2^40. -/
theorem foldInt_wrap_modEq (acc : Int) (p : List Int) : foldInt true acc p ≡ acc + p.sum [ZMOD 2 ^ 40] := by
  rw [foldInt, if_pos rfl, List.sum_eq_foldl]
  exact (signedOf_modEq 40 _).trans (codeOf_modEq 40 _)

/-- Summing group by group gives, modulo 2^40, the sum of all. -/
theorem foldl_chunks_modEq {α : Type} (prod : α → Int) {n : Nat} (hn : 0 < n) : ∀ (fuel : Nat) (l : List α) (acc : Int), l.length ≤ fuel →
    (chunks n fuel l).foldl (fun acc g => foldInt true acc (g.map prod)) acc ≡ acc + (l.map prod).sum [ZMOD 2 ^ 40]
  | 0, l, acc, hl => by
    obtain rfl : l = [] := List.length_eq_zero_iff.1 (Nat.le_zero.1 hl)
    simp [chunks]
  | fuel + 1, [], acc, _ => by simp [chunks]
  | fuel + 1, a :: l, acc, hl => by
    have hrest : ((a :: l).drop n).length ≤ fuel := by
      rw [List.length_drop]
      omega
    have hsum : ((a :: l).map prod).sum = (((a :: l).take n).map prod).sum + (((a :: l).drop n).map prod).sum := by
      rw [← List.sum_append, ← List.map_append, List.take_append_drop]
    have hstep := foldl_chunks_modEq prod hn fuel ((a :: l).drop n) (foldInt true acc (((a :: l).take n).map prod)) hrest
    rw [hsum, ← Int.add_assoc]
    exact hstep.trans ((foldInt_wrap_modEq _ _).add_right _)

theorem mmulElement_int_wrap {bt : Bool} {kk : Nat} {a b : Data} {av bv : List Val} {i j old : Nat}
    (hq : (fmtKind a.tag == .hs || fmtKind b.tag == .hs) = false) :
    mmulElement 3 true bt kk .int a b av bv i j old =
      ((signedOf 40 old + ((List.range kk).map (fun k => intFactor false a.tag (nth a.vals (i * kk + k) 0) *
        intFactor false b.tag (nth b.vals (if bt then j * kk + k else k * 64 + j) 0))).sum) % 2 ^ 40).toNat := by
  unfold mmulElement codeOf
  rw [hq]
  exact congrArg Int.toNat (foldl_chunks_modEq _ (by decide) kk (List.range kk) (signedOf 40 old) (List.length_range).le)

/-! ### The pass -/

/-- A tile that a pass reads is Ready; one that the pass drains has no other reader. -/
abbrev Task.mayRead (x : Task) (id : Nat) (drains : Bool) : Prop := (x.tile id).st = .ready ∧ (drains = true → (x.tile id).readers = 0)

/-- The accumulator tile of a pass is filled, not updated. -/
abbrev QRec.mmulFills (q : QRec) (r : RecWord) (it : Nat) : Bool := r.clr && !q.named.contains it

/-- A tile that a pass fills is Empty; one that it updates is Ready, with no other reader. -/
abbrev Task.mayTake (x : Task) (id : Nat) (fill : Bool) : Prop :=
  if fill = true then (x.tile id).st = .empty else (x.tile id).st = .ready ∧ (x.tile id).readers = 0

theorem TileUse.may_read_iff {x : Task} {id : Nat} {drains : Bool} :
    TileUse.may (if drains = true then .drain else .read) (x.tile id) = true ↔ x.mayRead id drains := by
  cases drains <;> simp [TileUse.may]

theorem TileUse.may_take_iff {x : Task} {id : Nat} {fill : Bool} :
    TileUse.may (if fill = true then .fill else .update) (x.tile id) = true ↔ x.mayTake id fill := by
  cases fill <;> simp [TileUse.may]

/-- Whether an accumulator tile holds quarter units (R78). -/
abbrev mmulQuarter (kind : MatKind) (a b : Data) : Bool := kind == .int && (fmtKind a.tag == .hs || fmtKind b.tag == .hs)

/-- A pass that may complete, of a task as the pass sees it: its tiles' states, formats and geometry. -/
structure MmulPass (s : State) (x : Task) (q : QRec) (r : RecWord) (ia ib it kk : Nat) (kind : MatKind) : Prop where
  readsA : x.mayRead ia (q.lastRead x r q.pass ia)
  readsB : x.mayRead ib (q.lastRead x r q.pass ib)
  takes : x.mayTake it (q.mmulFills r it)
  soundA : (x.tile ia).bad = []
  soundB : (x.tile ib).bad = []
  soundT : q.mmulFills r it = false → (x.tile it).bad = []
  pair : matPair (x.tileData ia).tag (x.tileData ib).tag = some (kk, kind)
  elementsB : r.kflags.getLsbD 0 = false → fmtIsBlock (x.tileData ib).tag = false
  profLo : 1 ≤ s.profileOf x r
  profHi : s.profileOf x r ≤ 4
  profInt : s.profileOf x r = 3 ↔ kind = .int
  rowsA : nth (x.tileData ia).ext 1 0 = shapeRows r.shape
  colsA : nth (x.tileData ia).ext 0 0 = kk
  extB : r.kflags.getLsbD 0 = true → nth (x.tileData ib).ext 1 0 = 64 ∧ nth (x.tileData ib).ext 0 0 = kk
  extBn : r.kflags.getLsbD 0 = false → nth (x.tileData ib).ext 1 0 = kk ∧ nth (x.tileData ib).ext 0 0 = 64
  tagT : q.mmulFills r it = false → (x.tile it).tag = (if kind = .int then Fm.i40 else Fm.a40) ∧
    (x.tile it).quarter = mmulQuarter kind (x.tileData ia) (x.tileData ib)

/-- The accumulator tile's values after a pass. -/
def State.mmulValues (s : State) (x : Task) (q : QRec) (r : RecWord) (ia ib it kk : Nat) (kind : MatKind) : List Nat :=
  mmulTile (s.profileOf x r) r.wrap (r.kflags.getLsbD 0) (shapeRows r.shape) kk kind (x.tileData ia) (x.tileData ib)
    (if q.mmulFills r it = true then List.replicate 8192 0 else (x.tileData it).vals)

/-- The task after a pass: its accumulator tile with the new values, and the slots drained that no later pass reads. -/
def State.afterMmul (s : State) (x : Task) (q : QRec) (r : RecWord) (ia ib it kk : Nat) (kind : MatKind) : Task :=
  let y := x.fillAcc it (if kind = .int then Fm.i40 else Fm.a40) (mmulQuarter kind (x.tileData ia) (x.tileData ib))
    (s.mmulValues x q r ia ib it kk kind) []
  let y := if q.lastRead x r q.pass ia = true then y.drain ia else y
  if ib ≠ ia ∧ q.lastRead x r q.pass ib = true then y.drain ib else y

section
variable {s : State} {x : Task} {q : QRec} {r : RecWord} {ia ib it kk : Nat} {kind : MatKind} (h : MmulPass s x q r ia ib it kk kind)
include h

theorem MmulPass.soundTile_acc : x.soundTile it (fun w => !q.mmulFills r it && decide (w / 64 < shapeRows r.shape)) = .ok () := by
  refine Task.soundTile_ok fun n hn => ?_
  cases hfill : q.mmulFills r it with
  | true => rfl
  | false =>
    rw [h.soundT hfill] at hn
    exact absurd hn (List.not_mem_nil)

theorem MmulPass.bad_acc : (if q.mmulFills r it = true then [] else (x.tile it).bad) = [] := by
  split
  · rfl
  · next hfill => exact h.soundT (Bool.eq_false_iff.2 hfill)

theorem MmulPass.prof_checked : (decide (1 ≤ s.profileOf x r) && decide (s.profileOf x r ≤ 4) &&
    (s.profileOf x r == 3) == (kind == MatKind.int)) = true := by
  simp only [h.profLo, h.profHi, decide_true, Bool.and_self, Bool.true_and, beq_iff_eq]
  rw [Bool.eq_iff_iff, beq_iff_eq, beq_iff_eq]
  exact h.profInt

theorem MmulPass.extA_checked : (nth (x.tileData ia).ext 1 0 == shapeRows r.shape && nth (x.tileData ia).ext 0 0 == kk) = true := by
  simp [h.rowsA, h.colsA]

theorem MmulPass.elementsB_checked : (r.kflags.getLsbD 0 || !fmtIsBlock (x.tileData ib).tag) = true := by
  cases hbt : r.kflags.getLsbD 0 with
  | true => rfl
  | false => simp [h.elementsB hbt]

theorem MmulPass.extB_checked : (if r.kflags.getLsbD 0 = true then nth (x.tileData ib).ext 1 0 == 64 && nth (x.tileData ib).ext 0 0 == kk
    else nth (x.tileData ib).ext 1 0 == kk && nth (x.tileData ib).ext 0 0 == 64) = true := by
  split
  · next hbt => simp [h.extB hbt]
  · next hbt => simp [h.extBn (Bool.eq_false_iff.2 hbt)]

theorem MmulPass.tagT_checked : (q.mmulFills r it || (x.tile it).tag == (if kind = .int then Fm.i40 else Fm.a40) &&
    (x.tile it).quarter == mmulQuarter kind (x.tileData ia) (x.tileData ib)) = true := by
  cases hfill : q.mmulFills r it with
  | true => rfl
  | false =>
    obtain ⟨htag, hquarter⟩ := h.tagT hfill
    rw [htag, hquarter]
    simp

end

section
variable {s : State} {x : Task} {i : Nat} {q : QRec} {r : RecWord} {ia ib it : Nat} (hw : Works s x .matrix i q)
  (ha : q.tileId (q.view x) r 0 q.pass = .ok ia) (hb : q.tileId (q.view x) r 1 q.pass = .ok ib) (ht : q.tileId (q.view x) r 2 q.pass = .ok it)
include hw ha hb ht

/-- A pass stalls on a tile in another state, -/
theorem execMmul_stalls (hnot : ¬ ((q.view x).mayRead ia (q.lastRead (q.view x) r q.pass ia) ∧
    (q.view x).mayRead ib (q.lastRead (q.view x) r q.pass ib) ∧ (q.view x).mayTake it (q.mmulFills r it))) : execMmul r s = .next s := by
  refine State.issuePass_stall hw ?_
  simp only [ha, hb, ht, Res.bind_ok]
  by_cases hma : (q.view x).mayRead ia (q.lastRead (q.view x) r q.pass ia)
  · rw [Task.needs_ok (TileUse.may_read_iff.2 hma), Res.bind_ok]
    by_cases hmb : (q.view x).mayRead ib (q.lastRead (q.view x) r q.pass ib)
    · rw [Task.needs_ok (TileUse.may_read_iff.2 hmb), Res.bind_ok,
        Task.needs_stall (Bool.eq_false_iff.2 fun hmt => hnot ⟨hma, hmb, TileUse.may_take_iff.1 hmt⟩)]
      rfl
    · rw [Task.needs_stall (Bool.eq_false_iff.2 fun h => hmb (TileUse.may_read_iff.1 h))]
      rfl
  · rw [Task.needs_stall (Bool.eq_false_iff.2 fun h => hma (TileUse.may_read_iff.1 h))]
    rfl

/-- and ends, where it may complete, with the accumulator tile's new values. -/
theorem execMmul_ends {kk : Nat} {kind : MatKind} (h : MmulPass s (q.view x) q r ia ib it kk kind) :
    execMmul r s = s.turnEnds (s.setTask s.cur (s.afterMmul (q.view x) q r ia ib it kk kind)) .matrix i
      { q with named := it :: q.named, pass := q.pass + 1 } := by
  have hsoundA := Task.soundTile_ok (x := q.view x) (id := ia) (w := fun _ => true) (by simp [h.soundA])
  have hsoundB := Task.soundTile_ok (x := q.view x) (id := ib) (w := fun _ => true) (by simp [h.soundB])
  have hdrain : (ib != ia && q.lastRead (q.view x) r q.pass ib) = true ↔ ib ≠ ia ∧ q.lastRead (q.view x) r q.pass ib = true := by simp
  refine State.issuePass_ends hw (q' := { q with named := it :: q.named }) ?_
  simp only [ha, hb, ht, Res.bind_ok, Task.needs_ok (TileUse.may_read_iff.2 h.readsA), Task.needs_ok (TileUse.may_read_iff.2 h.readsB),
    Task.needs_ok (TileUse.may_take_iff.2 h.takes), hsoundA, hsoundB, h.soundTile_acc, h.pair, check_of h.elementsB_checked,
    check_of h.prof_checked, check_of h.extA_checked, check_of h.extB_checked, beq_iff_eq, check_of h.tagT_checked, h.bad_acc, hdrain]
  rfl

end

/-- Settles O36: the states that a pass needs are those of its tile uses, and its groups of products sum, modulo 2^40, to the dot
product. -/
theorem matrixPass : Obligations.MatrixPass := by
  unfold Obligations.MatrixPass
  refine ⟨?_, fun bt kk a b av bv i j old hka hkb => ?_⟩
  · intro s x i q r ia ib it hw
    dsimp only
    intro ha hb ht
    refine ⟨execMmul_stalls hw ha hb ht, ?_⟩
    intro hra hrb htk hsa hsb hst kk kind hpair helem hlo hhi hint hrows hcols hbt hbn htag
    exact execMmul_ends hw ha hb ht
      ⟨hra, hrb, htk, hsa, hsb, hst, hpair, helem, hlo, hhi, hint, hrows, hcols, hbt, hbn, htag⟩
  · exact mmulElement_int_wrap (by simp [hka, hkb])

end Sys2Proof.Machine

end


section
/-! PROOF. A pass of the copying kinds (O37). -/

namespace Sys2Proof.Machine
open Sys2Proof

/-- A pass that fills a tile that is not Empty stalls. -/
theorem Task.needs_fill_stall {x : Task} {id : Nat} (h : (x.tile id).st ≠ .empty) : x.needs id .fill = .error .stall :=
  Task.needs_stall (beq_eq_false_iff_ne.2 h)

theorem Task.needs_fill_ok {x : Task} {id : Nat} (h : (x.tile id).st = .empty) : x.needs id .fill = .ok () :=
  Task.needs_ok (beq_iff_eq.2 h)

/-- One that reads a tile, and drains it with REL, needs it Ready, with no other reader if it drains it. -/
theorem Task.needs_source_ok {x : Task} {id : Nat} {rel : Bool} (hst : (x.tile id).st = .ready) (hrel : rel = true → (x.tile id).readers = 0) :
    x.needs id (if rel = true then .drain else .read) = .ok () := by
  refine Task.needs_ok ?_
  cases rel with
  | false => exact beq_iff_eq.2 hst
  | true => simp [TileUse.may, hst, hrel rfl]

theorem Task.needs_source_stall {x : Task} {id : Nat} {rel : Bool} (h : (x.tile id).st ≠ .ready ∨ (rel = true ∧ (x.tile id).readers ≠ 0)) :
    x.needs id (if rel = true then .drain else .read) = .error .stall := by
  refine Task.needs_stall ?_
  rcases h with hst | ⟨hrel, hreaders⟩
  · cases rel <;> simp [TileUse.may, hst]
  · simp [TileUse.may, hrel, hreaders]

theorem Task.soundTile_of_nil {x : Task} {id : Nat} {w : Nat → Bool} (h : (x.tile id).bad = []) : x.soundTile id w = .ok () := by
  refine Task.soundTile_ok fun n hn => ?_
  rw [h] at hn
  exact absurd hn List.not_mem_nil

section
variable {s : State} {x : Task} {i : Nat} {q : QRec} {r : RecWord} (hw : Works s x .copy i q)
include hw

/-! ### copy (R236, R237) -/

section
variable {g : Region} {h : Handle} {d : Data} (hsrc : isBox r 0 = true) (hread : Reads s (q.view x) q r (q.sourceExt r) g h d)
include hsrc hread

theorem execCopy_box_box {ws : List (List ByteWrite)} (hdst : isBox r 1 = true)
    (hwrite : Writes s (q.view x) q r (q.sourceExt r) d.vals d.hdrs ws) :
    execCopy r s = s.turnEnds (s.postRecord (q.view x) q r ws) .copy i { q with pass := q.pass + 1 } := by
  obtain ⟨hbox, hdata⟩ := hread
  obtain ⟨g1, h1, hbox1, hws⟩ := hwrite
  refine State.issuePass_ends hw (q' := q) ?_
  simp only [hsrc, hdst, if_true, hbox, hdata, hbox1, hws, Res.bind_ok]

section
variable {id : Nat} (hdst : isBox r 1 = false) (hid : q.tileId (q.view x) r 1 q.pass = .ok id)
include hdst hid

theorem execCopy_box_tile_stalls (hst : ((q.view x).tile id).st ≠ .empty) : execCopy r s = .next s := by
  obtain ⟨hbox, hdata⟩ := hread
  refine State.issuePass_stall hw ?_
  simp only [hsrc, hdst, if_true, Bool.false_eq_true, if_false, hbox, hid, Task.needs_fill_stall hst, Res.bind_ok]
  rfl

theorem execCopy_box_tile (hst : ((q.view x).tile id).st = .empty) (hfits : (q.view x).fillFits id d.tag (fun k => nth d.ext k 1) = .ok ()) :
    execCopy r s = s.turnEnds (s.setTask s.cur (if tileGroup id = 1 then (q.view x).fillAcc id d.tag false (accFromBox d) []
      else (q.view x).fillTile id d)) .copy i { q with pass := q.pass + 1 } := by
  obtain ⟨hbox, hdata⟩ := hread
  refine State.issuePass_ends hw (q' := q) ?_
  simp only [hsrc, hdst, if_true, Bool.false_eq_true, if_false, hbox, hid, Task.needs_fill_ok hst, hdata, hfits, Res.bind_ok]
  rfl

end

end

section
variable {id : Nat} (hsrc : isBox r 0 = false) (hid : q.tileId (q.view x) r 0 q.pass = .ok id)
include hsrc hid

theorem execCopy_tile_stalls (hst : ((q.view x).tile id).st ≠ .ready ∨ (r.rel = true ∧ ((q.view x).tile id).readers ≠ 0)) :
    execCopy r s = .next s := by
  refine State.issuePass_stall hw ?_
  simp only [hsrc, Bool.false_eq_true, if_false, hid, Task.needs_source_stall hst, Res.bind_ok]
  rfl

/-- The window that a pass takes of a tile, along one dimension. -/
abbrev QRec.tileExt (q : QRec) (x : Task) (id k : Nat) : Nat := q.extent (fun j => nth (x.tileData id).ext j 1) k

theorem execCopy_tile {g : Region} {h : Handle} {p : Data} {v : List Nat × List Nat} {ws : List (List ByteWrite)}
    (hst : ((q.view x).tile id).st = .ready) (hrel : r.rel = true → ((q.view x).tile id).readers = 0) (hbad : ((q.view x).tile id).bad = [])
    (hbox : s.boxWindow (q.view x) q r 1 q.pass (q.tileExt (q.view x) id) = .ok (g, h))
    (hpart : ((q.view x).tileData id).part (q.tileExt (q.view x) id) = .ok p) (hv : (q.view x).fromTile id g.fmt r.wrap p = .ok v)
    (hws : s.writeWindow (q.view x) g h v.1 v.2 = .ok ws) :
    execCopy r s = s.turnEnds (s.postRecord (if r.rel = true then (q.view x).drain id else q.view x) q r ws) .copy i
      { q with pass := q.pass + 1 } := by
  refine State.issuePass_ends hw (q' := q) ?_
  simp only [hsrc, Bool.false_eq_true, if_false, hid, Task.needs_source_ok hst hrel, Task.soundTile_of_nil hbad, hbox, hpart, hv, hws, Res.bind_ok]

end

/-! ### The other copying kinds (R236, R239, R247, R251) -/

section
variable {g : Region} {h : Handle} {d : Data} {ws : List (List ByteWrite)} (hread : Reads s (q.view x) q r (q.sourceExt r) g h d)
include hread

theorem execCopyl_ends {g1 : Region} {h1 : Handle} (hbox1 : s.boxWindow (q.view x) q r 1 q.pass (q.sourceExt r) = .ok (g1, h1))
    (hws : s.writeWindow (q.view x) g1 h1 (convertAll g1.fmt r.wrap d.values).1 (convertAll g1.fmt r.wrap d.values).2 = .ok ws) :
    execCopyl r s = s.turnEnds (s.postRecord (q.view x) q r ws) .copy i { q with pass := q.pass + 1 } := by
  obtain ⟨hbox, hdata⟩ := hread
  refine State.issuePass_ends hw (q' := q) ?_
  simp only [hbox, hbox1, hdata, hws, Res.bind_ok]

/-- The extents of a window's blocks. -/
abbrev QRec.blockExt (q : QRec) (r : RecWord) (g : Region) (k : Nat) : Nat :=
  if k = 0 then q.sourceExt r 0 / fmtBlock g.fmt else q.sourceExt r k

theorem permutePass_ends {pi : Nat → Nat} (hwrite : Writes s (q.view x) q r (fun k => q.sourceExt r (pi k))
    (permuteList (q.sourceExt r) pi d.vals) (if d.hdrs.isEmpty = true then [] else permuteList (q.blockExt r g) pi d.hdrs) ws) :
    s.permutePass r pi = s.turnEnds (s.postRecord (q.view x) q r ws) .copy i { q with pass := q.pass + 1 } := by
  obtain ⟨hbox, hdata⟩ := hread
  obtain ⟨g1, h1, hbox1, hws⟩ := hwrite
  refine State.issuePass_ends hw (q' := q) ?_
  simp only [hbox, hbox1, hdata, hws, Res.bind_ok]

end

/-- The elements of a pass of fill, and the pattern's value as an element. -/
abbrev QRec.fillCount (q : QRec) (x : Task) (r : RecWord) : Nat :=
  q.fillExt x r q.pass 0 * q.fillExt x r q.pass 1 * q.fillExt x r q.pass 2 * q.fillExt x r q.pass 3
abbrev QRec.fillVals (q : QRec) (x : Task) (r : RecWord) (f : Fmt) : List Nat := List.replicate (q.fillCount x r) (q.pattern % 2 ^ fmtBits f)

theorem execFill_box {g : Region} {h : Handle} {ws : List (List ByteWrite)} (hdst : isBox r 1 = true)
    (hbox : s.boxWindow (q.view x) q r 1 q.pass (q.fillExt (q.view x) r q.pass) = .ok (g, h))
    (hws : s.writeWindow (q.view x) g h (q.fillVals (q.view x) r g.fmt) [] = .ok ws) :
    execFill r s = s.turnEnds (s.postRecord (q.view x) q r ws) .copy i { q with pass := q.pass + 1 } := by
  refine State.issuePass_ends hw (q' := q) ?_
  simp only [hdst, if_true, hbox, hws, Res.bind_ok]

section
variable {id : Nat} (hdst : isBox r 1 = false) (hid : q.tileId (q.view x) r 1 q.pass = .ok id)
include hdst hid

theorem execFill_tile_stalls (hst : ((q.view x).tile id).st ≠ .empty) : execFill r s = .next s := by
  refine State.issuePass_stall hw ?_
  simp only [hdst, Bool.false_eq_true, if_false, hid, Task.needs_fill_stall hst, Res.bind_ok]
  rfl

theorem execFill_tile (hst : ((q.view x).tile id).st = .empty)
    (hfits : (q.view x).fillFits id (BitVec.ofNat 6 (w7 r 0 6)) (q.fillExt (q.view x) r q.pass) = .ok ()) :
    execFill r s = s.turnEnds (s.setTask s.cur ((q.view x).fillTile id
      { tag := BitVec.ofNat 6 (w7 r 0 6), ext := dims.map (q.fillExt (q.view x) r q.pass),
        vals := q.fillVals (q.view x) r (BitVec.ofNat 6 (w7 r 0 6)), hdrs := [] })) .copy i { q with pass := q.pass + 1 } := by
  refine State.issuePass_ends hw (q' := q) ?_
  simp only [hdst, Bool.false_eq_true, if_false, hid, Task.needs_fill_ok hst, hfits, Res.bind_ok]
  rfl

end

theorem blockListPass_ends {gather : Bool} {bs : List ((Region × Handle) × (Region × Handle))} {ds : List Data}
    {ws : List (List (List ByteWrite))} (hbs : s.allBlocks (q.view x) q r gather q.named = .ok bs)
    (hds : bs.mapM (fun b => s.readWindow (q.view x) b.1.1 b.1.2) = .ok ds)
    (hws : (bs.zip ds).mapM (fun p => s.writeWindow (q.view x) p.1.2.1 p.1.2.2 p.2.vals p.2.hdrs) = .ok ws) :
    s.blockListPass r gather = s.turnEnds (s.postRecord (q.view x) q r ws.flatten) .copy i { q with pass := q.pass + 1 } := by
  refine State.issuePass_ends hw (q' := q) ?_
  simp only [hbs, hds, hws, Res.bind_ok, List.flatMap_id]

theorem execShpf_ends {l : List Nat} {g : Region} {h : Handle} {ws : List (List ByteWrite)} (hl : s.checkShpf (q.view x) q r = .ok l)
    (hbox : s.window2 (q.view x) (q.handle r 1) (fun _ => 0) (fun d => if d = 0 then l.length else 1) = .ok (g, h))
    (hws : s.writeWindow (q.view x) g h l [] = .ok ws) :
    execShpf r s = s.turnEnds (s.postRecord (q.view x) q r ws) .copy i { q with pass := q.pass + 1 } := by
  refine State.issuePass_ends hw (q' := q) ?_
  simp only [hl, hbox, hws, Res.bind_ok]

theorem execDigest_ends {rd : Nat → Region × Data} {g : Region} {h : Handle} {ws : List (List ByteWrite)}
    (hrd : ∀ k ∈ [0, 1, 2].filter (isBox r), s.regionOf (q.view x).own (q.handle r k) = .ok (rd k).1 ∧
      s.readWindow (q.view x) (rd k).1 (q.handle r k) = .ok (rd k).2)
    (hbox : s.window2 (q.view x) (q.handle r 3) (fun _ => 0) (fun d => if d = 0 then 48 else 1) = .ok (g, h))
    (hws : s.writeWindow (q.view x) g h ((sha384 (([0, 1, 2].filter (isBox r)).flatMap
      (fun k => canonicalBytes (q.handle r k) (rd k).2))).map (fun b => b.toNat)) [] = .ok ws) :
    execDigest r s = s.turnEnds (s.postRecord (q.view x) q r ws) .copy i { q with pass := q.pass + 1 } := by
  refine State.issuePass_ends hw (q' := q) ?_
  rw [Res.mapM_ok (g := fun k => canonicalBytes (q.handle r k) (rd k).2)]
  · simp only [Res.bind_ok, List.flatMap_id, hbox]
    rw [← List.flatMap_def, hws]
    rfl
  · intro k hk
    obtain ⟨hregion, hdata⟩ := hrd k hk
    simp only [hregion, hdata, Res.bind_ok]

end

/-- Settles O37: each kind's pass, from the windows that it reads. -/
theorem copyPasses : Obligations.CopyPasses := by
  unfold Obligations.CopyPasses
  refine ⟨fun s x i q r hw => ⟨?_, ?_⟩, fun s x i q r hw => ⟨?_, ?_, ⟨?_, ?_⟩, ?_, ?_, ?_⟩⟩
  · intro g h d hsrc hread
    exact ⟨fun ws hdst hwrite => execCopy_box_box hw hsrc hread hdst hwrite, fun id hdst hid =>
      ⟨execCopy_box_tile_stalls hw hsrc hread hdst hid, execCopy_box_tile hw hsrc hread hdst hid⟩⟩
  · intro id hsrc hid
    exact ⟨execCopy_tile_stalls hw hsrc hid, fun hst hrel hbad g h p v ws hbox hpart hv hws =>
      execCopy_tile hw hsrc hid hst hrel hbad hbox hpart hv hws⟩
  · intro g g1 h h1 d ws hread hbox1 hws
    exact execCopyl_ends hw hread hbox1 hws
  · intro pi g h d ws hread blocks hwrite
    have hends := permutePass_ends hw hread hwrite
    refine ⟨fun hpi => ?_, fun hpi => ?_⟩
    · obtain rfl : pi = permOf r := funext hpi
      exact hends
    · obtain rfl : pi = transOf r := funext hpi
      exact hends
  · intro g h ws hdst hbox hws
    exact execFill_box hw hdst hbox hws
  · intro id hdst hid f
    exact ⟨execFill_tile_stalls hw hdst hid, execFill_tile hw hdst hid⟩
  · intro gather bs ds ws hbs hds hws
    have hends := blockListPass_ends hw hbs hds hws
    cases gather with
    | true => exact hends
    | false => exact hends
  · intro l g h ws hl hbox hws
    exact execShpf_ends hw hl hbox hws
  · intro ks rd g h ws hks hrd hbox hws
    subst hks
    exact execDigest_ends hw hrd hbox hws

end Sys2Proof.Machine

end


section
/-! PROOF. A pass of cbload, edec and vqx (O38). -/

namespace Sys2Proof.Machine
open Sys2Proof

/-! ### How a turn of an engine faults -/

section
variable {s : State} {x : Task} {e : Engine} {i : Nat} {q : QRec} {body body' : Task → QRec → Res (State × QRec)} (hw : Works s x e i q)
include hw

/-- A turn whose effect faults ends in that fault. -/
theorem State.issuePass_faults {code : Nat} (hb : body (q.view x) q = fault code) : s.issuePass e body = s.turnFaults x e code := by
  obtain ⟨hx, hact, hstart, hquiet⟩ := hw
  unfold State.issuePass State.issueTurn
  simp only [hx, hact, hstart, hquiet, hb]
  cases e <;> rfl

/-- A pass depends on its effect on its own record only. -/
theorem State.issuePass_congr (hb : body (q.view x) q = body' (q.view x) q) : s.issuePass e body = s.issuePass e body' := by
  obtain ⟨hx, hact, hstart, hquiet⟩ := hw
  unfold State.issuePass State.issueTurn
  simp only [hx, hact, hb]

end

theorem Task.soundSlot_ok {x : Task} {n : Nat} (h : (x.codebook n).bad = false) : x.soundSlot n = .ok () := by
  unfold Task.soundSlot
  rw [h, if_neg Bool.false_ne_true]

/-- An index past a codebook's entries is FLT_BOUNDS. -/
theorem Codebook.expand_past {c : Codebook} {l : List Nat} (h : ∃ k ∈ l, c.bytes.length < entryBytes c.fmt c.elems * (k + 1)) :
    c.expand l = fault Flt.bounds := by
  obtain ⟨k, hk, hpast⟩ := h
  unfold Codebook.expand
  dsimp only
  rw [Res.mapM_error (e := .flt Flt.bounds 0)]
  · rfl
  · intro n _
    by_cases hn : entryBytes c.fmt c.elems * (n + 1) ≤ c.bytes.length
    · exact .inl ⟨_, by rw [check_of (decide_eq_true hn), Res.bind_ok]⟩
    · refine .inr ?_
      rw [check_of_false (decide_eq_false hn)]
      rfl
  · refine ⟨k, hk, ?_⟩
    rw [check_of_false (decide_eq_false (Nat.not_le.2 hpast))]
    rfl

section
variable {s : State} {x : Task} {i : Nat} {q : QRec} {r : RecWord} (hw : Works s x .copy i q)
include hw

/-! ### cbload (R240) -/

theorem execCbload_stalls (hbusy : ((q.view x).codebook (w7 r 0 3)).busy ≠ 0) : execCbload r s = .next s := by
  refine State.issuePass_stall hw ?_
  simp only [beq_eq_false_iff_ne.2 hbusy, waitFor_false]
  rfl

theorem execCbload_ends {bs : List Byte} (hbusy : ((q.view x).codebook (w7 r 0 3)).busy = 0)
    (hbs : s.recordBytes (q.view x) (q.handle r 0) 0 (Handle.ext (q.handle r 0) 0) = .ok bs)
    (hlens : w7 r 8 2 = 1 → lengthsOk (prefixLengths bs) = true) :
    execCbload r s = s.turnEnds (s.setTask s.cur ((q.view x).setCodebook (w7 r 0 3)
      { ty := w7 r 8 2, gen := w7 r 4 4, busy := 0, fmt := BitVec.ofNat 6 (w7 r 10 6), elems := w7 r 16 8, bytes := bs, bad := false }))
      .copy i { q with pass := q.pass + 1 } := by
  have hcheck : (w7 r 8 2 != 1 || lengthsOk (prefixLengths bs)) = true := by
    by_cases hty : w7 r 8 2 = 1
    · simp [hlens hty]
    · simp [hty]
  refine State.issuePass_ends hw (q' := q) ?_
  simp only [beq_iff_eq.2 hbusy, waitFor_true, hbs, check_of hcheck, Res.bind_ok]
  rfl

/-! ### edec (R241 to R244) -/

/-- The rest of a pass of edec once its block is decoded: the check word, then the elements, as bits or as indices of a codebook. -/
def State.edecBlock (s : State) (x : Task) (q : QRec) (r : RecWord) (dest : Option Nat) (usize csize sum : Nat) (out : List Byte) :
    Res (State × QRec) := do
  check (checkOf out == sum) Flt.checksum
  let vq := r.kflags.getLsbD 0
  let cb := x.codebook (w7 r 8 3)
  let tag := if vq then cb.fmt else edecTag r
  (if vq then x.soundSlot (w7 r 8 3) else .ok ())
  let vals ← if vq then cb.expand (indicesOf (r.kflags.getLsbD 1) out)
    else do
      check (8 * usize % fmtWidth tag == 0) Flt.format
      .ok (unpackBits (fmtWidth tag) (8 * usize / fmtWidth tag) (bytesToNat out))
  let s' ← s.fillDecoded x q r dest (w7 r 32 16) tag vals
  .ok (s', { q with cursor := q.cursor + 16 + (csize + 15) / 16 * 16 })

/-- The bytes that a block decodes to: its payload, or the symbols of its code with the right codebook. -/
def Task.blockDecodes (x : Task) (r : RecWord) (usize : Nat) (raw : Bool) (pay out : List Byte) : Prop :=
  (raw = true → out = pay) ∧
  (raw = false → x.slotMatches (w7 r 0 3, 1, w7 r 4 4) = true ∧ (x.codebook (w7 r 0 3)).bad = false ∧
    ∃ l : List Nat, decodeSymbols (canonicalCode (prefixLengths (x.codebook (w7 r 0 3)).bytes)) usize (bitsOf pay) = some l ∧
      out = l.map (fun v => BitVec.ofNat 8 v))

section
variable {dest : Option Nat} {hdr pay out : List Byte} {usize csize sum : Nat} {raw : Bool}
  (hdest : q.decodedTile (q.view x) r (w7 r 16 5) = .ok dest) (hhdr : s.recordBytes (q.view x) (q.handle r 0) q.cursor 16 = .ok hdr)
  (hblock : blockHeader (bytesToNat hdr) = some (usize, csize, sum, raw))
  (hpay : s.recordBytes (q.view x) (q.handle r 0) (q.cursor + 16) csize = .ok pay)
  (hout : (q.view x).blockDecodes r usize raw pay out)
include hdest hhdr hblock hpay hout

theorem execEdec_decoded : execEdec r s = s.issuePass .copy (fun x q => s.edecBlock x q r dest usize csize sum out) := by
  obtain ⟨hraw, hcoded⟩ := hout
  refine State.issuePass_congr hw ?_
  cases raw with
  | true =>
    obtain rfl := hraw rfl
    simp only [hdest, hhdr, hblock, hpay, Res.bind_ok]
    rfl
  | false =>
    obtain ⟨hslot, hsound, l, hsymbols, rfl⟩ := hcoded rfl
    simp only [hdest, hhdr, hblock, hpay, Res.bind_ok, check_of hslot, Task.soundSlot_ok hsound, hsymbols]
    rfl

theorem execEdec_faults (hsum : (crc32c out).toNat ≠ sum) : execEdec r s = s.turnFaults x .copy Flt.checksum := by
  rw [execEdec_decoded hw hdest hhdr hblock hpay hout]
  refine State.issuePass_faults hw ?_
  rw [State.edecBlock, checkOf, check_of_false (beq_eq_false_iff_ne.2 hsum)]
  rfl

theorem execEdec_ends {tag : Fmt} {vals : List Nat} {s' : State} (hsum : (crc32c out).toNat = sum)
    (hvq : r.kflags.getLsbD 0 = true → tag = ((q.view x).codebook (w7 r 8 3)).fmt ∧ ((q.view x).codebook (w7 r 8 3)).bad = false ∧
      ((q.view x).codebook (w7 r 8 3)).expand (indicesOf (r.kflags.getLsbD 1) out) = .ok vals)
    (hbits : r.kflags.getLsbD 0 = false → tag = edecTag r ∧ 8 * usize % fmtWidth tag = 0 ∧
      vals = unpackBits (fmtWidth tag) (8 * usize / fmtWidth tag) (bytesToNat out))
    (hfill : s.fillDecoded (q.view x) q r dest (w7 r 32 16) tag vals = .ok s') :
    execEdec r s = s.turnEnds s' .copy i { q with cursor := q.cursor + 16 + (csize + 15) / 16 * 16, pass := q.pass + 1 } := by
  rw [execEdec_decoded hw hdest hhdr hblock hpay hout]
  refine State.issuePass_ends hw (q' := { q with cursor := q.cursor + 16 + (csize + 15) / 16 * 16 }) ?_
  rw [State.edecBlock, checkOf, check_of (beq_iff_eq.2 hsum), Res.bind_ok]
  cases hkind : r.kflags.getLsbD 0 with
  | true =>
    obtain ⟨rfl, hsound, hexpand⟩ := hvq hkind
    simp only [if_true, Task.soundSlot_ok hsound, hexpand, hfill, Res.bind_ok]
  | false =>
    obtain ⟨rfl, hwhole, rfl⟩ := hbits hkind
    simp only [Bool.false_eq_true, if_false, check_of (beq_iff_eq.2 hwhole), hfill, Res.bind_ok]

end

/-! ### vqx (R245, R246) -/

/-- The rest of a pass of vqx once its indices' bytes are read. -/
def State.vqxExpands (s : State) (x : Task) (q : QRec) (r : RecWord) (dest : Option Nat) (d : Data) (y : Task) : Res (State × QRec) := do
  let cb := x.codebook (w7 r 8 3)
  check (d.tag == Fm.z8) Flt.format
  check (!r.kflags.getLsbD 0 || d.vals.length % 2 == 0) Flt.format
  let vals ← cb.expand (indicesOf (r.kflags.getLsbD 0) (d.vals.map (fun v => BitVec.ofNat 8 v)))
  let s' ← s.fillDecoded y q r dest (w7 r 32 16) cb.fmt vals
  .ok (s', q)

section
variable {dest : Option Nat} {d : Data} {y : Task} (hdest : q.decodedTile (q.view x) r 0 = .ok dest)
  (hsound : ((q.view x).codebook (w7 r 8 3)).bad = false)
include hdest hsound

theorem execVqx_box {g : Region} {h : Handle} (hsrc : isBox r 0 = true)
    (hread : Reads s (q.view x) q r (Handle.ext (q.handle r 0)) g h d) :
    execVqx r s = s.issuePass .copy (fun _ _ => s.vqxExpands (q.view x) q r dest d (q.view x)) := by
  obtain ⟨hbox, hdata⟩ := hread
  refine State.issuePass_congr hw ?_
  simp only [hdest, Task.soundSlot_ok hsound, hsrc, if_true, hbox, hdata, Res.bind_ok]
  rfl

theorem execVqx_tile {id : Nat} (hsrc : isBox r 0 = false) (hid : q.tileId (q.view x) r 0 q.pass = .ok id)
    (hst : ((q.view x).tile id).st = .ready) (hrel : r.rel = true → ((q.view x).tile id).readers = 0)
    (hbad : ((q.view x).tile id).bad = []) :
    execVqx r s = s.issuePass .copy (fun _ _ =>
      s.vqxExpands (q.view x) q r dest ((q.view x).tileData id) (if r.rel = true then (q.view x).drain id else q.view x)) := by
  refine State.issuePass_congr hw ?_
  simp only [hdest, Task.soundSlot_ok hsound, hsrc, Bool.false_eq_true, if_false, hid, Task.needs_source_ok hst hrel,
    Task.soundTile_of_nil hbad, Res.bind_ok]
  rfl

/-- The indices of a pass come from the tile that it reads, which REL drains, or from its box. -/
theorem execVqx_expands
    (htile : ∀ id : Nat, isBox r 0 = false → q.tileId (q.view x) r 0 q.pass = .ok id → ((q.view x).tile id).st = .ready ∧
      (r.rel = true → ((q.view x).tile id).readers = 0) ∧ ((q.view x).tile id).bad = [] ∧ d = (q.view x).tileData id ∧
      y = if r.rel = true then (q.view x).drain id else q.view x)
    (hid : isBox r 0 = false → ∃ id : Nat, q.tileId (q.view x) r 0 q.pass = .ok id)
    (hbox : isBox r 0 = true → y = q.view x ∧ ∃ (g : Region) (h : Handle), Reads s (q.view x) q r (Handle.ext (q.handle r 0)) g h d) :
    execVqx r s = s.issuePass .copy (fun _ _ => s.vqxExpands (q.view x) q r dest d y) := by
  cases hsrc : isBox r 0 with
  | true =>
    obtain ⟨rfl, g, h, hread⟩ := hbox hsrc
    exact execVqx_box hw hdest hsound hsrc hread
  | false =>
    obtain ⟨id, hid⟩ := hid hsrc
    obtain ⟨hst, hrel, hbad, rfl, rfl⟩ := htile id hsrc hid
    exact execVqx_tile hw hdest hsound hsrc hid hst hrel hbad

end

end

theorem vqx_pairs_checked {r : RecWord} {d : Data} (hpairs : r.kflags.getLsbD 0 = true → d.vals.length % 2 = 0) :
    (!r.kflags.getLsbD 0 || d.vals.length % 2 == 0) = true := by
  cases hk : r.kflags.getLsbD 0 with
  | true => simp [hpairs hk]
  | false => rfl

section
variable {s : State} {x y : Task} {q : QRec} {r : RecWord} {dest : Option Nat} {d : Data} (hfmt : d.tag = Fm.z8)
  (hpairs : r.kflags.getLsbD 0 = true → d.vals.length % 2 = 0)
include hfmt hpairs

theorem State.vqxExpands_ok {vals : List Nat} {s' : State}
    (hexpand : (x.codebook (w7 r 8 3)).expand (indicesOf (r.kflags.getLsbD 0) (d.vals.map (fun v => BitVec.ofNat 8 v))) = .ok vals)
    (hfill : s.fillDecoded y q r dest (w7 r 32 16) (x.codebook (w7 r 8 3)).fmt vals = .ok s') :
    s.vqxExpands x q r dest d y = .ok (s', q) := by
  simp only [State.vqxExpands, check_of (beq_iff_eq.2 hfmt), check_of (vqx_pairs_checked hpairs), hexpand, hfill, Res.bind_ok]

theorem State.vqxExpands_past (hpast : ∃ k ∈ indicesOf (r.kflags.getLsbD 0) (d.vals.map (fun v => BitVec.ofNat 8 v)),
    (x.codebook (w7 r 8 3)).bytes.length < entryBytes (x.codebook (w7 r 8 3)).fmt (x.codebook (w7 r 8 3)).elems * (k + 1)) :
    s.vqxExpands x q r dest d y = fault Flt.bounds := by
  simp only [State.vqxExpands, check_of (beq_iff_eq.2 hfmt), check_of (vqx_pairs_checked hpairs), Codebook.expand_past hpast, Res.bind_ok]
  rfl

end

/-- Settles O38: each kind's destination and sources are ready, and the checks of its block or indices decide how the pass ends. -/
theorem decodeRecords : Obligations.DecodeRecords := by
  unfold Obligations.DecodeRecords
  intro s x i q r hw
  refine ⟨⟨execCbload_stalls hw, fun bs hbusy hbs hlens => execCbload_ends hw hbusy hbs hlens⟩, ?_, ?_⟩
  · intro dest hdest hdr pay out usize csize sum raw hhdr hblock hpay hraw hcoded
    exact ⟨execEdec_faults hw hdest hhdr hblock hpay ⟨hraw, hcoded⟩, fun hsum tag vals s' hvq hbits hfill =>
      execEdec_ends hw hdest hhdr hblock hpay ⟨hraw, hcoded⟩ hsum hvq hbits hfill⟩
  · intro dest d y hdest hsound htile hid hbox hfmt hpairs
    have hexec := execVqx_expands hw hdest hsound htile hid hbox
    exact ⟨fun vals s' hexpand hfill => hexec.trans (State.issuePass_ends hw (State.vqxExpands_ok hfmt hpairs hexpand hfill)),
      fun hpast => hexec.trans (State.issuePass_faults hw (State.vqxExpands_past hfmt hpairs hpast))⟩

end Sys2Proof.Machine

end
